-- ==== Sys2Proof/Word.lean ====
section
/-!
DEFINITION. The word types of the machine and how bytes make a word (R3: little-endian).
-/
namespace Sys2Proof

/-- One byte of memory. -/
abbrev Byte := BitVec 8

/-- A 64-bit word: a sequencer register, the DATA of a token, an address (R33, R88, R294). -/
abbrev Word := BitVec 64

/-- A 32-bit instruction word of a sequencer or of a fabric slot (R134, R314). -/
abbrev Word32 := BitVec 32

/-- The number of a sequencer's general register (R294). -/
abbrev Reg := BitVec 5

/-- The number whose little-endian bytes are listed (R3). -/
def leNat : List Byte → Nat
  | [] => 0
  | b :: bs => b.toNat + 256 * leNat bs

/-- The `n` little-endian bytes of a number (R3). -/
def leBytes : Nat → Nat → List Byte
  | 0, _ => []
  | n + 1, v => BitVec.ofNat 8 v :: leBytes n (v / 256)

end Sys2Proof
end

