-- ==== Sys2Proof/Syntax.lean ====
section
/-!
DEFINITION. The instructions: one constructor for each row of spec/opcode_table.json, with the operands that its
encoding carries or, for a step that no word encodes, the unit it belongs to and what arrives from outside.
-/
namespace Sys2Proof

/-- The function field of a sequencer atomic besides its operation (R318). -/
structure AmoFn where
  /-- SZ: 8 bytes when set, else 4. -/
  sz : Bool
  /-- U: unsigned comparison. -/
  u : Bool
  /-- ORD: order code of R315. -/
  ord : BitVec 2
  /-- SCO: scope code of R315. -/
  sco : BitVec 3
  deriving DecidableEq, Repr

/-- Order, scope and byte offset of a format-M instruction (R314, R315). -/
structure MemFn where
  ord : BitVec 2
  sco : BitVec 3
  off : BitVec 11
  deriving DecidableEq, Repr

/-- The operand fields of a slot's instruction word and its extension word, zero where there is none (R134, R140). -/
structure SlotOp where
  w : BitVec 3
  m : BitVec 4
  t1 : BitVec 9
  t0 : BitVec 9
  ext : BitVec 32
  deriving DecidableEq, Repr

/-- The fields of a route record besides its operation (R143). -/
structure RecOp where
  dx : BitVec 6
  dy : BitVec 6
  dst : BitVec 9
  dst2 : BitVec 9
  param : BitVec 8
  deriving DecidableEq, Repr

/-- One packet of a queue entry: the work item it belongs to, the flags of its packet word and its body (R387). -/
structure Pkt where
  item : Nat
  flags : BitVec 16
  body : List (BitVec 32)
  deriving DecidableEq, Repr

/-- A message on its way to a channel (R302, R305). -/
structure Msg where
  ch : BitVec 6
  gen : BitVec 8
  cause : BitVec 9
  src : BitVec 4
  sseq : BitVec 5
  w0 : Word
  w1 : Word
  w2 : Word
  w3 : Word
  /-- The queue whose work has posted it to a launch that may be another queue's (R411). -/
  work : Option Nat := none
  deriving DecidableEq, Repr

/-- One flit: header, payload and trailer, each numbered little-endian (R270, R271). -/
structure Flit where
  header : BitVec 128
  payload : BitVec 1792
  trailer : BitVec 128
  deriving DecidableEq, Repr

/-- A flit and the scale-out port at which it arrives (R271). -/
structure Arrival where
  port : Nat
  flit : Flit
  deriving DecidableEq, Repr

/-- Who makes an access to the control path (R33, R470). -/
inductive Agent where
  /-- The physical function through BAR0. -/
  | pf
  /-- The physical function through BAR2, its kick pages. -/
  | pfPages
  /-- Virtual function n. -/
  | vf (n : Nat)
  /-- Maliz firmware. -/
  | firmware
  /-- A sequencer, by its number. -/
  | sequencer (n : Nat)
  deriving DecidableEq, Repr

/-- A unit whose corrected errors the firmware counts (R469). -/
inductive SvcUnit where
  | tileRow (row : Nat)
  | island (n : Nat)
  | lane (n : Nat)
  | hbmChannel (n : Nat)
  deriving DecidableEq, Repr

/-- The instructions and steps of spec/opcode_table.json. -/
inductive Instr where
  /-- R326: Sequencer ALU: rd := g[rs1] + g[rs2] modulo 2^64. -/
  | add (rd rs1 rs2 : Reg)
  /-- R326: Sequencer ALU: rd := g[rs1] - g[rs2] modulo 2^64. -/
  | sub (rd rs1 rs2 : Reg)
  /-- R326: Sequencer ALU bitwise AND of two registers. -/
  | and (rd rs1 rs2 : Reg)
  /-- R326: Sequencer ALU bitwise OR of two registers. -/
  | or (rd rs1 rs2 : Reg)
  /-- R326: Sequencer ALU bitwise XOR of two registers. -/
  | xor (rd rs1 rs2 : Reg)
  /-- R326: Sequencer shift left by u(b) mod 64. -/
  | sll (rd rs1 rs2 : Reg)
  /-- R326: Sequencer logical shift right by u(b) mod 64. -/
  | srl (rd rs1 rs2 : Reg)
  /-- R326: Sequencer arithmetic shift right by u(b) mod 64. -/
  | sra (rd rs1 rs2 : Reg)
  /-- R326: Sequencer low 64 bits of the signed product. -/
  | mul (rd rs1 rs2 : Reg)
  /-- R326: Sequencer high 64 bits of the signed product. -/
  | mulh (rd rs1 rs2 : Reg)
  /-- R326: Sequencer signed division truncating toward zero; division by zero sets SR.IDZ. -/
  | div (rd rs1 rs2 : Reg)
  /-- R326: Sequencer signed remainder; by zero returns a and sets SR.IDZ. -/
  | rem (rd rs1 rs2 : Reg)
  /-- R326: Sequencer signed minimum of two registers. -/
  | min (rd rs1 rs2 : Reg)
  /-- R326: Sequencer signed maximum of two registers. -/
  | max (rd rs1 rs2 : Reg)
  /-- R326: Sequencer set 1 if signed less than, else 0. -/
  | slt (rd rs1 rs2 : Reg)
  /-- R326: Sequencer set 1 if unsigned less than, else 0. -/
  | sltu (rd rs1 rs2 : Reg)
  /-- R328: Sequencer FP32 add under RNE, flags ORed into SR. -/
  | fadds (rd rs1 rs2 : Reg)
  /-- R328: Sequencer FP32 subtract under RNE. -/
  | fsubs (rd rs1 rs2 : Reg)
  /-- R328: Sequencer FP32 multiply under RNE. -/
  | fmuls (rd rs1 rs2 : Reg)
  /-- R328: Sequencer FP32 divide under RNE with DZ and NV cases. -/
  | fdivs (rd rs1 rs2 : Reg)
  /-- R328: Sequencer FP32 square root under RNE. -/
  | fsqrts (rd rs1 : Reg)
  /-- R328: Sequencer FP32 equality compare writing 1 or 0. -/
  | feqs (rd rs1 rs2 : Reg)
  /-- R328: Sequencer FP32 less-than compare writing 1 or 0. -/
  | flts (rd rs1 rs2 : Reg)
  /-- R328: Sequencer FP32 less-or-equal compare writing 1 or 0. -/
  | fles (rd rs1 rs2 : Reg)
  /-- R328: Sequencer conversion of a signed INT64 to FP32. -/
  | fcvtis (rd rs1 : Reg)
  /-- R328: Sequencer conversion of FP32 to a signed INT64 with clamping. -/
  | fcvtsi (rd rs1 : Reg)
  /-- R334: Sequencer atomic add returning the old value. -/
  | amoadd (rd rs1 rs2 : Reg) (f : AmoFn)
  /-- R334: Sequencer atomic AND returning the old value. -/
  | amoand (rd rs1 rs2 : Reg) (f : AmoFn)
  /-- R334: Sequencer atomic OR returning the old value. -/
  | amoor (rd rs1 rs2 : Reg) (f : AmoFn)
  /-- R334: Sequencer atomic XOR returning the old value. -/
  | amoxor (rd rs1 rs2 : Reg) (f : AmoFn)
  /-- R334: Sequencer atomic minimum, signed or unsigned by U. -/
  | amomin (rd rs1 rs2 : Reg) (f : AmoFn)
  /-- R334: Sequencer atomic maximum, signed or unsigned by U. -/
  | amomax (rd rs1 rs2 : Reg) (f : AmoFn)
  /-- R334: Sequencer atomic swap returning the old value. -/
  | amoswp (rd rs1 rs2 : Reg) (f : AmoFn)
  /-- R334: Sequencer atomic compare-and-swap against rd. -/
  | amocas (rd rs1 rs2 : Reg) (f : AmoFn)
  /-- R327: Sequencer add of a sign-extended 16-bit immediate. -/
  | addi (rd rs1 : Reg) (imm : BitVec 16)
  /-- R327: Sequencer AND with a zero-extended immediate. -/
  | andi (rd rs1 : Reg) (imm : BitVec 16)
  /-- R327: Sequencer OR with a zero-extended immediate. -/
  | ori (rd rs1 : Reg) (imm : BitVec 16)
  /-- R327: Sequencer XOR with a zero-extended immediate. -/
  | xori (rd rs1 : Reg) (imm : BitVec 16)
  /-- R327: Sequencer shift left by an immediate 0-63. -/
  | slli (rd rs1 : Reg) (sh : BitVec 6)
  /-- R327: Sequencer logical shift right by an immediate 0-63. -/
  | srli (rd rs1 : Reg) (sh : BitVec 6)
  /-- R327: Sequencer arithmetic shift right by an immediate 0-63. -/
  | srai (rd rs1 : Reg) (sh : BitVec 6)
  /-- R327: Sequencer shift register left 16 and OR a 16-bit immediate. -/
  | lih (rd rs1 : Reg) (imm : BitVec 16)
  /-- R329: Sequencer branch if equal. -/
  | beq (rs1 rs2 : Reg) (off : BitVec 16)
  /-- R329: Sequencer branch if not equal. -/
  | bne (rs1 rs2 : Reg) (off : BitVec 16)
  /-- R329: Sequencer branch if signed less than. -/
  | blt (rs1 rs2 : Reg) (off : BitVec 16)
  /-- R329: Sequencer branch if signed greater or equal. -/
  | bge (rs1 rs2 : Reg) (off : BitVec 16)
  /-- R329: Sequencer branch if unsigned less than. -/
  | bltu (rs1 rs2 : Reg) (off : BitVec 16)
  /-- R329: Sequencer branch if unsigned greater or equal. -/
  | bgeu (rs1 rs2 : Reg) (off : BitVec 16)
  /-- R330: Acquire-load a status word and branch if it ANDs nonzero with a mask. -/
  | bstat (rs1 rs2 : Reg) (off : BitVec 16)
  /-- R331: Sequencer jump to register plus immediate with link. -/
  | jalr (rd rs1 : Reg) (imm : BitVec 16)
  /-- R331: Sequencer PC-relative jump with link. -/
  | jal (rd : Reg) (off : BitVec 21)
  /-- R332: Sequencer 1-byte load, zero-extended. -/
  | ldb (data base : Reg) (m : MemFn)
  /-- R332: Sequencer 2-byte load, zero-extended. -/
  | ldh (data base : Reg) (m : MemFn)
  /-- R332: Sequencer 4-byte load, zero-extended. -/
  | ldw (data base : Reg) (m : MemFn)
  /-- R332: Sequencer 8-byte load. -/
  | ldd (data base : Reg) (m : MemFn)
  /-- R332: Sequencer 1-byte store. -/
  | stb (data base : Reg) (m : MemFn)
  /-- R332: Sequencer 2-byte store. -/
  | sth (data base : Reg) (m : MemFn)
  /-- R332: Sequencer 4-byte store. -/
  | stw (data base : Reg) (m : MemFn)
  /-- R332: Sequencer 8-byte store. -/
  | std (data base : Reg) (m : MemFn)
  /-- R335: Completes once every earlier access has performed at the scope. -/
  | fence (scope : BitVec 3)
  /-- R335: Fence that also waits for path-0x5, 0x7 and 0x6 stores to take effect. -/
  | fenceio (scope : BitVec 3)
  /-- R337: Writes one word of a stream descriptor register, or clears it. -/
  | sdset (sd rs1 : Reg) (word : BitVec 8)
  /-- R338: Checks a stream specification and binds it to a port context. -/
  | sbind (rd rs1 : Reg) (shadow : Bool) (sd : BitVec 4)
  /-- R339: Cancels the stream of this launch on a port context. -/
  | scancel (rd rs1 : Reg)
  /-- R340: Starts loading an image into the region's shadow plane. -/
  | cfgld (rd rs1 : Reg) (ch : BitVec 6)
  /-- R341: Injects the reconfiguration token at the region's ingress. -/
  | reconf (rd : Reg) (ch : BitVec 6)
  /-- R342: Arms a drain watch that posts when the configuration has drained. -/
  | drain (rd : Reg) (ch : BitVec 6)
  /-- R344: Starts the copy that a copy descriptor describes. -/
  | copy (rd rs1 : Reg) (ch : BitVec 6)
  /-- R346: Checks a collective descriptor and starts the collective. -/
  | coll (rd rs1 : Reg) (ch : BitVec 6)
  /-- R347: Sets a named barrier's count and channel and resets its phase. -/
  | barinit (rs1 : Reg) (bar : BitVec 8)
  /-- R348: Performs one weighted arrival at a named barrier. -/
  | barrive (rs1 : Reg) (bar : BitVec 8)
  /-- R349: Joins a barrier to a spanning barrier with m members. -/
  | barbind (rs1 : Reg) (bar : BitVec 8)
  /-- R350: Posts a message to a channel of this or another sequencer without waiting. -/
  | chpost (rd rs1 : Reg) (self : Bool) (ch : BitVec 6)
  /-- R351: Atomically replaces a channel's handler entry, returning the old one. -/
  | chbind (rd rs1 : Reg) (ch : BitVec 6)
  /-- R352: Ends the running task and disarms the watchdog. -/
  | tend
  /-- R353: Offers an event to the queue arbiter of a tile in event mode. -/
  | evsend (rd rs1 : Reg)
  /-- R354: Writes a horizon to every event bank of a subgroup. -/
  | evhz (rs1 : Reg)
  /-- R355: Writes a SEQ_TRAP record and stops the sequencer; resumes at PC + 4. -/
  | trap (code : BitVec 8)
  /-- R356: Reposts a redirected message to its original channel and ends the task. -/
  | eret
  /-- R357: Reads a control and status register into rd. -/
  | csrr (rd : Reg) (csr : BitVec 8)
  /-- R357: Writes a control and status register, returning the old value. -/
  | csrw (rd rs1 : Reg) (csr : BitVec 8)
  /-- R358: Reads the timebase of the sequencer's replica under the hold of R21. -/
  | time (rd : Reg)
  /-- R359: Arms or disarms the task watchdog. -/
  | wdog (rs1 : Reg)
  /-- R316: A sequencer fetches a word whose major, function, sub or unused field is unassigned and raises SEQ_ILLEGAL. -/
  | illegalInstruction (w : BitVec 32)
  /-- R163: Slot firing: integer add, wrapping or saturating with S. -/
  | addOperator (o : SlotOp)
  /-- R163: Slot firing: integer subtract. -/
  | subOperator (o : SlotOp)
  /-- R163: Slot firing: saturating integer add. -/
  | adds (o : SlotOp)
  /-- R163: Slot firing: saturating integer subtract. -/
  | subs (o : SlotOp)
  /-- R163: Slot firing: integer multiply. -/
  | mulOperator (o : SlotOp)
  /-- R163: Slot firing: high half of the integer product. -/
  | mulhOperator (o : SlotOp)
  /-- R163: Slot firing: integer multiply-add. -/
  | mad (o : SlotOp)
  /-- R163: Slot firing: integer absolute value. -/
  | abs (o : SlotOp)
  /-- R163: Slot firing: integer negation. -/
  | neg (o : SlotOp)
  /-- R163: Slot firing: signed integer minimum. -/
  | minOperator (o : SlotOp)
  /-- R163: Slot firing: signed integer maximum. -/
  | maxOperator (o : SlotOp)
  /-- R163: Slot firing: unsigned integer minimum. -/
  | minu (o : SlotOp)
  /-- R163: Slot firing: unsigned integer maximum. -/
  | maxu (o : SlotOp)
  /-- R163: Slot firing: bitwise AND. -/
  | andOperator (o : SlotOp)
  /-- R163: Slot firing: bitwise OR. -/
  | orOperator (o : SlotOp)
  /-- R163: Slot firing: bitwise XOR. -/
  | xorOperator (o : SlotOp)
  /-- R163: Slot firing: a AND NOT b. -/
  | andn (o : SlotOp)
  /-- R163: Slot firing: bitwise NOT. -/
  | not (o : SlotOp)
  /-- R163: Slot firing: shift left by the whole unsigned b. -/
  | shl (o : SlotOp)
  /-- R163: Slot firing: logical shift right. -/
  | shr (o : SlotOp)
  /-- R163: Slot firing: arithmetic shift right. -/
  | sar (o : SlotOp)
  /-- R163: Slot firing: rotate left by n mod w. -/
  | rol (o : SlotOp)
  /-- R163: Slot firing: count leading zeros. -/
  | clz (o : SlotOp)
  /-- R163: Slot firing: population count. -/
  | popc (o : SlotOp)
  /-- R164: Slot firing: equality predicate. -/
  | cmpeq (o : SlotOp)
  /-- R164: Slot firing: inequality predicate. -/
  | cmpne (o : SlotOp)
  /-- R164: Slot firing: signed less-than predicate. -/
  | cmplt (o : SlotOp)
  /-- R164: Slot firing: signed less-or-equal predicate. -/
  | cmple (o : SlotOp)
  /-- R164: Slot firing: unsigned less-than predicate. -/
  | cmpltu (o : SlotOp)
  /-- R164: Slot firing: unsigned less-or-equal predicate. -/
  | cmpleu (o : SlotOp)
  /-- R165: Slot firing: selects a or b by the predicate on c. -/
  | sel (o : SlotOp)
  /-- R166: Slot firing: float add rounded once. -/
  | fadd (o : SlotOp)
  /-- R166: Slot firing: float subtract rounded once. -/
  | fsub (o : SlotOp)
  /-- R166: Slot firing: float multiply rounded once. -/
  | fmul (o : SlotOp)
  /-- R166: Slot firing: fused multiply-add rounded once. -/
  | fma (o : SlotOp)
  /-- R167: Slot firing: float minimum with NaN rules. -/
  | fmin (o : SlotOp)
  /-- R167: Slot firing: float maximum with NaN rules. -/
  | fmax (o : SlotOp)
  /-- R167: Slot firing: clears the sign bit. -/
  | fabs (o : SlotOp)
  /-- R167: Slot firing: inverts the sign bit. -/
  | fneg (o : SlotOp)
  /-- R168: Slot firing: float equality predicate. -/
  | fcmpeq (o : SlotOp)
  /-- R168: Slot firing: float less-than predicate. -/
  | fcmplt (o : SlotOp)
  /-- R168: Slot firing: float less-or-equal predicate. -/
  | fcmple (o : SlotOp)
  /-- R168: Slot firing: unordered predicate. -/
  | fcmpun (o : SlotOp)
  /-- R171: Slot firing: reciprocal rounded once under RNE. -/
  | rcp (o : SlotOp)
  /-- R171: Slot firing: reciprocal square root. -/
  | rsq (o : SlotOp)
  /-- R171: Slot firing: square root under the rounding mode. -/
  | sqrt (o : SlotOp)
  /-- R171: Slot firing: power of two. -/
  | exp2 (o : SlotOp)
  /-- R171: Slot firing: base-2 logarithm. -/
  | log2 (o : SlotOp)
  /-- R171: Slot firing: hyperbolic tangent. -/
  | tanh (o : SlotOp)
  /-- R171: Slot firing: logistic sigmoid. -/
  | sigm (o : SlotOp)
  /-- R169: Slot firing: rounds to an integral value in its own format. -/
  | frnd (o : SlotOp)
  /-- R170: Slot firing: writes the class mask of a. -/
  | fclass (o : SlotOp)
  /-- R172: Slot firing: float-to-float conversion. -/
  | cvtf (o : SlotOp)
  /-- R173: Slot firing: float-to-integer conversion with clamping. -/
  | cvti (o : SlotOp)
  /-- R172: Slot firing: integer-to-float conversion. -/
  | cvtif (o : SlotOp)
  /-- R183: Slot firing: merges two key-ordered record streams by mode and combiner. -/
  | join (o : SlotOp)
  /-- R184: Slot firing: accumulates port a and emits the sum at EOS. -/
  | acc (o : SlotOp)
  /-- R186: Slot firing: tracks the largest magnitude, emitted at EOS. -/
  | amax (o : SlotOp)
  /-- R187: Slot firing: tracks position and value of the maximum or minimum. -/
  | argm (o : SlotOp)
  /-- R189: Slot firing: emits b, b+1, ... for a count n. -/
  | iota (o : SlotOp)
  /-- R188: Slot firing: counts data tokens, emitted at EOS. -/
  | cnt (o : SlotOp)
  /-- R185: Slot firing: running sum emitted after each token. -/
  | scan (o : SlotOp)
  /-- R190: Slot firing: discards data tokens, passes only EOS. -/
  | halt (o : SlotOp)
  /-- R206: Local memory load request from the tile frame. -/
  | ld (o : SlotOp)
  /-- R206: Local memory store request to the tile frame. -/
  | st (o : SlotOp)
  /-- R207: Full-empty granule load that waits until full. -/
  | ldfe (o : SlotOp)
  /-- R207: Full-empty granule store that sets the granule full. -/
  | stfe (o : SlotOp)
  /-- R206: Tile scratch atomic add returning the old value. -/
  | atadd (o : SlotOp)
  /-- R206: Tile scratch atomic minimum. -/
  | atmin (o : SlotOp)
  /-- R206: Tile scratch atomic maximum. -/
  | atmax (o : SlotOp)
  /-- R206: Tile scratch atomic compare-and-swap. -/
  | atcas (o : SlotOp)
  /-- R206: Tile scratch atomic exchange. -/
  | atxch (o : SlotOp)
  /-- R208: Sets a granule's full-empty bit to empty. -/
  | empty (o : SlotOp)
  /-- R231: Matrix row firing against the resident B block, folding partial sums. -/
  | mrow (o : SlotOp)
  /-- R232: 4:8 sparse matrix row firing. -/
  | mrows (o : SlotOp)
  /-- R237: Writes 8-byte units into the weight store, count at EOS. -/
  | mwld (o : SlotOp)
  /-- R237: Reads 8-byte units from the weight store. -/
  | mwrd (o : SlotOp)
  /-- R233: Appends scale tokens to the scale group being filled. -/
  | mscl (o : SlotOp)
  /-- R239: Emits the tile's flag set and row-firing count. -/
  | mstat (o : SlotOp)
  /-- R237: Zeroes a range of weight-store units. -/
  | mclr (o : SlotOp)
  /-- R175: Converts four BF16 elements and emits the outlier mask. -/
  | qcvt (o : SlotOp)
  /-- R176: Builds outlier side entries from source and mask. -/
  | qside (o : SlotOp)
  /-- R177: Rounds two FP32 values into a packed pair. -/
  | pack (o : SlotOp)
  /-- R178: Unpacks two elements to FP32 on T0 and T1. -/
  | unpk (o : SlotOp)
  /-- R179: Quantises two FP32 values under an E8M0 scale. -/
  | mxq (o : SlotOp)
  /-- R180: Dequantises two elements under an E8M0 scale to FP32. -/
  | deq (o : SlotOp)
  /-- R181: Stochastic rounding of FP32 with one draw per element. -/
  | srnd (o : SlotOp)
  /-- R260: Event bank close input; discards data and drains the queue at EOS. -/
  | evin (o : SlotOp)
  /-- R262: Moves the horizon base forward, bringing neurons up to date. -/
  | evlk (o : SlotOp)
  /-- R261: Expands a fire token into fan-out events, passes marks. -/
  | evfr (o : SlotOp)
  /-- R263: Emits a neuron record as it stands. -/
  | evst (o : SlotOp)
  /-- R263: Writes a whole neuron record. -/
  | evwr (o : SlotOp)
  /-- R258: Takes events and marks and inserts own events into the queue. -/
  | evq (o : SlotOp)
  /-- R213: Closes an open stream when the predicate is true. -/
  | eosg (o : SlotOp)
  /-- R214: Passes data while predicate false; raises FLOW_TRAP when true. -/
  | trapOperator (o : SlotOp)
  /-- R215: Pass-through that holds before a chosen firing when debugging. -/
  | brk (o : SlotOp)
  /-- R216: Puts the cluster replica's timebase value on its targets. -/
  | timeOperator (o : SlotOp)
  /-- R216: Puts the selected 64-bit tile counter on its targets. -/
  | pcnt (o : SlotOp)
  /-- R217: Sets the tile seed for the next invocation. -/
  | seed (o : SlotOp)
  /-- R196: Route record forwards each token to DST. -/
  | pass (r : RecOp)
  /-- R196: Route record copies each token to DST and DST2. -/
  | fork (r : RecOp)
  /-- R197: Route record sends a token to DST or DST2 by predicate. -/
  | steer (r : RecOp)
  /-- R198: Route record takes from a or b by predicate. -/
  | merge (r : RecOp)
  /-- R199: Route record loop entry through INIT, LOOP and ENDING phases. -/
  | carry (r : RecOp)
  /-- R200: Route record repeats a loop invariant per true predicate. -/
  | invar (r : RecOp)
  /-- R201: Route record FIFO of depth d preloaded with zero tokens. -/
  | delay (r : RecOp)
  /-- R202: EDGE hands a token to an AGN write stream. -/
  | edgeAgn (r : RecOp)
  /-- R202: EDGE counts one arrival at a named barrier. -/
  | edgeBarrier (r : RecOp)
  /-- R202: EDGE hands a record to an Indigo engine collective. -/
  | edgeIndigo (r : RecOp)
  /-- R389: Packet that does nothing. -/
  | nop (p : Pkt)
  /-- R389: Packet writing body dwords at an address. -/
  | write (p : Pkt)
  /-- R391: Packet setting a semaphore VALUE, a system-scope release. -/
  | signalSet (p : Pkt)
  /-- R391: Packet adding to a semaphore VALUE. -/
  | signalAdd (p : Pkt)
  /-- R391: Packet waiting until a semaphore VALUE is at least v. -/
  | waitGe (p : Pkt)
  /-- R393: Packet reserving a region, loading the image and posting the start message. -/
  | launch (p : Pkt)
  /-- R395: Packet binding a stream to a port context of a running launch. -/
  | bind (p : Pkt)
  /-- R396: Packet running a copy descriptor under the queue's context. -/
  | copyPacket (p : Pkt)
  /-- R397: Packet ending a launch once it has drained. -/
  | retire (p : Pkt)
  /-- R397: RETIRE with CANCEL first cancels the launch's streams, copies and collectives. -/
  | retireCancel (p : Pkt)
  /-- R398: Packet waiting for earlier entries' completion records. -/
  | fencePacket (p : Pkt)
  /-- R398: Packet sending an MSI-X vector, optionally after the record. -/
  | interrupt (p : Pkt)
  /-- R398: Packet writing the timebase to memory. -/
  | timestamp (p : Pkt)
  /-- R399: Packet invalidating translations, optionally writing a context entry. -/
  | invalidate (p : Pkt)
  /-- R102: Tile memory interface performs the eligible queued request in wave order. -/
  | localMemoryRequestPerform (tile : Nat)
  /-- R226: A-row transfers enter an empty row buffer from a stream or up-chain neighbour. -/
  | rowArrival (tile : Nat)
  /-- R226: A fired row with its scale group is copied into the down-chain neighbour's buffer. -/
  | rowForward (tile : Nat)
  /-- R259: EVIN delivers the head event at or below the horizon to its neurons. -/
  | eventDelivery (tile : Nat)
  /-- R256: EVIN emits a mark once a horizon is completed. -/
  | markEmit (tile : Nat)
  /-- R16: A router link serves one ready token in arc-key round-robin. -/
  | routerLinkTransfer (tile dir : Nat)
  /-- R103: The adapter refills the channel FIFO from the ring in ring order. -/
  | spillRingRefill (tile : Nat) (target : BitVec 9)
  /-- R100: A tile resets its frame and begins an invocation. -/
  | invocationStart (tile : Nat)
  /-- R75: An AGN port context issues one read element and delivers its token. -/
  | streamElementIssue (pc : Nat)
  /-- R78: An AGN write stream takes a data token and writes its element. -/
  | writeStreamElement (pc : Nat)
  /-- R79: An AGN takes an index token and reads the indexed element. -/
  | indirectGather (pc : Nat)
  /-- R80: An AGN pairs index and value tokens and writes the value. -/
  | indirectScatter (pc : Nat)
  /-- R81: An AGN sends coordinate and value tokens for a set bitmap bit. -/
  | bitmapSparseElement (pc : Nat)
  /-- R82: An AGN ORs the status accumulator into the status word. -/
  | statusOr (pc : Nat)
  /-- R77: An AGN emits the stream's EOS once its spill queue is empty. -/
  | endOfStream (pc : Nat)
  /-- R46: An AGN retries the walk of a stopped or diverted element. -/
  | agnRetry (pc : Nat)
  /-- R67: A write of ISLCFG.SCR starts repartitioning island SRAM. -/
  | islandRepartition (isl : Nat) (scr : BitVec 5)
  /-- R67: After write-back and zeroing, BUSY clears and held accesses release. -/
  | repartitionComplete (isl : Nat)
  /-- R54: A storage command completes; failures reissue or poison frames. -/
  | nvmeCompletion (cmd : Nat) (ok dnr : Bool)
  /-- R54: No completion after 2e9 ticks; frames poisoned and controller reset. -/
  | storageCommandTimeout (cmd : Nat)
  /-- R343: A COPY posts its completion message after all accesses perform. -/
  | copyCompletion (copy : Nat)
  /-- R343: A stream posts its completion message to the sequencer. -/
  | streamCompletion (pc : Nat)
  /-- R149: The loader reports loaded or fails, discarding the shadow plane on failure. -/
  | imageLoadComplete (launch : Nat)
  /-- R442: The reconfiguration token passes a drained tile. -/
  | tokenPass (tile : Nat)
  /-- R443: Every tile swaps to the shadow plane together. -/
  | planeSwap (launch : Nat)
  /-- R444: The swap is refused and the shadow plane discarded. -/
  | swapRefused (launch : Nat)
  /-- R342: The armed drain watch posts when its three conditions hold. -/
  | drainWatchPost (seq : Nat)
  /-- R306: A message reaches a channel and is checked against the handler entry. -/
  | messageArrival (seq : Nat) (msg : Msg)
  /-- R305: A held hardware message posts once the target queue has room. -/
  | hardwarePost (seq : Nat)
  /-- R307: An idle sequencer selects the highest-priority message and starts its task. -/
  | taskStart (seq : Nat)
  /-- R313: The barrier network completes a span phase and posts to every member. -/
  | spanPhaseComplete (span : Nat)
  /-- R359: The task watchdog expires and raises SEQ_WATCHDOG. -/
  | watchdogExpiry (seq : Nat)
  /-- R323: A host-path access without completion after 100,000 ticks raises MEM_HOST_TIMEOUT. -/
  | hostTimeout (seq : Nat)
  /-- R271: A received flit fails its CRC and is answered with NAK. -/
  | flitCrcMismatch (port : Nat) (flit : Flit)
  /-- R271: On NAK the sender replays from its replay buffer. -/
  | flitReplay (port : Nat)
  /-- R271: A flit with TYPE 8-15 or LEN16 15 is discarded and counted. -/
  | badflit (port : Nat) (flit : Flit)
  /-- R274: A flit for another package is forwarded by ROUTE. -/
  | flitForward (port : Nat) (flit : Flit)
  /-- R275: Destination performs a peer read and answers. -/
  | readRequest (arr : Arrival)
  /-- R277: Destination performs a peer write, skipping poisoned words. -/
  | writeRequest (arr : Arrival)
  /-- R275: Destination performs a peer atomic. -/
  | atomicRequest (arr : Arrival)
  /-- R275: A response completes a peer request at the requester. -/
  | response (arr : Arrival)
  /-- R278: A peer request without response after 100,000 ticks times out. -/
  | netTimeout (tag : Nat)
  /-- R283: An engine takes a collective data flit as a child input. -/
  | collectiveData (arr : Arrival)
  /-- R291: An engine takes a collective control flit: digest, release or abort. -/
  | collectiveControl (arr : Arrival)
  /-- R286: An engine forms a window's sorted-sparse or dense result. -/
  | collectiveWindowMerge (eng : Nat) (collid : BitVec 16)
  /-- R291: No traffic from a tree neighbour for 10^6 ticks fails the collective. -/
  | collectiveTimeout (eng : Nat) (collid : BitVec 16)
  /-- R292: A member's collective posts completion after all writes perform. -/
  | collectiveCompletion (eng : Nat) (collid : BitVec 16)
  /-- R391: A waiting WAIT_GE completes when VALUE reaches v. -/
  | waitGeComplete (item : Nat)
  /-- R395: A waiting BIND binds once its launch runs. -/
  | deferredBind (item : Nat)
  /-- R42: Invalidation completes once entries are discarded and users have performed. -/
  | invalidateComplete (item : Nat)
  /-- R385: Write of KICK advances the write index and reads entries. -/
  | kick (q : Nat) (value : BitVec 64)
  /-- R411: Write of QRESET.GO cancels the queue's work and resets it. -/
  | queueReset (q : Nat)
  /-- R404: Mordant admits or rejects an entry under the admission lock. -/
  | entryAdmission (q : Nat)
  /-- R407: Earliest-deadline-first dispatch of the first waiting item. -/
  | dispatch (item : Nat)
  /-- R401: The complex writes an entry's completion record. -/
  | completionRecord (item : Nat)
  /-- R408: Charges first exceed BUDGET: record, then background or abort. -/
  | budgetOverrun (item : Nat)
  /-- R409: The timebase reaches an item's deadline; it becomes background work. -/
  | deadlineMiss (item : Nat)
  /-- R437: A launch is stopped, quiesced and its region freed. -/
  | preEmption (launch : Nat)
  /-- R440: The save area is written and its header committed. -/
  | saveCommit (launch : Nat)
  /-- R447: A saved launch is checked and restored on its region. -/
  | launchResume (launch : Nat)
  /-- R432: LCTL.RESUME restarts a stopped sequencer. -/
  | resume (seq : Nat)
  /-- R434: LCTL.RELEASE lets every held BRK or TRAP proceed once. -/
  | release (seq : Nat)
  /-- R448: LCTL.WGO ends the weight hold. -/
  | wgo (seq : Nat)
  /-- R433: Write of a debug-hold register sets or ends a hold on an input. -/
  | dholdWrite (seq k : Nat) (value : BitVec 64)
  /-- R435: Write of FRETRY.GO issues a translation retry for a context. -/
  | fretry (agent : Agent) (value : BitVec 64)
  /-- R428: Write of FRCI.CI advances the fault ring consumer index. -/
  | consumerIndexWrite (ctx : Nat) (value : BitVec 32)
  /-- R428: Writing 1 to FRCI.LOST clears it. -/
  | lostClear (ctx : Nat)
  /-- R428: Writing FRCI.RST sets PI and CI to 0 and clears LOST. -/
  | ringReset (ctx : Nat)
  /-- R429: A fault record is written to its ring and PI incremented. -/
  | faultRecordWrite (idx : Nat)
  /-- R463: Security request installing a data key. -/
  | installDataKey (addr : BitVec 64)
  /-- R463: Security request erasing a data key. -/
  | eraseDataKey (addr : BitVec 64)
  /-- R463: Security request installing an image key. -/
  | installImageKey (addr : BitVec 64)
  /-- R463: Security request erasing an image key. -/
  | eraseImageKey (addr : BitVec 64)
  /-- R465: Security request returning a signed attestation report. -/
  | attest (addr : BitVec 64)
  /-- R465: Security request returning the identity certificate. -/
  | readIdentityCertificate (addr : BitVec 64)
  /-- R463: Security request fusing the owner key digest once. -/
  | takeOwnership (addr : BitVec 64)
  /-- R460: BOOTST.RGO verifies the firmware in the recovery window. -/
  | recoveryVerify
  /-- R418: Setting an ADAPT bit puts a die into adaptive margin mode. -/
  | adapt (die : Nat)
  /-- R6: Write to a register without behaviour of its own. -/
  | registerWrite (agent : Agent) (offset value : BitVec 64)
  /-- R458: Cold reset: ROM, firmware verification, training and ready stage. -/
  | coldReset
  /-- R470: A VF reset performs a queue reset of every queue of that function. -/
  | functionLevelReset (vf : Nat)
  /-- R412: Each 2 us interval the Madder tree refills every tile's pool. -/
  | powerGrant
  /-- R418: An adaptive die adjusts its supply once per interval. -/
  | supplyAdjust (die : Nat)
  /-- R417: Reverse bias on a cluster idle for 100 us. -/
  | bodyBiasChange (cluster : Nat)
  /-- R422: A sensor reaching 105 C sets WARN and saves every launch. -/
  | thermalWarn (sensor : Nat) (celsius : BitVec 8)
  /-- R423: At 120 C the package loses power within 1 us. -/
  | thermalTrip
  /-- R469: A corrected-error count passes its threshold and marks the unit in SVCPEND. -/
  | serviceMark (unit : SvcUnit)
  /-- R421: WARN clears when every sensor has fallen below 95 C, ending the zero-PCAP test so that saved launches may resume. -/
  | thermalWarnClear
  /-- R54: The firmware reset of an NVMe controller after a timeout completes, and the port stops completing commands at once with MEM_STORAGE_TIMEOUT. -/
  | storageControllerResetDone (port : Nat)
  /-- R271: Firmware retraining of a scale-out port completes, UP sets again and ROUTE is rewritten. -/
  | linkRetrained (port : Nat) (peer : BitVec 6)
  /-- R323: A PCIe completion from the host arrives for a path-0x7 read or non-posted request and completes the waiting access. -/
  | hostCompletion (seq : Nat) (data : BitVec 64)
  /-- R417: A cluster's body bias settles within 10 us, letting a LAUNCH waiting in step 2 of R393 go on. -/
  | bodyBiasSettled (cluster : Nat)
  /-- R458: Power-good is lost or PERST# is asserted, and all volatile state is lost until the next cold reset. -/
  | powerGoodLoss
  deriving DecidableEq, Repr

/-- Who moves next (DESIGN CHOICE, log 2). `pass` is the passing of n ticks; `core` is a core of the command complex (R381); `copyMove`
lets copy k move its next n granules; `upset` is an uncorrectable error at a place, in the state of a tile's slot i or
record i - 64, or in a sequencer's registers; `corrected` is a corrected error of a unit (R469), and `replay` a timing-error
replay of a tile (R216); `hostWrite` is the host writing one byte of its own memory, and `trustedStore` is Maliz firmware or
the physical function storing bytes at an address; `attach` is a drive that shows namespace `key / 2` to port `key % 2` with
`count` blocks of `size` bytes: the inputs that no row of the opcode table names. -/
inductive Turn where
  /-- The sequencer fetches and executes one instruction. -/
  | seq (n : Nat)
  /-- Slot `i` of a tile is evaluated for firing (R93). -/
  | slot (tile i : Nat)
  /-- Route record `q` of a tile is evaluated for firing (R192). -/
  | record (tile q : Nat)
  /-- The next packet of a work item runs (R388). -/
  | packet (item : Nat)
  /-- A step that no word encodes. -/
  | event (i : Instr)
  /-- A core of the command complex takes the head event, or handles the one that it has taken. -/
  | core (c : Nat)
  | pass (n : Nat)
  | copyMove (k n : Nat)
  | upset (loc : Nat)
  | upsetTile (tile i : Nat)
  | upsetSeq (n : Nat)
  | corrected (u : SvcUnit)
  | replay (tile : Nat)
  /-- Maliz firmware goes on with the boot: training begins, or ends well or not (R458). -/
  | boot (ok : Bool)
  /-- The host sends a PCIe configuration request (R458). -/
  | configRequest
  /-- An idle or link-control flit arrives on a port (R270, R271). -/
  | linkFlit (port : Nat) (flit : Flit)
  | hostWrite (addr : BitVec 64) (b : Byte)
  | trustedStore (agent : Agent) (addr : BitVec 64) (bytes : List Byte)
  | attach (key size count : Nat)
  deriving DecidableEq, Repr, Inhabited

end Sys2Proof
end

