-- ==== Sys2Proof/Decode.lean ====
section
/-!
DEFINITION. The decoder, total on any word and rejecting by name, and after it the encoder, both from the encoding
tables of the spec: sequencer words (R314 to R318, R336), slot words with their extension words (R134 to R142, R161,
R204, R212, R229, R257) and route records (R143 to R145).
-/
namespace Sys2Proof

/-- Why a word or a record is no instruction: the load check of R149 that it fails, or too few bytes. -/
inductive Reject where
  /-- No operation has this code (R134, R147). -/
  | badOpcode
  /-- The extension word is missing, not allowed, or holds a value its layout forbids (R140, R142, R230, R236). -/
  | badExt
  /-- The operation does not take this width or source format (R135, R141, R161). -/
  | badWidth
  /-- The operation does not take these modifier bits (R136, R161). -/
  | badMod
  /-- A record field breaks R143 to R145. -/
  | badRoute
  /-- A packet word breaks R387. -/
  | badPacket
  /-- Fewer bytes than the encoding needs. -/
  | short
  deriving DecidableEq, Repr

/-! ### Sequencer words (R314 to R318) -/

def fldMajor (w : Word32) : BitVec 6 := w.extractLsb' 26 6
def fldRd (w : Word32) : Reg := w.extractLsb' 21 5
def fldRs1 (w : Word32) : Reg := w.extractLsb' 16 5
def fldRs2 (w : Word32) : Reg := w.extractLsb' 11 5
def fldFn (w : Word32) : BitVec 11 := w.extractLsb' 0 11
def fldImm16 (w : Word32) : BitVec 16 := w.extractLsb' 0 16
def fldSub (w : Word32) : BitVec 8 := w.extractLsb' 8 8
def fldImm8 (w : Word32) : BitVec 8 := w.extractLsb' 0 8
def fldOff21 (w : Word32) : BitVec 21 := w.extractLsb' 0 21

/-- Order, scope and offset of a format-M word; scope codes 5 to 7 are illegal (R315). -/
def fldMem (w : Word32) : Option MemFn :=
  let f : MemFn := { ord := w.extractLsb' 14 2, sco := w.extractLsb' 11 3, off := fldFn w }
  if f.sco.toNat ≤ 4 then some f else none

/-- The ALU major (R317). -/
def decodeAlu (w : Word32) : Option Instr :=
  let d := fldRd w; let a := fldRs1 w; let b := fldRs2 w
  match (fldFn w).toNat with
  | 0 => some (.add d a b)
  | 1 => some (.sub d a b)
  | 2 => some (.and d a b)
  | 3 => some (.or d a b)
  | 4 => some (.xor d a b)
  | 5 => some (.sll d a b)
  | 6 => some (.srl d a b)
  | 7 => some (.sra d a b)
  | 8 => some (.mul d a b)
  | 9 => some (.mulh d a b)
  | 10 => some (.div d a b)
  | 11 => some (.rem d a b)
  | 12 => some (.min d a b)
  | 13 => some (.max d a b)
  | 14 => some (.slt d a b)
  | 15 => some (.sltu d a b)
  | _ => none

/-- The FPU major (R317); codes 4, 8 and 9 do not use rs2, which must be zero (R314, R328). -/
def decodeFpu (w : Word32) : Option Instr :=
  let d := fldRd w; let a := fldRs1 w; let b := fldRs2 w
  match (fldFn w).toNat with
  | 0 => some (.fadds d a b)
  | 1 => some (.fsubs d a b)
  | 2 => some (.fmuls d a b)
  | 3 => some (.fdivs d a b)
  | 4 => if b = 0 then some (.fsqrts d a) else none
  | 5 => some (.feqs d a b)
  | 6 => some (.flts d a b)
  | 7 => some (.fles d a b)
  | 8 => if b = 0 then some (.fcvtis d a) else none
  | 9 => if b = 0 then some (.fcvtsi d a) else none
  | _ => none

/-- The AMO major (R318): bit 10 zero, a scope code of at most 4, and U only on AMOMIN and AMOMAX. -/
def decodeAmo (w : Word32) : Option Instr :=
  let d := fldRd w; let a := fldRs1 w; let b := fldRs2 w
  let f : AmoFn := { sz := w.getLsbD 3, u := w.getLsbD 4, ord := w.extractLsb' 5 2, sco := w.extractLsb' 7 3 }
  if w.getLsbD 10 || decide (4 < f.sco.toNat) then none
  else match (w.extractLsb' 0 3).toNat with
  | 0 => if f.u then none else some (.amoadd d a b f)
  | 1 => if f.u then none else some (.amoand d a b f)
  | 2 => if f.u then none else some (.amoor d a b f)
  | 3 => if f.u then none else some (.amoxor d a b f)
  | 4 => some (.amomin d a b f)
  | 5 => some (.amomax d a b f)
  | 6 => if f.u then none else some (.amoswp d a b f)
  | _ => if f.u then none else some (.amocas d a b f)

/-- The SYNC major (R317): FENCE and FENCEIO with a scope of R315. -/
def decodeSync (w : Word32) : Option Instr :=
  let sc : BitVec 3 := w.extractLsb' 0 3
  if fldRd w = 0 ∧ fldRs1 w = 0 ∧ w.extractLsb' 3 5 = 0 ∧ sc.toNat ≤ 4 then
    match (fldSub w).toNat with
    | 0 => some (.fence sc)
    | 1 => some (.fenceio sc)
    | _ => none
  else none

/-- The STRM major (R336). -/
def decodeStrm (w : Word32) : Option Instr :=
  let d := fldRd w; let a := fldRs1 w; let i := fldImm8 w
  let ch : BitVec 6 := w.extractLsb' 0 6
  let chOk : Bool := w.extractLsb' 6 2 = 0
  match (fldSub w).toNat with
  | 0 => if d.toNat < 16 ∧ (i.toNat < 8 ∨ (i.toNat = 8 ∧ a = 0)) then some (.sdset d a i) else none
  | 1 => if w.extractLsb' 5 3 = 0 then some (.sbind d a (w.getLsbD 4) (w.extractLsb' 0 4)) else none
  | 2 => if i = 0 then some (.scancel d a) else none
  | 3 => if chOk then some (.cfgld d a ch) else none
  | 4 => if chOk ∧ a = 0 then some (.reconf d ch) else none
  | 5 => if chOk ∧ a = 0 then some (.drain d ch) else none
  | 6 => if chOk then some (.copy d a ch) else none
  | 7 => if chOk then some (.coll d a ch) else none
  | _ => none

/-- The BAR major (R336). -/
def decodeBar (w : Word32) : Option Instr :=
  if fldRd w = 0 then
    match (fldSub w).toNat with
    | 0 => some (.barinit (fldRs1 w) (fldImm8 w))
    | 1 => some (.barrive (fldRs1 w) (fldImm8 w))
    | 2 => some (.barbind (fldRs1 w) (fldImm8 w))
    | _ => none
  else none

/-- The CHAN major (R336). -/
def decodeChan (w : Word32) : Option Instr :=
  let d := fldRd w; let a := fldRs1 w; let ch : BitVec 6 := w.extractLsb' 0 6
  match (fldSub w).toNat with
  | 0 => if w.getLsbD 7 then none else some (.chpost d a (w.getLsbD 6) ch)
  | 1 => if w.extractLsb' 6 2 = 0 then some (.chbind d a ch) else none
  | 2 => if d = 0 ∧ a = 0 ∧ fldImm8 w = 0 then some .tend else none
  | _ => none

/-- The EVT major (R336). -/
def decodeEvt (w : Word32) : Option Instr :=
  if fldImm8 w = 0 then
    match (fldSub w).toNat with
    | 0 => some (.evsend (fldRd w) (fldRs1 w))
    | 1 => if fldRd w = 0 then some (.evhz (fldRs1 w)) else none
    | _ => none
  else none

/-- The SYS major (R336). -/
def decodeSys (w : Word32) : Option Instr :=
  let d := fldRd w; let a := fldRs1 w; let i := fldImm8 w
  match (fldSub w).toNat with
  | 0 => if d = 0 ∧ a = 0 then some (.trap i) else none
  | 1 => if d = 0 ∧ a = 0 ∧ i = 0 then some .eret else none
  | 2 => if a = 0 then some (.csrr d i) else none
  | 3 => some (.csrw d a i)
  | 4 => if a = 0 ∧ i = 0 then some (.time d) else none
  | 5 => if d = 0 ∧ i = 0 then some (.wdog a) else none
  | _ => none

/-- The major opcode map (R316). -/
def decodeSeqWord (w : Word32) : Option Instr :=
  let d := fldRd w; let a := fldRs1 w; let i := fldImm16 w
  match (fldMajor w).toNat with
  | 0x01 => decodeAlu w
  | 0x02 => decodeFpu w
  | 0x03 => decodeAmo w
  | 0x08 => some (.addi d a i)
  | 0x09 => some (.andi d a i)
  | 0x0A => some (.ori d a i)
  | 0x0B => some (.xori d a i)
  | 0x0C => if w.extractLsb' 6 10 = 0 then some (.slli d a (w.extractLsb' 0 6)) else none
  | 0x0D => if w.extractLsb' 6 10 = 0 then some (.srli d a (w.extractLsb' 0 6)) else none
  | 0x0E => if w.extractLsb' 6 10 = 0 then some (.srai d a (w.extractLsb' 0 6)) else none
  | 0x0F => some (.lih d a i)
  | 0x10 => some (.beq d a i)
  | 0x11 => some (.bne d a i)
  | 0x12 => some (.blt d a i)
  | 0x13 => some (.bge d a i)
  | 0x14 => some (.bltu d a i)
  | 0x15 => some (.bgeu d a i)
  | 0x16 => some (.bstat d a i)
  | 0x17 => some (.jalr d a i)
  | 0x18 => some (.jal d (fldOff21 w))
  | 0x20 => (fldMem w).map (.ldb d a ·)
  | 0x21 => (fldMem w).map (.ldh d a ·)
  | 0x22 => (fldMem w).map (.ldw d a ·)
  | 0x23 => (fldMem w).map (.ldd d a ·)
  | 0x24 => (fldMem w).map (.stb d a ·)
  | 0x25 => (fldMem w).map (.sth d a ·)
  | 0x26 => (fldMem w).map (.stw d a ·)
  | 0x27 => (fldMem w).map (.std d a ·)
  | 0x30 => decodeSync w
  | 0x31 => decodeStrm w
  | 0x32 => decodeBar w
  | 0x33 => decodeChan w
  | 0x34 => decodeEvt w
  | 0x35 => decodeSys w
  | _ => none

/-- A sequencer word: an unassigned code or a nonzero unused field is ILLEGAL_INSTRUCTION (R314, R316). -/
def decodeSeq (w : Word32) : Instr := (decodeSeqWord w).getD (.illegalInstruction w)

/-- The instruction that the first four bytes hold, little-endian, and the bytes after it (R314). -/
def decodeSeqBytes : List Byte → Except Reject (Instr × List Byte)
  | b0 :: b1 :: b2 :: b3 :: rest => .ok (decodeSeq (b3 ++ b2 ++ b1 ++ b0), rest)
  | _ => .error .short

/-! ### Fabric slots (R134 to R142) -/

/-- The opcode map of the fabric (R147). -/
def slotCtor : Nat → Option (SlotOp → Instr)
  | 0x01 => some .addOperator
  | 0x02 => some .subOperator
  | 0x03 => some .adds
  | 0x04 => some .subs
  | 0x05 => some .mulOperator
  | 0x06 => some .mulhOperator
  | 0x07 => some .mad
  | 0x08 => some .abs
  | 0x09 => some .neg
  | 0x0A => some .minOperator
  | 0x0B => some .maxOperator
  | 0x0C => some .minu
  | 0x0D => some .maxu
  | 0x0E => some .andOperator
  | 0x0F => some .orOperator
  | 0x10 => some .xorOperator
  | 0x11 => some .andn
  | 0x12 => some .not
  | 0x13 => some .shl
  | 0x14 => some .shr
  | 0x15 => some .sar
  | 0x16 => some .rol
  | 0x17 => some .clz
  | 0x18 => some .popc
  | 0x19 => some .cmpeq
  | 0x1A => some .cmpne
  | 0x1B => some .cmplt
  | 0x1C => some .cmple
  | 0x1D => some .cmpltu
  | 0x1E => some .cmpleu
  | 0x1F => some .sel
  | 0x20 => some .fadd
  | 0x21 => some .fsub
  | 0x22 => some .fmul
  | 0x23 => some .fma
  | 0x24 => some .fmin
  | 0x25 => some .fmax
  | 0x26 => some .fabs
  | 0x27 => some .fneg
  | 0x28 => some .fcmpeq
  | 0x29 => some .fcmplt
  | 0x2A => some .fcmple
  | 0x2B => some .fcmpun
  | 0x2C => some .rcp
  | 0x2D => some .rsq
  | 0x2E => some .sqrt
  | 0x2F => some .exp2
  | 0x30 => some .log2
  | 0x31 => some .tanh
  | 0x32 => some .sigm
  | 0x33 => some .frnd
  | 0x34 => some .fclass
  | 0x35 => some .cvtf
  | 0x36 => some .cvti
  | 0x37 => some .cvtif
  | 0x38 => some .join
  | 0x39 => some .acc
  | 0x3A => some .amax
  | 0x3B => some .argm
  | 0x3C => some .iota
  | 0x3D => some .cnt
  | 0x3E => some .scan
  | 0x3F => some .halt
  | 0x40 => some .ld
  | 0x41 => some .st
  | 0x42 => some .ldfe
  | 0x43 => some .stfe
  | 0x44 => some .atadd
  | 0x45 => some .atmin
  | 0x46 => some .atmax
  | 0x47 => some .atcas
  | 0x48 => some .atxch
  | 0x49 => some .empty
  | 0x50 => some .mrow
  | 0x51 => some .mrows
  | 0x52 => some .mwld
  | 0x53 => some .mwrd
  | 0x54 => some .mscl
  | 0x55 => some .mstat
  | 0x56 => some .mclr
  | 0x58 => some .qcvt
  | 0x59 => some .qside
  | 0x5A => some .pack
  | 0x5B => some .unpk
  | 0x5C => some .mxq
  | 0x5D => some .deq
  | 0x5E => some .srnd
  | 0x60 => some .evin
  | 0x61 => some .evlk
  | 0x62 => some .evfr
  | 0x63 => some .evst
  | 0x64 => some .evwr
  | 0x65 => some .evq
  | 0x68 => some .eosg
  | 0x69 => some .trapOperator
  | 0x6A => some .brk
  | 0x6B => some .timeOperator
  | 0x6C => some .pcnt
  | 0x6D => some .seed
  | _ => none

/-- Which extension word an operator takes and whether it needs one (R140, R142, R182, R212, R229, R257). -/
inductive ExtKind where
  | arith | memory | matrix | weight | trapCode | breakIndex | counter | neurons | absent
  deriving DecidableEq, Repr

def extKind (opc : Nat) : ExtKind :=
  if opc < 0x40 then .arith
  else if opc < 0x50 then .memory
  else match opc with
    | 0x50 | 0x51 => .matrix
    | 0x52 | 0x53 | 0x56 => .weight
    | 0x54 | 0x55 => .absent
    | 0x60 => .neurons
    | 0x69 => .trapCode
    | 0x6A => .breakIndex
    | 0x6C => .counter
    | _ => if 0x58 ≤ opc ∧ opc < 0x60 then .arith else .absent

/-- Step 4 of R149: the presence of the extension word. -/
def extPresent (opc : Nat) (m3 : Bool) : Bool :=
  match extKind opc with
  | .arith | .breakIndex => true
  | .absent => !m3
  | _ => m3

/-- Step 5 of R149: the widths of R135, R161, R212, R229 and R257. `m` is the M field. -/
def widthOk (opc w m : Nat) : Bool :=
  let floatW : Bool := w ≤ 2 || w == 4
  if opc < 0x20 then w ≤ 4
  else if opc = 0x36 then w ≤ 4
  else if opc < 0x38 then floatW
  else if opc = 0x38 then w == 2
  else if opc = 0x39 ∨ opc = 0x3E then (if m % 2 = 1 then w == 2 else w ≤ 3)
  else if opc = 0x3A ∨ opc = 0x3B then (if m % 2 = 1 then w ≤ 2 else w ≤ 3)
  else if opc = 0x3C ∨ opc = 0x3D then w ≤ 3
  else if opc = 0x3F then w == 0
  else if opc < 0x50 then w ≤ 3
  else match opc with
    | 0x50 => w ≤ 1 || w == 4
    | 0x51 => w == 4
    | 0x54 => w == 0
    | 0x58 | 0x59 => w == 0 || w == 4 || (w == 1 && m % 2 == 1)
    | 0x5A | 0x5B => floatW
    | 0x5C | 0x5D => w == 0 || w == 4
    | 0x5E => w ≤ 1 || w == 4
    | 0x6D => w == 2
    | _ => w == 3

/-- Step 6 of R149: M[2:0] under R136, R161, R204, R212, R229 and R257. -/
def modOk (opc w m : Nat) : Bool :=
  let m0 := m % 2
  let m21 := m / 2 % 4
  let fmtOk : Bool := w ≤ 1 || m0 == 0
  let sat : Bool := (1 ≤ opc && opc ≤ 5) || (7 ≤ opc && opc ≤ 9) || opc == 0x13
  let moded : Bool := (0x20 ≤ opc && opc ≤ 0x23) || opc == 0x2E || opc == 0x33 || opc == 0x35 || opc == 0x37
  if opc < 0x20 then m21 == 0 && (sat || m0 == 0)
  else if opc = 0x36 then w ≤ 3 || m0 == 0
  else if opc < 0x38 then (moded || m21 == 0) && fmtOk
  else match opc with
    | 0x38 => true
    | 0x39 | 0x3E => m0 == 1 || m21 ≤ 1
    | 0x3A => m21 / 2 == 0 && (if m0 = 1 then w ≤ 1 || m21 % 2 == 0 else m21 % 2 == 0)
    | 0x3B => m0 == 0 || w ≤ 1 || m21 % 2 == 0
    | 0x3C | 0x3F => m21 == 0 && m0 == 0
    | 0x3D => m21 == 0
    | 0x40 | 0x42 | 0x45 | 0x46 => m21 == 0
    | 0x50 => if w = 4 then m21 == 0 && m0 == 0 else if w = 0 then m21 / 2 == 0 else m21 == 0
    | 0x58 | 0x5A => fmtOk
    | 0x59 | 0x5B | 0x5D => m21 == 0 && fmtOk
    | 0x5C | 0x5E => fmtOk
    | _ => m21 == 0 && m0 == 0

/-- Whether the operator reads port b, and whether it reads port c, before any immediate (R161, R204, R212). -/
def readsB (opc : Nat) : Bool :=
  [0x01, 0x02, 0x03, 0x04, 0x05, 0x06, 0x07, 0x0A, 0x0B, 0x0C, 0x0D, 0x0E, 0x0F, 0x10, 0x11, 0x13, 0x14, 0x15, 0x16,
   0x19, 0x1A, 0x1B, 0x1C, 0x1D, 0x1E, 0x1F, 0x20, 0x21, 0x22, 0x23, 0x24, 0x25, 0x28, 0x29, 0x2A, 0x2B,
   0x38, 0x3C, 0x43, 0x47, 0x58, 0x59, 0x5A, 0x5C, 0x5D, 0x64, 0x65].contains opc
def readsC (opc : Nat) : Bool := [0x07, 0x1F, 0x23, 0x68, 0x69].contains opc

/-! Fields of the arithmetic extension word (R140). -/
def extKA (e : Word32) : Nat := (e.extractLsb' 27 5).toNat
def extKB (e : Word32) : Nat := (e.extractLsb' 22 5).toNat
def extImmp (e : Word32) : Nat := (e.extractLsb' 20 2).toNat
def extSrc (e : Word32) : Nat := (e.extractLsb' 16 4).toNat
def extImm (e : Word32) : BitVec 16 := e.extractLsb' 0 16

/-- SRC of CVTF, CVTI and CVTIF: a float or an integer source, and no 64-bit side beside a pair (R141, R174). -/
def srcOk (opc w src : Nat) : Bool :=
  match opc with
  | 0x35 => src ≤ 5
  | 0x36 => src ≤ 5 && !(src == 5 && w == 3)
  | 0x37 => 6 ≤ src && src ≤ 14 && !(w == 4 && (src == 9 || src == 14))
  | _ => src == 0

/-- Whether the operator's immediate is a float one, and of which width code (R140, R155). QCVT's port b is FP32. -/
def floatImm (opc w : Nat) : Option Nat :=
  if opc = 0x58 then some 2
  else if (0x20 ≤ opc ∧ opc < 0x38) ∨ opc = 0x5A ∨ opc = 0x5C ∨ opc = 0x5D then some w
  else none

/-- Step 7 of R149 for the arithmetic extension word, from bit 31 down (R140, R141, R155, R182). -/
def arithExtCheck (opc w : Nat) (e : Word32) : Except Reject Unit :=
  let b := readsB opc
  let immp := extImmp e
  let solo : Bool := 0x38 ≤ opc && opc < 0x40 && opc != 0x3C
  if (solo || opc == 0x3C) && extKA e != 0 then .error .badExt
  else if (!b || immp == 1 || solo) && extKB e != 0 then .error .badExt
  else if immp == 3 || (immp == 1 && !b) || (immp == 2 && !readsC opc) || (solo && immp != 0) then .error .badExt
  else if !srcOk opc w (extSrc e) then
    .error (if opc = 0x35 ∨ opc = 0x36 ∨ opc = 0x37 then .badWidth else .badExt)
  else if immp == 0 && opc != 0x59 && extImm e != 0 then .error .badExt
  else match floatImm opc w with
    | some fw =>
      if immp != 0 && (fw == 0 || fw == 4) && (extImm e).extractLsb' 8 8 != 0 then .error .badExt else .ok ()
    | none => .ok ()

/-! Fields of the memory extension word (R142). -/
def extOwn (e : Word32) : Nat := (e.extractLsb' 26 6).toNat
def extPred (e : Word32) : Nat := (e.extractLsb' 20 6).toNat
def extSucc (e : Word32) : Nat := (e.extractLsb' 14 6).toNat
def extFe (e : Word32) : Nat := (e.extractLsb' 12 2).toNat
def extOff (e : Word32) : Nat := (e.extractLsb' 0 12).toNat

/-- LDFE, STFE and EMPTY address whole granules (R204). -/
def granular (opc : Nat) : Bool := opc == 0x42 || opc == 0x43 || opc == 0x49

/-- Step 7 of R149 for the memory extension word but for the frame bound, which the block decides (R97, R101, R204). -/
def memExtOk (opc w : Nat) (e : Word32) : Bool :=
  extOwn e ≤ 61 && (if opc = 0x42 ∨ opc = 0x43 then extFe e == 1 || extFe e == 2 else extFe e == 0) &&
  extOff e % (if granular opc then 16 else 2 ^ w) == 0

/-! Fields of the matrix control word (R230) and of the weight-store access word (R236). -/
def extAfwd (e : Word32) : Bool := e.getLsbD 31
def extPsrc (e : Word32) : Nat := (e.extractLsb' 29 2).toNat
def extPdst (e : Word32) : Bool := e.getLsbD 28
def extGate (e : Word32) : Bool := e.getLsbD 27
def extBank (e : Word32) : Bool := e.getLsbD 26
def extNc (e : Word32) : Nat := (e.extractLsb' 24 2).toNat
def extKm1 (e : Word32) : Nat := (e.extractLsb' 15 9).toNat
def extArr (e : Word32) : Bool := e.getLsbD 31
def extStart (e : Word32) : Nat := (e.extractLsb' 18 13).toNat
def extLenm1 (e : Word32) : Nat := (e.extractLsb' 5 13).toNat

def matrixExtOk (opc w : Nat) (e : Word32) : Bool :=
  (!extBank e || (opc == 0x50 && w == 4)) &&
  extKm1 e ≤ (if opc = 0x51 then 511 else if w = 1 then 127 else 255) && e.extractLsb' 0 15 == 0

def weightExtOk (e : Word32) : Bool :=
  extStart e + extLenm1 e ≤ (if extArr e then 4095 else 8191) && e.extractLsb' 0 5 == 0

/-- Step 7 of R149: the contents of the extension word. -/
def extContents (opc : Nat) (o : SlotOp) : Except Reject Unit :=
  let w := o.w.toNat
  let need (ok : Bool) : Except Reject Unit := if ok then .ok () else .error .badExt
  match extKind opc with
  | .arith => arithExtCheck opc w o.ext
  | .memory => need (memExtOk opc w o.ext)
  | .matrix => need (matrixExtOk opc w o.ext)
  | .weight => need (weightExtOk o.ext)
  | .trapCode => need (o.ext.extractLsb' 8 24 == 0)
  | .breakIndex => need (o.ext.extractLsb' 16 16 == 0)
  | .counter => need (o.ext.extractLsb' 4 28 == 0 && o.ext.toNat ≤ 5)
  | .neurons => need (o.ext.extractLsb' 0 20 == 0)
  | .absent => .ok ()

/-- The checks of R149 that the slot's own two words decide, in its order. -/
def slotCheck (opc : Nat) (o : SlotOp) : Except Reject Unit :=
  let m := o.m.toNat
  if !extPresent opc (o.m.getLsbD 3) then .error .badExt
  else if !widthOk opc o.w.toNat m then .error .badWidth
  else if !modOk opc o.w.toNat m then .error .badMod
  else extContents opc o

/-- The fields of an instruction word, with the extension word where M[3] = 1 (R134). -/
def slotFields (w ext : Word32) : SlotOp :=
  let m : BitVec 4 := w.extractLsb' 18 4
  { w := w.extractLsb' 22 3, m := m, t1 := w.extractLsb' 9 9, t0 := w.extractLsb' 0 9,
    ext := if m.getLsbD 3 then ext else 0 }

def slotOpc (w : Word32) : Nat := (w.extractLsb' 25 7).toNat

/-- The operator of a slot's instruction word and the word of the next slot. -/
def decodeSlot (w ext : Word32) : Except Reject Instr :=
  match slotCtor (slotOpc w) with
  | none => .error .badOpcode
  | some c =>
    let o := slotFields w ext
    match slotCheck (slotOpc w) o with
    | .error r => .error r
    | .ok () => .ok (c o)

/-! ### Route records (R143 to R145) -/

/-- DX, DY and the fields that an operation does not use, and the ranges of PARAM (R144, R145). -/
def recOk (op : Nat) (r : RecOp) : Bool :=
  let p := r.param.toNat
  match op with
  | 0 | 2 | 3 => r.dst != 0x1FF && r.dst2 == 0x1FF && p == 0
  | 1 => p == 0
  | 4 => r.dst != 0x1FF && r.dst2 == 0x1FF && p ≤ 1
  | 5 => r.dst != 0x1FF && r.dst2 == 0x1FF && 1 ≤ p && p ≤ 32
  | 6 => r.dst != 0x1FF && r.dst2 != 0x1FF && p == 0
  | _ => r.dx == 0 && r.dy == 0 && r.dst2 == 0x1FF && p % 64 == 0 &&
      (match p / 64 with
       | 0 => true
       | 1 => r.dst.toNat ≤ 95
       | 2 => r.dst.toNat ≤ 7
       | _ => false)

def recFields (v : BitVec 64) : RecOp :=
  { dx := v.extractLsb' 54 6, dy := v.extractLsb' 48 6, dst := v.extractLsb' 39 9, dst2 := v.extractLsb' 30 9,
    param := v.extractLsb' 22 8 }

def recCtor (op : Nat) (r : RecOp) : Option Instr :=
  match op with
  | 0 => some (.pass r)
  | 1 => some (.steer r)
  | 2 => some (.merge r)
  | 3 => some (.carry r)
  | 4 => some (.invar r)
  | 5 => some (.delay r)
  | 6 => some (.fork r)
  | 7 => match r.param.toNat / 64 with
    | 0 => some (.edgeAgn r)
    | 1 => some (.edgeBarrier r)
    | 2 => some (.edgeIndigo r)
    | _ => none
  | _ => none

/-- The operation of a 64-bit route record. -/
def decodeRec (v : BitVec 64) : Except Reject Instr :=
  let op := (v.extractLsb' 60 4).toNat
  let r := recFields v
  if v.extractLsb' 0 22 = 0 ∧ recOk op r = true then
    match recCtor op r with
    | some i => .ok i
    | none => .error .badRoute
  else .error .badRoute

/-! ### Packets of a queue entry (R387) -/

/-- The packet of a code, and whether the flags other than LINK and the body length fit it. -/
def packetOk (code flags len : Nat) : Bool :=
  let f := flags % 0x8000
  match code with
  | 0x00 => f == 0
  | 0x01 => f == 0 && 3 ≤ len && len ≤ 66
  | 0x02 => f ≤ 1 && len == 3
  | 0x03 => f == 0 && len == 3
  | 0x04 => f == 0 && len == 17
  | 0x05 => f == 0 && len == 18
  | 0x06 => f == 0 && len == 8
  | 0x07 => f ≤ 1 && len == 1
  | 0x08 => f == 0 && len == 0
  | 0x09 => f ≤ 1 && len == 1
  | 0x0A => f == 0 && len == 2
  | 0x0B => f ≤ 7 && len == 13
  | _ => false

def packetCtor (code : Nat) (p : Pkt) : Option Instr :=
  match code with
  | 0x00 => some (.nop p)
  | 0x01 => some (.write p)
  | 0x02 => some (if p.flags.getLsbD 0 then .signalAdd p else .signalSet p)
  | 0x03 => some (.waitGe p)
  | 0x04 => some (.launch p)
  | 0x05 => some (.bind p)
  | 0x06 => some (.copyPacket p)
  | 0x07 => some (if p.flags.getLsbD 0 then .retireCancel p else .retire p)
  | 0x08 => some (.fencePacket p)
  | 0x09 => some (.interrupt p)
  | 0x0A => some (.timestamp p)
  | 0x0B => some (.invalidate p)
  | _ => none

/-- The packet at the head of a list of dwords, for work item `item`, and the dwords after it. -/
def decodePacket (item : Nat) : List (BitVec 32) → Except Reject (Instr × List (BitVec 32))
  | [] => .error .short
  | h :: rest =>
    let code := (h.extractLsb' 24 8).toNat
    let n := (h.extractLsb' 16 8).toNat
    let p : Pkt := { item := item, flags := h.extractLsb' 0 16, body := rest.take n }
    if rest.length < n then .error .short
    else if !packetOk code p.flags.toNat n then .error .badPacket
    else match packetCtor code p with
      | some i => .ok (i, rest.drop n)
      | none => .error .badPacket

/-! ### The encoder -/

def fmtA (maj : BitVec 6) (d a b : Reg) (fn : BitVec 11) : Word32 := maj ++ d ++ a ++ b ++ fn
def fmtI (maj : BitVec 6) (d a : Reg) (imm : BitVec 16) : Word32 := maj ++ d ++ a ++ imm
def fmtM (maj : BitVec 6) (d a : Reg) (m : MemFn) : Word32 := maj ++ d ++ a ++ m.ord ++ m.sco ++ m.off
def fmtX (maj : BitVec 6) (d a : Reg) (sub imm : BitVec 8) : Word32 := maj ++ d ++ a ++ sub ++ imm
def fmtAmo (op : BitVec 3) (d a b : Reg) (f : AmoFn) : Word32 :=
  (3 : BitVec 6) ++ d ++ a ++ b ++ (0 : BitVec 1) ++ f.sco ++ f.ord ++ BitVec.ofBool f.u ++ BitVec.ofBool f.sz ++ op

/-- The word of a sequencer instruction (R314 to R318, R336); none for what no sequencer word encodes. -/
def encodeSeq : Instr → Option Word32
  | .add d a b => some (fmtA 1 d a b 0)
  | .sub d a b => some (fmtA 1 d a b 1)
  | .and d a b => some (fmtA 1 d a b 2)
  | .or d a b => some (fmtA 1 d a b 3)
  | .xor d a b => some (fmtA 1 d a b 4)
  | .sll d a b => some (fmtA 1 d a b 5)
  | .srl d a b => some (fmtA 1 d a b 6)
  | .sra d a b => some (fmtA 1 d a b 7)
  | .mul d a b => some (fmtA 1 d a b 8)
  | .mulh d a b => some (fmtA 1 d a b 9)
  | .div d a b => some (fmtA 1 d a b 10)
  | .rem d a b => some (fmtA 1 d a b 11)
  | .min d a b => some (fmtA 1 d a b 12)
  | .max d a b => some (fmtA 1 d a b 13)
  | .slt d a b => some (fmtA 1 d a b 14)
  | .sltu d a b => some (fmtA 1 d a b 15)
  | .fadds d a b => some (fmtA 2 d a b 0)
  | .fsubs d a b => some (fmtA 2 d a b 1)
  | .fmuls d a b => some (fmtA 2 d a b 2)
  | .fdivs d a b => some (fmtA 2 d a b 3)
  | .fsqrts d a => some (fmtA 2 d a 0 4)
  | .feqs d a b => some (fmtA 2 d a b 5)
  | .flts d a b => some (fmtA 2 d a b 6)
  | .fles d a b => some (fmtA 2 d a b 7)
  | .fcvtis d a => some (fmtA 2 d a 0 8)
  | .fcvtsi d a => some (fmtA 2 d a 0 9)
  | .amoadd d a b f => some (fmtAmo 0 d a b f)
  | .amoand d a b f => some (fmtAmo 1 d a b f)
  | .amoor d a b f => some (fmtAmo 2 d a b f)
  | .amoxor d a b f => some (fmtAmo 3 d a b f)
  | .amomin d a b f => some (fmtAmo 4 d a b f)
  | .amomax d a b f => some (fmtAmo 5 d a b f)
  | .amoswp d a b f => some (fmtAmo 6 d a b f)
  | .amocas d a b f => some (fmtAmo 7 d a b f)
  | .addi d a i => some (fmtI 0x08 d a i)
  | .andi d a i => some (fmtI 0x09 d a i)
  | .ori d a i => some (fmtI 0x0A d a i)
  | .xori d a i => some (fmtI 0x0B d a i)
  | .lih d a i => some (fmtI 0x0F d a i)
  | .jalr d a i => some (fmtI 0x17 d a i)
  | .slli d a s => some (fmtI 0x0C d a ((0 : BitVec 10) ++ s))
  | .srli d a s => some (fmtI 0x0D d a ((0 : BitVec 10) ++ s))
  | .srai d a s => some (fmtI 0x0E d a ((0 : BitVec 10) ++ s))
  | .beq a b off => some (fmtI 0x10 a b off)
  | .bne a b off => some (fmtI 0x11 a b off)
  | .blt a b off => some (fmtI 0x12 a b off)
  | .bge a b off => some (fmtI 0x13 a b off)
  | .bltu a b off => some (fmtI 0x14 a b off)
  | .bgeu a b off => some (fmtI 0x15 a b off)
  | .bstat a b off => some (fmtI 0x16 a b off)
  | .jal d off => some ((0x18 : BitVec 6) ++ d ++ off)
  | .ldb d a m => some (fmtM 0x20 d a m)
  | .ldh d a m => some (fmtM 0x21 d a m)
  | .ldw d a m => some (fmtM 0x22 d a m)
  | .ldd d a m => some (fmtM 0x23 d a m)
  | .stb d a m => some (fmtM 0x24 d a m)
  | .sth d a m => some (fmtM 0x25 d a m)
  | .stw d a m => some (fmtM 0x26 d a m)
  | .std d a m => some (fmtM 0x27 d a m)
  | .fence sc => some (fmtX 0x30 0 0 0 ((0 : BitVec 5) ++ sc))
  | .fenceio sc => some (fmtX 0x30 0 0 1 ((0 : BitVec 5) ++ sc))
  | .sdset sd a word => some (fmtX 0x31 sd a 0 word)
  | .sbind d a sh sd => some (fmtX 0x31 d a 1 ((0 : BitVec 3) ++ BitVec.ofBool sh ++ sd))
  | .scancel d a => some (fmtX 0x31 d a 2 0)
  | .cfgld d a ch => some (fmtX 0x31 d a 3 ((0 : BitVec 2) ++ ch))
  | .reconf d ch => some (fmtX 0x31 d 0 4 ((0 : BitVec 2) ++ ch))
  | .drain d ch => some (fmtX 0x31 d 0 5 ((0 : BitVec 2) ++ ch))
  | .copy d a ch => some (fmtX 0x31 d a 6 ((0 : BitVec 2) ++ ch))
  | .coll d a ch => some (fmtX 0x31 d a 7 ((0 : BitVec 2) ++ ch))
  | .barinit a bar => some (fmtX 0x32 0 a 0 bar)
  | .barrive a bar => some (fmtX 0x32 0 a 1 bar)
  | .barbind a bar => some (fmtX 0x32 0 a 2 bar)
  | .chpost d a self ch => some (fmtX 0x33 d a 0 ((0 : BitVec 1) ++ BitVec.ofBool self ++ ch))
  | .chbind d a ch => some (fmtX 0x33 d a 1 ((0 : BitVec 2) ++ ch))
  | .tend => some (fmtX 0x33 0 0 2 0)
  | .evsend d a => some (fmtX 0x34 d a 0 0)
  | .evhz a => some (fmtX 0x34 0 a 1 0)
  | .trap code => some (fmtX 0x35 0 0 0 code)
  | .eret => some (fmtX 0x35 0 0 1 0)
  | .csrr d csr => some (fmtX 0x35 d 0 2 csr)
  | .csrw d a csr => some (fmtX 0x35 d a 3 csr)
  | .time d => some (fmtX 0x35 d 0 4 0)
  | .wdog a => some (fmtX 0x35 0 a 5 0)
  | .illegalInstruction w => some w
  | _ => none

/-- The opcode and the fields of a slot operator (R147). -/
def slotParts : Instr → Option (BitVec 7 × SlotOp)
  | .addOperator o => some (0x01, o)
  | .subOperator o => some (0x02, o)
  | .adds o => some (0x03, o)
  | .subs o => some (0x04, o)
  | .mulOperator o => some (0x05, o)
  | .mulhOperator o => some (0x06, o)
  | .mad o => some (0x07, o)
  | .abs o => some (0x08, o)
  | .neg o => some (0x09, o)
  | .minOperator o => some (0x0A, o)
  | .maxOperator o => some (0x0B, o)
  | .minu o => some (0x0C, o)
  | .maxu o => some (0x0D, o)
  | .andOperator o => some (0x0E, o)
  | .orOperator o => some (0x0F, o)
  | .xorOperator o => some (0x10, o)
  | .andn o => some (0x11, o)
  | .not o => some (0x12, o)
  | .shl o => some (0x13, o)
  | .shr o => some (0x14, o)
  | .sar o => some (0x15, o)
  | .rol o => some (0x16, o)
  | .clz o => some (0x17, o)
  | .popc o => some (0x18, o)
  | .cmpeq o => some (0x19, o)
  | .cmpne o => some (0x1A, o)
  | .cmplt o => some (0x1B, o)
  | .cmple o => some (0x1C, o)
  | .cmpltu o => some (0x1D, o)
  | .cmpleu o => some (0x1E, o)
  | .sel o => some (0x1F, o)
  | .fadd o => some (0x20, o)
  | .fsub o => some (0x21, o)
  | .fmul o => some (0x22, o)
  | .fma o => some (0x23, o)
  | .fmin o => some (0x24, o)
  | .fmax o => some (0x25, o)
  | .fabs o => some (0x26, o)
  | .fneg o => some (0x27, o)
  | .fcmpeq o => some (0x28, o)
  | .fcmplt o => some (0x29, o)
  | .fcmple o => some (0x2A, o)
  | .fcmpun o => some (0x2B, o)
  | .rcp o => some (0x2C, o)
  | .rsq o => some (0x2D, o)
  | .sqrt o => some (0x2E, o)
  | .exp2 o => some (0x2F, o)
  | .log2 o => some (0x30, o)
  | .tanh o => some (0x31, o)
  | .sigm o => some (0x32, o)
  | .frnd o => some (0x33, o)
  | .fclass o => some (0x34, o)
  | .cvtf o => some (0x35, o)
  | .cvti o => some (0x36, o)
  | .cvtif o => some (0x37, o)
  | .join o => some (0x38, o)
  | .acc o => some (0x39, o)
  | .amax o => some (0x3A, o)
  | .argm o => some (0x3B, o)
  | .iota o => some (0x3C, o)
  | .cnt o => some (0x3D, o)
  | .scan o => some (0x3E, o)
  | .halt o => some (0x3F, o)
  | .ld o => some (0x40, o)
  | .st o => some (0x41, o)
  | .ldfe o => some (0x42, o)
  | .stfe o => some (0x43, o)
  | .atadd o => some (0x44, o)
  | .atmin o => some (0x45, o)
  | .atmax o => some (0x46, o)
  | .atcas o => some (0x47, o)
  | .atxch o => some (0x48, o)
  | .empty o => some (0x49, o)
  | .mrow o => some (0x50, o)
  | .mrows o => some (0x51, o)
  | .mwld o => some (0x52, o)
  | .mwrd o => some (0x53, o)
  | .mscl o => some (0x54, o)
  | .mstat o => some (0x55, o)
  | .mclr o => some (0x56, o)
  | .qcvt o => some (0x58, o)
  | .qside o => some (0x59, o)
  | .pack o => some (0x5A, o)
  | .unpk o => some (0x5B, o)
  | .mxq o => some (0x5C, o)
  | .deq o => some (0x5D, o)
  | .srnd o => some (0x5E, o)
  | .evin o => some (0x60, o)
  | .evlk o => some (0x61, o)
  | .evfr o => some (0x62, o)
  | .evst o => some (0x63, o)
  | .evwr o => some (0x64, o)
  | .evq o => some (0x65, o)
  | .eosg o => some (0x68, o)
  | .trapOperator o => some (0x69, o)
  | .brk o => some (0x6A, o)
  | .timeOperator o => some (0x6B, o)
  | .pcnt o => some (0x6C, o)
  | .seed o => some (0x6D, o)
  | _ => none

def fmtSlot (opc : BitVec 7) (o : SlotOp) : Word32 := opc ++ o.w ++ o.m ++ o.t1 ++ o.t0

/-- The operation code and the fields of a route record (R143). -/
def recParts : Instr → Option (BitVec 4 × RecOp)
  | .pass r => some (0, r)
  | .steer r => some (1, r)
  | .merge r => some (2, r)
  | .carry r => some (3, r)
  | .invar r => some (4, r)
  | .delay r => some (5, r)
  | .fork r => some (6, r)
  | .edgeAgn r | .edgeBarrier r | .edgeIndigo r => some (7, r)
  | _ => none

def fmtRec (op : BitVec 4) (r : RecOp) : BitVec 64 := op ++ r.dx ++ r.dy ++ r.dst ++ r.dst2 ++ r.param ++ (0 : BitVec 22)

/-- The code of a packet (R387). -/
def packetParts : Instr → Option (BitVec 8 × Pkt)
  | .nop p => some (0x00, p)
  | .write p => some (0x01, p)
  | .signalSet p | .signalAdd p => some (0x02, p)
  | .waitGe p => some (0x03, p)
  | .launch p => some (0x04, p)
  | .bind p => some (0x05, p)
  | .copyPacket p => some (0x06, p)
  | .retire p | .retireCancel p => some (0x07, p)
  | .fencePacket p => some (0x08, p)
  | .interrupt p => some (0x09, p)
  | .timestamp p => some (0x0A, p)
  | .invalidate p => some (0x0B, p)
  | _ => none

/-- The 32-bit words of an instruction: one for a sequencer, one or two for a slot (R134), two for a record (R143),
the packet word and its body for a packet (R387), none for a step that no word encodes. -/
def encode (i : Instr) : List Word32 :=
  match encodeSeq i, slotParts i, recParts i, packetParts i with
  | some w, _, _, _ => [w]
  | none, some (opc, o), _, _ => if o.m.getLsbD 3 then [fmtSlot opc o, o.ext] else [fmtSlot opc o]
  | none, none, some (op, r), _ => [(fmtRec op r).extractLsb' 0 32, (fmtRec op r).extractLsb' 32 32]
  | none, none, none, some (code, p) => (code ++ BitVec.ofNat 8 p.body.length ++ p.flags) :: p.body
  | none, none, none, none => []

/-! ### The opcode table's words -/

/-- The extension word that the bits above the first word of `w` give (DESIGN CHOICE, log 5). -/
def tableExt (w : Nat) : Word32 := BitVec.ofNat 32 (w / 2 ^ 32)

/-- The instruction of a word of the opcode table: sequencer words and slot words are separate encodings that overlap,
and a word that a sequencer executes is read as that one (DESIGN CHOICE, log 5). -/
def decodeTableWord (nbits w : Nat) : Option Instr :=
  let bits := w % 2 ^ nbits
  let word : Word32 := BitVec.ofNat 32 bits
  match decodeSeqWord word with
  | some i => some i
  | none =>
    match decodeSlot word (tableExt bits) with
    | .ok i => some i
    | .error _ => some (.illegalInstruction word)

end Sys2Proof
end

