-- ==== Sys2Proof/Config.lean ====
section
/-!
DEFINITION. What the part fixes, and the free values: opaque constants without a body, so that no proof can use a
particular value of one.
-/
namespace Sys2Proof.Config
open Sys2Proof

/-- The agent that moves next when no turn is listed (DESIGN CHOICE, log 2). -/
opaque arbiter : Nat → Turn

/-- How far a timebase replica lags the fastest one: 0 to 15 are the clusters', 16 to 47 the sequencers' and 48 to 59 the
command-complex cores'; `% 3` of it is used (R20, DESIGN CHOICE, log 3). -/
opaque skew : Nat → Nat

/-- The core of the command complex that reads the timebase, by a fresh counter; `% 12` of it is used (R20, R381, DESIGN CHOICE,
log 3). -/
opaque core : Nat → Nat

/-- A fetch of a code word that has been stored to since the task started returns its old bits, by a fresh counter (R298,
DEDUCED, log 21). -/
opaque staleFetch : Nat → Bool

/-- The port that EVQ serves when both hold a token, by a fresh counter (R258, DESIGN CHOICE, log 15). -/
opaque evqPort : Nat → Bool

/-- A replay's insertion waits for an earlier one of another origin, rather than hold that it has not arrived (R468,
DESIGN CHOICE, log 25). -/
opaque replayWaits : Nat → Bool

/-- The opaque body bytes of a save area, by a fresh counter and the offset (R439, DESIGN CHOICE, log 14). -/
opaque saveByte : Nat → Nat → Byte

/-- The randomness of the device's own ML-DSA-44 signatures, by a fresh counter (R465, DESIGN CHOICE, log 12). -/
opaque signRandom : Nat → BitVec 256

/-- MAGIC, LEN and SVN as they stand in the 64 bytes of a firmware header, whose layout no rule gives (R459, DESIGN CHOICE, log 12). -/
opaque fwMagic (header : List Byte) : Nat
opaque fwLen (header : List Byte) : Nat
opaque fwSvn (header : List Byte) : Nat

/-- The Ubronus root key, and the fused seed of the identity key (R459, R465, DESIGN CHOICE, log 12). -/
opaque rootKey : List Byte
opaque identitySeed : BitVec 256

/-- The DER bytes of the device identity certificate (R465, DESIGN CHOICE, log 12). -/
opaque certificate : List Byte

/-- The device-provisioned data key of slot 0 (R61, DESIGN CHOICE, log 12). -/
opaque dataKey0 : BitVec 256

/-- The fused image key of slot 0 (R461, DESIGN CHOICE, log 12). -/
opaque imageKey0 : List Byte

/-- The digest by which the members of a collective compare descriptors (R283, DESIGN CHOICE, log 16). -/
opaque collDigest : List Byte → BitVec 64

/-- The margin of a die has run out in an interval (more than one replay in 1000 firings, or more supply than the fuses
allow), by a fresh counter (R418, DESIGN CHOICE, log 22). -/
opaque marginOut : Nat → Bool

/-- The supply that an adaptive die takes for the next interval, by a fresh counter (R418, DESIGN CHOICE, log 22). -/
opaque supply : Nat → Nat

/-- V in bits 23:0 and REFR in bits 39:32 of a neuron record that stands ahead of the time it is brought up to, which no
rule states (R259, DESIGN CHOICE, log 26). -/
opaque earlyNeuron : Word → Nat → BitVec 64

/-- The data bits of an element that is delivered poisoned without an access, which no rule states, by a fresh counter (R49,
R76, R79, DESIGN CHOICE, log 28). -/
opaque poisonData : Nat → BitVec 1024

/-- The corrected-error count that a unit must pass before it is marked, by unit (R469, DESIGN CHOICE, log 52). -/
opaque threshold : Nat → Nat

/-- The grant of an interval has not reached a tile yet, by a fresh counter and the tile (R412, R415, DESIGN CHOICE, log 53). -/
opaque grantLate : Nat → Nat → Bool

/-- What a read of SECREQ returns (R463, DESIGN CHOICE, log 23). -/
opaque secreq : Word

end Sys2Proof.Config
end

