-- ==== Sys2Proof/Machine/State.lean ====
section
/-!
DEFINITION. The state of the machine: everything the spec gives it, as plain data, and its value after cold reset.
Every structure's docstring names the rules that give its fields.
-/
namespace Sys2Proof.Machine
open Sys2Proof

/-- A table of like things by number: strictly rising numbers, and a thing that is not listed has its default. -/
abbrev Tab (α : Type) := List (Nat × α)

/-- Why the machine stops as a whole. -/
inductive Fault where
  /-- Raised by `step` for every turn but COLD_RESET while the package has no power (R423, R458). Safe. -/
  | noPower
  deriving DecidableEq, Repr

/-- Why an instruction is refused. -/
inductive Refusal where
  /-- Raised by `exec` for an instruction without a meaning, by its mnemonic. Safe. -/
  | notModelled (mnemonic : String)
  deriving DecidableEq, Repr

/-- The causes that the device raises (R424). -/
inductive Cause where
  | cfgBadImage
  | cfgBadHeader
  | cfgBadOpcode
  | cfgBadWidth
  | cfgBadMod
  | cfgBadExt
  | cfgBadTarget
  | cfgBadRoute
  | cfgNoFit
  | cfgFanin
  | cfgModeOp
  | cfgFrameRange
  | cfgOrderConsumer
  | cfgBadStream
  | cfgBadSpill
  | cfgRowChain
  | cfgEventUnit
  | cfgPowerClass
  | cfgAttestFail
  | xltNoContext
  | xltNotMapped
  | xltPermission
  | xltBadEntry
  | xltWalkError
  | memBadPath
  | memNoncanonical
  | memMisaligned
  | memDataError
  | memScratchOwner
  | memReservedArea
  | memWstoreCopyOnly
  | memAtomicPath
  | memIndexBounds
  | memSpillBusy
  | memSpillFault
  | memCopyDesc
  | memHostTimeout
  | memStorageDesc
  | memStorageError
  | memStorageTimeout
  | memTagMismatch
  | memWciVersion
  | memWciHeader
  | memNoKey
  | psnStore
  | psnAtomic
  | psnEgress
  | flowEosMismatch
  | flowControlPoison
  | flowStrayToken
  | flowStreamSource
  | flowStreamLength
  | flowBarrierState
  | flowWstoreRange
  | flowTrap
  | flowBreak
  | seqIllegal
  | seqFetchRange
  | seqBadOperand
  | seqNoHandler
  | seqBarrierRange
  | seqBarrierState
  | seqBarrierSpan
  | seqTrap
  | seqWatchdog
  | schBudgetOverrun
  | schDeadlineMiss
  | schQueueOverrun
  | schBindBusy
  | schPreemptFrozen
  | schSaveFault
  | schSaveCorrupt
  | schNoLaunch
  | schBindChannel
  | netProtocol
  | netNoRoute
  | netTimeout
  | netCollDesc
  | netCollMismatch
  | netCollAbort
  | evtBadKind
  | evtLateEvent
  | evtHorizonBack
  | evtStampRange
  | evtNeuronRange
  | evtFanoutRange
  | mchThermalWarn
  | mchMarginLow
  | mchFaultRing
  | mchInternal
  deriving DecidableEq, Repr

/-- The agents that fault records name as their origin (R425). -/
inductive Origin where
  | tile | loader | agn | seq | copy | indigo | island | storage | peer | complex | adapter
  deriving DecidableEq, Repr

/-- The kind of a token (R88); no element produces kind 11. -/
inductive TokKind where
  | data | eos | reconf
  deriving DecidableEq, Repr

/-- A token (R88). -/
structure Token where
  data : Word
  kind : TokKind
  psn : Bool
  deriving DecidableEq, Repr

/-- A fault record (R425, R426); `ctx` is none for a record of no context, and `refused` is set once its own ring has
refused it (R429). -/
structure FaultRec where
  cause : Cause
  origin : Origin
  ctx : Option Nat
  stop : Bool
  seqNo : Nat
  stamp : Nat
  pos : Nat
  cfgw : Word
  addr : Word
  tok0 : Option Token
  tok1 : Option Token
  tok2 : Option Token
  refused : Bool
  deriving DecidableEq, Repr

/-- One translation held by a TLB: the page of `2 ^ log2` bytes at virtual address `va` of a context's generic or host
root, its base and its permissions (R36, R39, R40). -/
structure TlbEntry where
  ctx : Nat
  host : Bool
  va : Nat
  log2 : Nat
  base : Nat
  rd : Bool
  wr : Bool
  at_ : Bool
  deriving DecidableEq, Repr

/-- A named barrier (R303, R310, R313). -/
structure Barrier where
  rem : BitVec 32
  count : BitVec 32
  ch : BitVec 6
  phase : BitVec 8
  init : Bool
  span : Bool
  spid : BitVec 8
  gen : BitVec 8
  deriving DecidableEq, Repr

/-- A stopped sequencer: its cause and the PC at which it resumes (R432). -/
structure SeqStop where
  cause : Cause
  resume : Word
  deriving DecidableEq, Repr

/-- What a sequencer's access does with the word that comes back: a load or an atomic writes it to a register, a store
nothing, and BSTAT branches on it (R322, R330). -/
inductive Pending where
  | load (rd : Reg)
  | store
  | test (mask : Word) (off : BitVec 16)
  deriving DecidableEq, Repr

/-- A sequencer's access that waits for a peer's response, by its tag, or for the host's completer (R275, R323): the bus
address, size and bytes of a host store. -/
structure Waiting where
  act : Pending
  bus : Nat
  bytes : List Byte
  addr : Word
  tag : Option Nat
  since : Nat
  deriving DecidableEq, Repr

/-- A sequencer (R294 to R313, R322, R342, R359). -/
structure Seq where
  g : Vector Word 32
  sd : Vector (BitVec 512) 16
  /-- The byte offset of the next instruction (R294); a jump target beyond 18 bits is held whole, so that its fetch faults. -/
  pc : Word
  /-- NV, DZ, OF, UF, NX, IDZ from bit 0 up (R300). -/
  sr : BitVec 6
  msginfo : BitVec 32
  defch : BitVec 6
  drops : Word
  barsel : BitVec 7
  ctxid : BitVec 12
  region : BitVec 18
  codelim : BitVec 19
  nb : BitVec 7
  nch : BitVec 7
  queues : Tab (List Msg)
  /-- Messages posted and not yet arrived (R305, R306), oldest first. -/
  arriving : List Msg
  /-- Messages held at their source for want of room (R305), oldest first. -/
  held : List Msg
  barriers : Tab Barrier
  running : Bool
  stop : Option SeqStop
  /-- Ticks left to the armed watchdog (R359). -/
  wdog : Option Nat
  /-- The watchdog has run out and is raised at the next instruction boundary. -/
  wdogDue : Bool
  utlb : List TlbEntry
  /-- Channel and generation of the armed drain watch (R342). -/
  drainWatch : Option (BitVec 6 × BitVec 8)
  waiting : Option Waiting
  /-- The launch that it steers while that launch runs. -/
  launch : Option Nat
  /-- DHOLD0 to DHOLD3 (R433). -/
  dhold : Tab (BitVec 64)
  /-- The code area as it stood when the task started (R298). -/
  code : List Host.Cell
  deriving DecidableEq, Repr

def Seq.reset : Seq :=
  { g := Vector.replicate 32 0, sd := Vector.replicate 16 0, pc := 0, sr := 0, msginfo := 0, defch := 0, drops := 0,
    barsel := 0, ctxid := 0, region := 0, codelim := 0, nb := 0, nch := 0, queues := [], arriving := [], held := [],
    barriers := [], running := false, stop := none, wdog := none, wdogDue := false, utlb := [], drainWatch := none,
    waiting := none, launch := none, dhold := [], code := [] }

def Barrier.reset : Barrier :=
  { rem := 0, count := 0, ch := 0, phase := 0, init := false, span := false, spid := 0, gen := 0 }

/-- The state of a port context (R85). -/
inductive PState where
  | free | bound | running | stopping | saved | draining | frozen
  deriving DecidableEq, Repr

/-- An element that has been diverted or stopped by a translation fault: its position and address (R45), when its walk is
tried again without a retry, and its place in the spill queue of its AGN (R46). -/
structure HeldElement where
  n : Nat
  addr : Nat
  due : Nat
  ord : Nat := 0
  /-- For a bitmap-sparse stream: the bitmap byte of its position arrived poisoned (R81). -/
  bad : Bool := false
  deriving DecidableEq, Repr

/-- What a port context waits for from a peer: the element at its position, a bitmap byte, a diverted element, or the OR of
its status word (R275). -/
inductive PeerWant where
  | element | bitmap | late | status
  deriving DecidableEq, Repr

/-- One port context of an AGN (R71 to R86). -/
structure PCtx where
  st : PState
  /-- The stream specification (R73). -/
  spec : BitVec 512
  /-- The launch whose stream holds it. -/
  launch : Option Nat
  /-- The configuration of that launch that it is bound to (R376), by count of plane swaps. -/
  cfg : Nat
  /-- The completion channel and generation, when a message posts (R338, R305). -/
  post : Option (BitVec 6 × BitVec 8)
  /-- The BIND packet's work item that completes with it (R395). -/
  item : Option Nat
  /-- Elements issued or taken (R75, R84). -/
  pos : Nat
  /-- Outer iterations completed (R83). -/
  outer : Nat
  /-- Set bits met so far, for a bitmap stream, and the bitmap byte last read: its number, its value and its poison (R81). -/
  setBits : Nat
  bitmap : Option (Nat × Byte × Bool)
  /-- Elements delivered or taken (R343), and whether they are charged: its binding was a BIND or an SBIND (R402). -/
  count : Nat
  charged : Bool
  /-- Bytes of the present token that have come from a peer, or are still to go to one (R275). -/
  part : List Byte
  partPsn : Bool
  /-- The status accumulator (R82). -/
  acc : Word
  /-- Diverted elements, oldest first (R45). -/
  spill : List HeldElement
  /-- The element it has stopped at (R45). -/
  stopped : Option HeldElement
  tlb : List TlbEntry
  /-- Tokens from the EDGE record that CDEST names, or that DEST names for an affine write. -/
  inA : List Token
  /-- Tokens from the EDGE record that DEST names, for a scatter. -/
  inB : List Token
  eosA : Bool
  eosB : Bool
  statusDone : Bool
  eosSent : Bool
  cancelled : Bool
  /-- The EDGE record that feeds it has no room: it discards until the end of stream (R86). -/
  draining : Bool
  /-- The tag of its peer request without a response yet, what it is for, and the position of the diverted element that it
  asks for (R275). -/
  tag : Option Nat
  want : PeerWant
  asked : Nat
  /-- Places in main memory of the elements that it has written (R57). -/
  written : List Nat
  /-- The fault of the element at its position has been recorded: an attempt that fails again writes no further record
  (R46). -/
  recorded : Bool
  deriving DecidableEq, Repr

def PCtx.reset : PCtx :=
  { st := .free, spec := 0, launch := none, cfg := 0, post := none, item := none, pos := 0, outer := 0, setBits := 0,
    bitmap := none, count := 0, charged := false, part := [], partPsn := false, acc := 0, spill := [], stopped := none, tlb := [], inA := [], inB := [], eosA := false,
    eosB := false, statusDone := false, eosSent := false, cancelled := false, draining := false, tag := none, want := .element,
    asked := 0, written := [], recorded := false }

/-- An island: ISLCFG, the SCR value that a running repartition sets, and the owner of each block (R66, R67). -/
structure Island where
  scr : BitVec 5
  busy : Bool
  next : BitVec 5
  /-- CTX in bits 11:0 and OWN in bit 12, by block. -/
  own : Tab (BitVec 13)
  deriving DecidableEq, Repr

def Island.reset : Island := { scr := 0, busy := false, next := 0, own := [] }

/-- A configuration plane of a tile: its block header and its words (R15, R133). -/
structure Plane where
  mode : BitVec 2
  fsize : BitVec 8
  pclass : BitVec 4
  slots : List Word32
  recs : List Word
  deriving DecidableEq, Repr

/-- A tile without a block (R129). -/
def Plane.empty : Plane := { mode := 0, fsize := 0, pclass := 0, slots := [], recs := [] }

/-- The operator state of a slot (R94, R119, R160, R183 to R190, R213, R215, R237, R258). -/
structure SlotState where
  /-- The resident token of port a or b and the firings left to it, 31 for ever (R94). -/
  resA : Option (Token × Nat)
  resB : Option (Token × Nat)
  /-- The stochastic-rounding generator, none until its first draw (R119). -/
  rng : Option (BitVec 32)
  /-- JOIN's pending poison, and the OR of the poison taken by an accumulating operator. -/
  psn : Bool
  /-- The accumulator of ACC, SCAN and AMAX and the best element of ARGM. -/
  acc : Option Word
  /-- Tokens taken: CNT's count, ARGM's position, QSIDE's position, BRK's firings. -/
  count : Nat
  /-- ARGM's best position, QSIDE's outlier count, MWLD's and MWRD's unit. -/
  aux : Nat
  /-- QSIDE's pending entry and its poison. -/
  pending : Option (BitVec 32 × Bool)
  /-- IOTA's next value, what remains of its sequence, and its poison; or EVFR's fire token, the next unit of its run, and
  its poison. -/
  iota : Option (Word × Nat × Bool)
  /-- EOSG has closed (R213); the end of stream each port has seen since (bit 0 port a, bit 1 port c or b). -/
  closed : Bool
  seen : BitVec 2
  ended : Bool
  /-- Stopped for good by a fault (R430). -/
  stopped : Bool
  /-- Held by a break or a true trap predicate (R434). -/
  held : Bool
  /-- A release lets the held step proceed once (R434). -/
  released : Bool
  deriving DecidableEq, Repr

def SlotState.reset : SlotState :=
  { resA := none, resB := none, rng := none, psn := false, acc := none, count := 0, aux := 0, pending := none,
    iota := none, closed := false, seen := 0, ended := false, stopped := false, held := false, released := false }

/-- The phase of a CARRY or INVAR record (R199, R200). -/
inductive RecPhase where
  | init | loop | ending
  deriving DecidableEq, Repr

/-- The state of a route record (R193). -/
structure RecState where
  phase : RecPhase
  held : Option Token
  /-- DELAY's buffer, oldest first; none until its first step in an invocation. -/
  buffer : Option (List Token)
  ended : Bool
  stopped : Bool
  deriving DecidableEq, Repr

def RecState.reset : RecState := { phase := .init, held := none, buffer := none, ended := false, stopped := false }

/-- A request of a fired local memory operator (R102, R205). -/
structure MemReq where
  a : Token
  b : Token
  psn : Bool
  deriving DecidableEq, Repr

/-- A group of E8M0 scales and whether it is poisoned (R228, R233). -/
structure ScaleGroup where
  scales : List Byte
  psn : Bool
  deriving DecidableEq, Repr

/-- The columns of a partial row with their poison bits; none is an end-of-stream marker (R227). -/
abbrev PartialRow := Option (List (BitVec 32 × Bool))

/-- The row buffer: the transfers that have arrived, their poison, or an end-of-stream marker, and what has happened to a
complete row (R226, R234). -/
structure RowBuf where
  transfers : List (BitVec 1024)
  psn : Bool
  eos : Bool
  fired : Bool
  /-- The scale group that the row fired with, for forwarding (R226). -/
  group : Option ScaleGroup
  deriving DecidableEq, Repr

def RowBuf.empty : RowBuf := { transfers := [], psn := false, eos := false, fired := false, group := none }

/-- The matrix macro of a tile (R226 to R241). -/
structure Matrix where
  row : RowBuf
  /-- Transfers of a read stream on their way to the row buffer, with their poison; none is the end-of-stream marker. -/
  wide : List (Option (BitVec 1024 × Bool))
  north : List PartialRow
  /-- Transfers of a read stream gathered into the next partial row of the north input. -/
  northWide : List (BitVec 1024 × Bool)
  /-- Partial rows on their way to the write stream that takes the south output. -/
  south : List PartialRow
  filling : Option ScaleGroup
  groups : List ScaleGroup
  partBuf : List Token
  outBuf : List Token
  gate : Bool
  rows : Nat
  /-- MROW's end action: 0 none, 1 the marker is sent and the back edge is awaited. -/
  ending : Nat
  deriving DecidableEq, Repr

def Matrix.reset : Matrix :=
  { row := RowBuf.empty, wide := [], north := [], northWide := [], south := [], filling := none, groups := [],
    partBuf := [], outBuf := [], gate := false,
    rows := 0, ending := 0 }

/-- The event unit of a tile (R245 to R268). -/
structure EventBank where
  queue : List Word
  h : BitVec 32
  b : BitVec 32
  marked : Option (BitVec 32)
  /-- The step that the event unit is in the middle of: the slot of EVIN or EVLK, its event or stamp, and the next synapse
  entry or neuron (R259, R262, R265). -/
  busy : Option (Nat × Word × Nat)
  deriving DecidableEq, Repr

def EventBank.reset : EventBank := { queue := [], h := 0, b := 0, marked := none, busy := none }

/-- A tile (R15). Its scratch and weight store stand in the machine's memory. -/
structure Tile where
  plane : Plane
  shadow : Option Plane
  slots : Tab SlotState
  recs : Tab RecState
  /-- Local memory requests by slot, oldest first, and the last performed one's SUCC and OWN (R102). -/
  reqs : Tab (List MemReq)
  last : Option (Nat × Nat)
  /-- NV DZ OF UF NX SAT PSEEN OLOV SCUND SCOVR SPCODE from bit 0 up (R115, R159, R242). -/
  flags : BitVec 11
  seed : BitVec 32
  /-- The seed that SEED has set for the next invocation, and the slot it came from (R217). -/
  nextSeed : Option (BitVec 32 × Nat)
  pool : Nat
  /-- The first interval whose grant has not reached it (R412, R415). -/
  granted : Nat
  lastGrant : Nat
  counters : Tab Nat
  /-- The invocation runs: its frame is reset (R100). -/
  active : Bool
  invocation : Nat
  /-- The reconfiguration token has passed, or has been held up by a stray token here or in the group (R442). -/
  passed : Bool
  strayed : Bool
  matrix : Matrix
  events : EventBank
  launch : Option Nat
  deriving DecidableEq, Repr

def Tile.reset : Tile :=
  { plane := Plane.empty, shadow := none, slots := [], recs := [], reqs := [], last := none, flags := 0, seed := 0,
    nextSeed := none, pool := 0, granted := 0, lastGrant := 0, counters := [], active := false, invocation := 0, passed := false, strayed := false,
    matrix := Matrix.reset, events := EventBank.reset, launch := none }

/-- The spill ring of a die-crossing arc: base address, size in slots, and the tokens in it, oldest first (R103, R104). -/
structure Ring where
  base : Word
  slots : Nat
  wr : Nat
  rd : Nat
  deriving DecidableEq, Repr

/-- An arc into a consumer input: tokens that have arrived, tokens on the way with the tile they stand at, whether its
route crosses a die, and the state of its ring (R90, R103). -/
structure Arc where
  queue : List Token
  transit : List (Nat × Token)
  key : Nat
  crossing : Bool
  ring : Option Ring
  stopped : Bool
  deriving DecidableEq, Repr

def Arc.reset : Arc := { queue := [], transit := [], key := 0, crossing := false, ring := none, stopped := false }

/-- What a save keeps of a launch besides its header (R438). -/
structure Saved where
  seq : Seq
  tiles : Tab Tile
  arcs : Tab Arc
  pctxs : Tab PCtx
  bytes : List Host.Cell
  poison : List Nat
  full : List Nat
  /-- The CFGLD's channel and generation and its image, when a shadow plane was discarded: LDP, or SHP once its message had
  posted; and the RECONF's, RCP (R446). -/
  load : Option (BitVec 6 × BitVec 8)
  posted : Bool
  img : Word
  rcp : Option (BitVec 6 × BitVec 8)
  deriving DecidableEq, Repr

/-- Where a launch stands (R393, R397, R407, R437). -/
inductive LaunchPhase where
  /-- Admitted and not dispatched. -/
  | waiting
  /-- Its image is being loaded. -/
  | loading
  | running
  /-- A pre-emption has been requested. -/
  | stopping
  | saved
  /-- Ended by a cancellation, not yet retired. -/
  | ended
  | retired
  deriving DecidableEq, Repr

/-- The shadow plane of a launch's region (R340, R341, R446). -/
inductive Shadow where
  | none
  | loading
  | loaded
  deriving DecidableEq, Repr

/-- A launch (R392, R393, R431, R432, R437 to R448). -/
structure Launch where
  ctx : Nat
  ltag : Nat
  seqn : Nat
  x0 : Nat
  y0 : Nat
  lw : Nat
  lh : Nat
  whole : Bool
  place : Bool
  pclass : Nat
  image : Word
  savea : Word
  isla : Word
  isln : Nat
  seed : BitVec 32
  nb : Nat
  nch : Nat
  pg : Nat
  wsp : Bool
  evp : Bool
  debug : Bool
  nrx : Bool
  payload : List Word
  blocks : List Nat
  iter : Nat
  item : Nat
  phase : LaunchPhase
  frozen : Bool
  lcause : Option Cause
  endCause : Option Cause
  shadow : Shadow
  shImage : Word
  /-- Channel and generation of the CFGLD, and whether its load message has posted (R340, R446). -/
  shPost : Option (BitVec 6 × BitVec 8)
  shPosted : Bool
  /-- Channel and generation of the RECONF whose token is passing (R341). -/
  reconf : Option (BitVec 6 × BitVec 8)
  /-- Plane swaps so far. -/
  cfg : Nat
  tasklen : Nat
  /-- Pages that hold spill rings of the resident configuration: base and size (R105). -/
  spillPages : List (Nat × Nat)
  spills : List (BitVec 128)
  saved : Option Saved
  nsave : Nat
  whold : Bool
  /-- An overrun asks for its pre-emption (R408). -/
  asked : Bool
  /-- A translation fault holds its load until a retry (R445). -/
  loadHeld : Bool
  /-- RPCTL.MODE and RPRING as it began under them, and the recording that they named (R466). -/
  recMode : BitVec 2
  recRing : Word
  recSession : Nat
  /-- When its tiles joined it, at its start or its resumption (R415). -/
  joined : Nat
  deriving DecidableEq, Repr

/-- Where a work item stands (R388, R401, R404). -/
inductive ItemPhase where
  /-- Read from the ring and not yet admitted. -/
  | pending
  /-- Admitted: its next packet waits for its dispatch. -/
  | admitted
  /-- Its next packet may begin. -/
  | dispatched
  /-- A packet has begun and has not completed. -/
  | running
  /-- Every packet has completed or the entry has stopped; its record is to be written. -/
  | finished
  | recorded
  deriving DecidableEq, Repr

/-- A queue entry (R386, R401, R402). -/
structure Item where
  queue : Nat
  /-- The place of the kick that brought the entry, in the order in which the complex took the kicks (R382). -/
  turn : Nat
  seqNo : Nat
  deadline : Nat
  budget : Nat
  iter : Nat
  pclass : Nat
  lw : Nat
  lh : Nat
  whole : Bool
  abort : Bool
  headerBad : Bool
  packets : List Instr
  /-- The code of R406 that decoding the packets has already found. -/
  bad : Nat
  idx : Nat
  phase : ItemPhase
  /-- Its first packet has been dispatched (R388). -/
  started : Bool
  /-- The value that its WAIT_GE waits for has stood in the semaphore (R391). -/
  met : Bool
  /-- Its pre-emption bound (R403). -/
  bound : Nat
  rcode : Nat
  cause : Option Cause
  state : Nat
  miss : Bool
  ovr : Bool
  /-- Background work, from a background deadline, a missed one or an overrun (R408 to R410). -/
  background : Bool
  endTime : Nat
  chreg : Nat
  cheng : Nat
  /-- Charges that its own record has reported, and those of launches it has retired (R402). -/
  saidReg : Nat
  saidEng : Nat
  moreReg : Nat
  moreEng : Nat
  /-- Its own record has reported MISS and OVR (R408, R409). -/
  saidMiss : Bool
  saidOvr : Bool
  launch : Option Nat
  deriving DecidableEq, Repr

/-- A queue (R383 to R385, R401, R411). -/
structure Queue where
  v : Bool
  rbase : Word
  rlog2 : Nat
  ctx : Nat
  func : Nat
  priv : Bool
  gen : BitVec 16
  page : Nat
  cbase : Word
  clog2 : Nat
  w : BitVec 32
  ridx : BitVec 32
  seqNo : Nat
  stop : Bool
  rbusy : Bool
  /-- A linked pair has put the reset off (R400). -/
  putOff : Bool
  deriving DecidableEq, Repr

def Queue.reset : Queue :=
  { v := false, rbase := 0, rlog2 := 0, ctx := 0, func := 0, priv := false, gen := 0, page := 0, cbase := 0, clog2 := 0,
    w := 0, ridx := 0, seqNo := 0, stop := false, rbusy := false, putOff := false }

/-- A barrier bound to a span: its launch, number, channel and generation, the phases it has reported since it was bound,
and its PHASE at the binding (R305, R313). -/
structure SpanMember where
  launch : Nat
  bar : Nat
  ch : BitVec 6
  gen : BitVec 8
  reported : Nat
  base : Nat
  deriving DecidableEq, Repr

/-- A spanning barrier: its context, the declared number of members, the members, and the phases completed (R313). -/
structure Span where
  ctx : Nat
  m : Nat
  members : List SpanMember
  done : Nat
  deriving DecidableEq, Repr

/-- A copy in flight (R344, R345, R55 to R64). -/
structure CopyJob where
  ctx : Nat
  /-- The launch whose sequencer issued it and that sequencer, or the work item whose packet did. -/
  launch : Option Nat
  seqn : Nat
  item : Option Nat
  /-- The completion channel and generation of a COPY instruction (R305). -/
  post : Option (BitVec 6 × BitVec 8)
  /-- The descriptor's address, and its fields. -/
  desc : Word
  srca : Word
  dsta : Word
  len : Nat
  stor : Bool
  /-- Bytes moved so far, in ascending order. -/
  done : Nat
  /-- The first cause, the granules or pages of word 1, and whether it has ended with failure. -/
  cause : Option Cause
  count : Nat
  failed : Bool
  /-- It has been cancelled: it does nothing more and posts nothing (R50, R345). -/
  cancelled : Bool
  /-- The span that a translation fault has stopped (R46). -/
  stopped : Option HeldElement
  /-- A poisoned granule has been recorded; one has touched the present span of the destination. -/
  firstPsn : Bool
  spanPsn : Bool
  /-- Frames of which it has written every byte (R57). -/
  clean : List Nat
  /-- The granule that has been read and not yet written, and its poisoned words; the peer request without a response. -/
  buf : Option (List Byte × Nat)
  tag : Option Nat
  /-- The storage extent descriptor and the pages that are over (R55). -/
  sdesc : BitVec 384
  page : Nat
  deriving DecidableEq, Repr

/-- An NVMe command in flight (R54, R56). -/
structure StorageCmd where
  port : Nat
  copy : Nat
  nsid : Nat
  page : Nat
  write : Bool
  reissued : Bool
  since : Nat
  deriving DecidableEq, Repr

/-- A cause of work of the command complex (R381): a kick, a queue reset request, a change of a semaphore that a WAIT_GE
watches, a deadline reached, a budget exhausted, or an engine that has completed, a save among them. -/
inductive Event where
  /-- A kick, with its place in the order of the kicks (R382). -/
  | kick (q : Nat) (value : BitVec 64) (n : Nat)
  | reset (q : Nat)
  | semaphore (item : Nat)
  | deadline (item : Nat)
  | budget (item : Nat)
  | engine (i : Instr)
  deriving DecidableEq, Repr

/-- A scale-out port (R271, R273). -/
structure Port where
  up : Bool
  peer : BitVec 6
  spare : Bool
  replay : BitVec 16
  badflit : BitVec 16
  /-- Flits sent and not acknowledged, oldest first, at most 256, and the replays of the first so far. -/
  buffer : List Flit
  failed : Nat
  /-- Flits that wait for room in that buffer, oldest first, each with its NAK bit, and a NAK that has arrived. -/
  pending : List (Flit × Bool)
  naked : Bool
  sent : BitVec 16
  received : BitVec 16
  deriving DecidableEq, Repr

def Port.reset : Port :=
  { up := false, peer := 0, spare := false, replay := 0, badflit := 0, buffer := [], failed := 0, pending := [], naked := false, sent := 0,
    received := 0 }

/-- Who sent a peer request (R275). -/
inductive Requester where
  | seq (n : Nat)
  | agn (pc : Nat)
  | copy (k : Nat)
  deriving DecidableEq, Repr

/-- A peer request without a response yet (R275 to R278). -/
structure PeerReq where
  who : Requester
  dst : Nat
  addr : Word
  since : Nat
  deriving DecidableEq, Repr

/-- A message that has left the package (DESIGN CHOICE, log 18): a flit, an MSI-X vector, or the answer to a configuration
request, which is Configuration Request Retry Status when `retry` is set (R458). -/
inductive Sent where
  | flit (port : Nat) (f : Flit)
  | msix (func vec : Nat)
  | config (retry : Bool)
  deriving DecidableEq, Repr

/-- The fuses that the capability registers report (R25, R26, R31). -/
structure Part where
  step : BitVec 4
  dies : BitVec 4
  clusters : BitVec 16
  ports : BitVec 12
  storage : BitVec 2
  hbm : BitVec 8
  sequencers : BitVec 32
  /-- ISLMAP0 to ISLMAP3, die 0 in the low bits. -/
  islands : BitVec 256
  half : BitVec 8
  /-- Bit n is the intact half of stack n. -/
  halfSel : BitVec 8
  deriving DecidableEq, Repr

/-- A full part (R26); STEP is the A stepping (DESIGN CHOICE, log 8). -/
def Part.full : Part :=
  { step := 0, dies := 0xF, clusters := 0xFFFF, ports := 0xFFF, storage := 3, hbm := 0xFF,
    sequencers := 0xFFFFFFFF, islands := BitVec.allOnes 256, half := 0, halfSel := 0 }

/-- Control-path registers that hold their own value (R53, R273, R383, R416, R421, R427, R460, R466, R469). -/
structure Ctl where
  domid : Word
  stq0 : Word
  stq1 : Word
  qtbase : Word
  frtbase : Word
  pcap : BitVec 32
  adapt : BitVec 4
  therm : Word
  bootst : Word
  svcpend : Word
  rpctl : Word
  rpring : Word
  deriving DecidableEq, Repr

def Ctl.reset : Ctl :=
  { domid := 0, stq0 := 0, stq1 := 0, qtbase := 0, frtbase := 0, pcap := 0x153D8000, adapt := 0, therm := 0,
    bootst := 0, svcpend := 0, rpctl := 0, rpring := 0 }

/-- The indices of a context's fault ring (R428). -/
structure FaultRing where
  pi : BitVec 32
  ci : BitVec 32
  lost : Bool
  /-- Records generated so far (R425). -/
  count : Nat
  deriving DecidableEq, Repr

def FaultRing.reset : FaultRing := { pi := 0, ci := 0, lost := false, count := 0 }
/-- One input of a collective: what has arrived and is not merged, with its poison, the last index taken, and when its
neighbour was last heard (R281, R286, R291). -/
structure CollIn where
  units : List (Word × Bool)
  last : Option Nat
  ended : Bool
  heard : Nat
  /-- The neighbour's digest has come and agrees (R283). -/
  met : Bool
  /-- The neighbour has sent the status of its part of a sparse result, or the parent the whole one (R289). -/
  settled : Bool
  deriving DecidableEq, Repr

def CollIn.reset : CollIn := { units := [], last := none, ended := false, heard := 0, met := false, settled := false }

/-- A collective of this member (R279 to R292). -/
structure Coll where
  ctx : Nat
  launch : Option Nat
  seqn : Nat
  post : BitVec 6 × BitVec 8
  /-- The configuration it was issued under (R376). -/
  cfg : Nat
  desc : BitVec 512
  /-- One of the engine's four; a fifth one waits (R283). -/
  active : Bool
  /-- Input 0 is its own contribution, the others are its children's in ascending rank. -/
  inputs : List CollIn
  /-- What the parent sends, or what the root has formed, in the down phase. -/
  down : CollIn
  /-- Bytes of the contribution read from SRCA, and the length that a sparse one begins with. -/
  src : Nat
  srcLen : Option Nat
  /-- Elements of a dense collective that the reduce phase has formed. -/
  formed : Nat
  /-- Units sent to the parent and to the children. -/
  upUnits : Nat
  downUnits : Nat
  /-- Elements of a dense result taken in the down phase. -/
  taken : Nat
  /-- Bytes of the result written at DSTA, and bytes that the whole result needs. -/
  wrote : Nat
  needed : Nat
  status : BitVec 19
  /-- PSN_STORE has been recorded (R290). -/
  psn : Bool
  /-- The reduce phase is over, this member's sparse result and its length are written and its status has gone up, and the
  result is complete at this member. -/
  sentUp : Bool
  told : Bool
  complete : Bool
  failed : Option Cause
  /-- It has been cancelled with its launch: it posts nothing. -/
  cancelled : Bool
  deriving DecidableEq, Repr

/-- The network's state (R269 to R292). -/
structure Net where
  ports : Tab Port
  routes : Tab (BitVec 5)
  reqs : Tab PeerReq
  nextTag : Nat
  /-- Collective flits that have arrived before this member has taken up their collective, oldest first. -/
  early : List Flit
  /-- Collectives of this package by 65536 times the engine plus COLLID. -/
  colls : Tab Coll
  deriving DecidableEq, Repr

def Net.reset : Net := { ports := [], routes := [], reqs := [], nextTag := 0, early := [], colls := [] }

/-- Sensors, body bias and supply (R417, R418, R421): degrees by sensor (16 is the I/O die), clusters under reverse bias
with the time at which they began to settle, when a cluster last held a running launch, and the supply of each die. -/
structure Power where
  sensors : Tab (BitVec 8)
  reverse : List Nat
  settling : Tab Nat
  idle : Tab Nat
  supply : Tab Nat
  /-- The tick by which the analog trip has removed power, once a sensor has reached 120 °C (R423). -/
  trip : Option Nat
  deriving DecidableEq, Repr

def Power.reset : Power := { sensors := [], reverse := [], settling := [], idle := [], supply := [], trip := none }

/-- Keys, measurements and the recorder (R459 to R469). Keys, fuses and marks of the boot flash are bytes or numbers. -/
structure Sec where
  /-- The security request in progress (R463). -/
  pending : Option Word
  dataKeys : Tab (List Byte)
  imageKeys : Tab (List Byte)
  /-- Fused: the owner key's digest and the least firmware SVN (R459, R463). -/
  owner : Option (List Byte)
  minSvn : Nat
  /-- The message of R462 and the SVN of the running firmware. -/
  firmware : List Byte
  svn : Nat
  meas : Tab (List Byte × Nat)
  /-- Marks that the boot flash keeps until the next cold reset (R469). -/
  marks : List SvcUnit
  /-- Fused: spares in use, row of die d as d, island of an edge as 16 + 2 d + edge, lane of port p as 32 + p (R24). -/
  spares : List Nat
  /-- Corrected errors that the firmware has counted, by unit (R32, R469). -/
  corrected : Tab Nat
  /-- The recorder (R466 to R468): which recording RPCTL and RPRING name, counted by their changes, the records in the ring of
  each recording, and those of each of its origins so far. -/
  session : Nat
  recIdx : Tab Nat
  recCount : Tab Nat
  /-- Records of each recording that a replay has read (R468). -/
  recRead : Tab Nat
  /-- Origins that have left the replay (R468). -/
  diverged : List Nat
  deriving DecidableEq, Repr

def Sec.reset : Sec :=
  { pending := none, dataKeys := [], imageKeys := [], owner := none, minSvn := 0, firmware := [], svn := 0, meas := [], marks := [],
    spares := [], corrected := [], session := 0, recIdx := [], recCount := [], recRead := [], diverged := [] }


/-- The machine. -/
structure State where
  /-- The agents that move next, oldest first; the model's own field (DESIGN CHOICE, log 2). -/
  turns : List Turn
  /-- Which free value the next free choice takes; the model's own field (DESIGN CHOICE, log 2). -/
  choice : Nat
  /-- The sequencer, tile and slot or record that the running step belongs to; the model's own fields (DESIGN CHOICE, log 2). -/
  curSeq : Nat
  curTile : Nat
  curSlot : Nat
  /-- What has left the package, newest first; the model's own field (DESIGN CHOICE, log 18). -/
  sent : List Sent
  /-- The package has power (R423, R458). -/
  powered : Bool
  /-- The timebase (R20). -/
  now : Nat
  part : Part
  ctl : Ctl
  /-- Every byte-addressed store, by location number (DESIGN CHOICE, log 1). -/
  mem : List Host.Cell
  /-- Aligned 16-byte granules that hold poison, by location number divided by 16 (R471). -/
  poison : List Nat
  /-- The poison state of each 128 KiB frame of main memory (R57). -/
  frameState : Tab (BitVec 2)
  /-- Tile scratch granules that are full, by tile times 1536 plus granule (R97). -/
  full : List Nat
  /-- Where the context table stands in main memory, 128 KiB aligned (R34; DESIGN CHOICE, log 9). -/
  ctxBase : Nat
  /-- The edge TLB's slices (R40). -/
  edgeTlb : Tab (List TlbEntry)
  islands : Tab Island
  /-- Port contexts by 512 times the die plus their number (R71). -/
  pctxs : Tab PCtx
  /-- The port context that each AGN served last, by 128 times the die plus its number (R72). -/
  agnLast : Tab Nat
  seqs : Tab Seq
  tiles : Tab Tile
  /-- Arcs by 512 times the consumer's tile plus the consumer's target (R90). -/
  arcs : Tab Arc
  /-- The arc key that each router link served last, by 4 times the tile plus the direction (R16). -/
  links : Tab Nat
  launches : Tab Launch
  /-- Work items by number, in the order of their kicks (R385). -/
  items : Tab Item
  queues : Tab Queue
  spans : Tab Span
  /-- Complex events in arrival order: the first 4096 stand in the hardware's queue, and the sources hold the rest (R381,
  DESIGN CHOICE, log 51). -/
  events : List Event
  /-- The event that each busy core of the command complex handles (R381). -/
  cores : Tab Event
  /-- How many kicks have reached the complex, and the place among them of the one that was handled last (R382). -/
  kicks : Nat
  kick : Nat
  /-- VALUE and SOWN of each semaphore (R390). -/
  sems : Tab Word
  sown : Tab (BitVec 13)
  copies : Tab CopyJob
  storage : Tab StorageCmd
  /-- A controller that firmware is resetting after a timeout (R54). -/
  resetting : List Nat
  /-- Namespaces of the drives: 2 times the number plus the port, and the block size and count (R52, DESIGN CHOICE, log 17). -/
  namespaces : Tab (Nat × Nat)
  /-- Fault records not yet written, oldest first (R429). -/
  records : List FaultRec
  rings : Tab FaultRing
  net : Net
  power : Power
  sec : Sec
  deriving DecidableEq, Repr

/-- The state right after cold reset: the values that the rules give, and 0 or none where they give none (DESIGN CHOICE, log 7). -/
def State.reset : State :=
  { turns := [], choice := 0, curSeq := 0, curTile := 0, curSlot := 0, sent := [], powered := true, now := 0,
    part := Part.full, ctl := Ctl.reset, mem := [], poison := [], frameState := [], full := [], ctxBase := 366209 * 131072,
    edgeTlb := [], islands := [], pctxs := [], agnLast := [], seqs := [], tiles := [], arcs := [], links := [], launches := [],
    items := [], queues := [], spans := [], events := [], cores := [], kicks := 0, kick := 0, sems := [], sown := [],
    copies := [], storage := [], resetting := [],
    namespaces := [], records := [], rings := [], net := Net.reset, power := Power.reset, sec := Sec.reset }

end Sys2Proof.Machine
end

