-- ==== Sys2Proof/Machine/Assoc.lean ====
section
/-!
DEFINITION. Tables by number and the canonical memory: the two containers that State is made of, with their only
operations.
-/
namespace Sys2Proof.Machine
open Sys2Proof

/-- The thing with number `k`, or the default. -/
def tabGet {α : Type} (t : Tab α) (k : Nat) (d : α) : α :=
  match t with
  | [] => d
  | (j, v) :: r => if j = k then v else tabGet r k d

/-- The thing with number `k`, if it is listed. -/
def tabFind {α : Type} (t : Tab α) (k : Nat) : Option α :=
  match t with
  | [] => none
  | (j, v) :: r => if j = k then some v else tabFind r k

/-- Lists `v` under number `k`. -/
def tabPut {α : Type} (t : Tab α) (k : Nat) (v : α) : Tab α :=
  match t with
  | [] => [(k, v)]
  | (j, w) :: r => if k < j then (k, v) :: (j, w) :: r else if k = j then (k, v) :: r else (j, w) :: tabPut r k v

/-- Takes number `k` off the list. -/
def tabDel {α : Type} (t : Tab α) (k : Nat) : Tab α :=
  match t with
  | [] => []
  | (j, w) :: r => if j = k then tabDel r k else (j, w) :: tabDel r k

/-- The least number above every listed one. -/
def tabFresh {α : Type} (t : Tab α) : Nat :=
  match t with
  | [] => 0
  | (j, _) :: r => max (j + 1) (tabFresh r)

/-- The value of the byte at location `a`; an unlisted byte reads 0 (DESIGN CHOICE, log 1). -/
def memRead (m : List Host.Cell) (a : Nat) : Byte :=
  match m with
  | [] => 0
  | (j, b) :: r => if a < j then 0 else if a = j then b else memRead r a

/-- Writes one byte, keeping the canonical form: rising locations, no listed 0. -/
def memWrite (m : List Host.Cell) (a : Nat) (b : Byte) : List Host.Cell :=
  match m with
  | [] => if b = 0 then [] else [(a, b)]
  | (j, c) :: r =>
    if a < j then (if b = 0 then (j, c) :: r else (a, b) :: (j, c) :: r)
    else if a = j then (if b = 0 then r else (a, b) :: r)
    else (j, c) :: memWrite r a b

/-- Every listed location is above `lo` and rising, and no listed byte is 0. -/
def memAbove (lo : Nat) (m : List Host.Cell) : Bool :=
  match m with
  | [] => true
  | (a, b) :: r => decide (lo ≤ a) && decide (b ≠ 0) && memAbove (a + 1) r

/-- The canonical form of memory. -/
def Memory.wf (m : List Host.Cell) : Bool := memAbove 0 m

/-- The `n` bytes from location `a` up. -/
def memBytes (m : List Host.Cell) (a : Nat) : Nat → List Byte
  | 0 => []
  | n + 1 => memRead m a :: memBytes m (a + 1) n

/-- Writes bytes from location `a` up. -/
def memPut (m : List Host.Cell) (a : Nat) : List Byte → List Host.Cell
  | [] => m
  | b :: bs => memPut (memWrite m a b) (a + 1) bs

/-- The little-endian number in the `n` bytes from location `a` up (R3). -/
def memNat (m : List Host.Cell) (a n : Nat) : Nat := leNat (memBytes m a n)

/-- Writes a number little-endian in `n` bytes (R3). -/
def memPutNat (m : List Host.Cell) (a n v : Nat) : List Host.Cell := memPut m a (leBytes n v)

/-- Takes every byte of locations `a` up to but not including `a + n` off the list, so that it reads 0. -/
def memClear (m : List Host.Cell) (a n : Nat) : List Host.Cell :=
  m.filter (fun c => !(decide (a ≤ c.1) && decide (c.1 < a + n)))

end Sys2Proof.Machine
end

