-- ==== Sys2Proof/Machine/Ops.lean ====
section
/-!
DEFINITION. The named operations that the meanings share: places in memory, access to the sequencers, tiles, port
contexts and launches of a state, taking a fault and resuming from one, and posting a message.
-/
namespace Sys2Proof.Machine
open Sys2Proof

/-- What a step or an instruction answers. -/
abbrev Out := Host.Outcome State Fault Refusal

/-! ### Bit fields -/

/-- Bits `lo` up to `lo + n - 1` of a number. -/
def bits (v lo n : Nat) : Nat := v / 2 ^ lo % 2 ^ n

/-- The signed value of an `n`-bit number. -/
def toSigned (n v : Nat) : Int := if v % 2 ^ n < 2 ^ (n - 1) then (v % 2 ^ n : Nat) else (v % 2 ^ n : Nat) - (2 ^ n : Nat)

/-- An integer modulo `2 ^ n`. -/
def wrapNat (n : Nat) (v : Int) : Nat := (v % (2 ^ n : Nat)).toNat

/-- `⌈a / b⌉`. -/
def ceilDiv (a b : Nat) : Nat := (a + b - 1) / b

/-- A number in 64 bits. -/
def word (v : Nat) : Word := BitVec.ofNat 64 v
/-- The 64 bits of an address that arithmetic has formed, below zero too. -/
def wordZ (v : Int) : Word := BitVec.ofInt 64 v

/-! ### Locations: one number for each byte of every store (DESIGN CHOICE, log 1) -/

/-- Store `k`'s byte `off`. -/
def place (k off : Nat) : Nat := k * 2 ^ 64 + off

/-- Main memory, by device physical address (R28). -/
def dpaLoc (a : Nat) : Nat := place 0 a
/-- Island scratch of island `i` = 64 times the die plus its number (R65). -/
def islandLoc (i off : Nat) : Nat := place 1 (i * 2 ^ 20 + off)
/-- Tile scratch (R97). -/
def scratchLoc (tile off : Nat) : Nat := place 2 (tile * 2 ^ 15 + off)
/-- Weight store: the data array, then the side array from offset 65536 (R33, R222). -/
def weightLoc (tile off : Nat) : Nat := place 3 (tile * 2 ^ 17 + off)
/-- A sequencer's local memory (R296). -/
def localLoc (n off : Nat) : Nat := place 4 (n * 2 ^ 18 + off)
/-- Host memory, by bus address. -/
def hostLoc (a : Nat) : Nat := place 7 a
/-- Drive content of namespace `ns` of a storage port (DESIGN CHOICE, log 17). -/
def driveLoc (port ns off : Nat) : Nat := place (8 + 2 * ns + port) off

/-! ### The parts of a state -/

def State.seq (s : State) (n : Nat) : Seq := tabGet s.seqs n Seq.reset
def State.setSeq (s : State) (n : Nat) (q : Seq) : State := { s with seqs := tabPut s.seqs n q }
def State.tile (s : State) (t : Nat) : Tile := tabGet s.tiles t Tile.reset
def State.setTile (s : State) (t : Nat) (v : Tile) : State := { s with tiles := tabPut s.tiles t v }
def State.pctx (s : State) (p : Nat) : PCtx := tabGet s.pctxs p PCtx.reset
def State.setPctx (s : State) (p : Nat) (v : PCtx) : State := { s with pctxs := tabPut s.pctxs p v }
def State.arc (s : State) (k : Nat) : Arc := tabGet s.arcs k Arc.reset
def State.setArc (s : State) (k : Nat) (v : Arc) : State := { s with arcs := tabPut s.arcs k v }
def State.island (s : State) (i : Nat) : Island := tabGet s.islands i Island.reset
def State.setIsland (s : State) (i : Nat) (v : Island) : State := { s with islands := tabPut s.islands i v }
def State.launch (s : State) (l : Nat) : Option Launch := tabFind s.launches l
def State.setLaunch (s : State) (l : Nat) (v : Launch) : State := { s with launches := tabPut s.launches l v }
def State.item (s : State) (i : Nat) : Option Item := tabFind s.items i
def State.setItem (s : State) (i : Nat) (v : Item) : State := { s with items := tabPut s.items i v }
def State.queue (s : State) (q : Nat) : Queue := tabGet s.queues q Queue.reset
def State.setQueue (s : State) (q : Nat) (v : Queue) : State := { s with queues := tabPut s.queues q v }
def State.ring (s : State) (c : Nat) : FaultRing := tabGet s.rings c FaultRing.reset
def State.setRing (s : State) (c : Nat) (v : FaultRing) : State := { s with rings := tabPut s.rings c v }
def State.sem (s : State) (n : Nat) : Word := tabGet s.sems n 0

/-- The sequencer that the running step belongs to. -/
def State.cur (s : State) : Seq := s.seq s.curSeq
def State.setCur (s : State) (q : Seq) : State := s.setSeq s.curSeq q

/-- BOOTST.STAGE (R460). -/
def State.stage (s : State) : Nat := bits s.ctl.bootst.toNat 0 4

/-- The firmware trains links: as it boots in STAGE 2, and later when a link has gone down (R271, R458). -/
def State.trains (s : State) : Bool := s.stage == 2 || s.stage == 3

/-- A cause of work reaches the command complex (R381). -/
def State.arise (s : State) (e : Event) : State := { s with events := s.events ++ [e] }

/-- A cause of work that one event stands for reaches the command complex, unless that event waits or is handled (R381). -/
def State.ariseOnce (s : State) (e : Event) : State :=
  if s.events.contains e || s.cores.any (fun c => c.2 == e) then s else s.arise e

/-- A kick reaches the command complex, in the order of the kicks (R381, R382). -/
def State.ariseKick (s : State) (q : Nat) (v : Word) : State :=
  { s with events := s.events ++ [.kick q v s.kicks], kicks := s.kicks + 1 }

/-- A free value's counter moves on. -/
def State.bump (s : State) : State := { s with choice := s.choice + 1 }

/-- General register `r`: `g0` reads as zero (R295). -/
def Seq.rd (q : Seq) (r : Reg) : Word := if r = 0 then 0 else q.g[r.toNat]

/-- Writes a general register: a write to `g0` is discarded (R295). -/
def Seq.wr (q : Seq) (r : Reg) (v : Word) : Seq := if r = 0 then q else { q with g := q.g.set r.toNat v }

/-- The instruction completes: PC advances by 4 (R322). -/
def State.retire (s : State) (q : Seq) : State := s.setCur { q with pc := q.pc + 4 }

/-- The instruction completes with `v` in register `rd` (R322). -/
def State.result (s : State) (rd : Reg) (v : Word) : State := s.retire (s.cur.wr rd v)

/-! ### Where tiles and sequencers lie (R11 to R14) -/

def tileX (t : Nat) : Nat := t % 32
def tileY (t : Nat) : Nat := t / 32
def tileDie (t : Nat) : Nat := tileX t / 16 + 2 * (tileY t / 24)
/-- The device-wide cluster of a tile (R13). -/
def tileCluster (t : Nat) : Nat := 4 * tileDie t + tileY t % 24 / 6
/-- The device-wide cluster of a sequencer (R14). -/
def seqCluster (n : Nat) : Nat := n / 2

/-- The number of a sequencer's own timebase replica; those of the clusters are 0 to 15 (R20). -/
def seqClock (n : Nat) : Nat := 16 + n

/-- The number of the replica of the command-complex core that acts, which is one of twelve (R20, R381; DESIGN CHOICE, log 3). -/
def State.coreClock (s : State) : Nat := 48 + Config.core s.choice % 12

/-- What a timebase replica reads: at most 2 ticks behind (R20, DESIGN CHOICE, log 3). -/
def State.replica (s : State) (clock : Nat) : Nat := s.now - Config.skew clock % 3

/-- A hardware read of the timebase: the reader is held until its replica has counted to the value plus 2 (R21). -/
def State.hold (s : State) : State := { s with now := s.now + 2 }

/-- The mask of the numbers below `n` for which `f` holds. -/
def maskOf (n : Nat) (f : Nat → Bool) : Nat := (List.range n).foldl (fun a i => if f i then a + 2 ^ i else a) 0

/-- A cluster is exposed: neither it nor its die is disabled (R25, R26). -/
def Part.clusterOk (p : Part) (c : Nat) : Bool := p.clusters.getLsbD c && p.dies.getLsbD (c / 4) && c < 16
/-- A sequencer is exposed: neither it nor its cluster is disabled (R25, R26). -/
def Part.seqOk (p : Part) (n : Nat) : Bool := p.sequencers.getLsbD n && p.clusterOk (seqCluster n) && n < 32
def Part.tileOk (p : Part) (t : Nat) : Bool := p.clusterOk (tileCluster t) && t < 1536
/-- A stack is exposed: neither it nor its die is disabled (R25, R26). -/
def Part.stackOk (p : Part) (n : Nat) : Bool := p.hbm.getLsbD n && p.dies.getLsbD (n / 2) && n < 8
/-- Island 64 times the die plus its number is exposed. -/
def Part.islandOk (p : Part) (i : Nat) : Bool := p.islands.getLsbD i && p.dies.getLsbD (i / 64) && i < 256

/-! ### Launches -/

/-- The width, height and area of a launch's region (R22). -/
def Launch.w (l : Launch) : Nat := if l.whole then 32 else 2 ^ l.lw
def Launch.h (l : Launch) : Nat := if l.whole then 48 else 2 ^ l.lh
def Launch.area (l : Launch) : Nat := l.w * l.h

/-- A tile lies in the launch's region. -/
def Launch.covers (l : Launch) (t : Nat) : Bool :=
  l.x0 ≤ tileX t && tileX t < l.x0 + l.w && l.y0 ≤ tileY t && tileY t < l.y0 + l.h

/-- The tiles of the region in region-relative order (R129). -/
def Launch.tiles (l : Launch) : List Nat :=
  (List.range l.area).map (fun i => 32 * (l.y0 + i / l.w) + l.x0 + i % l.w)

/-- The launch holds its region and sequencer: it is loading, running or being stopped. -/
def Launch.live (l : Launch) : Bool := l.phase == .running || l.phase == .stopping || l.phase == .loading

/-- The launch runs, in the sense of R99, R225 and R296: it holds its tiles and has not been saved or ended. -/
def Launch.runs (l : Launch) : Bool := l.phase == .running || l.phase == .stopping

/-- The number of the launch that sequencer `n` steers while it runs (R432 ACTIVE). -/
def State.seqLaunch (s : State) (n : Nat) : Option Nat :=
  match (s.seq n).launch with
  | none => none
  | some l => match s.launch l with
    | some v => if v.runs then some l else none
    | none => none

/-- The context of the running launch that holds a tile. -/
def State.tileCtx (s : State) (t : Nat) : Option Nat :=
  match (s.tile t).launch with
  | none => none
  | some l => match s.launch l with
    | some v => if v.runs && v.covers t then some v.ctx else none
    | none => none

/-- The context of the running launch that a sequencer steers. -/
def State.seqCtx (s : State) (n : Nat) : Option Nat :=
  match s.seqLaunch n with
  | none => none
  | some l => (s.launch l).map Launch.ctx

/-! ### Taking a fault (R424 to R431) -/

/-- The 9-bit code of a cause (R424). -/
def Cause.code : Cause → Nat
  | .cfgBadImage => 0x040
  | .cfgBadHeader => 0x041
  | .cfgBadOpcode => 0x042
  | .cfgBadWidth => 0x043
  | .cfgBadMod => 0x044
  | .cfgBadExt => 0x045
  | .cfgBadTarget => 0x046
  | .cfgBadRoute => 0x047
  | .cfgNoFit => 0x048
  | .cfgFanin => 0x049
  | .cfgModeOp => 0x04A
  | .cfgFrameRange => 0x04B
  | .cfgOrderConsumer => 0x04C
  | .cfgBadStream => 0x04D
  | .cfgBadSpill => 0x04E
  | .cfgRowChain => 0x04F
  | .cfgEventUnit => 0x050
  | .cfgPowerClass => 0x051
  | .cfgAttestFail => 0x052
  | .xltNoContext => 0x080
  | .xltNotMapped => 0x081
  | .xltPermission => 0x082
  | .xltBadEntry => 0x083
  | .xltWalkError => 0x084
  | .memBadPath => 0x090
  | .memNoncanonical => 0x091
  | .memMisaligned => 0x092
  | .memDataError => 0x093
  | .memScratchOwner => 0x094
  | .memReservedArea => 0x095
  | .memWstoreCopyOnly => 0x096
  | .memAtomicPath => 0x097
  | .memIndexBounds => 0x098
  | .memSpillBusy => 0x099
  | .memSpillFault => 0x09A
  | .memCopyDesc => 0x09B
  | .memHostTimeout => 0x09C
  | .memStorageDesc => 0x0A0
  | .memStorageError => 0x0A1
  | .memStorageTimeout => 0x0A2
  | .memTagMismatch => 0x0A3
  | .memWciVersion => 0x0A4
  | .memWciHeader => 0x0A5
  | .memNoKey => 0x0A6
  | .psnStore => 0x100
  | .psnAtomic => 0x101
  | .psnEgress => 0x102
  | .flowEosMismatch => 0x140
  | .flowControlPoison => 0x141
  | .flowStrayToken => 0x142
  | .flowStreamSource => 0x143
  | .flowStreamLength => 0x144
  | .flowBarrierState => 0x145
  | .flowWstoreRange => 0x146
  | .flowTrap => 0x147
  | .flowBreak => 0x148
  | .seqIllegal => 0x180
  | .seqFetchRange => 0x181
  | .seqBadOperand => 0x182
  | .seqNoHandler => 0x183
  | .seqBarrierRange => 0x184
  | .seqBarrierState => 0x185
  | .seqBarrierSpan => 0x186
  | .seqTrap => 0x187
  | .seqWatchdog => 0x188
  | .schBudgetOverrun => 0x1C0
  | .schDeadlineMiss => 0x1C1
  | .schQueueOverrun => 0x1C2
  | .schBindBusy => 0x1C3
  | .schPreemptFrozen => 0x1C4
  | .schSaveFault => 0x1C5
  | .schSaveCorrupt => 0x1C6
  | .schNoLaunch => 0x1C7
  | .schBindChannel => 0x1C8
  | .netProtocol => 0x1E0
  | .netNoRoute => 0x1E1
  | .netTimeout => 0x1E2
  | .netCollDesc => 0x1E3
  | .netCollMismatch => 0x1E4
  | .netCollAbort => 0x1E5
  | .evtBadKind => 0x1E8
  | .evtLateEvent => 0x1E9
  | .evtHorizonBack => 0x1EA
  | .evtStampRange => 0x1EB
  | .evtNeuronRange => 0x1EC
  | .evtFanoutRange => 0x1ED
  | .mchThermalWarn => 0x1F0
  | .mchMarginLow => 0x1F1
  | .mchFaultRing => 0x1F2
  | .mchInternal => 0x1F3

/-- The ORIGIN field (R425). -/
def Origin.code : Origin → Nat
  | .tile => 0
  | .loader => 1
  | .agn => 2
  | .seq => 3
  | .copy => 4
  | .indigo => 5
  | .island => 6
  | .storage => 7
  | .peer => 8
  | .complex => 9
  | .adapter => 10

/-- The kind bits of a token in memory and in records (R88, R89). -/
def TokKind.code : TokKind → Nat
  | .data => 0
  | .eos => 1
  | .reconf => 2

/-- A data token. -/
def Token.mk' (v : Word) (p : Bool) : Token := { data := v, kind := .data, psn := p }
def Token.eos : Token := { data := 0, kind := .eos, psn := false }
def Token.isEos (t : Token) : Bool := t.kind == .eos

/-- Byte 8 of a token in memory: KIND, and PSN in bit 2 (R89). -/
def Token.kindBits (t : Token) : Nat := t.kind.code + (if t.psn then 4 else 0)

/-- The machine context of FRTBASE (R427). -/
def State.mctx (s : State) : Nat := bits s.ctl.frtbase.toNat 39 12

/-- What a fault reports besides its cause (R425, R426). -/
structure Report where
  origin : Origin
  ctx : Option Nat
  pos : Nat
  stop : Bool := true
  cfgw : Word := 0
  addr : Word := 0
  tok0 : Option Token := none
  tok1 : Option Token := none
  tok2 : Option Token := none
  /-- The timebase replica that its agent reads; a core of the command complex by default. -/
  clock : Option Nat := none

/-- The causes whose records carry an address, a code or an event word in ADDR: XLT_, MEM_, PSN_ and EVT_ causes, the two
traps, FLOW_BREAK and FLOW_STRAY_TOKEN (R426; DEDUCED, log 31). -/
def Cause.addressed (c : Cause) : Bool :=
  let n := c.code
  (decide (0x080 ≤ n) && decide (n < 0x140)) || (decide (0x1E8 ≤ n) && decide (n < 0x1F0)) ||
    n == 0x142 || n == 0x147 || n == 0x148 || n == 0x187

/-- Taking a fault: one record is generated for the context, with its number in that context and the timebase at
detection, and waits at its origin until it is written (R425, R429). -/
def State.raise (s : State) (c : Cause) (r : Report) : State :=
  let x := r.ctx.getD s.mctx
  let ring := s.ring x
  let rec_ : FaultRec :=
    { cause := c, origin := r.origin, ctx := r.ctx, stop := r.stop, seqNo := ring.count % 2 ^ 24,
      stamp := s.replica (r.clock.getD s.coreClock), pos := r.pos, cfgw := r.cfgw,
      addr := if c.addressed then r.addr else 0, tok0 := r.tok0, tok1 := r.tok1, tok2 := r.tok2, refused := false }
  { s.setRing x { ring with count := ring.count + 1 } with records := s.records ++ [rec_] }

/-- A record from these origins waits at its origin for room in the ring; one from any other is dropped (R429). -/
def Origin.waits : Origin → Bool
  | .tile | .loader | .agn | .seq | .adapter => true
  | _ => false

/-- A launch becomes frozen at its first stop for good, and keeps that first cause (R431, R432). -/
def State.freeze (s : State) (l : Option Nat) (c : Cause) : State :=
  match l with
  | none => s
  | some k => match s.launch k with
    | none => s
    | some v => s.setLaunch k { v with frozen := true, lcause := if v.lcause.isSome then v.lcause else some c }

/-- The word at PC of a sequencer's local memory. -/
def State.fetched (s : State) (n : Nat) : Word32 := BitVec.ofNat 32 (memNat s.mem (localLoc n (s.seq n).pc.toNat) 4)

/-- POS of a sequencer's record (R426): its number, PC, the channel of the running task, and whether none runs. -/
def State.seqPos (s : State) (n : Nat) : Nat :=
  let q := s.seq n
  n % 32 + bits q.pc.toNat 0 18 * 2 ^ 5 +
    (if q.running then bits q.msginfo.toNat 0 6 * 2 ^ 23 else 2 ^ 29)

/-- A sequencer's report: its context, position, the instruction word at PC and an address. -/
def State.seqReport (s : State) (n : Nat) (addr : Word) : Report :=
  { origin := .seq, ctx := some (s.seq n).ctxid.toNat, pos := s.seqPos n,
    cfgw := (s.fetched n).setWidth 64, addr := addr, clock := some (seqClock n) }

/-- A sequencer takes a fault: one record, and it stops at the faulting instruction, which writes nothing and is executed
again on resumption; after SEQ_TRAP it resumes at the next one (R322, R430, R432). -/
def State.seqFault (s : State) (n : Nat) (c : Cause) (addr : Word) : State :=
  let s1 := s.raise c (s.seqReport n addr)
  let q := s1.seq n
  s1.setSeq n { q with stop := some { cause := c, resume := if c = .seqTrap then q.pc + 4 else q.pc },
                       waiting := none }

/-- The running instruction faults. -/
def State.fault (s : State) (c : Cause) (addr : Word := 0) : Out := .next (s.seqFault s.curSeq c addr)

/-- Records of a sequencer that are not yet written: it stays stopped until they are (R429). -/
def State.recordWaits (s : State) (n : Nat) : Bool :=
  s.records.any (fun r => r.origin == .seq && r.pos % 32 == n % 32 && r.stop)

/-- A stopped sequencer resumes at the PC that its stop names (R432). -/
def State.resumeSeq (s : State) (n : Nat) : State :=
  let q := s.seq n
  match q.stop with
  | none => s
  | some st => if s.recordWaits n then s else s.setSeq n { q with stop := none, pc := st.resume }

/-- A read of the timebase that becomes visible: the value, and the state once the reader has been held (R21). -/
def State.readTime (s : State) (clock : Nat) : Word × State := (word (s.replica clock), s.hold)

/-! ### Messages (R302 to R306) -/

/-- Messages of a channel that are queued or on their way to its queue. -/
def Seq.onChannel (q : Seq) (c : Nat) : Nat :=
  (tabGet q.queues c []).length + (q.arriving.filter (fun m => m.ch.toNat == c)).length

/-- A channel has room for a message (R305). -/
def Seq.room (q : Seq) (c : Nat) : Bool := q.onChannel c < 16

/-- The handler entry of a channel, read whole (R304). -/
def State.handler (s : State) (n c : Nat) : Nat := memNat s.mem (localLoc n (8 * c)) 8
def entryPc (e : Nat) : Nat := 4 * bits e 0 16
def entryPrio (e : Nat) : Nat := bits e 16 3
def entryValid (e : Nat) : Bool := bits e 19 1 == 1
def entryGen (e : Nat) : BitVec 8 := BitVec.ofNat 8 (bits e 20 8)

/-- A poster that never waits posts a message (R350): it is on its way to its channel. -/
def State.post (s : State) (n : Nat) (m : Msg) : State :=
  let q := s.seq n
  s.setSeq n { q with arriving := q.arriving ++ [m] }

/-- An engine, a barrier or the complex holds a message at its source for sequencer `n` (R305; DEDUCED, log 47). -/
def State.hardPost (s : State) (n : Nat) (m : Msg) : State :=
  let q := s.seq n
  s.setSeq n { q with held := q.held ++ [m] }

/-- A hardware message for a launch goes to its sequencer, or joins the saved queue of a saved launch (R309). -/
def State.postLaunch (s : State) (l : Nat) (m : Msg) : State :=
  match s.launch l with
  | none => s
  | some v =>
    if v.live then s.hardPost v.seqn m
    else match v.saved with
      | some sv => s.setLaunch l { v with saved := some { sv with seq := { sv.seq with held := sv.seq.held ++ [m] } } }
      | none => s

/-- Region ticks charged to a work item so far: 1 for each tick that its launch has held its plane (R402). -/
def State.regCharge (s : State) (i : Item) : Nat :=
  i.chreg + (match i.launch.bind s.launch with
    | some l => if l.runs then s.now - l.joined else 0
    | none => 0)

/-- A completion message (R302, R343). -/
def hardMsg (ch : BitVec 6) (gen : BitVec 8) (src : BitVec 4) (w0 w1 w2 w3 : Word) : Msg :=
  { ch := ch, gen := gen, cause := 0, src := src, sseq := 0, w0 := w0, w1 := w1, w2 := w2, w3 := w3 }

end Sys2Proof.Machine
end

