-- ==== Sys2Proof/Machine/Xlate.lean ====
section
/-!
DEFINITION. Addresses: the paths of R33, translation of the generic and host paths (R34 to R43), the checks of each path
in the order of R472, and reading and writing what an address names.
-/
namespace Sys2Proof.Machine
open Sys2Proof

/-- What an access does to memory (R37). -/
inductive AccKind where
  | read | write | atomic
  deriving DecidableEq, Repr

/-- Who makes an access: a context, or none for Maliz firmware and the physical function; `core` for a sequencer, whose
accesses have the size rules of R332 and R333. -/
structure Who where
  ctx : Option Nat
  core : Bool := false
  deriving DecidableEq, Repr

/-- What an address names once every check has passed. -/
inductive Place where
  | mem (loc : Nat)
  | reg (off : Nat)
  | peer (pkg va : Nat)
  | host (bus : Nat)
  deriving DecidableEq, Repr

/-- The answer of a check: a value, a cause, or an agent that waits (R67). -/
inductive Res (α : Type) where
  | ok (a : α)
  | bad (c : Cause)
  | wait
  deriving DecidableEq, Repr

/-! ### R33 -/

def pathOf (a : Word) : Nat := bits a.toNat 60 4
def tileOfAddr2 (a : Word) : Nat := bits a.toNat 15 11
def tileOfAddr3 (a : Word) : Nat := bits a.toNat 17 11
/-- Island 64 times the die plus its number of a path-0x1 address. -/
def islandOfAddr (a : Word) : Nat := bits a.toNat 50 8
def seqOfAddr (a : Word) : Nat := bits a.toNat 18 5

/-- The layout of R33: a nonzero bit that must be zero, a number out of range or a disabled unit is noncanonical. -/
def State.checkPath (s : State) (a : Word) : Option Cause :=
  let v := a.toNat
  let need (ok : Bool) : Option Cause := if ok then none else some .memNoncanonical
  match pathOf a with
  | 0 => need (bits v 52 8 == 0)
  | 1 => need (bits v 58 2 == 0 && bits v 20 30 == 0 && s.part.islandOk (islandOfAddr a))
  | 2 => need (bits v 26 34 == 0 && bits v 0 15 < 24576 && s.part.tileOk (tileOfAddr2 a))
  | 3 => need (bits v 28 32 == 0 && bits v 0 17 < 98304 && s.part.tileOk (tileOfAddr3 a))
  | 4 => need (bits v 23 37 == 0 && s.part.seqOk (seqOfAddr a))
  | 5 => need (bits v 48 12 == 0)
  | 6 => need (bits v 58 2 == 0)
  | 7 => need (bits v 52 8 == 0)
  | _ => some .memBadPath

/-! ### R28 to R38 -/

/-- Bytes that stack `n` exposes (R28, R30). -/
def Part.stackBytes (p : Part) (n : Nat) : Nat :=
  if p.stackOk n then (if p.half.getLsbD n then 183105 else 366210) * 131072 else 0

/-- A range of device physical addresses lies in the exposed frames of one stack (R36). -/
def Part.dpaOk (p : Part) (a size : Nat) : Bool := a < 2 ^ 39 && a % 2 ^ 36 + size ≤ p.stackBytes (a / 2 ^ 36)

/-- A byte's granule holds poison (R471), or its frame of main memory is not clean (R57). -/
def State.granulePoison (s : State) (loc : Nat) : Bool := s.poison.contains (loc / 16)
def State.frame (s : State) (loc : Nat) : Nat := if loc < 2 ^ 39 then (tabGet s.frameState (loc / 131072) 0).toNat else 0

/-- The cause that reading `n` bytes raises at a sequencer (R32, R57, R471), first byte first. -/
def State.dataError (s : State) (loc : Nat) : Nat → Option Cause
  | 0 => none
  | n + 1 =>
    if s.granulePoison loc then some .memDataError
    else match s.frame loc with
      | 1 => some .memTagMismatch
      | 2 => some .memDataError
      | _ => s.dataError (loc + 1) n

/-- The levels of a table below its root: lowest index bit, index bits, and log2 of the next table's alignment. -/
def walkLevels : List (Nat × Nat × Nat) := [(40, 12, 12), (31, 9, 8), (26, 5, 8), (21, 5, 7), (17, 4, 0)]

/-- The walk of a table at DPA `table` (R35, R36): log2 and base of the page, and RD, WR and AT. -/
def State.walk (s : State) (host : Bool) (va table : Nat) :
    List (Nat × Nat × Nat) → Except Cause (Nat × Nat × Bool × Bool × Bool)
  | [] => .error .xltBadEntry
  | (lo, n, al) :: rest =>
    let at_ := dpaLoc (table + 8 * bits va lo n)
    if (s.dataError at_ 8).isSome then .error .xltWalkError
    else
      let e := memNat s.mem at_ 8
      let leaf := bits e 1 1 == 1
      let addr := e / 128 * 128
      if bits e 0 1 = 0 then .error .xltNotMapped
      else if bits e 5 2 ≠ 0 then .error .xltBadEntry
      else if leaf then
        if lo = 40 ∨ (bits e 4 1 = 1 ∧ bits e 2 2 ≠ 3) ∨ addr % 2 ^ lo ≠ 0 ∨ (!host && !s.part.dpaOk addr (2 ^ lo)) then
          .error .xltBadEntry
        else .ok (lo, addr, bits e 2 1 == 1, bits e 3 1 == 1, bits e 4 1 == 1)
      else if bits e 2 3 ≠ 0 ∨ al = 0 ∨ addr % 2 ^ al ≠ 0 ∨ !s.part.dpaOk addr (2 ^ al) then .error .xltBadEntry
      else s.walk host va addr rest

/-- The place of a context's table entry, and its words 0 and 1; the others read as zero whatever they hold (R34). -/
def State.ctxLoc (s : State) (ctx : Nat) : Nat := dpaLoc (s.ctxBase + 32 * (ctx % 4096))
def State.ctxWord (s : State) (ctx w : Nat) : Nat := if w < 2 then memNat s.mem (s.ctxLoc ctx + 8 * w) 8 else 0

/-- A context's V bit (R34). -/
def State.ctxValid (s : State) (ctx : Nat) : Bool := s.ctxWord ctx 0 % 2 == 1

/-- The root of a context (R34), held to the checks of R36: an uncorrectable error in the entry is one in the walk (R32). The
reserved bits of a word are tested when an access uses that word's root, word 0's for generic accesses and word 1's for
host accesses (DESIGN CHOICE, log 42). -/
def State.root (s : State) (ctx : Nat) (host : Bool) : Except Cause Nat :=
  let w0 := s.ctxWord ctx 0
  let w1 := s.ctxWord ctx 1
  let r := (if host then w1 else w0) / 2 ^ 15 * 2 ^ 15
  if (s.dataError (s.ctxLoc ctx) 16).isSome then .error .xltWalkError
  else if bits w0 0 1 = 0 then .error .xltNoContext
  else if host && bits w1 0 1 = 0 then .error .xltNotMapped
  else if host && (bits w1 6 9 ≠ 0 || 17 ≤ bits w1 1 5) then .error .xltBadEntry
  else if !host && bits w0 1 14 ≠ 0 then .error .xltBadEntry
  else if !s.part.dpaOk r 32768 then .error .xltBadEntry
  else .ok r

/-- The PCIe function of a context's host path (R34). -/
def State.ctxFunc (s : State) (ctx : Nat) : Nat := bits (s.ctxWord ctx 1) 1 5

/-- A fresh translation of a virtual address (R34 to R36, R41). -/
def State.translate (s : State) (ctx : Nat) (host : Bool) (va : Nat) : Except Cause TlbEntry :=
  match s.root ctx host with
  | .error c => .error c
  | .ok r => match s.walk host va r walkLevels with
    | .error c => .error c
    | .ok (lo, base, rd, wr, at_) =>
      .ok { ctx := ctx, host := host, va := va / 2 ^ lo * 2 ^ lo, log2 := lo, base := base, rd := rd, wr := wr, at_ := at_ }

/-- The entry of a TLB that maps a virtual address. -/
def tlbFind (tlb : List TlbEntry) (ctx : Nat) (host : Bool) (va : Nat) : Option TlbEntry :=
  tlb.find? (fun e => e.ctx == ctx && e.host == host && va / 2 ^ e.log2 * 2 ^ e.log2 == e.va)

/-- A new entry enters a TLB of `cap` entries; the oldest leaves when it is full (DESIGN CHOICE, log 11). -/
def tlbAdd (cap : Nat) (tlb : List TlbEntry) (e : TlbEntry) : List TlbEntry :=
  (if cap ≤ tlb.length then tlb.drop 1 else tlb) ++ [e]

/-- The permission that an access needs (R37). -/
def TlbEntry.allows (e : TlbEntry) : AccKind → Bool
  | .read => e.rd
  | .write => e.wr
  | .atomic => e.rd && e.wr && e.at_

/-- Translation through a TLB: the physical address, and the TLB after it (R39 to R42). An access that its entry does not permit
walks anew, so that the retry of one that was refused walks (R46; R42 allows the old translation and the new one;
DESIGN CHOICE, log 11). -/
def State.xlate (s : State) (cap : Nat) (tlb : List TlbEntry) (ctx : Nat) (host : Bool) (va : Nat) (k : AccKind) :
    Except Cause Nat × List TlbEntry :=
  let use (e : TlbEntry) (t : List TlbEntry) : Except Cause Nat × List TlbEntry :=
    if e.allows k then (.ok (e.base + va % 2 ^ e.log2), t) else (.error .xltPermission, t)
  let fresh (t : List TlbEntry) : Except Cause Nat × List TlbEntry := match s.translate ctx host va with
    | .error c => (.error c, t)
    | .ok e => use e (tlbAdd cap t e)
  match tlbFind tlb ctx host va with
  | some e => if e.allows k then use e tlb else fresh (tlb.filter (fun x => x != e))
  | none => fresh tlb

/-! ### The checks of an access, in the order of R472 -/

/-- A block of island scratch is the STQLOC block of a port (R53). -/
def State.reserved (s : State) (isl blk : Nat) : Bool :=
  [s.ctl.stq0, s.ctl.stq1].any (fun q =>
    bits q.toNat 12 1 == 1 && bits q.toNat 0 2 * 64 + bits q.toNat 2 6 == isl && bits q.toNat 8 4 == blk)

/-- R67, R68: an access to island scratch. -/
def State.checkIsland (s : State) (ctx : Option Nat) (a : Word) : Res Place :=
  let i := islandOfAddr a
  let off := bits a.toNat 0 20
  let blk := off / 65536
  let isl := s.island i
  let own := tabGet isl.own blk 0
  if isl.busy then .wait
  else if s.reserved i blk then .bad .memReservedArea
  else if isl.scr.toNat ≤ blk then .bad .memNoncanonical
  else match ctx with
    | none => .ok (.mem (islandLoc i off))
    | some c =>
      if own.getLsbD 12 && bits own.toNat 0 12 == c then .ok (.mem (islandLoc i off)) else .bad .memScratchOwner

/-- An address of a page that holds a spill ring of a resident configuration (R105). -/
def State.spillBusy (s : State) (dpa : Nat) : Bool :=
  s.launches.any (fun l => l.2.spillPages.any (fun p => p.1 ≤ dpa && dpa < p.1 + p.2))

/-- A tile or a sequencer is held by a running launch of the accessing context (R99, R225, R296). -/
def ownerOk (ctx owner : Option Nat) : Bool :=
  match ctx with
  | none => true
  | some c => owner == some c

/-- The event unit of a tile is in the middle of a step: an access that touches a neuron record waits (R265). -/
def State.bankBusy (s : State) (t : Nat) : Bool := (s.tile t).events.busy.isSome

/-- The parts of `n` bytes at an address that lie in one 128 KiB-aligned span each; `fuel` bounds their number (R38). -/
def spanParts : Nat → Word → Nat → List (Word × Nat)
  | 0, _, _ => []
  | fuel + 1, a, n =>
    let left := 131072 - a.toNat % 131072
    if n = 0 then [] else if n ≤ left then [(a, n)] else (a, left) :: spanParts fuel (a + word left) (n - left)

/-- Every check of one access but the data's, in the order of R472, with the TLB it leaves. -/
def State.check (s : State) (who : Who) (cap : Nat) (tlb : List TlbEntry) (k : AccKind) (a : Word) (n : Nat) :
    Res Place × List TlbEntry :=
  let v := a.toNat
  let p := pathOf a
  let owned (owner : Option Nat) (loc : Nat) : Res Place :=
    if ownerOk who.ctx owner then .ok (.mem loc) else .bad .memScratchOwner
  match s.checkPath a with
  | some c => (.bad c, tlb)
  | none =>
    if who.core && (v % n != 0 || (p == 5 && n != 8)) then (.bad .memMisaligned, tlb)
    else if who.core && p == 3 then (.bad .memWstoreCopyOnly, tlb)
    else if k = .atomic ∧ (p = 5 ∨ p = 7) then (.bad .memAtomicPath, tlb)
    else match p with
      | 1 => (s.checkIsland who.ctx a, tlb)
      | 2 =>
        if s.bankBusy (tileOfAddr2 a) && 8192 ≤ bits v 0 15 then (.wait, tlb)
        else (owned (s.tileCtx (tileOfAddr2 a)) (scratchLoc (tileOfAddr2 a) (bits v 0 15)), tlb)
      | 3 =>
        if s.bankBusy (tileOfAddr3 a) && 65536 ≤ bits v 0 17 && bits v 0 17 < 81920 then (.wait, tlb)
        else (owned (s.tileCtx (tileOfAddr3 a)) (weightLoc (tileOfAddr3 a) (bits v 0 17)), tlb)
      | 4 => (owned (s.seqCtx (seqOfAddr a)) (localLoc (seqOfAddr a) (bits v 0 18)), tlb)
      | 5 => (.ok (.reg (bits v 0 48)), tlb)
      | 6 => (.ok (.peer (bits v 52 6) (bits v 0 52)), tlb)
      | _ =>
        match s.xlate cap tlb (who.ctx.getD s.mctx) (p == 7) (bits v 0 52) k with
        | (.error c, t) => (.bad c, t)
        | (.ok x, t) =>
          if p = 7 then (.ok (.host x), t)
          else if s.spillBusy x then (.bad .memSpillBusy, t)
          else (.ok (.mem (dpaLoc x)), t)

/-- The checks of an access of `n` bytes, once for each 128 KiB span that it touches: the parts with what they name, or the
cause and address of the lowest part that faults (R38). -/
def State.checkParts (s : State) (who : Who) (cap : Nat) (k : AccKind) :
    List TlbEntry → List (Word × Nat) → Except (Option (Cause × Word)) (List (Place × Nat)) × List TlbEntry
  | tlb, [] => (.ok [], tlb)
  | tlb, (a, n) :: r =>
    match s.check who cap tlb k a n with
    | (.wait, t) => (.error none, t)
    | (.bad c, t) => (.error (some (c, a)), t)
    | (.ok p, t) => match s.checkParts who cap k t r with
      | (.ok ps, u) => (.ok ((p, n) :: ps), u)
      | e => e

/-- An access of `n` bytes at `a`, in its spans (R38). -/
def State.checkSpans (s : State) (who : Who) (cap : Nat) (tlb : List TlbEntry) (k : AccKind) (a : Word) (n : Nat) :
    Except (Option (Cause × Word)) (List (Place × Nat)) × List TlbEntry :=
  s.checkParts who cap k tlb (spanParts 3 a n)

/-! ### Reading and writing stores -/

/-- Stores bytes; granules that they cover whole lose their poison (R471). -/
def State.storeBytes (s : State) (loc : Nat) (bs : List Byte) : State :=
  { s with mem := memPut s.mem loc bs,
           poison := s.poison.filter (fun g => !(decide (loc ≤ 16 * g) && decide (16 * g + 16 ≤ loc + bs.length))) }

/-- Stores bytes over the parts of an access that lie in memory (R38). -/
def State.storeParts (s : State) : List (Nat × Nat) → List Byte → State
  | [], _ => s
  | (loc, n) :: r, bs => State.storeParts (s.storeBytes loc (bs.take n)) r (bs.drop n)

/-- The bytes of the parts of an access that lie in memory (R38). -/
def State.loadParts (s : State) (ps : List (Nat × Nat)) : List Byte := ps.flatMap (fun p => memBytes s.mem p.1 p.2)

/-- Stores a little-endian number of `n` bytes. -/
def State.storeNat (s : State) (loc n v : Nat) : State := s.storeBytes loc (leBytes n v)

/-- The tile scratch granule of a location becomes full, or empty (R97, R98). -/
def State.setFull (s : State) (tile g : Nat) (v : Bool) : State :=
  let k := tile * 1536 + g
  let rest := s.full.filter (· != k)
  { s with full := if v then k :: rest else rest }
def State.isFull (s : State) (tile g : Nat) : Bool := s.full.contains (tile * 1536 + g)

/-! ### Uncorrectable errors (R32, R471) -/

/-- The island that serves a location of main memory or island scratch: 64 times the die plus its number (R18, R29, R30). -/
def State.islandAt (s : State) (loc : Nat) : Nat :=
  if 2 ^ 64 ≤ loc then (loc - 2 ^ 64) / 2 ^ 20 % 256
  else
    let n := loc / 2 ^ 36 % 8
    let u := loc % 2 ^ 36 / 4096
    let j := if s.part.half.getLsbD n then 16 * (s.part.halfSel.getLsbD n).toNat + Nat.xor (u % 16) (u / 16 % 16)
      else Nat.xor (u % 32) (u / 32 % 32)
    64 * (n / 2) + 32 * (n % 2) + j

/-- The island's record of an uncorrectable error that a read for a context has met (R32). -/
def State.islandRecord (s : State) (ctx loc : Nat) (addr : Word) : State :=
  let i := s.islandAt loc
  s.raise .memDataError
    { origin := .island, ctx := some ctx, pos := i / 64 + i % 64 * 4, stop := false, addr := addr, clock := some (4 * (i / 64)) }

/-- The bytes at a location, whether they arrive poisoned, and the state with the island's record (R32, R57, R471). -/
def State.engineRead (s : State) (ctx loc n : Nat) (addr : Word) : List Byte × Bool × State :=
  let gran := (List.range n).any (fun i => s.granulePoison (loc + i))
  (memBytes s.mem loc n, (s.dataError loc n).isSome, if gran then s.islandRecord ctx loc addr else s)

/-- What a read of `n` bytes at an address under a context leaves besides its bytes: the island's record of an uncorrectable error
(R32). -/
def State.noteError (s : State) (ctx : Nat) (a : Word) (n : Nat) : State :=
  match (s.check { ctx := some ctx } 0 [] .read a n).1 with
  | .ok (.mem l) => (s.engineRead ctx l n a).2.2
  | _ => s

end Sys2Proof.Machine
end

