-- ==== Sys2Proof/Machine/SeqControl.lean ====
section
/-!
DEFINITION. A sequencer's branches and jumps (R329, R331), its system instructions (R355 to R359) and the control and
status registers (R299 to R303).
-/
namespace Sys2Proof.Machine
open Sys2Proof

/-! ### Branches and jumps -/

/-- The target of a format-B branch: the instruction's own offset plus four times the signed word count (R314). -/
def branchTarget (pc : Word) (off : BitVec 16) : Word := pc + 4 * off.signExtend 64

/-- A conditional branch (R329). -/
def State.branch (s : State) (rs1 rs2 : Reg) (off : BitVec 16) (test : Word → Word → Bool) : Out :=
  let q := s.cur
  if test (q.rd rs1) (q.rd rs2) then .next (s.setCur { q with pc := branchTarget q.pc off }) else .next (s.retire q)

/-- BEQ (R329). -/
def execBeq (rs1 rs2 : Reg) (off : BitVec 16) (s : State) : Out := s.branch rs1 rs2 off (fun a b => a == b)

/-- BNE (R329). -/
def execBne (rs1 rs2 : Reg) (off : BitVec 16) (s : State) : Out := s.branch rs1 rs2 off (fun a b => a != b)

/-- BLT (R329). -/
def execBlt (rs1 rs2 : Reg) (off : BitVec 16) (s : State) : Out :=
  s.branch rs1 rs2 off (fun a b => decide (a.toInt < b.toInt))

/-- BGE (R329). -/
def execBge (rs1 rs2 : Reg) (off : BitVec 16) (s : State) : Out :=
  s.branch rs1 rs2 off (fun a b => decide (b.toInt ≤ a.toInt))

/-- BLTU (R329). -/
def execBltu (rs1 rs2 : Reg) (off : BitVec 16) (s : State) : Out :=
  s.branch rs1 rs2 off (fun a b => decide (a.toNat < b.toNat))

/-- BGEU (R329). -/
def execBgeu (rs1 rs2 : Reg) (off : BitVec 16) (s : State) : Out :=
  s.branch rs1 rs2 off (fun a b => decide (b.toNat ≤ a.toNat))

/-- JAL (R331). -/
def execJal (rd : Reg) (off : BitVec 21) (s : State) : Out :=
  let q := s.cur
  .next (s.setCur { q.wr rd (q.pc + 4) with pc := q.pc + 4 * off.signExtend 64 })

/-- JALR: the target comes from the old value of rs1 (R331). -/
def execJalr (rd rs1 : Reg) (imm : BitVec 16) (s : State) : Out :=
  let q := s.cur
  .next (s.setCur { q.wr rd (q.pc + 4) with pc := q.rd rs1 + imm.signExtend 64 })

/-! ### Control and status registers -/

/-- PENDING: bit c is set when channel c holds a message (R299). -/
def Seq.pending (q : Seq) : Word :=
  (List.range 64).foldl (fun a c => if (tabGet q.queues c []).isEmpty then a else a ||| (1#64 <<< c)) 0

/-- BARSTATE of the barrier that BARSEL names (R303). -/
def Seq.barstate (q : Seq) : Word :=
  let b := tabGet q.barriers q.barsel.toNat Barrier.reset
  word (b.rem.toNat + b.ch.toNat * 2 ^ 32 + b.phase.toNat * 2 ^ 38 + b.init.toNat * 2 ^ 46 + b.span.toNat * 2 ^ 47 +
    (if b.span then b.spid.toNat * 2 ^ 48 else 0))

/-- BUDGET: what is left of its launch's budget, in two's complement (R299, R402). -/
def State.budget (s : State) (n : Nat) : Word :=
  match (s.seq n).launch with
  | none => 0
  | some l => match s.launch l with
    | none => 0
    | some v => match s.item v.item with
      | none => 0
      | some i => BitVec.ofInt 64 ((i.budget : Int) - (s.regCharge i : Int) - (i.cheng : Int))

/-- The value of a control and status register; none for a number that R299 does not list. -/
def State.csr (s : State) (n c : Nat) : Option Word :=
  let q := s.seq n
  let ring := s.ring q.ctxid.toNat
  match c with
  | 0x00 => some (q.sr.setWidth 64)
  | 0x01 => some (word (s.replica (seqClock n)))
  | 0x02 => some (q.ctxid.setWidth 64)
  | 0x03 => some (word (n % 32))
  | 0x04 => some (q.region.setWidth 64)
  | 0x05 => some (s.budget n)
  | 0x06 => some (q.msginfo.setWidth 64)
  | 0x07 => some (q.defch.setWidth 64)
  | 0x08 => some (q.codelim.setWidth 64)
  | 0x09 => some q.pending
  | 0x0A => some q.drops
  | 0x10 => some (q.barsel.setWidth 64)
  | 0x11 => some q.barstate
  | 0x18 => some (ring.pi.setWidth 64)
  | 0x19 => some (ring.ci.setWidth 64)
  | 0x1A => some (word ring.lost.toNat)
  | _ => none

/-- A write of CI that would put it ahead of PI or behind its present value is ignored (R428). -/
def FaultRing.setCi (r : FaultRing) (v : BitVec 32) : FaultRing :=
  if (v - r.ci).toNat ≤ (r.pi - r.ci).toNat then { r with ci := v } else r

/-- A write of a control and status register; a read-only one ignores it (R299, R357). -/
def State.csrWrite (s : State) (n c : Nat) (v : Word) : State :=
  let q := s.seq n
  let x := q.ctxid.toNat
  match c with
  | 0x00 => s.setSeq n { q with sr := v.setWidth 6 }
  | 0x07 => s.setSeq n { q with defch := v.setWidth 6 }
  | 0x10 => if bits v.toNat 0 7 < 96 then s.setSeq n { q with barsel := v.setWidth 7 } else s
  | 0x19 => s.setRing x ((s.ring x).setCi (v.setWidth 32))
  | 0x1A => if v.getLsbD 0 then s.setRing x { s.ring x with lost := false } else s
  | _ => s

/-- WDOG: bits 63:40 are reserved; 0 disarms (R325, R359). -/
def execWdog (rs1 : Reg) (s : State) : Out :=
  let v := (s.cur.rd rs1).toNat
  if 2 ^ 40 ≤ v then s.fault .seqBadOperand
  else .next (s.retire { s.cur with wdog := if v = 0 then none else some v, wdogDue := false })

/-- TRAP: a record with the code, and a stop that resumes at PC + 4 (R355). -/
def execTrap (code : BitVec 8) (s : State) : Out := s.fault .seqTrap (code.setWidth 64)

/-- The task ends and its watchdog is disarmed (R352). -/
def Seq.endTask (q : Seq) : Seq := { q with running := false, wdog := none, wdogDue := false }

/-- TEND (R352). -/
def execTend (s : State) : Out := .next (s.setCur s.cur.endTask)

/-- ERET: posts g1 to g4 to MSGINFO.CH with that channel's present GEN and SRC 0, and ends the task; a full queue holds the message,
and so does an earlier one that is still held for the channel (R308, R356). -/
def execEret (s : State) : Out :=
  let q := s.cur
  if bits q.msginfo.toNat 14 9 ≠ Cause.seqNoHandler.code then s.fault .seqIllegal
  else
    let c := bits q.msginfo.toNat 0 6
    let m : Msg :=
      { ch := BitVec.ofNat 6 c, gen := entryGen (s.handler s.curSeq c), cause := 0, src := 0,
        sseq := BitVec.ofNat 5 s.curSeq, w0 := q.rd 1, w1 := q.rd 2, w2 := q.rd 3, w3 := q.rd 4 }
    let s1 := s.setCur q.endTask
    .next (if q.room c && !q.held.any (fun h => h.ch.toNat == c) then s1.post s.curSeq m else s1.hardPost s.curSeq m)

end Sys2Proof.Machine
end

