-- ==== Sys2Proof/Machine/SeqChan.lean ====
section
/-!
DEFINITION. Channels, messages and tasks (R304 to R308, R350, R351), and named and spanning barriers (R310 to R313,
R347 to R349).
-/
namespace Sys2Proof.Machine
open Sys2Proof

/-! ### Barriers -/

def Seq.barrier (q : Seq) (b : Nat) : Barrier := tabGet q.barriers b Barrier.reset
def Seq.setBarrier (q : Seq) (b : Nat) (v : Barrier) : Seq := { q with barriers := tabPut q.barriers b v }

/-- The phases that an arrival of weight `n` completes, and REM after it: the surplus counts into fresh phases (R311). -/
def arrival (b : Barrier) (n : Nat) : Nat × BitVec 32 :=
  let left : Int := (b.rem.toNat : Int) - (n : Int)
  if 0 < left then (0, BitVec.ofInt 32 left)
  else
    let k := left.natAbs / b.count.toNat + 1
    (k, BitVec.ofInt 32 (left + (k * b.count.toNat : Nat)))

/-- A completion message of a barrier (R312). -/
def barrierMsg (ch : BitVec 6) (gen : BitVec 8) (bar phase : Nat) (t span : Word) : Msg :=
  hardMsg ch gen 4 (word (bar % 128 + phase % 256 * 2 ^ 8)) t span 0

/-- One arrival of weight `n` at barrier `bar` of sequencer `sq` (R310, R311): a bound barrier reports its phases to the
barrier network, any other posts one message for each (R313). -/
def State.arrive (s : State) (sq bar n : Nat) : State :=
  let q := s.seq sq
  let b := q.barrier bar
  let (k, rem) := arrival b n
  let s1 := s.setSeq sq (q.setBarrier bar { b with rem := rem, phase := b.phase + BitVec.ofNat 8 k })
  if k = 0 then s1
  else if b.span then
    let sp := b.spid.toNat
    match tabFind s1.spans sp with
    | none => s1
    | some v =>
      let hit (m : SpanMember) : Bool := m.bar == bar && some m.launch == q.launch
      let ms := v.members.map (fun m => if hit m then { m with reported := m.reported + k } else m)
      { s1 with spans := tabPut s1.spans sp { v with members := ms } }
  else
    let (t, s2) := s1.readTime (seqClock sq)
    (List.range k).foldl
      (fun st i => st.hardPost sq (barrierMsg b.ch b.gen bar (b.phase.toNat + i) t (BitVec.allOnes 64))) s2

/-- A barrier number at or above the launch's count (R310, R336). -/
def State.barRange (s : State) (bar : BitVec 8) : Bool := s.cur.nb.toNat ≤ bar.toNat

/-- BARINIT (R310, R347). -/
def execBarinit (rs1 : Reg) (bar : BitVec 8) (s : State) : Out :=
  let q := s.cur
  let v := (q.rd rs1).toNat
  let ch := bits v 32 6
  if s.barRange bar then s.fault .seqBarrierRange
  else if 2 ^ 38 ≤ v ∨ bits v 0 32 = 0 ∨ q.nch.toNat ≤ ch then s.fault .seqBadOperand
  else if (q.barrier bar.toNat).span then s.fault .seqBarrierSpan
  else
    let c : BitVec 32 := BitVec.ofNat 32 v
    .next (s.retire (q.setBarrier bar.toNat
      { rem := c, count := c, ch := BitVec.ofNat 6 ch, phase := 0, init := true, span := false, spid := 0,
        gen := entryGen (s.handler s.curSeq ch) }))

/-- BARRIVE: `g0` means weight 1 (R348). -/
def execBarrive (rs1 : Reg) (bar : BitVec 8) (s : State) : Out :=
  let q := s.cur
  let v := if rs1 = 0 then 1 else (q.rd rs1).toNat
  if s.barRange bar then s.fault .seqBarrierRange
  else if 2 ^ 32 ≤ v ∨ v = 0 then s.fault .seqBadOperand
  else if !(q.barrier bar.toNat).init then s.fault .seqBarrierState
  else .next ((s.retire q).arrive s.curSeq bar.toNat v)

/-- BARBIND (R313, R349). -/
def execBarbind (rs1 : Reg) (bar : BitVec 8) (s : State) : Out :=
  let q := s.cur
  let v := (q.rd rs1).toNat
  let sp := bits v 0 8
  let m := bits v 8 6
  let b := q.barrier bar.toNat
  if s.barRange bar then s.fault .seqBarrierRange
  else if 2 ^ 14 ≤ v then s.fault .seqBadOperand
  else if !b.init then s.fault .seqBarrierState
  else if m < 2 ∨ 32 < m then s.fault .seqBadOperand
  else
    let old := tabGet s.spans sp { ctx := q.ctxid.toNat, m := m, members := [], done := 0 }
    if b.span ∨ old.ctx ≠ q.ctxid.toNat ∨ old.m ≠ m ∨ m ≤ old.members.length then s.fault .seqBarrierSpan
    else
      let g := entryGen (s.handler s.curSeq b.ch.toNat)
      let mem : SpanMember :=
        { launch := q.launch.getD 0, bar := bar.toNat, ch := b.ch, gen := g, reported := old.done,
          base := b.phase.toNat + 255 * old.done }
      let q1 := q.setBarrier bar.toNat { b with span := true, spid := BitVec.ofNat 8 sp, gen := g }
      .next { s.retire q1 with spans := tabPut s.spans sp { old with members := old.members ++ [mem] } }

/-- The message of an earlier phase of a span is still held for a member's channel, so that its arrival for the next phase does
not count yet (R305, R456); one that has joined a saved launch's queue has posted (R313). -/
def State.spanHeld (s : State) (span : Nat) (m : SpanMember) : Bool :=
  (s.launch m.launch).any (fun l =>
    l.live && (s.seq l.seqn).held.any (fun k => k.src == 4 && k.ch == m.ch && bits k.w0.toNat 0 7 == m.bar && k.w2 == word span))

/-- SPAN_PHASE_COMPLETE: once all m members have reported the next phase, each one's channel gets its message (R313, R456). -/
def execSpanPhaseComplete (span : Nat) (s : State) : Out :=
  match tabFind s.spans span with
  | none => .next s
  | some v =>
    if v.members.length = v.m ∧ v.members.all (fun m => v.done < m.reported && !s.spanHeld span m) = true then
      let (t, s1) := s.readTime s.coreClock
      let s2 := v.members.foldl
        (fun st m => st.postLaunch m.launch (barrierMsg m.ch m.gen m.bar (m.base + v.done) t (word span))) s1
      .next { s2 with spans := tabPut s2.spans span { v with done := v.done + 1 } }
    else .next s

/-- A launch's end unbinds its barriers; a span is free once it has no member (R313). -/
def State.unbindSpans (s : State) (l : Nat) : State :=
  let left := s.spans.map (fun p => (p.1, { p.2 with members := p.2.members.filter (fun m => m.launch != l) }))
  { s with spans := left.filter (fun p => !p.2.members.isEmpty) }

/-! ### Channels -/

/-- A message that sequencer `n` has posted by ERET (R356). -/
def postedBy (m : Msg) (n : Nat) : Bool := m.src == 0 && m.sseq.toNat == n

/-- Messages that sequencer `p` holds for channel `c` set out first, as far as there is room: they start before a message that
it posts now (R308). -/
def Seq.releaseHeld (q : Seq) (p c : Nat) : Seq :=
  let mine (m : Msg) : Bool := postedBy m p && m.ch.toNat == c
  let go := (q.held.filter mine).take (16 - q.onChannel c)
  { q with held := go.foldl (fun h m => h.erase m) q.held, arriving := q.arriving ++ go }

/-- The queue whose work runs on sequencer `n` (R383). -/
def State.seqQueue (s : State) (n : Nat) : Option Nat := (((s.seqLaunch n).bind s.launch).bind (fun l => s.item l.item)).map Item.queue

/-- CHPOST never waits: 0 posted, 1 the queue is full, 2 no such target (R350). -/
def execChpost (rd rs1 : Reg) (self : Bool) (ch : BitVec 6) (s : State) : Out :=
  let q := s.cur
  let t := (q.rd rd).toNat
  let n := if self then s.curSeq else t
  if 29 ≤ rs1.toNat then s.fault .seqBadOperand
  else if !self && 32 ≤ t then s.fault .seqBadOperand
  else if !self && s.seqCtx n != some q.ctxid.toNat || (s.seq n).nch.toNat ≤ ch.toNat then .next (s.result rd 2)
  else
    let s1 := s.setSeq n ((s.seq n).releaseHeld s.curSeq ch.toNat)
    let p (i : Nat) : Word := if rs1 = 0 then 0 else q.rd (rs1 + BitVec.ofNat 5 i)
    let m : Msg :=
      { ch := ch, gen := entryGen (s.handler n ch.toNat), cause := 0, src := 0, sseq := BitVec.ofNat 5 s.curSeq,
        w0 := p 0, w1 := p 1, w2 := p 2, w3 := p 3, work := s.seqQueue s.curSeq }
    .next (if (s1.seq n).room ch.toNat then (s1.result rd 0).post n m else s1.result rd 1)

/-- CHBIND exchanges a handler entry (R304, R351). -/
def execChbind (rd rs1 : Reg) (ch : BitVec 6) (s : State) : Out :=
  let q := s.cur
  if q.nch.toNat ≤ ch.toNat then s.fault .seqBadOperand
  else
    .next ((s.storeNat (localLoc s.curSeq (8 * ch.toNat)) 8 (q.rd rs1).toNat).result rd
      (word (s.handler s.curSeq ch.toNat)))

/-- What a check of a message answers (R306). -/
inductive MsgCheck where
  /-- It stays or starts its task. -/
  | good
  /-- It moves to channel DEFCH, with its new generation and cause. -/
  | redirect (m : Msg)
  /-- Neither channel has a handler: a record, and it is discarded. -/
  | noHandler
  /-- Its generation is stale: it is discarded and counted. -/
  | drop
  deriving DecidableEq, Repr

/-- R306, for a message that stands on channel `c` of sequencer `n`. -/
def State.checkMsg (s : State) (n c : Nat) (m : Msg) : MsgCheck :=
  let q := s.seq n
  let e := s.handler n c
  let d := s.handler n q.defch.toNat
  if !entryValid e then
    if entryValid d then
      .redirect { m with gen := entryGen d, cause := BitVec.ofNat 9 Cause.seqNoHandler.code }
    else .noHandler
  else if m.gen ≠ entryGen e then .drop
  else .good

def Seq.channel (q : Seq) (c : Nat) : List Msg := tabGet q.queues c []
def Seq.setChannel (q : Seq) (c : Nat) (l : List Msg) : Seq := { q with queues := tabPut q.queues c l }

/-- A dropped message is counted, up to 2^64 − 1 (R299, R306). -/
def Seq.countDrop (q : Seq) : Seq := { q with drops := if q.drops = BitVec.allOnes 64 then q.drops else q.drops + 1 }

/-- The record of a message that no handler takes stops nothing (R306, R430). -/
def State.noHandler (s : State) (n : Nat) : State := s.raise .seqNoHandler { s.seqReport n 0 with stop := false }

/-- MESSAGE_ARRIVAL: the first message on its way to its channel arrives and is checked (R305, R306; DEDUCED, log 47). A redirect
does not overtake a message of the same poster that waits in the channel (R308). -/
def execMessageArrival (seq : Nat) (msg : Msg) (s : State) : Out :=
  let q := s.seq seq
  match q.arriving.find? (fun m => m.ch == msg.ch) with
  | none => .next s
  | some m =>
    if m ≠ msg then .next s
    else
      let c := m.ch.toNat
      let q1 := { q with arriving := q.arriving.erase m }
      match s.checkMsg seq c m with
      | .good => .next (s.setSeq seq (q1.setChannel c (q1.channel c ++ [m])))
      | .drop => .next (s.setSeq seq q1.countDrop)
      | .noHandler => .next ((s.setSeq seq q1).noHandler seq)
      | .redirect r =>
        let d := q.defch.toNat
        let first := (q1.channel c).all (fun e => e.src != m.src || e.sseq != m.sseq)
        if first && q1.room d then .next (s.setSeq seq (q1.setChannel d (q1.channel d ++ [r])))
        else .next (s.setSeq seq (q1.setChannel c (q1.channel c ++ [m])))

/-- HARDWARE_POST: the first held message of some channel whose queue has room sets out for it (R305). -/
def execHardwarePost (seq : Nat) (s : State) : Out :=
  let q := s.seq seq
  match q.held.find? (fun m => q.room m.ch.toNat) with
  | none => .next s
  | some m => .next (s.setSeq seq { q with held := q.held.erase m, arriving := q.arriving ++ [m] })

/-- A channel that holds a message whose head is not waiting for room in DEFCH's queue (R306, R307). -/
def State.selectable (s : State) (n c : Nat) : Bool :=
  let q := s.seq n
  match q.channel c with
  | [] => false
  | m :: _ => match s.checkMsg n c m with
    | .redirect _ => q.defch.toNat != c && q.room q.defch.toNat
    | _ => true

/-- The channel with the highest priority among those, the lowest number first (R307). -/
def State.selectChannel (s : State) (n : Nat) : Option Nat :=
  (List.range 64).foldl
    (fun best c =>
      if s.selectable n c then
        match best with
        | none => some c
        | some b => if entryPrio (s.handler n b) < entryPrio (s.handler n c) then some c else best
      else best) none

/-- MSGINFO of a message (R302). -/
def msgInfo (m : Msg) : BitVec 32 := m.sseq ++ m.src ++ m.cause ++ m.gen ++ m.ch

/-- The sequencer steers a launch that runs and is not being stopped, and no fault or access holds it (R307, R430). -/
def State.seqFree (s : State) (n : Nat) : Bool :=
  let q := s.seq n
  q.stop.isNone && q.waiting.isNone &&
    (match q.launch with
     | none => false
     | some l => match s.launch l with
       | none => false
       | some v => v.phase == .running)

/-- The code area of a sequencer: offsets 512 to CODELIM − 1 of its local memory (R297, R298). -/
def State.codeArea (s : State) (n : Nat) : List Host.Cell :=
  s.mem.filter (fun c => decide (localLoc n 512 ≤ c.1) && decide (c.1 < localLoc n (s.seq n).codelim.toNat))

/-- TASK_START: an idle sequencer takes the head message of the selected channel, checks it and starts its task (R307). -/
def execTaskStart (seq : Nat) (s : State) : Out :=
  let q := s.seq seq
  if q.running || !s.seqFree seq then .next s
  else match s.selectChannel seq with
    | none => .next s
    | some c => match q.channel c with
      | [] => .next s
      | m :: rest =>
        let q1 := q.setChannel c rest
        match s.checkMsg seq c m with
        | .drop => .next (s.setSeq seq q1.countDrop)
        | .noHandler => .next ((s.setSeq seq q1).noHandler seq)
        | .redirect r => .next (s.setSeq seq (q1.setChannel q.defch.toNat (q1.channel q.defch.toNat ++ [r])))
        | .good =>
          let q2 := (((q1.wr 1 m.w0).wr 2 m.w1).wr 3 m.w2).wr 4 m.w3
          .next (s.setSeq seq
            { q2 with msginfo := msgInfo m, pc := word (entryPc (s.handler seq c)), running := true,
                      wdog := none, wdogDue := false, code := s.codeArea seq })

/-! ### The watchdog, and leaving a stop -/

/-- WATCHDOG_EXPIRY: raised at an instruction boundary with the PC of the next instruction (R359). -/
def execWatchdogExpiry (seq : Nat) (s : State) : Out :=
  let q := s.seq seq
  if q.wdogDue && q.running && s.seqFree seq then
    .next ((s.setSeq seq { q with wdog := none, wdogDue := false }).seqFault seq .seqWatchdog 0)
  else .next s

/-- RESUME: LCTL.RESUME restarts a stopped sequencer (R432). -/
def execResume (seq : Nat) (s : State) : Out := .next (s.resumeSeq seq)

/-- HOST_TIMEOUT: a host-path access that has waited 100,000 ticks (R323). -/
def execHostTimeout (seq : Nat) (s : State) : Out :=
  match (s.seq seq).waiting with
  | none => .next s
  | some w =>
    if w.tag.isNone && w.since + 100000 ≤ s.now then .next (s.seqFault seq .memHostTimeout w.addr) else .next s

end Sys2Proof.Machine
end

