-- ==== Sys2Proof/Machine/Network.lean ====
section
/-!
DEFINITION. Links and peer requests (R270 to R278): flits and their CRC, routes, and what the destination and the
requester do. The places of the size and of the operands in a request's payload are the model's (DESIGN CHOICE, log 16).
-/
namespace Sys2Proof.Machine
open Sys2Proof

/-! ### CRC-64/ECMA-182 (R271) -/

def crcPoly : Nat := 0x42F0E1EBA9EA3693

/-- One bit of the register, most significant first. -/
def crcBit (c : Nat) (bit : Bool) : Nat :=
  let top := c / 2 ^ 63 % 2 == 1
  let d := c * 2 % 2 ^ 64
  if top != bit then Nat.xor d crcPoly else d

def crcByte (c : Nat) (b : Byte) : Nat := [7, 6, 5, 4, 3, 2, 1, 0].foldl (fun a i => crcBit a (b.getLsbD i)) c

/-- The register after bytes in order; the match makes it a number at each byte when it is evaluated. -/
def crcRun : List Byte → Nat → Nat
  | [], c => c
  | b :: r, c => match crcByte c b with
    | 0 => crcRun r 0
    | n + 1 => crcRun r (n + 1)

/-- The CRC of bytes in order, from initial value 0. -/
def crc64 (bs : List Byte) : Nat := crcRun bs 0

end Sys2Proof.Machine

namespace Sys2Proof
open Machine

/-! ### Flits (R270) -/

def Flit.field (f : Flit) (lo n : Nat) : Nat := bits f.header.toNat lo n
def Flit.type (f : Flit) : Nat := f.field 0 4
def Flit.srcp (f : Flit) : Nat := f.field 4 6
def Flit.dstp (f : Flit) : Nat := f.field 10 6
def Flit.ctx (f : Flit) : Nat := f.field 16 12
def Flit.tag (f : Flit) : Nat := f.field 28 12
def Flit.len16 (f : Flit) : Nat := f.field 40 4
def Flit.pmask (f : Flit) : Nat := f.field 44 28
def Flit.sub (f : Flit) : Nat := f.field 72 4
def Flit.addr (f : Flit) : Nat := f.field 76 52
/-- Payload word `i`. -/
def Flit.pay (f : Flit) (i : Nat) : Nat := bits f.payload.toNat (64 * i) 64
/-- The last payload word that LEN16 covers. -/
def Flit.lastWord (f : Flit) : Nat := f.pay (2 * f.len16 - 1)
/-- Bytes 0 to 239. -/
def Flit.bytes (f : Flit) : List Byte := leBytes 16 f.header.toNat ++ leBytes 224 f.payload.toNat
def Flit.crcOk (f : Flit) : Bool := crc64 f.bytes == bits f.trailer.toNat 0 64
def Flit.seqNo (f : Flit) : Nat := bits f.trailer.toNat 64 16
def Flit.ack (f : Flit) : Nat := bits f.trailer.toNat 80 16
def Flit.nak (f : Flit) : Bool := bits f.trailer.toNat 96 1 == 1

/-- The traffic classes (R272). -/
inductive TrafficClass where
  | requests | responses | collectives
  deriving DecidableEq, Repr

/-- The class of a flit; collectives include link control (R272). -/
def Flit.cls (f : Flit) : TrafficClass :=
  if 1 ≤ f.type ∧ f.type ≤ 3 then .requests else if f.type = 4 then .responses else .collectives

end Sys2Proof

namespace Sys2Proof.Machine
open Sys2Proof

/-- The number whose 64-bit words are listed, lowest first. -/
def packWords : List Nat → Nat
  | [] => 0
  | w :: ws => w % 2 ^ 64 + 2 ^ 64 * packWords ws

/-- A flit before its trailer. -/
def mkFlit (type src dst ctx tag len16 pmask sub addr : Nat) (ws : List Nat) : Flit :=
  { header := BitVec.ofNat 128 (type + src * 2 ^ 4 + dst * 2 ^ 10 + ctx * 2 ^ 16 + tag * 2 ^ 28 + len16 * 2 ^ 40 +
      pmask * 2 ^ 44 + sub * 2 ^ 72 + addr * 2 ^ 76),
    payload := BitVec.ofNat 1792 (packWords ws), trailer := 0 }

/-! ### Ports and routes (R273, R274) -/

def State.pkg (s : State) : Nat := bits s.ctl.domid.toNat 0 6
def State.domain (s : State) : Bool := s.ctl.domid.getLsbD 6
def State.port (s : State) (p : Nat) : Port := tabGet s.net.ports p Port.reset
def State.setPort (s : State) (p : Nat) (v : Port) : State := { s with net := { s.net with ports := tabPut s.net.ports p v } }

/-- The output port toward package `q`; none where R274 names no route. -/
def State.routeTo (s : State) (q : Nat) : Option Nat :=
  let r := tabGet s.net.routes q 0
  let p := bits r.toNat 0 4
  if s.domain && r.getLsbD 4 && p < 12 && (s.port p).up && s.part.ports.getLsbD p then some p else none

end Sys2Proof.Machine

namespace Sys2Proof
open Machine

/-- Puts the trailer on a flit of port `p`: CRC, sequence number, acknowledged number and NAK (R271). -/
def Flit.seal (f : Flit) (seq ack : BitVec 16) (nak : Bool) : Flit :=
  { f with trailer := BitVec.ofNat 128 (crc64 f.bytes + seq.toNat * 2 ^ 64 + ack.toNat * 2 ^ 80 + nak.toNat * 2 ^ 96) }

end Sys2Proof

namespace Sys2Proof.Machine
open Sys2Proof

/-- A flit leaves on a port with the next sequence number and stays in the replay buffer until it is acknowledged (R271). -/
def State.transmit (s : State) (p : Nat) (f : Flit) (nak : Bool) : State :=
  let v := s.port p
  let g := f.seal (v.sent + 1) v.received nak
  let s1 := s.setPort p { v with sent := v.sent + 1, buffer := v.buffer ++ [g] }
  { s1 with sent := .flit p g :: s1.sent }

/-- A traffic class has room on a port: none of its flits waits, and it has fewer than its 85 places in the 256-flit replay buffer
(R271, R272; DESIGN CHOICE, log 16). -/
def Port.room (v : Port) (c : TrafficClass) : Bool :=
  v.pending.all (fun x => x.1.cls != c) && decide ((v.buffer.filter (fun g => g.cls == c)).length < 85)

/-- Sends a flit on a port; it waits in the order of its class while the class has no room (R271, R272). -/
def State.sendOn (s : State) (p : Nat) (f : Flit) (nak : Bool := false) : State :=
  let v := s.port p
  if v.room f.cls then s.transmit p f nak else s.setPort p { v with pending := v.pending ++ [(f, nak)] }

/-- The flits that wait and now find room leave. -/
def State.pump (s : State) (p : Nat) : State :=
  let v := s.port p
  v.pending.foldl (fun st x => st.sendOn p x.1 x.2) (s.setPort p { v with pending := [] })

/-- Sends a flit toward its destination package, where there is a route. A response and a flit to forward that find none are
dropped (DESIGN CHOICE, log 16). -/
def State.sendFlit (s : State) (f : Flit) : State :=
  match s.routeTo f.dstp with
  | some p => s.sendOn p f
  | none => s

/-- The flit is the next one in sequence on its link; any other has been delivered before or will be replayed (R271). -/
def Port.next (v : Port) (f : Flit) : Bool := BitVec.ofNat 16 f.seqNo == v.received + 1

/-- What a received flit acknowledges leaves the replay buffer of its port, its own number is acknowledged next, and a NAK that
it carries asks for a replay (R271). -/
def State.acceptOn (s : State) (p : Nat) (f : Flit) : State :=
  let v := s.port p
  let rest := v.buffer.filter (fun g => 0x8000 ≤ (BitVec.ofNat 16 f.ack - BitVec.ofNat 16 g.seqNo).toNat)
  (s.setPort p { v with buffer := rest, received := BitVec.ofNat 16 f.seqNo, naked := v.naked || f.nak,
                        failed := if rest.head? = v.buffer.head? then v.failed else 0 }).pump p

/-- A flit of a given type that has arrived on a port: it has passed its CRC, comes next on its link and is addressed to this
package. -/
def State.takes (s : State) (p : Nat) (f : Flit) (type : Nat) : Bool :=
  f.crcOk && (s.port p).up && f.type == type && f.len16 < 15 && f.dstp == s.pkg && s.domain && (s.port p).next f

/-! ### Link steps (R271, R274) -/

/-- FLIT_CRC_MISMATCH: the flit is discarded and answered with NAK (R271). -/
def execFlitCrcMismatch (port : Nat) (flit : Flit) (s : State) : Out :=
  if flit.crcOk || !(s.port port).up then .next s
  else .next (s.sendOn port (mkFlit 7 s.pkg (s.port port).peer.toNat 0 0 0 0 0 0 []) true)

/-- An idle or link-control flit acknowledges, and may carry NAK (R271). -/
def State.linkTurn (s : State) (port : Nat) (f : Flit) : State :=
  let v := s.port port
  if f.crcOk && v.up && (f.type == 0 || f.type == 7) && f.len16 < 15 && v.next f then s.acceptOn port f else s

/-- FLIT_REPLAY: on a NAK that has arrived the sender sends its replay buffer again in order; when eight replays of one flit
have failed, the port clears UP and stops carrying traffic (R271). -/
def execFlitReplay (port : Nat) (s : State) : Out :=
  let v := s.port port
  if !v.up || !v.naked || v.buffer.isEmpty then .next s
  else if 8 ≤ v.failed then .next (s.setPort port { v with up := false, naked := false, buffer := [], pending := [] })
  else
    let n := v.replay.toNat + v.buffer.length
    let v1 := { v with replay := BitVec.ofNat 16 (min n 0xFFFF), failed := v.failed + 1, naked := false }
    let s1 := s.setPort port v1
    .next { s1 with sent := (v.buffer.map (Sent.flit port)).reverse ++ s1.sent }

/-- BADFLIT: a flit that passes its CRC with TYPE 8 to 15 or LEN16 15 is discarded and counted; its number
and its acknowledgement count as those of any flit of the link (R271). -/
def execBadflit (port : Nat) (flit : Flit) (s : State) : Out :=
  let v := s.port port
  if flit.crcOk && v.up && (8 ≤ flit.type || flit.len16 == 15) && v.next flit then
    .next ((s.setPort port { v with badflit := if v.badflit = 0xFFFF then v.badflit else v.badflit + 1 }).acceptOn port flit)
  else .next s

/-- FLIT_FORWARD: a flit for another package leaves by this package's own ROUTE (R274). -/
def execFlitForward (port : Nat) (flit : Flit) (s : State) : Out :=
  if flit.crcOk && (s.port port).up && flit.type < 8 && flit.len16 < 15 && flit.dstp != s.pkg &&
      (s.port port).next flit then
    .next ((s.acceptOn port flit).sendFlit { flit with trailer := 0 })
  else .next s

/-- LINK_RETRAINED: firmware has retrained the port; UP sets again, its partner's number is known and the routes that lead
to the partner name the port (R271, R273). -/
def execLinkRetrained (port : Nat) (peer : BitVec 6) (s : State) : Out :=
  if 12 ≤ port || !s.part.ports.getLsbD port || !s.trains then .next s
  else
    let v := s.port port
    let s1 := s.setPort port 
      { v with up := true, peer := peer, buffer := [], failed := 0, pending := [], naked := false, sent := 0, received := 0 }
    .next { s1 with net := { s1.net with routes := tabPut s1.net.routes peer.toNat (BitVec.ofNat 5 (port + 16)) } }

/-! ### The requester (R275, R278) -/

/-- A tag that no request in flight carries. -/
def State.freeTag (s : State) : Nat :=
  ((List.range 4096).find? (fun t => (tabFind s.net.reqs ((s.net.nextTag + t) % 4096)).isNone)).elim 0
    (fun t => (s.net.nextTag + t) % 4096)

/-- The payload of a write: the data words, then the size in the last word, unless they fill the payload (DESIGN CHOICE, log 16). -/
def writePayload (bs : List Byte) : Nat × List Nat :=
  let n := bs.length
  let k := ceilDiv n 8
  let ws := (List.range k).map (fun i => leNat ((bs.drop (8 * i)).take 8))
  if n = 224 then (14, ws)
  else
    let l := (k + 2) / 2
    (l, ws ++ List.replicate (2 * l - 1 - k) 0 ++ [n])

/-- Sends a request to another package and remembers who waits for its response. -/
def State.sendRequest (s : State) (who : Requester) (type dst ctx va sub pmask : Nat) (len16 : Nat) (ws : List Nat) :
    Nat × State :=
  let t := s.freeTag
  let s1 := s.sendFlit (mkFlit type s.pkg dst ctx t len16 pmask sub va ws)
  let r : PeerReq := { who := who, dst := dst, addr := word (6 * 2 ^ 60 + dst * 2 ^ 52 + va), since := s.now }
  (t, { s1 with net := { s1.net with reqs := tabPut s1.net.reqs t r, nextTag := (t + 1) % 4096 } })

def State.dropRequest (s : State) (tag : Nat) : State := { s with net := { s.net with reqs := tabDel s.net.reqs tag } }

/-- The cause of a code (R424); a code that the device never writes counts as NET_PROTOCOL (R270). -/
def allCauses : List Cause :=
  [.xltNoContext, .xltNotMapped, .xltPermission, .xltBadEntry, .xltWalkError, .memBadPath, .memNoncanonical,
   .memMisaligned, .memDataError, .memScratchOwner, .memReservedArea, .memAtomicPath, .memSpillBusy, .memTagMismatch,
   .psnStore, .psnAtomic, .psnEgress, .netProtocol, .netNoRoute, .netTimeout]
def Cause.ofCode (n : Nat) : Cause := (allCauses.find? (fun c => c.code == n)).getD .netProtocol

end Sys2Proof.Machine

namespace Sys2Proof
open Machine

/-- The cause that a response carries; none for success (R270). -/
def Flit.respCause (f : Flit) : Option Cause :=
  if f.sub = 0 then none
  else if f.sub = 1 then some (Cause.ofCode (bits f.payload.toNat 0 9))
  else some .netProtocol

end Sys2Proof

namespace Sys2Proof.Machine
open Sys2Proof

/-! ### The destination (R275 to R277) -/

/-- The access of a peer request: under the destination's own context entry, by a fresh walk for each span (R38, R275). -/
def State.peerPlace (s : State) (ctx va : Nat) (k : AccKind) (n : Nat) : Except Cause (List (Nat × Nat)) :=
  match (s.checkSpans { ctx := some ctx } 0 [] k (word va) n).1 with
  | .ok ps => ps.mapM (fun p => match p.1 with
    | .mem l => .ok (l, p.2)
    | _ => .error .netProtocol)
  | .error (some (c, _)) => .error c
  | .error none => .error .netProtocol

/-- Bytes `off` up to `off + n - 1` of the parts of an access. -/
def cutParts : List (Nat × Nat) → Nat → Nat → List (Nat × Nat)
  | [], _, _ => []
  | (l, m) :: r, off, n =>
    if m ≤ off then cutParts r (off - m) n
    else if n ≤ m - off then [(l + off, n)]
    else (l + off, m - off) :: cutParts r 0 (n - (m - off))

/-- The answer to a request: success with payload words, or a fault with its cause. -/
def State.respond (s : State) (f : Flit) (pmask : Nat) (r : Except Cause (List Nat)) : State :=
  match r with
  | .ok ws => s.sendFlit (mkFlit 4 s.pkg f.srcp f.ctx f.tag ((ws.length + 1) / 2) pmask 0 0 ws)
  | .error c => s.sendFlit (mkFlit 4 s.pkg f.srcp f.ctx f.tag 1 0 1 0 [c.code])

/-- Payload words of `n` bytes with poison, as a mask (R277). -/
def State.poisonMask (s : State) (ps : List (Nat × Nat)) (n : Nat) : Nat :=
  (List.range (ceilDiv n 8)).foldl
    (fun a i => if (cutParts ps (8 * i) (min 8 (n - 8 * i))).any (fun p => (s.dataError p.1 p.2).isSome) then a + 2 ^ i else a) 0

/-- READ_REQUEST at the destination; the islands record the uncorrectable errors that it meets (R32, R275, R277). -/
def execReadRequest : Arrival → State → Out
  | ⟨port, flit⟩, s =>
    if !s.takes port flit 1 then .next s
    else
      let s1 := s.acceptOn port flit
      let n := flit.lastWord
      if n = 0 ∨ 224 < n then .next (s1.respond flit 0 (.error .netProtocol))
      else match s1.peerPlace flit.ctx flit.addr .read n with
        | .error c => .next (s1.respond flit 0 (.error c))
        | .ok ps =>
          let bs := s1.loadParts ps
          let ws := (List.range (ceilDiv n 8)).map (fun i => leNat ((bs.drop (8 * i)).take 8))
          let s2 := ps.foldl (fun st p => (st.engineRead flit.ctx p.1 p.2 (word flit.addr)).2.2) s1
          .next (s2.respond flit (s1.poisonMask ps n) (.ok ws))

end Sys2Proof.Machine

namespace Sys2Proof
open Machine

/-- The report of an access that a peer request made here (R426). -/
def Flit.report (f : Flit) (addr : Word) : Report :=
  { origin := .peer, ctx := some f.ctx, pos := f.srcp + f.tag * 2 ^ 6, stop := false, addr := addr }

end Sys2Proof

namespace Sys2Proof.Machine
open Sys2Proof

/-- WRITE_REQUEST at the destination: a word that PMASK marks is not written (R276, R277). -/
def execWriteRequest : Arrival → State → Out
  | ⟨port, flit⟩, s =>
    if !s.takes port flit 2 then .next s
    else
      let s1 := s.acceptOn port flit
      let n := if flit.len16 = 14 then 224 else flit.lastWord
      if n = 0 ∨ 224 < n then .next (s1.respond flit 0 (.error .netProtocol))
      else match s1.peerPlace flit.ctx flit.addr .write n with
        | .error c => .next (s1.respond flit 0 (.error c))
        | .ok ps =>
          let put (st : State) (i : Nat) : State :=
            if bits flit.pmask i 1 = 1 then st
            else
              let k := min 8 (n - 8 * i)
              st.storeParts (cutParts ps (8 * i) k) (leBytes k (flit.pay i))
          let s2 := (List.range (ceilDiv n 8)).foldl put s1
          -- a granule of which every byte is written here is written in one step
          let clean := ((List.range (n / 16)).filter (fun g => bits flit.pmask (2 * g) 2 == 0)).filterMap (fun g =>
            match cutParts ps (16 * g) 16 with
            | [(l, _)] => if l % 16 = 0 then some (l / 16) else none
            | _ => none)
          let s3 := { s2 with poison := s2.poison.filter (fun g => !clean.contains g) }
          if flit.pmask = 0 then .next (s3.respond flit 0 (.ok []))
          else .next ((s3.raise .psnStore (flit.report (word flit.addr))).respond flit 0 (.error .psnStore))

/-- The new value of an atomic (R334): the operation, whether it compares unsigned, its bytes, the old value, the operand
and the expected value. -/
def amoNew (op : Nat) (unsigned : Bool) (n old x expect : Nat) : Nat :=
  let w := 8 * n
  let x := x % 2 ^ w
  let less : Bool := if unsigned then decide (old < x) else decide (toSigned w old < toSigned w x)
  match op with
  | 0 => (old + x) % 2 ^ w
  | 1 => Nat.land old x
  | 2 => Nat.lor old x
  | 3 => Nat.xor old x
  | 4 => if less then old else x
  | 5 => if less then x else old
  | 6 => x
  | _ => if old = expect % 2 ^ w then x else old

/-- ATOMIC_REQUEST at the destination: operand in payload word 0, expected value in word 1, the unsigned flag in word 2 and
the size in word 3 (R275, R276, DESIGN CHOICE, log 16). -/
def execAtomicRequest : Arrival → State → Out
  | ⟨port, flit⟩, s =>
    if !s.takes port flit 3 then .next s
    else
      let s1 := s.acceptOn port flit
      let n := flit.lastWord
      if 8 ≤ flit.sub ∨ (n ≠ 4 ∧ n ≠ 8) then .next (s1.respond flit 0 (.error .netProtocol))
      else if flit.addr % n ≠ 0 then .next (s1.respond flit 0 (.error .memMisaligned))
      else match s1.peerPlace flit.ctx flit.addr .atomic n with
        | .error c => .next (s1.respond flit 0 (.error c))
        | .ok ps =>
          let l := (ps.headD (0, 0)).1
          match s1.dataError l n with
          | some c =>
            .next ((s1.engineRead flit.ctx l n (word flit.addr)).2.2.respond flit 0 (.error c))
          | none =>
            let old := memNat s1.mem l n
            let new := amoNew flit.sub (flit.pay 2 == 1) n old (flit.pay 0) (flit.pay 1)
            .next ((s1.storeNat l n new).respond flit 0 (.ok [old]))

end Sys2Proof.Machine
end

