-- ==== Sys2Proof/Machine/FaultRing.lean ====
section
/-!
DEFINITION. Fault records and rings (R425 to R429), translation retries (R46, R435) and the indices of a context's ring.
-/
namespace Sys2Proof.Machine
open Sys2Proof

/-! ### The record's words (R425) -/

/-- Token `j` of a record. -/
def FaultRec.tok (r : FaultRec) (j : Nat) : Option Token :=
  match j with
  | 0 => r.tok0
  | 1 => r.tok1
  | _ => r.tok2

/-- TVAL, TKIND and TOK of token `j`. -/
def FaultRec.tokBits (r : FaultRec) (j : Nat) : Nat :=
  match r.tok j with
  | none => 0
  | some t => 2 ^ (25 + j) + t.kindBits * 2 ^ (28 + 3 * j)

/-- The eight words of a record whose ring is that of context `x`: a record of no context carries MCTX (DEDUCED, log 20). -/
def FaultRec.words (r : FaultRec) (x : Nat) : List Nat :=
  let data (j : Nat) : Nat := (r.tok j).elim 0 (fun t => t.data.toNat)
  [r.cause.code + r.origin.code * 2 ^ 9 + r.ctx.getD x * 2 ^ 13 + r.tokBits 0 + r.tokBits 1 + r.tokBits 2 +
     r.stop.toNat * 2 ^ 37 + r.seqNo * 2 ^ 40,
   r.stamp, r.pos, r.cfgw.toNat, r.addr.toNat, data 0, data 1, data 2]

/-! ### Writing a record (R427 to R429) -/

/-- The 256-bit table entry of context `c` (R427). -/
def State.ringEntry (s : State) (c : Nat) : Nat :=
  memNat s.mem (dpaLoc (bits s.ctl.frtbase.toNat 17 22 * 2 ^ 17 + 32 * c)) 32

def State.frtValid (s : State) : Bool := s.ctl.frtbase.getLsbD 51

/-- The place of context `c`'s table entry arrives with an error (R32, R471). -/
def State.ringEntryBad (s : State) (c : Nat) : Bool :=
  (s.dataError (dpaLoc (bits s.ctl.frtbase.toNat 17 22 * 2 ^ 17 + 32 * c)) 32).isSome

/-- The number of records that a ring holds; none when it is disabled, as one whose entry arrives with an error counts
(DESIGN CHOICE, log 20). -/
def State.ringSize (s : State) (c : Nat) : Option Nat :=
  let e := s.ringEntry c
  if !s.ringEntryBad c && s.frtValid && bits e 68 1 == 1 && 4 ≤ bits e 64 4 then some (2 ^ bits e 64 4) else none

/-- Writes words from address `a` up, on path 0x0 or 0x7 under a context, with a fresh walk; none when an access faults. -/
def State.writeWords (s : State) (ctx : Nat) (a : Word) : List Nat → Except Cause State
  | [] => .ok s
  | w :: ws =>
    match s.check { ctx := some ctx } 0 [] .write a 8 with
    | (.ok (.mem l), _) => State.writeWords (s.storeNat l 8 w) ctx (a + 8) ws
    | (.ok (.host b), _) => State.writeWords (s.storeNat (hostLoc b) 8 w) ctx (a + 8) ws
    | (.bad c, _) => .error c
    | _ => .error .memBadPath

/-- An MSI-X message to a function: 0 the physical function, n + 1 virtual function n (R384, R427, R470). -/
def State.msix (s : State) (func vec : Nat) : State :=
  if 17 ≤ func then s else { s with sent := .msix func vec :: s.sent }

/-- What writing a record into the ring of context `x` comes to. -/
inductive RingWrite where
  | done (s : State)
  | full
  | refused

/-- Words 1 to 7 and then word 0 at slot PI; then PI moves and the interrupt goes out (R429). -/
def State.writeRing (s : State) (x : Nat) (r : FaultRec) : RingWrite :=
  match s.ringSize x with
  | none => .refused
  | some size =>
    let g := s.ring x
    let e := s.ringEntry x
    let at_ := word (bits e 0 64 + 64 * (g.pi.toNat % size))
    if size ≤ (g.pi - g.ci).toNat then .full
    else
      let ws := r.words x
      match s.writeWords x (at_ + 8) (ws.drop 1) with
      | .error _ => .refused
      | .ok s1 => match s1.writeWords x at_ (ws.take 1) with
        | .error _ => .refused
        | .ok s2 =>
          let s3 := s2.setRing x { g with pi := g.pi + 1 }
          .done (if bits e 69 1 = 1 ∧ g.pi = g.ci then s3.msix (bits e 70 5) (bits e 75 11) else s3)

def State.loseRecord (s : State) (x : Nat) : State := s.setRing x { s.ring x with lost := true }

/-- FAULT_RECORD_WRITE: record `idx` of those that wait is written, dropped, or refused by its own ring and sent on to the
ring of MCTX with one further record MCH_FAULT_RING (R429); its stamp has become visible by then (R21). -/
def execFaultRecordWrite (idx : Nat) (s : State) : Out :=
  match s.records[idx]? with
  | none => .next s
  | some r =>
    let x := if r.refused then s.mctx else r.ctx.getD s.mctx
    let gone : State := { s with records := s.records.eraseIdx idx, now := max s.now (r.stamp + 4) }
    if !s.frtValid then .next (gone.loseRecord s.mctx)
    else match gone.writeRing x r with
      | .done s1 => .next s1
      | .full => if r.origin.waits then .next s else .next (gone.loseRecord x)
      | .refused =>
        if r.refused || x == s.mctx then .next (gone.loseRecord s.mctx)
        else
          let kept : State := { s with records := s.records.set idx { r with refused := true } }
          .next (kept.raise .mchFaultRing { origin := .complex, ctx := none, pos := 0xFFF, stop := false })

/-! ### The indices (R428) -/

/-- FULL of FRCI: PI is as far ahead of CI as the ring of the entry's RLOG2 is long. -/
def State.ringFull (s : State) (c : Nat) : Bool := ((s.ring c).pi - (s.ring c).ci).toNat == 2 ^ bits (s.ringEntry c) 64 4

/-- CONSUMER_INDEX_WRITE (R428). -/
def execConsumerIndexWrite (ctx : Nat) (value : BitVec 32) (s : State) : Out :=
  if 4096 ≤ ctx then .next s else .next (s.setRing ctx ((s.ring ctx).setCi value))

/-- LOST_CLEAR (R428). -/
def execLostClear (ctx : Nat) (s : State) : Out :=
  if 4096 ≤ ctx then .next s else .next (s.setRing ctx { s.ring ctx with lost := false })

/-- RING_RESET (R428). -/
def execRingReset (ctx : Nat) (s : State) : Out :=
  if 4096 ≤ ctx then .next s else .next (s.setRing ctx { s.ring ctx with pi := 0, ci := 0, lost := false })

/-- A write of FRCI: RST, else LOST and CI (R428). -/
def FaultRing.write (r : FaultRing) (v : Word) : FaultRing :=
  if v.getLsbD 33 then { r with pi := 0, ci := 0, lost := false }
  else { r.setCi (v.setWidth 32) with lost := r.lost && !v.getLsbD 32 }

/-! ### Retries (R46, R435) -/

/-- A translation cause (R424). -/
def Cause.isXlt : Cause → Bool
  | .xltNoContext | .xltNotMapped | .xltPermission | .xltBadEntry | .xltWalkError => true
  | _ => false

/-- A record of an AGN's port context waits: it stays stopped until the record is written, and a retry that comes before takes
effect then (R429). -/
def State.agnRecordWaits (s : State) (pc : Nat) : Bool :=
  s.records.any (fun r => r.origin == .agn && bits r.pos 0 2 * 512 + bits r.pos 2 9 == pc)

/-- A record of the loader under a context waits (R429). -/
def State.loadRecordWaits (s : State) (ctx : Nat) : Bool :=
  s.records.any (fun r => r.origin == .loader && r.ctx == some ctx)

/-- The retry of context `c`: AGNs, copy engines, the loader and sequencers that a translation cause has stopped. -/
def State.retry (s : State) (c : Nat) : State :=
  let ctxOf (l : Option Nat) : Option Nat := (l.bind s.launch).map Launch.ctx
  let now (h : HeldElement) : HeldElement := { h with due := 0 }
  let pctx (p : PCtx) : PCtx :=
    if ctxOf p.launch == some c then { p with stopped := p.stopped.map now, spill := p.spill.map now } else p
  let copy (j : CopyJob) : CopyJob := if j.ctx = c then { j with stopped := j.stopped.map now } else j
  let load (l : Launch) : Launch := if l.ctx = c then { l with loadHeld := false } else l
  let s1 : State :=
    { s with pctxs := s.pctxs.map (fun p => (p.1, pctx p.2)), copies := s.copies.map (fun p => (p.1, copy p.2)),
             launches := s.launches.map (fun p => (p.1, load p.2)) }
  (List.range 32).foldl
    (fun st n => match (st.seq n).stop with
      | some v => if v.cause.isXlt && (st.seq n).ctxid.toNat == c && st.seqLaunch n != none then st.resumeSeq n else st
      | none => st) s1

/-- FRETRY: firmware and the physical function name any context, a sequencer its own; any other write is ignored (R435). -/
def execFretry (agent : Agent) (value : BitVec 64) (s : State) : Out :=
  let c := bits value.toNat 0 12
  let may : Bool := match agent with
    | .pf | .firmware => true
    | .vf _ | .pfPages => false
    | .sequencer n => s.seqCtx n == some c
  if value.getLsbD 12 && may then .next (s.retry c) else .next s

end Sys2Proof.Machine
end

