-- ==== Sys2Proof/Machine/Queue.lean ====
section
/-!
DEFINITION. Kick registers and the reading of queue rings (R383 to R387).
-/
namespace Sys2Proof
open Machine

/-- LINK of a packet (R389). -/
def Pkt.link (p : Pkt) : Bool := p.flags.getLsbD 15

/-- The packet that an instruction stands for. -/
def Instr.pkt? (i : Instr) : Option (Nat × Pkt) :=
  (packetParts i).map (fun x => (x.1.toNat, x.2))

end Sys2Proof

namespace Sys2Proof.Machine
open Sys2Proof

/-- A packet of the item is under way. -/
def Item.busy (i : Item) : Bool := i.phase == .dispatched || i.phase == .running

/-- Packet `n` of the entry is the first of a linked pair. -/
def Item.linked (i : Item) (n : Nat) : Bool := ((i.packets[n]?).bind Instr.pkt?).any (fun p => p.2.link)

/-- The first packet of a linked pair of the entry has ended and its second has not (R400). -/
def Item.midPair (i : Item) : Bool := (i.busy || i.phase == .admitted) && decide (0 < i.idx) && i.linked (i.idx - 1)

/-- A linked pair of the entry runs (R400). -/
def Item.inPair (i : Item) : Bool := (i.phase == .running && i.linked i.idx) || i.midPair

/-- POS of a record of the command complex (R426). -/
def complexPos (q seqNo : Nat) : Nat := q + seqNo % 2 ^ 32 * 2 ^ 12

/-- A record of the command complex: it stops nothing (R430). -/
def State.complexRaise (s : State) (ctx : Option Nat) (c : Cause) (pos : Nat) (addr : Word := 0) : State :=
  s.raise c { origin := .complex, ctx := ctx, pos := pos, stop := false, addr := addr }

/-- A queue stops until it is reset, with one record (R385). -/
def State.stopQueue (s : State) (q : Nat) (c : Cause) (addr : Word) : State :=
  let g := s.queue q
  (s.setQueue q { g with stop := true }).complexRaise (some g.ctx) c (complexPos q g.seqNo) addr

/-- A place that the command complex may use: main memory or the host, with its poison (R32, R57, R471). -/
def State.complexPlace (s : State) (ctx : Nat) (a : Word) (k : AccKind) (n : Nat) : Except Cause Nat :=
  match s.check { ctx := some ctx } 0 [] k a n with
  | (.ok (.mem l), _) => if k = .read then (s.dataError l n).elim (.ok l) .error else .ok l
  | (.ok (.host b), _) => .ok (hostLoc b)
  | (.bad c, _) => .error c
  | _ => .error .memBadPath

/-- Address of dword index `i` of a queue's ring (R385). -/
def Queue.dwordAt (g : Queue) (i : BitVec 32) : Word := g.rbase + word (4 * i.toNat % 2 ^ g.rlog2)

/-- Reads `n` dwords of the ring from index `i`, or the cause and address of the first fault. -/
def State.readRing (s : State) (g : Queue) (i : BitVec 32) : Nat → Except (Cause × Word) (List (BitVec 32))
  | 0 => .ok []
  | n + 1 =>
    match s.complexPlace g.ctx (g.dwordAt i) .read 4 with
    | .error c => .error (c, g.dwordAt i)
    | .ok l => match s.readRing g (i + 1) n with
      | .error e => .error e
      | .ok r => .ok (BitVec.ofNat 32 (memNat s.mem l 4) :: r)

/-- The dwords of the next `n` packets from index `i`; none when they pass the `left` dwords before W. -/
def State.readPackets (s : State) (g : Queue) (i : BitVec 32) (left : Nat) :
    Nat → Except (Cause × Word) (Option (List (BitVec 32)))
  | 0 => .ok (some [])
  | n + 1 =>
    if left = 0 then .ok none
    else match s.readRing g i 1 with
      | .error e => .error e
      | .ok h =>
        let k := ((h.headD 0).extractLsb' 16 8).toNat
        if left < k + 1 then .ok none
        else match s.readRing g (i + 1) k with
          | .error e => .error e
          | .ok b => match s.readPackets g (i + 1 + BitVec.ofNat 32 k) (left - 1 - k) n with
            | .ok (some r) => .ok (some (h ++ b ++ r))
            | o => o

/-- The first `n` packets as instructions of work item `item`, and the code of R406 that decoding them finds. -/
def decodePackets (item : Nat) : Nat → List (BitVec 32) → List Instr × Nat
  | 0, _ => ([], 0)
  | _ + 1, [] => ([], 0)
  | n + 1, h :: rest =>
    let k := (h.extractLsb' 16 8).toNat
    let (is, bad) := decodePackets item n (rest.drop k)
    if 0x0C ≤ (h.extractLsb' 24 8).toNat then (is, 2)
    else match decodePacket item (h :: rest.take k) with
      | .error _ => (is, if bad = 2 then 2 else 3)
      | .ok (i, _) => (i :: is, bad)

def isLaunch : Instr → Bool
  | .launch _ => true
  | _ => false

/-- How many of the first `n` packets are LAUNCH packets, by their opcodes. -/
def countLaunches : Nat → List (BitVec 32) → Nat
  | 0, _ => 0
  | _ + 1, [] => 0
  | n + 1, h :: rest =>
    (if (h.extractLsb' 24 8).toNat = 4 then 1 else 0) + countLaunches n (rest.drop (h.extractLsb' 16 8).toNat)

/-- Code 0x01 of R406: the header against R386. -/
def headerBad (h launches : Nat) : Bool :=
  let shape := bits h 128 43
  bits h 172 4 != 0 || bits h 184 72 != 0 || bits h 176 8 == 0 || bits h 64 64 == 0 || 1 < launches ||
    (if launches == 0 then shape != 0 else bits h 128 32 == 0)

/-- A work item from an entry's header and packets (R386, R387). -/
def newItem (q turn seqNo item h : Nat) (body : List (BitVec 32)) : Item :=
  let (is, bad) := decodePackets item (bits h 176 8) body
  { queue := q, turn := turn, seqNo := seqNo, deadline := bits h 0 64, budget := bits h 64 64, iter := bits h 128 32,
    pclass := bits h 160 4, lw := bits h 164 3, lh := bits h 167 3, whole := bits h 170 1 == 1, abort := bits h 171 1 == 1,
    headerBad := headerBad h (countLaunches (bits h 176 8) body), packets := is, bad := bad, idx := 0, phase := .pending,
    started := false, met := false, bound := 0, rcode := 0, cause := none, state := 0, miss := false, ovr := false, background := bits h 0 64 == 2 ^ 64 - 1,
    endTime := 0, chreg := 0, cheng := 0, saidReg := 0, saidEng := 0, moreReg := 0, moreEng := 0, saidMiss := false,
    saidOvr := false, launch := none }

/-- Reads every whole entry between RIDX and W in ring order; `fuel` bounds their number (R385 step 4). -/
def State.readEntries (s : State) (q : Nat) : Nat → State
  | 0 => s
  | fuel + 1 =>
    let g := s.queue q
    let n := (g.w - g.ridx).toNat
    if n < 8 then s
    else match s.readRing g g.ridx 8 with
      | .error (c, a) => (s.noteError g.ctx a 4).stopQueue q c a
      | .ok ds =>
        let h := leNat (ds.flatMap (fun d => leBytes 4 d.toNat))
        match s.readPackets g (g.ridx + 8) (n - 8) (bits h 176 8) with
        | .error (c, a) => (s.noteError g.ctx a 4).stopQueue q c a
        | .ok none => s
        | .ok (some body) =>
          let item := tabFresh s.items
          let s1 := s.setItem item (newItem q s.kick g.seqNo item h body)
          let next := g.ridx + BitVec.ofNat 32 (8 + body.length)
          State.readEntries (s1.setQueue q { g with ridx := next, seqNo := g.seqNo + 1 }) q fuel

/-- KICK: advances the write index and reads the entries (R385). -/
def execKick (q : Nat) (value : BitVec 64) (s : State) : Out :=
  let g := s.queue q
  let widx : BitVec 32 := value.setWidth 32
  let room := 2 ^ g.rlog2 / 4
  if !g.v || g.rbusy || g.stop || value.extractLsb' 32 16 != g.gen then .next s
  else if room < (widx - g.ridx).toNat ∨ (g.ridx + BitVec.ofNat 32 room - g.w).toNat < (widx - g.w).toNat then
    .next (s.stopQueue q .schQueueOverrun 0)
  else if widx = g.w then .next s
  else .next ((s.setQueue q { g with w := widx }).readEntries q room)

/-- KICK reads back (R384). -/
def Queue.kickWord (g : Queue) : Word :=
  word (g.ridx.toNat + g.gen.toNat * 2 ^ 32 + g.stop.toNat * 2 ^ 48 + g.rbusy.toNat * 2 ^ 49)

/-- A linked pair of the queue runs (R400). -/
def State.pairRuns (s : State) (q : Nat) : Bool := s.items.any (fun i => i.2.queue == q && i.2.inPair)

/-- A write of QRESET.GO requests a reset, which sets RBUSY; it is ignored while one is in progress (R381, R400, R411). -/
def State.requestReset (s : State) (q : Nat) : State :=
  if (s.queue q).rbusy then s else (s.setQueue q { s.queue q with rbusy := true, putOff := s.pairRuns q }).arise (.reset q)

end Sys2Proof.Machine
end

