-- ==== Sys2Proof/Machine/Float.lean ====
section
/-!
DEFINITION. Number formats and exact arithmetic (R107 to R121): a pattern is read as an exact value, the operation is
carried out exactly on integers, and the result is rounded once into the destination format with the flags of R115.
-/
namespace Sys2Proof.Machine
open Sys2Proof

/-- Arithmetic flags, in the bit order of the tile's flag set (R115, R242). -/
abbrev Flags := BitVec 11
def flNV : Flags := 0x001
def flDZ : Flags := 0x002
def flOF : Flags := 0x004
def flUF : Flags := 0x008
def flNX : Flags := 0x010
def flSAT : Flags := 0x020
def flPSEEN : Flags := 0x040
def flOLOV : Flags := 0x080
def flIf (b : Bool) (f : Flags) : Flags := if b then f else 0

/-- Which patterns of a format are NaNs (R109). -/
inductive NanKind where
  | ieee | allOnes | absent
  deriving DecidableEq, Repr

/-- A floating-point format (R109). -/
structure Fmt where
  w : Nat
  eb : Nat
  mb : Nat
  bias : Nat
  nan : NanKind
  deriving DecidableEq, Repr

def fp32 : Fmt := { w := 32, eb := 8, mb := 23, bias := 127, nan := .ieee }
def bf16 : Fmt := { w := 16, eb := 8, mb := 7, bias := 127, nan := .ieee }
def fp16 : Fmt := { w := 16, eb := 5, mb := 10, bias := 15, nan := .ieee }
def e5m2 : Fmt := { w := 8, eb := 5, mb := 2, bias := 15, nan := .ieee }
def e4m3 : Fmt := { w := 8, eb := 4, mb := 3, bias := 7, nan := .allOnes }
def e2m1 : Fmt := { w := 4, eb := 2, mb := 1, bias := 1, nan := .absent }

/-- The format has infinities. -/
def Fmt.hasInf (f : Fmt) : Bool := f.nan == .ieee

/-- The pattern of the largest finite magnitude. -/
def Fmt.maxBits (f : Fmt) : Nat :=
  match f.nan with
  | .ieee => (2 ^ f.eb - 2) * 2 ^ f.mb + (2 ^ f.mb - 1)
  | .allOnes => 2 ^ (f.eb + f.mb) - 2
  | .absent => 2 ^ (f.eb + f.mb) - 1

def Fmt.signBit (f : Fmt) (neg : Bool) : Nat := if neg then 2 ^ (f.w - 1) else 0

/-- An exact value: a NaN, an infinity, or `(-1)^neg * m * 2^e`. -/
inductive FVal where
  | nan
  | inf (neg : Bool)
  | fin (neg : Bool) (m : Nat) (e : Int)
  deriving DecidableEq, Repr

/-- The exponent of the least significant bit of a subnormal. -/
def Fmt.qmin (f : Fmt) : Int := 1 - (f.bias : Int) - (f.mb : Int)

/-- The value of a pattern (R109). -/
def Fmt.decode (f : Fmt) (v : Nat) : FVal :=
  let neg := bits v (f.w - 1) 1 == 1
  let e := bits v f.mb f.eb
  let m := bits v 0 f.mb
  let top := 2 ^ f.eb - 1
  if f.nan = .ieee ∧ e = top then (if m = 0 then .inf neg else .nan)
  else if f.nan = .allOnes ∧ e = top ∧ m = 2 ^ f.mb - 1 then .nan
  else if e = 0 then .fin neg m f.qmin
  else .fin neg (2 ^ f.mb + m) (f.qmin + (e : Int) - 1)

/-- A result: its pattern and the flags it raises. -/
structure FRes where
  bits : Nat
  fl : Flags
  deriving DecidableEq, Repr

/-- A NaN result: the canonical NaN, or 0x0 with NV in E2M1 (R110, R117, R171). -/
def Fmt.nanRes (f : Fmt) : FRes :=
  match f.nan with
  | .ieee => { bits := (2 ^ f.eb - 1) * 2 ^ f.mb + 2 ^ (f.mb - 1), fl := 0 }
  | .allOnes => { bits := 2 ^ (f.eb + f.mb) - 1, fl := 0 }
  | .absent => { bits := 0, fl := flNV }

/-- An invalid operation (R115, R166). -/
def Fmt.invalid (f : Fmt) : FRes := { bits := f.nanRes.bits, fl := flNV }

/-- An infinite result, the largest magnitude with SAT where the format has no infinity (R116, R171). -/
def Fmt.infRes (f : Fmt) (neg : Bool) : FRes :=
  if f.hasInf then { bits := f.signBit neg + (2 ^ f.eb - 1) * 2 ^ f.mb, fl := 0 }
  else { bits := f.signBit neg + f.maxBits, fl := flSAT }

/-- How an inexact value is rounded: the modes of R114, or stochastically with a draw (R120). -/
inductive Round where
  | rne | rtz | rup | rdn
  | draw (r : Nat)
  deriving DecidableEq, Repr

/-- The mode of M[2:1] (R114). -/
def roundOf (m : Nat) : Round :=
  match m % 4 with
  | 0 => .rne
  | 1 => .rtz
  | 2 => .rup
  | _ => .rdn

/-- Rounds the magnitude `m * 2^e` of a value to a multiple of `2^q`, answering the multiple and whether it is inexact. -/
def roundTo (r : Round) (neg : Bool) (m : Nat) (e q : Int) : Nat × Bool :=
  if q ≤ e then (m * 2 ^ (e - q).toNat, false)
  else
    let sh := (q - e).toNat
    let n := m / 2 ^ sh
    let rem := m % 2 ^ sh
    let up : Bool :=
      match r with
      | .rne => 2 ^ sh < 2 * rem || (2 * rem == 2 ^ sh && n % 2 == 1)
      | .rtz => false
      | .rup => !neg && rem != 0
      | .rdn => neg && rem != 0
      | .draw d =>
        rem != 0 &&
          (if neg then !(decide (d < (2 ^ sh - rem) * 2 ^ 32 / 2 ^ sh)) else decide (d < rem * 2 ^ 32 / 2 ^ sh))
    (if up then n + 1 else n, rem != 0)

/-- An overflow (R116): stochastic rounding follows the RNE column (R120). -/
def Fmt.overflow (f : Fmt) (r : Round) (neg : Bool) : FRes :=
  let toInf : Bool :=
    match r with
    | .rne | .draw _ => true
    | .rtz => false
    | .rup => !neg
    | .rdn => neg
  if f.hasInf then
    { bits := f.signBit neg + (if toInf then (2 ^ f.eb - 1) * 2 ^ f.mb else f.maxBits), fl := flOF ||| flNX }
  else { bits := f.signBit neg + f.maxBits, fl := flOF ||| flNX ||| flSAT }

/-- Rounds the exact value `(-1)^neg * m * 2^e` once into a format (R115, R116, R118). -/
def Fmt.round (f : Fmt) (r : Round) (neg : Bool) (m : Nat) (e : Int) : FRes :=
  if m = 0 then { bits := f.signBit neg, fl := 0 }
  else
    let top : Int := (Nat.log2 m : Int) + e
    let emin : Int := 1 - (f.bias : Int)
    let q := max (top - (f.mb : Int)) f.qmin
    let (n, inexact) := roundTo r neg m e q
    let packed := (q - f.qmin).toNat * 2 ^ f.mb + n
    let tiny : Bool :=
      decide (top < emin) &&
        !(top == emin - 1 && (roundTo r neg m e (top - (f.mb : Int))).1 == 2 ^ (f.mb + 1))
    if f.maxBits < packed then f.overflow r neg
    else { bits := f.signBit neg + packed, fl := flIf inexact flNX ||| flIf (tiny && inexact) flUF }

/-- Rounds an exact value, or gives the NaN or infinity of the format (R110, R116). -/
def Fmt.roundVal (f : Fmt) (r : Round) : FVal → FRes
  | .nan => f.nanRes
  | .inf neg => f.infRes neg
  | .fin neg m e => f.round r neg m e

/-- A magnitude that lies strictly between `m * 2^e` and `(m + 1) * 2^e`, as an exact one that rounds alike. -/
def sticky (m : Nat) (e : Int) (inexact : Bool) : Nat × Int := (4 * m + (if inexact then 1 else 0), e - 2)

/-! ### Exact sums, products and comparisons -/

def signedMag (neg : Bool) (m : Nat) : Int := if neg then -(m : Int) else (m : Int)

/-- The signed integer of a finite value in units of `2^q`, for `q` at most its exponent. -/
def scaled (neg : Bool) (m : Nat) (e q : Int) : Int := signedMag neg m * (2 ^ (e - q).toNat : Nat)

def FVal.neg : FVal → FVal
  | .nan => .nan
  | .inf n => .inf (!n)
  | .fin n m e => .fin (!n) m e

/-- The sum of two exact values, rounded once (R166): the sign rule of an exact zero sum included. -/
def Fmt.add (f : Fmt) (r : Round) (a b : FVal) : FRes :=
  match a, b with
  | .nan, _ | _, .nan => f.nanRes
  | .inf x, .inf y => if x = y then f.infRes x else f.invalid
  | .inf x, .fin _ _ _ => f.infRes x
  | .fin _ _ _, .inf y => f.infRes y
  | .fin na ma ea, .fin nb mb eb =>
    let q := min ea eb
    let v := scaled na ma ea q + scaled nb mb eb q
    if v = 0 then
      { bits := f.signBit (if ma = 0 ∧ mb = 0 ∧ na = nb then na else r == .rdn), fl := 0 }
    else f.round r (decide (v < 0)) v.natAbs q

/-- The exact product; none for an invalid one (0 times infinity). -/
def FVal.mul (a b : FVal) : Option FVal :=
  match a, b with
  | .nan, _ | _, .nan => some .nan
  | .inf x, .inf y => some (.inf (x != y))
  | .inf x, .fin y m _ | .fin y m _, .inf x => if m = 0 then none else some (.inf (x != y))
  | .fin x m e, .fin y n g => some (.fin (x != y) (m * n) (e + g))

def Fmt.mul (f : Fmt) (r : Round) (a b : FVal) : FRes :=
  match a.mul b with
  | none => f.invalid
  | some v => f.roundVal r v

/-- `a * b + c` rounded once; 0 times infinity raises NV whatever `c` is (R115, R121, R166; DEDUCED, log 43). -/
def Fmt.fma (f : Fmt) (r : Round) (a b c : FVal) : FRes :=
  match a.mul b with
  | none => f.invalid
  | some v => f.add r v c

/-- `a < b`, for values that are no NaN. -/
def FVal.lt (a b : FVal) : Bool :=
  match a, b with
  | .nan, _ | _, .nan => false
  | .inf x, .inf y => x && !y
  | .inf x, .fin _ _ _ => x
  | .fin _ _ _, .inf y => !y
  | .fin na ma ea, .fin nb mb eb =>
    let q := min ea eb
    decide (scaled na ma ea q < scaled nb mb eb q)

/-- `a = b`, with −0 equal to +0. -/
def FVal.eqv (a b : FVal) : Bool :=
  match a, b with
  | .nan, _ | _, .nan => false
  | _, _ => !(a.lt b) && !(b.lt a)

def FVal.isNan (a : FVal) : Bool := a == .nan

/-! ### Division and roots -/

/-- The bits of a square root below bit `k`, found from the top. -/
def isqrtAux (n : Nat) : Nat → Nat → Nat
  | 0, r => r
  | k + 1, r =>
    let t := r + 2 ^ k
    isqrtAux n k (if t * t ≤ n then t else r)

/-- `⌊√n⌋`. -/
def isqrt (n : Nat) : Nat := isqrtAux n (Nat.log2 n / 2 + 1) 0

/-- The quotient of two finite magnitudes, `m` nonzero below, with enough bits for any format. -/
def divMag (ma : Nat) (ea : Int) (mb : Nat) (eb : Int) : Nat × Int :=
  let s := 40 + Nat.log2 mb
  sticky (ma * 2 ^ s / mb) (ea - eb - (s : Int)) (ma * 2 ^ s % mb != 0)

/-- `a / b` rounded once (R328). -/
def Fmt.div (f : Fmt) (r : Round) (a b : FVal) : FRes :=
  match a, b with
  | .nan, _ | _, .nan => f.nanRes
  | .inf _, .inf _ => f.invalid
  | .inf x, .fin y _ _ => f.infRes (x != y)
  | .fin x _ _, .inf y => { bits := f.signBit (x != y), fl := 0 }
  | .fin x m e, .fin y n g =>
    if n = 0 then
      (if m = 0 then f.invalid else let i := f.infRes (x != y); { i with fl := i.fl ||| flDZ })
    else
      let (k, h) := divMag m e n g
      f.round r (x != y) k h

/-- The square root (R171, R328). -/
def Fmt.sqrt (f : Fmt) (r : Round) : FVal → FRes
  | .nan => f.nanRes
  | .inf neg => if neg then f.invalid else f.infRes false
  | .fin neg m e =>
    if m = 0 then { bits := f.signBit neg, fl := 0 }
    else if neg then f.invalid
    else
      let s : Nat := 64 + (e % 2).toNat
      let n := m * 2 ^ s
      let k := isqrt n
      let (a, b) := sticky k ((e - (s : Int)) / 2) (k * k != n)
      f.round r false a b

/-- `1 / √a` (R171). -/
def Fmt.rsq (f : Fmt) : FVal → FRes
  | .nan => f.nanRes
  | .inf neg => if neg then f.invalid else { bits := 0, fl := 0 }
  | .fin neg m e =>
    if m = 0 then let i := f.infRes neg; { i with fl := i.fl ||| flDZ }
    else if neg then f.invalid
    else
      let t : Int := (e + (Nat.log2 m : Int)) / 2 + 40
      let n := 2 ^ (2 * t - e).toNat
      let k := isqrt (n / m)
      let (a, b) := sticky k (-t) (k * k * m != n)
      f.round .rne false a b

/-! ### Conversions to integers (R117, R173) and integral rounding (R169) -/

/-- A float rounded to an integer of `w` bits, signed or unsigned; the pattern and the flags. -/
def cvtInt (r : Round) (w : Nat) (unsigned : Bool) (v : FVal) : FRes :=
  let lo : Int := if unsigned then 0 else -(2 ^ (w - 1) : Nat)
  let hi : Int := (2 ^ (if unsigned then w else w - 1) : Nat) - 1
  match v with
  | .nan => { bits := 0, fl := flNV }
  | .inf neg => { bits := wrapNat w (if neg then lo else hi), fl := flNV }
  | .fin neg m e =>
    let (n, inexact) := roundTo r neg m e 0
    let x := signedMag neg n
    if x < lo then { bits := wrapNat w lo, fl := flNV }
    else if hi < x then { bits := wrapNat w hi, fl := flNV }
    else { bits := wrapNat w x, fl := flIf inexact flNX }

/-- FRND: an integral value of the same format, without a flag (R169). -/
def Fmt.integral (f : Fmt) (r : Round) (v : Nat) : Nat :=
  match f.decode v with
  | .nan => f.nanRes.bits
  | .inf _ => v % 2 ^ f.w
  | .fin neg m e =>
    if 0 ≤ e then v % 2 ^ f.w else (f.round .rtz neg (roundTo r neg m e 0).1 0).bits

end Sys2Proof.Machine
end

