-- ==== Sys2Proof/Machine/Island.lean ====
section
/-!
DEFINITION. The registers of an island and the repartition of its SRAM (R65 to R68).
-/
namespace Sys2Proof.Machine
open Sys2Proof

/-- ISLCFG (R66). -/
def Island.cfgWord (i : Island) : Word := word (i.scr.toNat + i.busy.toNat * 2 ^ 8)

/-- ISLOWN register `m` (R66). -/
def Island.ownWord (i : Island) (m : Nat) : Word :=
  word ((List.range 4).foldl (fun a k => a + (tabGet i.own (4 * m + k) 0).toNat * 2 ^ (16 * k)) 0)

/-- A write of ISLOWN register `m`. -/
def Island.writeOwn (i : Island) (m : Nat) (v : Word) : Island :=
  { i with own := (List.range 4).foldl (fun t k => tabPut t (4 * m + k) (v.extractLsb' (16 * k) 13)) i.own }

/-- ISLAND_REPARTITION: a write of ISLCFG.SCR (R66, R67 steps 1 and 2). -/
def execIslandRepartition (isl : Nat) (scr : BitVec 5) (s : State) : Out :=
  let i := s.island isl
  let stq := (List.range 16).any (fun b => s.reserved isl b && decide (scr.toNat ≤ b))
  if 256 ≤ isl ∨ 16 < scr.toNat ∨ i.busy ∨ stq then .next s
  else .next (s.setIsland isl { i with busy := true, next := scr })

/-- A block becomes zero bytes, free of poison. -/
def State.zeroRange (s : State) (loc n : Nat) : State :=
  { s with mem := memClear s.mem loc n,
           poison := s.poison.filter (fun g => !(decide (loc ≤ 16 * g) && decide (16 * g < loc + n))) }

/-- REPARTITION_COMPLETE: blocks that leave island scratch lose their contents and owners, blocks that enter it are zero,
and BUSY clears (R67 steps 3 to 6). -/
def execRepartitionComplete (isl : Nat) (s : State) : Out :=
  let i := s.island isl
  if !i.busy then .next s
  else
    let old := i.scr.toNat
    let new := i.next.toNat
    let moved := (List.range 16).filter (fun b => decide (b < old) != decide (b < new))
    let s1 := moved.foldl (fun st b => st.zeroRange (islandLoc isl (65536 * b)) 65536) s
    let drop (t : Tab (BitVec 13)) (b : Nat) : Tab (BitVec 13) :=
      if new ≤ b && b < old then tabPut t b (tabGet t b 0 &&& 0xFFF) else t
    .next (s1.setIsland isl { scr := i.next, busy := false, next := i.next, own := (List.range 16).foldl drop i.own })

end Sys2Proof.Machine
end

