-- ==== Sys2Proof/Machine/Tile.lean ====
section
/-!
DEFINITION. What the elements of a tile share: planes and ports (R134 to R144), arcs (R90, R91, R103), debug holds (R433),
the power pool (R412, R413) and faults of a slot or route record (R426, R430).
-/
namespace Sys2Proof.Machine
open Sys2Proof

/-! ### Planes -/

def Plane.slotWord (p : Plane) (i : Nat) : Word32 := p.slots.getD i 0

/-- Slot `i` is the extension slot of the instruction before it (R134). -/
def Plane.isExt (p : Plane) : Nat → Bool
  | 0 => false
  | i + 1 => !p.isExt i && p.slotWord i != 0 && (p.slotWord i).getLsbD 21

/-- The opcode and fields of an occupied slot. -/
def Plane.slot (p : Plane) (i : Nat) : Option (Nat × SlotOp) :=
  let w := p.slotWord i
  if w = 0 ∨ p.isExt i then none else some (slotOpc w, slotFields w (p.slotWord (i + 1)))

/-- The route record `q`: its OP and fields. -/
def Plane.rec_ (p : Plane) (q : Nat) : Option (Nat × RecOp) :=
  (p.recs[q]?).map (fun v => (bits v.toNat 60 4, recFields v))

/-- The ports that an operator uses: those it reads and no immediate replaces (R93, R137, R161, R204, R212, R229, R257). -/
def slotPorts (opc : Nat) (o : SlotOp) : List Nat :=
  let m3 := o.m.getLsbD 3
  let immp := if m3 && extKind opc == .arith then extImmp o.ext else 0
  if opc = 0x50 ∨ opc = 0x51 then
    (if extGate o.ext then [0] else []) ++ (if 2 ≤ extPsrc o.ext then [1] else [])
  else
    [0] ++ (if readsB opc && immp != 1 then [1] else []) ++ (if readsC opc && immp != 2 then [2] else [])

/-- The inputs that a route record uses (R144). -/
def recPorts (op : Nat) (r : RecOp) : List Nat :=
  match op with
  | 1 => [0, 2]
  | 2 | 3 => [0, 1, 2]
  | 4 => if r.param = 1 then [0, 1] else [0, 2]
  | _ => [0]

/-- A target names a used input of a plane (R137); an opcode or an operation that is not assigned uses none (DEDUCED, log 32). -/
def Plane.used (p : Plane) (g : Nat) : Bool :=
  let i := g / 4 % 64
  if g < 256 then (p.slot i).any (fun v => (slotCtor v.1).isSome && (slotPorts v.1 v.2).contains (g % 4))
  else (p.rec_ i).any (fun v => decide (v.1 < 8) && (recPorts v.1 v.2).contains (g % 4))

/-- The used inputs of a plane, in ascending order of target. -/
def Plane.inputs (p : Plane) : List Nat := (List.range 512).filter p.used

/-- The tile that a route record of tile `t` sends to (R143); the load has checked that it lies in the region. -/
def destTile (t : Nat) (r : RecOp) : Nat := ((t : Int) + r.dx.toInt + 32 * r.dy.toInt).toNat

/-! ### Arcs -/

def noTarget : Nat := 0x1FF
def State.arcAt (s : State) (t g : Nat) : Arc := s.arc (512 * t + g)
def State.setArcAt (s : State) (t g : Nat) (a : Arc) : State := s.setArc (512 * t + g) a

/-- Tokens in an arc's spill ring. -/
def Arc.spilled (a : Arc) : Nat := match a.ring with | none => 0 | some r => r.wr - r.rd
/-- Every token between the producer and the consumer input (R90, R103). -/
def Arc.held (a : Arc) : Nat := a.queue.length + a.transit.length + a.spilled

/-- An arc has room for `n` more tokens: two within a die (R90); on one that crosses a die, 64 in its FIFO and, with a ring, as
many as the ring will take once the FIFO is full; while the ring holds tokens every token goes to the ring, and must find room
there (R103, R192). -/
def Arc.hasRoom (a : Arc) (n : Nat) : Bool :=
  if !a.crossing then decide (a.held + n ≤ 2)
  else match a.ring with
    | none => decide (a.queue.length + a.transit.length + n ≤ 64)
    | some r =>
      if r.wr ≤ r.rd then decide (a.queue.length + a.transit.length + n ≤ 64 + r.slots)
      else decide (a.spilled + a.transit.length + n ≤ r.slots)

/-- A target of tile `t` has room for `n` more tokens; no target always has. -/
def State.room (s : State) (t g n : Nat) : Bool := n == 0 || g == noTarget || (s.arcAt t g).hasRoom n

def State.bumpCounter (s : State) (t c n : Nat) : State :=
  let v := s.tile t
  s.setTile t { v with counters := tabPut v.counters c (tabGet v.counters c 0 + n) }

/-- The launch that holds a tile, while it runs. -/
def State.tileLaunch (s : State) (t : Nat) : Option Launch :=
  match (s.tile t).launch with
  | none => none
  | some l => (s.launch l).bind (fun v => if v.runs && v.covers t then some v else none)

/-- The address of slot `n` of a ring (R103, R104). -/
def Ring.slotAt (r : Ring) (n : Nat) : Word := r.base + word (16 * (n % r.slots))

/-- The die adapter stops an arc for good at slot `n` of its ring, with the token that it holds, if it holds one (R104, R425,
R426, R430). -/
def State.adapterFault (s : State) (t g n : Nat) (held : Option Token) : State :=
  let a := s.arcAt t g
  let s1 := s.raise .memSpillFault
    { origin := .adapter, ctx := s.tileCtx t, pos := a.key / 128 + a.key % 128 / 2 * 2 ^ 11,
      addr := match a.ring with | none => 0 | some r => r.slotAt n, tok0 := held, clock := some (tileCluster t) }
  (s1.setArcAt t g { a with stopped := true }).freeze (s.tile t).launch .memSpillFault

/-- The place of slot `n` of a ring (R103, R104). -/
def State.ringPlace (s : State) (t : Nat) (r : Ring) (n : Nat) (k : AccKind) : Option Nat :=
  let a := bits (r.slotAt n).toNat 0 52
  match s.translate ((s.tileCtx t).getD 0) false a with
  | .error _ => none
  | .ok e => if e.allows k then some (dpaLoc (e.base + a % 2 ^ e.log2)) else none

/-- The token in a ring slot; a poisoned granule poisons a data token (R32, R88, R89). -/
def State.ringToken (s : State) (loc : Nat) : Token :=
  let b := (memRead s.mem (loc + 8)).toNat
  let kind : TokKind := if b % 4 = 0 then .data else if b % 4 = 1 then .eos else .reconf
  { data := word (memNat s.mem loc 8), kind := kind,
    psn := kind == .data && (b / 4 % 2 == 1 || (s.dataError loc 16).isSome) }

/-- The first token of an arc wherever it stands: in the FIFO, in the spill ring, or on its way (R90, R91). -/
def State.firstOf (s : State) (t g : Nat) : Option Token :=
  let a := s.arcAt t g
  let spilled := a.ring.bind (fun r => if r.rd < r.wr then (s.ringPlace t r r.rd .read).map s.ringToken else none)
  (a.queue.head?.orElse (fun _ => spilled)).orElse (fun _ => a.transit.head?.map (fun k => k.2))

/-- A token reaches the consumer's die: it joins the arc's queue, or its ring when the FIFO is full or the ring holds
tokens (R103). -/
def State.arrives (s : State) (t g : Nat) (k : Token) : State :=
  let a := s.arcAt t g
  match a.ring with
  | none => s.setArcAt t g { a with queue := a.queue ++ [k] }
  | some r =>
    if r.wr = r.rd ∧ a.queue.length < 64 then s.setArcAt t g { a with queue := a.queue ++ [k] }
    else match s.ringPlace t r r.wr .write with
      | none => s.adapterFault t g r.wr (some k)
      | some l =>
        let s1 := s.storeBytes l (leBytes 8 k.data.toNat ++ leBytes 8 k.kindBits)
        (s1.setArcAt t g { a with ring := some { r with wr := r.wr + 1 } }).bumpCounter (a.key / 128) 5 1

/-- Places a token from tile `src` on target `g` of tile `t`: a token for the same tile crosses no link. -/
def State.send (s : State) (src t g : Nat) (k : Token) : State :=
  if g = noTarget then s
  else if src = t then s.arrives t g k
  else
    let a := s.arcAt t g
    s.setArcAt t g { a with transit := a.transit ++ [(src, k)] }

def State.sendAll (s : State) (src t g : Nat) (ks : List Token) : State := ks.foldl (fun st k => st.send src t g k) s

/-! ### Inputs and debug holds -/

/-- A debug hold on an input is in force (R433). -/
def State.inputHeld (s : State) (t g : Nat) : Bool :=
  s.seqs.any (fun q => q.2.dhold.any (fun d =>
    d.2.getLsbD 20 && bits d.2.toNat 0 11 == t && bits d.2.toNat 11 9 == g &&
      (match q.2.launch with
       | none => false
       | some l => (s.tile t).launch == some l)))

/-- The token at the head of an input, unless a debug hold keeps it. -/
def State.headAt (s : State) (t g : Nat) : Option Token := if s.inputHeld t g then none else (s.arcAt t g).queue.head?

/-- Dequeues the head of an input; the credit returns (R90). -/
def State.dequeue (s : State) (t g : Nat) : State :=
  let a := s.arcAt t g
  s.setArcAt t g { a with queue := a.queue.drop 1 }

/-! ### The running element -/

def slotTarget (i p : Nat) : Nat := 4 * i + p
def recTarget (q p : Nat) : Nat := 256 + 4 * q + p

def State.curT (s : State) : Tile := s.tile s.curTile
def Tile.slotSt (v : Tile) (i : Nat) : SlotState := tabGet v.slots i SlotState.reset
def Tile.recSt (v : Tile) (q : Nat) : RecState := tabGet v.recs q RecState.reset
def State.slotSt (s : State) : SlotState := s.curT.slotSt s.curSlot
def State.setSlotSt (s : State) (v : SlotState) : State :=
  let t := s.curT
  s.setTile s.curTile { t with slots := tabPut t.slots s.curSlot v }
def State.recSt (s : State) : RecState := s.curT.recSt s.curSlot
def State.setRecSt (s : State) (v : RecState) : State :=
  let t := s.curT
  s.setTile s.curTile { t with recs := tabPut t.recs s.curSlot v }

/-- ORs flags into the running tile's set (R115, R159). -/
def State.orFlags (s : State) (f : Flags) : State :=
  let t := s.curT
  s.setTile s.curTile { t with flags := t.flags ||| f }

/-- The tile's region runs and the tile's invocation has begun (R100). -/
def State.tileRuns (s : State) (t : Nat) : Bool := (s.tileLaunch t).isSome && (s.tile t).active

/-- The running slot may act: it has not ended, stopped or been held. -/
def State.slotLive (s : State) : Bool :=
  let v := s.slotSt
  s.tileRuns s.curTile && !v.stopped && !v.ended

def State.recLive (s : State) : Bool :=
  let v := s.recSt
  s.tileRuns s.curTile && !v.stopped && !v.ended

/-! ### Power (R96, R412, R413) -/

/-- The cost of a firing whose category costs `base`, in a block of the tile's class. -/
def Plane.cost (p : Plane) (base : Nat) : Nat := ceilDiv (base * (4 + p.pclass.toNat)) 4

def State.canPay (s : State) (base : Nat) : Bool := s.curT.plane.cost base ≤ s.curT.pool

/-- One slot firing takes its cost from the pool. -/
def State.pay (s : State) (base : Nat) : State :=
  let t := s.curT
  (s.setTile s.curTile { t with pool := t.pool - t.plane.cost base, lastGrant := s.curSlot }).bumpCounter s.curTile 0 1

/-- Slices of a W code (R135). -/
def slices (w : Nat) : Nat := match w with | 1 => 2 | 2 => 4 | 3 => 8 | _ => 1

/-! ### Faults of a slot or record (R426, R430) -/

/-- The report of slot or record `i` of tile `t`, with the heads of its inputs: the tokens that have arrived there, or for a
stray token the first of the whole arc (R425, R450). -/
def State.tileReport (s : State) (t i : Nat) (isRec : Bool) (input : Nat) (addr : Word) (stop : Bool) (stray : Bool := false) :
    Report :=
  let p := (s.tile t).plane
  let target (k : Nat) : Nat := (if isRec then 256 else 0) + 4 * i + k
  let head (k : Nat) : Option Token := if stray then s.firstOf t (target k) else (s.arcAt t (target k)).queue.head?
  let w : Word :=
    if isRec then p.recs.getD i 0
    else if (p.slotWord i).getLsbD 21 then p.slotWord (i + 1) ++ p.slotWord i else (p.slotWord i).setWidth 64
  { origin := .tile, ctx := s.tileCtx t, pos := t + i * 2 ^ 11 + isRec.toNat * 2 ^ 17 + input * 2 ^ 18, stop := stop,
    cfgw := w, addr := addr, tok0 := head 0, tok1 := head 1, tok2 := head 2, clock := some (tileCluster t) }

/-- The running slot faults and stops for good; its launch freezes (R430, R431). -/
def State.slotFault (s : State) (c : Cause) (input : Nat := 3) (addr : Word := 0) : Out :=
  let s1 := s.raise c (s.tileReport s.curTile s.curSlot false input addr true)
  .next ((s1.setSlotSt { s1.slotSt with stopped := true }).freeze s.curT.launch c)

/-- The running route record faults and stops for good. -/
def State.recFault (s : State) (c : Cause) (input : Nat := 3) : Out :=
  let s1 := s.raise c (s.tileReport s.curTile s.curSlot true input 0 true)
  .next ((s1.setRecSt { s1.recSt with stopped := true }).freeze s.curT.launch c)

/-- A record of the running element that is not yet written keeps it stopped (R429). -/
def State.tileRecordWaits (s : State) (t i : Nat) (isRec : Bool) : Bool :=
  s.records.any (fun r => r.origin == .tile && bits r.pos 0 18 == t + i * 2 ^ 11 + isRec.toNat * 2 ^ 17)

/-! ### Launch control of a region (R432 to R434, R448) -/

/-- RELEASE: every hold of R434 of the launch that the sequencer steers proceeds once. -/
def execRelease (seq : Nat) (s : State) : Out :=
  match s.seqLaunch seq with
  | none => .next s
  | some l =>
    let free (v : SlotState) : SlotState := if v.held then { v with released := true } else v
    let tile (v : Tile) : Tile := if v.launch = some l then { v with slots := v.slots.map (fun p => (p.1, free p.2)) } else v
    .next { s with tiles := s.tiles.map (fun p => (p.1, tile p.2)) }

/-- WGO ends the weight hold (R448). -/
def execWgo (seq : Nat) (s : State) : Out :=
  match s.seqLaunch seq with
  | none => .next s
  | some l => match s.launch l with
    | none => .next s
    | some v => .next (s.setLaunch l { v with whold := false })

/-- DHOLD_WRITE: ignored while DEBUG is clear, and for a tile outside the region or a target that names no used input; a
clear EN ends the hold (R433). -/
def execDholdWrite (seq k : Nat) (value : BitVec 64) (s : State) : Out :=
  let q := s.seq seq
  let t := bits value.toNat 0 11
  let g := bits value.toNat 11 9
  match (s.seqLaunch seq).bind s.launch with
  | none => .next s
  | some v =>
    if v.debug && v.covers t && t < 1536 && (s.tile t).plane.used g && k < 4 then
      .next (s.setSeq seq { q with dhold := tabPut q.dhold k (value &&& 0x1FFFFF) })
    else .next s

end Sys2Proof.Machine
end

