-- ==== Sys2Proof/Machine/Power.lean ====
section
/-!
DEFINITION. Power tokens, bias, margins and temperature (R412, R415 to R423).
-/
namespace Sys2Proof.Machine
open Sys2Proof

/-- Tokens per tile per interval of a class (R412). -/
def rate (c : Nat) : Nat := 14500 * (c + 1)

/-- A tile takes the grant of interval `n`: of a running launch that it had joined by the interval's start, once (R412, R415). -/
def State.grantTile (s : State) (n : Nat) (t : Tile) : Tile :=
  match t.launch.bind s.launch with
  | none => t
  | some l => if l.runs && l.joined ≤ 2000 * n && t.granted ≤ n then { t with pool := rate l.pclass, granted := n + 1 } else t

/-- POWER_GRANT: within 50 ticks of an interval's start the grant reaches the tiles that it is not late for (R412, R415). -/
def execPowerGrant (s : State) : Out :=
  let n := s.now / 2000
  if 2000 * n + 50 < s.now then .next s
  else
    .next { s.bump with tiles := s.tiles.map (fun p =>
      (p.1, if Config.grantLate s.choice p.1 then p.2 else s.grantTile n p.2)) }

/-- Every tile has the grant of interval `n`, whose 50 ticks have passed (R412). -/
def State.grantAll (s : State) (n : Nat) : State := { s with tiles := s.tiles.map (fun p => (p.1, s.grantTile n p.2)) }

/-! ### Body bias (R417) -/

/-- The device-wide cluster `c` lies under a launch's region. -/
def Launch.onCluster (l : Launch) (c : Nat) : Bool := l.tiles.any (fun t => tileCluster t == c)

/-- BODY_BIAS_CHANGE: reverse bias on a cluster that has held no running launch for 100 µs. -/
def execBodyBiasChange (cluster : Nat) (s : State) : Out :=
  let p := s.power
  let held := s.launches.any (fun l => l.2.live && l.2.onCluster cluster)
  if 16 ≤ cluster || held || p.reverse.contains cluster || s.now < tabGet p.idle cluster 0 + 100000 then .next s
  else .next { s with power := { p with reverse := cluster :: p.reverse, settling := tabDel p.settling cluster } }

/-- The clusters of a region that are not ready for a launch leave reverse bias and settle. -/
def State.wakeClusters (s : State) (l : Launch) : State :=
  let p := s.power
  let wake := p.reverse.filter l.onCluster
  { s with power := { p with reverse := p.reverse.filter (fun c => !l.onCluster c),
                             settling := wake.foldl (fun t c => tabPut t c s.now) p.settling } }

/-- Every cluster of a region has its forward or zero bias. -/
def State.biasReady (s : State) (l : Launch) : Bool :=
  !s.power.reverse.any l.onCluster && !s.power.settling.any (fun p => l.onCluster p.1)

/-- BODY_BIAS_SETTLED. -/
def execBodyBiasSettled (cluster : Nat) (s : State) : Out :=
  .next { s with power := { s.power with settling := tabDel s.power.settling cluster } }

/-! ### Margins (R416, R418) -/

/-- Dies that are in adaptive mode follow ADAPT; a die in guard mode has no supply of its own. During recovery every die stays
in guard mode (R418). -/
def State.setAdapt (s : State) (bits : BitVec 4) : State :=
  let v := if s.stage = 4 then 0 else bits
  { s with ctl := { s.ctl with adapt := v }, power := { s.power with supply := s.power.supply.filter (fun p => v.getLsbD p.1) } }

/-- ADAPT: the die's bit sets, and it is in adaptive mode (R418). -/
def execAdapt (die : Nat) (s : State) : Out :=
  if 4 ≤ die then .next s else .next (s.setAdapt (s.ctl.adapt ||| (1#4 <<< die)))

/-- SUPPLY_ADJUST: an adaptive die adjusts its supply, or returns to guard mode with a record (R418, DESIGN CHOICE, log 22). -/
def execSupplyAdjust (die : Nat) (s : State) : Out :=
  if 4 ≤ die || !s.ctl.adapt.getLsbD die then .next s
  else if Config.marginOut s.choice then
    .next ((s.bump.setAdapt (s.ctl.adapt &&& ~~~ (1#4 <<< die))).raise .mchMarginLow
      { origin := .complex, ctx := none, pos := 0xFFF, stop := false })
  else
    .next { s.bump with power := { s.power with supply := tabPut s.power.supply die (Config.supply s.choice) } }

/-! ### Temperature (R421, R422) -/

def State.warn (s : State) : Bool := s.ctl.therm.getLsbD 40
def State.saving (s : State) : Bool := s.ctl.therm.getLsbD 41

/-- The hottest of the listed sensors; sensor c < 16 is that of cluster c and 16 that of the I/O die. -/
def State.hottest (s : State) (l : List Nat) : Nat :=
  l.foldl (fun a i => max a (tabGet s.power.sensors i 0).toNat) 0

/-- THERM with given WARN and SAVING. -/
def State.setTherm (s : State) (warn saving : Bool) : State :=
  let die (d : Nat) : Nat := s.hottest [4 * d, 4 * d + 1, 4 * d + 2, 4 * d + 3] * 2 ^ (8 * d)
  let v := die 0 + die 1 + die 2 + die 3 + s.hottest [16] * 2 ^ 32 + warn.toNat * 2 ^ 40 + saving.toNat * 2 ^ 41
  { s with ctl := { s.ctl with therm := word v } }

def State.anyRuns (s : State) : Bool := s.launches.any (fun l => l.2.runs)

/-- THERMAL_WARN: a sensor reports its temperature; at 105 °C the warning is in force, every context with a running launch
gets a record, and the emergency save begins; at 120 °C the analog trip is under way, and takes at most 1 µs (R421 to R423). -/
def execThermalWarn (sensor : Nat) (celsius : BitVec 8) (s : State) : Out :=
  if 17 ≤ sensor then .next s
  else
    let trip := if 120 ≤ celsius.toNat then s.power.trip.getD (s.now + 1000) else 0
    let s1 : State := { s with power := { s.power with
      sensors := tabPut s.power.sensors sensor celsius, trip := if 120 ≤ celsius.toNat then some trip else s.power.trip } }
    if s1.warn || celsius.toNat < 105 then .next (s1.setTherm s1.warn s1.saving)
    else
      let ctxs := ((s1.launches.filter (fun l => l.2.runs)).map (fun l => l.2.ctx)).eraseDups
      let s2 := ctxs.foldl (fun st c => st.complexRaise (some c) .mchThermalWarn 0xFFF) s1
      .next (s2.setTherm true s2.anyRuns)

/-- THERMAL_WARN_CLEAR: every sensor has fallen below 95 °C (R421). -/
def execThermalWarnClear (s : State) : Out :=
  if s.warn && s.hottest (List.range 17) < 95 then .next (s.setTherm false s.saving) else .next s

end Sys2Proof.Machine
end

