-- ==== Sys2Proof/Machine/Sha.lean ====
section
/-!
DEFINITION. SHA3-256, KMAC128 and SHAKE, which the spec names and does not define (R61, R461, R462, R465): taken from FIPS 202 and
SP 800-185 (PRESUMED, log 13).
-/
namespace Sys2Proof.Machine
open Sys2Proof

/-- A state of 25 lanes, lane `x + 5 y`. -/
abbrev Lanes := List Word

def laneAt (a : Lanes) (i : Nat) : Word := a.getD i 0

def rotl (w : Word) (n : Nat) : Word := w.rotateLeft n

/-- Rotation offsets of rho, in lane order. -/
def rhoOffsets : List Nat :=
  [0, 1, 62, 28, 27, 36, 44, 6, 55, 20, 3, 10, 43, 25, 39, 41, 45, 15, 21, 8, 18, 2, 61, 56, 14]

/-- The bit of the round-constant generator after `t` steps. -/
def rcBits : Nat → Nat → List Bool
  | 0, _ => []
  | n + 1, r => decide (r % 2 = 1) :: rcBits n (if 128 ≤ r then Nat.xor (r * 2 % 256) 0x71 else r * 2)

/-- The round constant of round `i`: bit `2 ^ j - 1` is generator bit `j + 7 i`. -/
def roundConst (i : Nat) : Word :=
  let bs := rcBits 168 1
  (List.range 7).foldl (fun a j => if bs.getD (j + 7 * i) false then a ^^^ (1#64 <<< (2 ^ j - 1)) else a) 0

def keccakRound (a : Lanes) (i : Nat) : Lanes :=
  let c (x : Nat) : Word := (List.range 5).foldl (fun v y => v ^^^ laneAt a (x % 5 + 5 * y)) 0
  let t := (List.range 25).map (fun k => laneAt a k ^^^ c (k % 5 + 4) ^^^ rotl (c (k % 5 + 1)) 1)
  let r := (List.range 25).map (fun k => rotl (laneAt t k) (rhoOffsets.getD k 0))
  let b (x y : Nat) : Word := laneAt r ((x + 3 * y) % 5 + 5 * x)
  (List.range 25).map (fun k =>
    let x := k % 5
    let y := k / 5
    let v := b x y ^^^ (~~~ b ((x + 1) % 5) y &&& b ((x + 2) % 5) y)
    if k = 0 then v ^^^ roundConst i else v)

def keccakF (a : Lanes) : Lanes := (List.range 24).foldl keccakRound a

/-- Absorbs one block of `8 n` bytes. -/
def absorbBlock (a : Lanes) (n : Nat) (block : List Byte) : Lanes :=
  keccakF ((List.range 25).map (fun k =>
    if k < n then laneAt a k ^^^ word (leNat ((block.drop (8 * k)).take 8)) else laneAt a k))

/-- The sponge of rate `8 n` bytes over padded blocks; `fuel` bounds their number. -/
def absorb (a : Lanes) (n : Nat) : Nat → List Byte → Lanes
  | 0, _ => a
  | fuel + 1, bs => if bs.isEmpty then a else absorb (absorbBlock a n (bs.take (8 * n))) n fuel (bs.drop (8 * n))

/-- Output of a sponge, `n` blocks of `rate` bytes. -/
def squeeze (rate : Nat) (a : Lanes) : Nat → List Byte
  | 0 => []
  | n + 1 => (a.flatMap (fun w => leBytes 8 w.toNat)).take rate ++ squeeze rate (keccakF a) n

/-- The sponge of `rate` bytes over a message with the pad of a domain suffix byte to a whole block. -/
def sponge (rate : Nat) (suffix : Byte) (msg : List Byte) (out : Nat) : List Byte :=
  let k := rate - msg.length % rate
  let pad : List Byte := if k = 1 then [suffix ||| 0x80] else suffix :: (List.replicate (k - 2) 0 ++ [0x80])
  let bs := msg ++ pad
  let a := absorb (List.replicate 25 0) (rate / 8) (bs.length / rate) bs
  (squeeze rate a (ceilDiv out rate)).take out

/-- SHA3-256 of bytes. -/
def sha3 (msg : List Byte) : List Byte := sponge 136 0x06 msg 32

/-- The bytes of a number, most significant first, without leading zeros but at least one. -/
def beBytes (v : Nat) : List Byte :=
  let n := if v < 256 then 1 else if v < 65536 then 2 else if v < 2 ^ 24 then 3 else if v < 2 ^ 32 then 4 else 8
  (leBytes n v).reverse

def leftEncode (v : Nat) : List Byte := BitVec.ofNat 8 (beBytes v).length :: beBytes v
def rightEncode (v : Nat) : List Byte := beBytes v ++ [BitVec.ofNat 8 (beBytes v).length]
def encodeString (bs : List Byte) : List Byte := leftEncode (8 * bs.length) ++ bs
def bytepad (bs : List Byte) (w : Nat) : List Byte :=
  let z := leftEncode w ++ bs
  z ++ List.replicate ((w - z.length % w) % w) 0

/-- ASCII bytes of a string. -/
def ascii (t : String) : List Byte := t.toList.map (fun c => BitVec.ofNat 8 c.toNat)

/-- KMAC128 of a message under a key and a customisation string, `out` bytes long (R61). -/
def kmac128 (key msg : List Byte) (out : Nat) (custom : List Byte) : List Byte :=
  sponge 168 0x04
    (bytepad (encodeString (ascii "KMAC") ++ encodeString custom) 168 ++ bytepad (encodeString key) 168 ++ msg ++
      rightEncode (8 * out)) out

/-- SHAKE128 and SHAKE256 of bytes, `out` bytes long. -/
def shake128 (msg : List Byte) (out : Nat) : List Byte := sponge 168 0x1F msg out
def shake256 (msg : List Byte) (out : Nat) : List Byte := sponge 136 0x1F msg out

/-- What ML-DSA in its pure form signs for a message and a context string (R462). -/
def signed (custom msg : List Byte) : List Byte := 0 :: BitVec.ofNat 8 custom.length :: (custom ++ msg)

end Sys2Proof.Machine
end

