-- ==== Sys2Proof/Machine/Mldsa.lean ====
section
/-!
DEFINITION. ML-DSA-44, which the spec names by its standard, FIPS 204 (R459, R461, R462, R463, R465): key generation,
signing and verification, in the pure form (PRESUMED, log 56).
-/
namespace Sys2Proof.Machine
open Sys2Proof

/-! ### Polynomials over the integers modulo q -/

def mlQ : Nat := 8380417

/-- 256 coefficients below q: of a polynomial, or its values at the 256 roots. -/
abbrev Poly := List Nat

def polyAdd (a b : Poly) : Poly := List.zipWith (fun x y => (x + y) % mlQ) a b
def polySub (a b : Poly) : Poly := List.zipWith (fun x y => (x + mlQ - y % mlQ) % mlQ) a b
def polyMul (a b : Poly) : Poly := List.zipWith (fun x y => x * y % mlQ) a b

/-- The exponent of ζ = 1753 at root `i`: twice the eight bits of `i` reversed, plus one. -/
def rootExp (i : Nat) : Nat := 2 * (List.range 8).foldl (fun v j => v + i / 2 ^ j % 2 * 2 ^ (7 - j)) 0 + 1

/-- The roots, and their inverses: ζ has the order 512. -/
def mlRoots : List Nat := (List.range 256).map (fun i => 1753 ^ rootExp i % mlQ)
def mlInverses : List Nat := (List.range 256).map (fun i => 1753 ^ (512 - rootExp i) % mlQ)

/-- NTT: the values of a polynomial at the roots. -/
def ntt (w : Poly) : Poly := mlRoots.map (fun r => w.foldr (fun c v => (c + r * v) % mlQ) 0)

/-- Coefficients 256 − n to 255 of the polynomial whose values are given, the inverse roots' powers taken in. -/
def nttSums (v : Poly) : Nat → Poly
  | 0 => []
  | n + 1 => 8347681 * (v.foldl (· + ·) 0) % mlQ :: nttSums (polyMul v mlInverses) n

/-- The inverse of NTT; 8347681 is the inverse of 256. -/
def nttInv (v : Poly) : Poly := nttSums v 256

/-- A matrix of values times a vector of values. -/
def matVec (a : List (List Poly)) (v : List Poly) : List Poly :=
  a.map (fun row => (List.zipWith polyMul row v).foldl polyAdd (List.replicate 256 0))

/-- The distance of a coefficient from zero modulo q. -/
def mlAbs (x : Nat) : Nat := min (x % mlQ) (mlQ - x % mlQ)

/-- Every coefficient of a vector lies closer to zero than `bound`. -/
def shortVec (v : List Poly) (bound : Nat) : Bool := v.all (fun p => p.all (fun x => decide (mlAbs x < bound)))

/-- A signed number modulo q. -/
def modQ (x : Int) : Nat := (x % (mlQ : Int)).toNat

/-! ### Bits of coefficients -/

/-- Coefficients of `w` bits each as bytes, and back. -/
def packPoly (w : Nat) (p : Poly) : List Byte := leBytes (32 * w) (p.foldr (fun x v => x + 2 ^ w * v) 0)
def unpackPoly (w : Nat) (bs : List Byte) : Poly := (List.range 256).map (fun i => leNat bs / 2 ^ (w * i) % 2 ^ w)

/-- Piece `i` of `n` bytes. -/
def piece (n i : Nat) (bs : List Byte) : List Byte := (bs.drop (n * i)).take n

/-- Masks and responses: 2^17 less a number of 18 bits. -/
def unpackMask (bs : List Byte) : Poly := (unpackPoly 18 bs).map (fun x => (mlQ + 2 ^ 17 - x) % mlQ)
def packMask (p : Poly) : List Byte := packPoly 18 (p.map (fun x => (2 ^ 17 + mlQ - x) % mlQ))

/-- Decompose: the high bits r1 and the signed low bits r0 in units of 2 γ2 = 190464. -/
def decompose (r : Nat) : Nat × Int :=
  let lo := r % 190464
  let r0 : Int := if lo ≤ 95232 then lo else (lo : Int) - 190464
  if (r : Int) - r0 = 8380416 then (0, r0 - 1) else ((((r : Int) - r0) / 190464).toNat, r0)

def highBits (r : Nat) : Nat := (decompose (r % mlQ)).1

/-- UseHint: the high bits that a hint corrects, of 44. -/
def useHint (h : Bool) (r : Nat) : Nat :=
  let (r1, r0) := decompose (r % mlQ)
  if !h then r1 else if 0 < r0 then (r1 + 1) % 44 else (r1 + 43) % 44

/-- Power2Round: the high bits t1 and the low bits t0 modulo q, of 13 bits. -/
def power2Round (r : Nat) : Nat × Nat :=
  let lo := r % 8192
  if lo ≤ 4096 then (r / 8192, lo) else (r / 8192 + 1, mlQ + lo - 8192)

/-! ### Sampling -/

/-- Bytes in threes, as numbers of 23 bits. -/
def triples : List Byte → List Nat
  | a :: b :: c :: rest => (a.toNat + 256 * b.toNat + 65536 * (c.toNat % 128)) :: triples rest
  | _ => []

/-- RejNTTPoly: the first 256 triples below q; 448 are drawn. -/
def rejNtt (seed : List Byte) : Poly := ((triples (shake128 seed 1344)).filter (· < mlQ)).take 256

/-- RejBoundedPoly: the first 256 half bytes below 15, each 2 − (b mod 5); 1088 are drawn. -/
def rejBounded (seed : List Byte) : Poly :=
  let hs := (shake256 seed 544).flatMap (fun b => [b.toNat % 16, b.toNat / 16])
  ((hs.filter (· < 15)).take 256).map (fun h => (mlQ + 2 - h % 5) % mlQ)

def byte (n : Nat) : Byte := BitVec.ofNat 8 n

/-- ExpandA: four rows of four polynomials, as their values. -/
def expandA (rho : List Byte) : List (List Poly) :=
  (List.range 4).map (fun r => (List.range 4).map (fun c => rejNtt (rho ++ [byte c, byte r])))

/-- SampleInBall: places 217 to 255 take turns; each draws the next byte that is not above its place. -/
def ballStep (signs : Nat) : Nat → List Byte → Poly → Poly
  | _, [], c => c
  | 0, _, c => c
  | n + 1, b :: rest, c =>
    let i := 256 - (n + 1)
    if i < b.toNat then
      ballStep signs (n + 1) rest c
    else
      ballStep signs n rest ((c.set i (c.getD b.toNat 0)).set b.toNat (if signs / 2 ^ (38 - n) % 2 = 1 then mlQ - 1 else 1))

/-- The challenge polynomial of a commitment; 264 bytes are drawn after the eight of signs. -/
def sampleInBall (seed : List Byte) : Poly :=
  let bs := shake256 seed 272
  ballStep (leNat (bs.take 8)) 39 (bs.drop 8) (List.replicate 256 0)

/-! ### Keys -/

/-- A private key, as KeyGen makes it. -/
structure MlKey where
  pub : List Byte
  rho : List Byte
  k : List Byte
  s1 : List Poly
  s2 : List Poly
  t0 : List Poly
  deriving DecidableEq, Repr

/-- KeyGen from a seed of 32 bytes. -/
def mlKeyGen (seed : List Byte) : MlKey :=
  let h := shake256 (seed ++ [4, 4]) 128
  let rho := h.take 32
  let small (i : Nat) : Poly := rejBounded ((h.drop 32).take 64 ++ leBytes 2 i)
  let s1 := (List.range 4).map small
  let s2 := (List.range 4).map (fun i => small (i + 4))
  let t := List.zipWith polyAdd ((matVec (expandA rho) (s1.map ntt)).map nttInv) s2
  { pub := rho ++ t.flatMap (fun p => packPoly 10 (p.map (fun x => (power2Round x).1))), rho := rho, k := h.drop 96, s1 := s1,
    s2 := s2, t0 := t.map (fun p => p.map (fun x => (power2Round x).2)) }

/-- The digest μ of a formatted message under a public key. -/
def mlMu (pub msg : List Byte) : List Byte := shake256 (shake256 pub 64 ++ msg) 64

/-- The commitment hash of high bits. -/
def mlCommit (mu : List Byte) (w1 : List Poly) : List Byte := shake256 (mu ++ w1.flatMap (packPoly 6)) 32

/-! ### Signing -/

/-- The 84 bytes of a hint: the places of its ones, and where each polynomial's end. -/
def packHint (h : List (List Bool)) : List Byte :=
  let places := h.map (fun p => (List.range 256).filter (fun j => p.getD j false))
  let all := places.flatten
  all.map byte ++ List.replicate (80 - all.length) 0 ++
    (List.range 4).map (fun i => byte ((places.take (i + 1)).flatten).length)

/-- One attempt at a signature with the mask seed `rpp` and counter `kappa`; none where FIPS 204 rejects it. -/
def mlAttempt (sk : MlKey) (mu rpp : List Byte) (kappa : Nat) : Option (List Byte) :=
  let y := (List.range 4).map (fun r => unpackMask (shake256 (rpp ++ leBytes 2 (kappa + r)) 576))
  let w := (matVec (expandA sk.rho) (y.map ntt)).map nttInv
  let ct := mlCommit mu (w.map (fun p => p.map highBits))
  let c := ntt (sampleInBall ct)
  let times (v : List Poly) : List Poly := v.map (fun p => nttInv (polyMul c (ntt p)))
  let z := List.zipWith polyAdd y (times sk.s1)
  let wc := List.zipWith polySub w (times sk.s2)
  let ct0 := times sk.t0
  let h := List.zipWith (fun a b => List.zipWith (fun x u => highBits (x + u) != highBits x) a b) wc ct0
  let ones := (h.flatten.filter id).length
  if !shortVec z (2 ^ 17 - 78) || wc.any (fun p => p.any (fun x => decide (95232 - 78 ≤ (decompose x).2.natAbs))) ||
      !shortVec ct0 95232 || decide (80 < ones) then none
  else some (ct ++ z.flatMap packMask ++ packHint h)

/-- Attempts in turn, at most `n`. -/
def mlAttempts (sk : MlKey) (mu rpp : List Byte) : Nat → Nat → List Byte
  | 0, _ => []
  | n + 1, kappa => match mlAttempt sk mu rpp kappa with
    | some sig => sig
    | none => mlAttempts sk mu rpp n (kappa + 4)

/-- The signature of a formatted message with 32 bytes of randomness; FIPS 204 lets a signer stop after 814 attempts. -/
def mlSign (sk : MlKey) (msg rnd : List Byte) : List Byte :=
  let mu := mlMu sk.pub msg
  mlAttempts sk mu (shake256 (sk.k ++ rnd ++ mu) 64) 814 0

/-! ### Verification -/

/-- The places of a hint between two ends rise strictly. -/
def rising : List Nat → Bool
  | a :: b :: rest => decide (a < b) && rising (b :: rest)
  | _ => true

/-- The ones of polynomial 4 − n and later of a hint, from the end of those before; none for a hint that is not as packHint
writes it. -/
def unpackHint (y : List Nat) : Nat → Nat → Option (List (List Nat))
  | 0, start => if (y.take 80).drop start |>.all (· == 0) then some [] else none
  | n + 1, start =>
    let stop := y.getD (84 - (n + 1)) 0
    let ones := (y.take stop).drop start
    if stop < start ∨ 80 < stop ∨ !rising ones then none
    else (unpackHint y n stop).map (ones :: ·)

/-- Verification of a signature over a formatted message. -/
def mlVerify (pub msg sig : List Byte) : Bool :=
  if pub.length ≠ 1312 ∨ sig.length ≠ 2420 then false
  else match unpackHint ((sig.drop 2336).map BitVec.toNat) 4 0 with
    | none => false
    | some h =>
      let ct := sig.take 32
      let z := (List.range 4).map (fun i => unpackMask (piece 576 i (sig.drop 32)))
      let t1 := (List.range 4).map (fun i => (unpackPoly 10 (piece 320 i (pub.drop 32))).map (· * 8192 % mlQ))
      let c := ntt (sampleInBall ct)
      let w := List.zipWith (fun a t => nttInv (polySub a (polyMul c (ntt t)))) (matVec (expandA (pub.take 32)) (z.map ntt)) t1
      let w1 := List.zipWith (fun p ones => p.mapIdx (fun j x => useHint (ones.contains j) x)) w h
      shortVec z (2 ^ 17 - 78) && decide (ct = mlCommit (mlMu pub msg) w1)

end Sys2Proof.Machine
end

