-- ==== Sys2Proof/Machine/Boot.lean ====
section
/-!
DEFINITION. Cold reset, firmware verification, recovery and retirement (R458 to R460, R469), and the loss of power (R423).
The places of the two firmware copies in the boot flash are the model's (DESIGN CHOICE, log 12).
-/
namespace Sys2Proof.Machine
open Sys2Proof

/-- The boot flash, with copies A and B 8 MiB apart. -/
def flashLoc (off : Nat) : Nat := place 5 off

def fwMAGIC : Nat := 0x0057464E52564E52

/-- Some byte of `n` from a location arrives poisoned (R32, R69, R471). -/
def State.poisonedIn (s : State) (loc n : Nat) : Bool := s.poison.any (fun g => decide (loc / 16 ≤ g) && decide (16 * g < loc + n))

/-- Verifies the firmware image at a location: the boot error of R460, or its SVN and its message (R459, R462). The signature
block follows the body at the next multiple of 8; its last four bytes are ignored (R7). A poisoned header has no MAGIC, and a
poisoned body or block no signature that verifies (R69, R471; DEDUCED, log 12). -/
def State.verifyFirmware (s : State) (loc : Nat) : Except Nat (Nat × List Byte) :=
  let header := memBytes s.mem loc 64
  let len := Config.fwLen header
  if Config.fwMagic header ≠ fwMAGIC ∨ s.poisonedIn loc 64 = true then .error 1
  else if 4 * 2 ^ 20 < len then .error 2
  else
    let msg := sha3 (memBytes s.mem loc (64 + len))
    let block := loc + 64 + ceilDiv len 8 * 8
    let keyId := memBytes s.mem block 32
    let sig := memBytes s.mem (block + 32) 2420
    if s.poisonedIn loc (block + 2452 - loc) = true ∨ keyId ≠ sha3 Config.rootKey ∨ !mlVerify Config.rootKey (signed (ascii "RNVFW1") msg) sig then .error 3
    else if Config.fwSvn header < s.sec.minSvn then .error 4
    else .ok (Config.fwSvn header, msg)

/-- BOOTST from its fields (R460). -/
def bootWord (stage copy svn err : Nat) : Word := word (stage + copy * 2 ^ 4 + svn % 256 * 2 ^ 16 + err * 2 ^ 24)

/-! ### Retirement (R24, R25, R30, R469) -/

/-- The half-mode fields of a stack follow the islands that front its pairs; a stack with a disabled pair in each half is not
exposed and runs in no mode (R18, R30, R31). -/
def Part.half1 (p : Part) (n : Nat) : Part :=
  let base := 64 * (n / 2) + 32 * (n % 2)
  let dead (lo : Nat) : Bool := (List.range 16).any (fun j => !p.islands.getLsbD (base + lo + j))
  let bit : BitVec 8 := 1#8 <<< n
  match dead 0, dead 16 with
  | false, false => p
  | true, false => { p with half := p.half ||| bit, halfSel := p.halfSel ||| bit }
  | false, true => { p with half := p.half ||| bit, halfSel := p.halfSel &&& ~~~ bit }
  | true, true => { p with hbm := p.hbm &&& ~~~ bit, half := p.half &&& ~~~ bit, halfSel := p.halfSel &&& ~~~ bit }

def Part.disableIsland (p : Part) (i : Nat) : Part :=
  Part.half1 { p with islands := p.islands &&& ~~~ (1#256 <<< i) } (2 * (i / 64) + i % 64 / 32)

/-- A cluster with its two sequencers (R25). -/
def Part.disableCluster (p : Part) (c : Nat) : Part :=
  { p with clusters := p.clusters &&& ~~~ (1#16 <<< c), sequencers := p.sequencers &&& ~~~ (3#32 <<< (2 * c)) }

def Part.disablePort (p : Part) (n : Nat) : Part := { p with ports := p.ports &&& ~~~ (1#12 <<< n) }

/-- The spare that a marked unit can take; none for HBM4, which repairs itself. Row 24 d + k is row k of die d, island
64 d + i, lane 4 p + k of port p, and channel 32 n + j of stack n. -/
def spareOf : SvcUnit → Option Nat
  | .tileRow r => some (r / 24)
  | .island n => some (16 + 2 * (n / 64) + n % 64 / 32)
  | .lane n => some (32 + n / 4)
  | .hbmChannel _ => none

/-- One marked unit is retired, or disabled when it has no spare left; an HBM4 stack repairs its own channels (R24, R25, R469). -/
def State.retireUnit (s : State) (u : SvcUnit) : State :=
  match spareOf u with
  | none => s
  | some k =>
    if !s.sec.spares.contains k then { s with sec := { s.sec with spares := k :: s.sec.spares } }
    else match u with
      | .tileRow r => { s with part := s.part.disableCluster (4 * (r / 24) + r % 24 / 6) }
      | .island n => { s with part := s.part.disableIsland n }
      | .lane n => { s with part := s.part.disablePort (n / 4) }
      | .hbmChannel _ => s

/-- SPARE of PORTST follows the spares in use (R273). -/
def State.spareLanes (s : State) : State :=
  (List.range 12).foldl
    (fun st p => if st.sec.spares.contains (32 + p) then st.setPort p { st.port p with spare := true } else st) s

/-! ### The boot sequence -/

/-- What outlives a loss of power or a cold reset: the fuses and the boot flash, and outside the package what the drives and the
host's own memory hold; the boot enumerates the drives' namespaces anew (R458). -/
def State.cold (s : State) : State :=
  let kept (c : Host.Cell) : Bool := decide (place 5 0 ≤ c.1)
  { State.reset with
    turns := s.turns, choice := s.choice, sent := s.sent, part := s.part, mem := s.mem.filter kept,
    sec := { Sec.reset with owner := s.sec.owner, minSvn := s.sec.minSvn, marks := s.sec.marks, spares := s.sec.spares } }

/-- The ROM has verified an image: STAGE 1, with the copy, the SVN and the last error (R458, R460). -/
def State.bootFrom (s : State) (copy err : Nat) (fw : Nat × List Byte) : State :=
  { s with ctl := { s.ctl with bootst := bootWord 1 copy fw.1 err }, sec := { s.sec with svn := fw.1, firmware := fw.2 } }

/-- The ROM tries copy A and then copy B; when both fail it waits for recovery in STAGE 4 (R458). -/
def State.boot (s : State) : State :=
  match s.verifyFirmware (flashLoc 0) with
  | .ok fw => s.bootFrom 0 0 fw
  | .error e => match s.verifyFirmware (flashLoc 0x800000) with
    | .ok fw => s.bootFrom 1 e fw
    | .error e2 => { s with ctl := { s.ctl with bootst := bootWord 4 0 0 e2 } }

/-- BOOTST with another STAGE, or another STAGE and ERR (R460). -/
def State.setStage (s : State) (stage : Nat) (err : Option Nat := none) : State :=
  let b := s.ctl.bootst.toNat
  { s with ctl := { s.ctl with
      bootst := bootWord stage (bits b 4 2) (bits b 16 8) (err.getD (bits b 24 8)) } }

/-- The firmware's turn in the boot (R458): in STAGE 1 it applies the retirements and begins to train, in STAGE 2. There the
training ends well, and STAGE 3 raises the fused minimum SVN (R459), or it fails with ERR 5 and the boot stays where it is
(DESIGN CHOICE, log 12). In STAGE 2 ports come up as their links train (LINK_RETRAINED), and drives show themselves as they
are enumerated (`attach`). -/
def State.bootTurn (s : State) (ok : Bool) : State :=
  match s.stage with
  | 1 =>
    let s1 := (s.sec.marks.foldl State.retireUnit s).spareLanes
    State.setStage { s1 with ctl := { s1.ctl with svcpend := 0 }, sec := { s1.sec with marks := [] } } 2
  | 2 =>
    if ok then
      State.setStage { s with sec := { s.sec with minSvn := max s.sec.minSvn s.sec.svn } } 3
    else s.setStage 2 (some 5)
  | _ => s

/-- A configuration request is answered with Configuration Request Retry Status until STAGE 3, or STAGE 4 (R458). -/
def State.configTurn (s : State) : State := { s with sent := .config (decide (s.stage < 3)) :: s.sent }

/-- COLD_RESET: the device keeps nothing but fuses and the boot flash, and the ROM verifies the firmware, which the later
steps of the boot follow (R458). -/
def execColdReset (s : State) : Out := .next s.cold.boot

/-- RECOVERY_VERIFY: BOOTST.RGO verifies the image in the recovery window, island scratch of die 0 from island 0 (R460). -/
def execRecoveryVerify (s : State) : Out :=
  if s.stage ≠ 4 then .next s
  else match s.verifyFirmware (islandLoc 0 0) with
    | .ok fw => .next (s.bootFrom 2 (bits s.ctl.bootst.toNat 24 8) fw)
    | .error e => .next { s with ctl := { s.ctl with bootst := bootWord 4 0 0 e } }

/-- The package without power: every volatile state is lost, and no record is written (R423, R458). -/
def State.off (s : State) : State := { s.cold with powered := false }

/-- THERMAL_TRIP: once a sensor has reached 120 °C the package loses power; nothing delays it and no record is written (R423). -/
def execThermalTrip (s : State) : Out :=
  if s.power.trip.isSome || s.power.sensors.any (fun p => 120 ≤ p.2.toNat) then .next s.off else .next s

/-- POWER_GOOD_LOSS: every volatile state is lost, and the package is off until the next cold reset (R458). -/
def execPowerGoodLoss (s : State) : Out := .next s.off

/-- The microsecond in which the trip removes power has passed (R423). -/
def State.tripDue (s : State) : Bool := s.power.trip.any (fun d => decide (d ≤ s.now))

/-! ### Wear (R469) -/

/-- The SVCPEND bits of a mark. -/
def markBits (u : SvcUnit) : Nat :=
  match u with
  | .tileRow r => 2 ^ (r / 24)
  | .island n => 2 ^ (4 + n / 64)
  | .lane n => 2 ^ (8 + n / 4)
  | .hbmChannel n => 2 ^ (20 + n / 32)

def unitOk : SvcUnit → Bool
  | .tileRow r => r < 96
  | .island n => n < 256
  | .lane n => n < 48
  | .hbmChannel n => n < 256

/-- The number under which a unit's corrected errors are counted. -/
def unitKey : SvcUnit → Nat
  | .tileRow r => r
  | .island n => 128 + n
  | .lane n => 512 + n
  | .hbmChannel n => 1024 + n

/-- The firmware counts a corrected error of a unit (R32, R69, R469). -/
def State.countCorrected (s : State) (u : SvcUnit) : State :=
  if !unitOk u then s
  else { s with sec := { s.sec with corrected := tabPut s.sec.corrected (unitKey u) (tabGet s.sec.corrected (unitKey u) 0 + 1) } }

/-- SERVICE_MARK: a unit whose corrected-error count has passed its threshold is marked once: the mark goes to SVCPEND and the
boot flash, and vector 0 of the physical function is sent. NOSPARE tells that no spare is left for it, none fused and none
that an earlier mark will take (R469). -/
def execServiceMark (unit : SvcUnit) (s : State) : Out :=
  if !unitOk unit || s.sec.marks.contains unit ||
      decide (tabGet s.sec.corrected (unitKey unit) 0 ≤ Config.threshold (unitKey unit)) then .next s
  else
    let none_ : Bool := (spareOf unit).any (fun k =>
      s.sec.spares.contains k || s.sec.marks.any (fun m => spareOf m == some k))
    let v := s.ctl.svcpend ||| word (markBits unit + (if none_ then 2 ^ 28 else 0))
    let s1 : State :=
      { s with ctl := { s.ctl with svcpend := v }, sec := { s.sec with marks := s.sec.marks ++ [unit] } }
    .next (s1.msix 0 0)

end Sys2Proof.Machine
end

