-- ==== Sys2Proof/Machine/Security.lean ====
section
/-!
DEFINITION. Security requests, keys and attestation (R461 to R465).
-/
namespace Sys2Proof.Machine
open Sys2Proof

/-- The key of a data-key slot: slot 0 is device-provisioned (R61). -/
def State.dataKey (s : State) (slot : Nat) : Option (List Byte) :=
  if slot = 0 then some (leBytes 32 Config.dataKey0.toNat) else tabFind s.sec.dataKeys slot

/-- The public key of an image-key slot: slot 0 is fused (R461). -/
def State.imageKey (s : State) (slot : Nat) : Option (List Byte) :=
  if slot = 0 then some Config.imageKey0 else tabFind s.sec.imageKeys slot

/-- The identity key, which KeyGen derives from the fused seed (R465). -/
def identityKey : MlKey := mlKeyGen (leBytes 32 Config.identitySeed.toNat)

/-- The image key whose digest is a KEYID (R461, R462). -/
def State.imageKeyById (s : State) (keyId : List Byte) : Option (List Byte) :=
  (List.range 16).findSome? (fun i => (s.imageKey i).bind (fun k => if sha3 k = keyId then some k else none))

/-- DCAP: a disabled die disables its clusters and stacks (R25, R26). -/
def Part.dcap (p : Part) : Word :=
  word (p.step.toNat + 2 ^ 4 + p.dies.toNat * 2 ^ 8 + maskOf 16 p.clusterOk * 2 ^ 12 + p.ports.toNat * 2 ^ 28 +
    p.storage.toNat * 2 ^ 40 + maskOf 8 p.stackOk * 2 ^ 42)

/-- MEAS(c) and N(c), both zero at cold reset (R465). -/
def State.measure (s : State) (c : Nat) : List Byte × Nat := tabGet s.sec.meas c (List.replicate 32 0, 0)

/-- An attested image reports loaded under a context (R465). -/
def State.extendMeasure (s : State) (c : Nat) (msg : List Byte) : State :=
  let (m, n) := s.measure c
  { s with sec := { s.sec with meas := tabPut s.sec.meas c (sha3 (m ++ msg), n + 1) } }

/-! ### Requests (R463) -/

/-- The 512-bit request block. -/
def State.reqBlock (s : State) (addr : Word) : Nat := memNat s.mem (hostLoc addr.toNat) 64

/-- STATUS is written last, and the request is no longer pending. -/
def State.reqDone (s : State) (addr : Word) (status : Nat) : State :=
  { s.storeNat (hostLoc (addr.toNat + 8)) 2 status with sec := { s.sec with pending := none } }

/-- The request at `addr` if it is pending and its OP is `op`; a block that no OP names, or with a reserved bit set, gets
STATUS 2. -/
def State.request (s : State) (addr : Word) (op : Nat) (f : Nat → State) : Out :=
  let b := s.reqBlock addr
  let o := bits b 0 8
  if s.sec.pending ≠ some addr then .next s
  else if o = 0 ∨ 8 ≤ o ∨ bits b 24 40 ≠ 0 ∨ (o ≤ 4 ∧ bits b 8 4 = 0) then .next (s.reqDone addr 2)
  else if o ≠ op then .next s
  else .next (f b)

def reqSlot (b : Nat) : Nat := bits b 8 4
def reqPaddr (b : Nat) : Nat := bits b 128 64
def reqPlen (b : Nat) : Nat := bits b 192 32

/-- Payload bytes from `off`. -/
def State.payload (s : State) (b off n : Nat) : List Byte := memBytes s.mem (hostLoc (reqPaddr b + off)) n

/-- Bytes of an ML-DSA-44 public key and signature (FIPS 204). -/
def pkLen : Nat := 1312
def sigLen : Nat := 2420

/-- OP 1 to 4: the payload holds key material of `n` bytes, the owner public key and its signature over the block and the
key material; a payload of another length is a bad request (DESIGN CHOICE, log 12). -/
def State.ownerRequest (s : State) (addr : Word) (n : Nat) (b : Nat) (f : List Byte → State) : State :=
  let key := s.payload b 0 n
  let owner := s.payload b n pkLen
  let sig := s.payload b (n + pkLen) sigLen
  if reqPlen b ≠ n + pkLen + sigLen then s.reqDone addr 2
  else if s.sec.owner ≠ some (sha3 owner) ∨ !mlVerify owner (signed (ascii "RNVOWN1") (leBytes 64 b ++ key)) sig then
    s.reqDone addr 4
  else f key

/-- INSTALL_DATA_KEY (R463). -/
def execInstallDataKey (addr : BitVec 64) (s : State) : Out :=
  s.request addr 1 (fun b => s.ownerRequest addr 32 b (fun key =>
    if (tabFind s.sec.dataKeys (reqSlot b)).isSome then s.reqDone addr 3
    else State.reqDone { s with sec := { s.sec with dataKeys := tabPut s.sec.dataKeys (reqSlot b) key } } addr 1))

/-- ERASE_DATA_KEY (R463). -/
def execEraseDataKey (addr : BitVec 64) (s : State) : Out :=
  s.request addr 2 (fun b => s.ownerRequest addr 32 b (fun _ =>
    if (tabFind s.sec.dataKeys (reqSlot b)).isNone then s.reqDone addr 5
    else State.reqDone { s with sec := { s.sec with dataKeys := tabDel s.sec.dataKeys (reqSlot b) } } addr 1))

/-- INSTALL_IMAGE_KEY (R463). -/
def execInstallImageKey (addr : BitVec 64) (s : State) : Out :=
  s.request addr 3 (fun b => s.ownerRequest addr pkLen b (fun key =>
    if (tabFind s.sec.imageKeys (reqSlot b)).isSome then s.reqDone addr 3
    else State.reqDone { s with sec := { s.sec with imageKeys := tabPut s.sec.imageKeys (reqSlot b) key } } addr 1))

/-- ERASE_IMAGE_KEY (R463). -/
def execEraseImageKey (addr : BitVec 64) (s : State) : Out :=
  s.request addr 4 (fun b => s.ownerRequest addr pkLen b (fun _ =>
    if (tabFind s.sec.imageKeys (reqSlot b)).isNone then s.reqDone addr 5
    else State.reqDone { s with sec := { s.sec with imageKeys := tabDel s.sec.imageKeys (reqSlot b) } } addr 1))

/-- The 256 signed bytes of a report (R465). -/
def State.reportBytes (s : State) (nonce : List Byte) (c t : Nat) : List Byte :=
  let (m, n) := s.measure c
  let fw := if s.sec.firmware.isEmpty then List.replicate 32 0 else s.sec.firmware
  nonce ++ sha3 identityKey.pub ++ fw ++ m ++ leBytes 4 n ++ leBytes 2 c ++
    leBytes 1 (bits s.ctl.bootst.toNat 16 8) ++ leBytes 1 s.part.step.toNat ++ leBytes 8 t ++
    leBytes 8 s.part.dcap.toNat ++ List.replicate 104 0

/-- ATTEST: the payload's nonce is replaced by a signed report (R465). -/
def execAttest (addr : BitVec 64) (s : State) : Out :=
  s.request addr 5 (fun b =>
    if reqPlen b < 32 then s.reqDone addr 2
    else
      let (t, s1) := s.readTime s.coreClock
      let r := s.reportBytes (s.payload b 0 32) (bits b 12 12) t.toNat
      let sig := mlSign identityKey (signed (ascii "RNVATT1") r) (leBytes 32 (Config.signRandom s1.choice).toNat)
      (s1.bump.storeBytes (hostLoc (reqPaddr b)) (r ++ sig)).reqDone addr 1)

/-- READ_IDENTITY_CERTIFICATE (R465). -/
def execReadIdentityCertificate (addr : BitVec 64) (s : State) : Out :=
  s.request addr 6 (fun b => (s.storeBytes (hostLoc (reqPaddr b)) Config.certificate).reqDone addr 1)

/-- TAKE_OWNERSHIP: the owner key's digest is fused once in the life of the part (R463). -/
def execTakeOwnership (addr : BitVec 64) (s : State) : Out :=
  s.request addr 7 (fun b =>
    if s.sec.owner.isSome then s.reqDone addr 6
    else if reqPlen b ≠ pkLen then s.reqDone addr 2
    else State.reqDone { s with sec := { s.sec with owner := some (sha3 (s.payload b 0 pkLen)) } } addr 1)

/-- A write of SECREQ by the physical function: ignored while a request is pending. Bits 5:0, which must be zero, act as if
they were (R7, R463; DEDUCED, log 54). -/
def State.writeSecreq (s : State) (v : Word) : State :=
  if s.sec.pending.isSome then s else { s with sec := { s.sec with pending := some (v &&& ~~~ 0x3F#64) } }

end Sys2Proof.Machine
end

