-- ==== Sys2Proof/Machine/Registers.lean ====
section
/-!
DEFINITION. The control path: every register by its offset, and who may write it (R6, R26, R33, R470 and the rules that
each register's line names).
-/
namespace Sys2Proof.Machine
open Sys2Proof

end Sys2Proof.Machine
namespace Sys2Proof
open Machine
/-- The physical function or Maliz firmware. -/
def Agent.trusted : Agent → Bool
  | .pf | .firmware => true
  | _ => false

/-- The function whose BAR2 an access comes through (R384, R470). -/
def Agent.pages : Agent → Option Nat
  | .pfPages => some 0
  | .vf n => some (n + 1)
  | _ => none
end Sys2Proof
namespace Sys2Proof.Machine
open Sys2Proof

/-- A stack runs in half mode (R30, R31). -/
def Part.halfMode (p : Part) (n : Nat) : Bool := p.stackOk n && p.half.getLsbD n

/-- MEMCAP: HALFMASK, and HALFSEL of the stacks in half mode (R31). -/
def Part.memcap (p : Part) : Word :=
  word (maskOf 8 p.halfMode + (List.range 8).foldl
    (fun a n => if p.halfMode n && p.halfSel.getLsbD n then a + 2 ^ (16 + 2 * n) else a) 0)

/-- ISLMAP of die `d` (R26). -/
def Part.islmap (p : Part) (d : Nat) : Word := word (maskOf 64 (fun i => p.islandOk (64 * d + i)))

/-- PORTST (R273). -/
def Port.word (p : Port) : Word :=
  Machine.word (p.up.toNat + p.peer.toNat * 2 + p.spare.toNat * 2 ^ 7 + p.replay.toNat * 2 ^ 16 + p.badflit.toNat * 2 ^ 32)

/-- The recovery window: BAR0 of the physical function in STAGE 4 shows island scratch of die 0, islands 0 to 3 (R460). -/
def State.recoveryAt (s : State) (agent : Agent) (off : Nat) : Option Nat :=
  if agent = .pf ∧ s.stage = 4 ∧ 0x3000000 ≤ off ∧ off < 0x3400000 then some (islandLoc 0 (off - 0x3000000)) else none

/-! ### Launch control (R432, R433) -/

/-- A hold of R434 or R433 is in force in the launch that a sequencer steers. -/
def State.launchHeld (s : State) (n l : Nat) : Bool :=
  s.tiles.any (fun t => t.2.launch == some l && t.2.slots.any (fun v => v.2.held)) ||
    (s.seq n).dhold.any (fun d => d.2.getLsbD 20)

/-- LCTL (R432). -/
def State.lctl (s : State) (n : Nat) : Word :=
  let stop := (s.seq n).stop.isSome.toNat * 2 ^ 3
  match (s.seq n).launch with
  | none => word stop
  | some l => match s.launch l with
    | none => word stop
    | some v => word (stop + v.frozen.toNat * 2 ^ 4 + (s.launchHeld n l).toNat * 2 ^ 5 + v.whold.toNat * 2 ^ 6 +
        v.runs.toNat * 2 ^ 7 + v.ctx * 2 ^ 8 + v.ltag * 2 ^ 20 + (v.lcause.elim 0 Cause.code) * 2 ^ 35)

/-- Applies a step whose answer is a next state. -/
def State.andThen (s : State) (f : State → Out) : State :=
  match f s with
  | .next t => t
  | _ => s

/-- A write of LCTL (R432). -/
def State.writeLctl (s : State) (n : Nat) (v : Word) : State :=
  let s1 := if v.getLsbD 0 then s.andThen (execResume n) else s
  let s2 := if v.getLsbD 1 then s1.andThen (execRelease n) else s1
  if v.getLsbD 2 then s2.andThen (execWgo n) else s2

/-- Firmware, the physical function, and sequencers that steer a launch of the same context write LCTL and DHOLD. -/
def State.mayControl (s : State) (agent : Agent) (n : Nat) : Bool :=
  match agent with
  | .pf | .firmware => true
  | .vf _ | .pfPages => false
  | .sequencer m => s.seqCtx m != none && s.seqCtx m == ((s.seq n).launch.bind s.launch).map Launch.ctx

/-! ### Kick pages (R384) -/

/-- The queue whose kick page an offset of a function's BAR2 reaches: the lowest enabled one. -/
def State.pageQueue (s : State) (func page : Nat) : Option Nat :=
  (s.queues.find? (fun q => q.2.v && q.2.func == func && q.2.page == page)).map (fun q => q.1)

/-- A read of offset `o` of the kick page of queue `q`; QRESET reads zero. -/
def State.readPage (s : State) (q o : Nat) : Word := if o = 0 then (s.queue q).kickWord else 0

/-- A write of a kick page is a cause of work (R381, R384). -/
def State.writePage (s : State) (q o : Nat) (v : Word) : State :=
  if o = 0 then s.ariseKick q v
  else if o = 8 ∧ v.getLsbD 0 = true then s.requestReset q
  else s

/-- In STAGE 4, BAR0 shows BOOTST and the recovery window alone (R460). -/
def State.closed (s : State) (agent : Agent) (off : Nat) : Bool := agent == .pf && s.stage == 4 && off != 0x38

/-! ### Reads -/

/-- The value that `agent` reads at an offset of the control path; an offset that no unit defines reads zero. -/
def State.readReg (s : State) (agent : Agent) (off : Nat) : Word :=
  match agent.pages with
  | some f => (s.pageQueue f (off / 4096)).elim 0 (fun q => s.readPage q (off % 4096))
  | none =>
    match s.recoveryAt agent off with
    | some l => word (memNat s.mem l 8)
    | none =>
      if off % 8 ≠ 0 || s.closed agent off then 0
      else match off with
      | 0x00 => s.part.dcap
      | 0x08 => word (maskOf 32 s.part.seqOk)
      | 0x10 => s.part.islmap 0
      | 0x18 => s.part.islmap 1
      | 0x20 => s.part.islmap 2
      | 0x28 => s.part.islmap 3
      | 0x30 => s.part.memcap
      | 0x38 => s.ctl.bootst
      | 0x40 => s.ctl.stq0
      | 0x48 => s.ctl.stq1
      | 0x50 => s.ctl.domid
      | 0x60 => s.ctl.qtbase
      | 0x68 => s.ctl.frtbase
      | 0x70 => s.ctl.adapt.setWidth 64 <<< 32 ||| s.ctl.pcap.setWidth 64
      | 0x78 => s.ctl.therm
      | 0xE0 => Config.secreq
      | 0xE8 => s.ctl.svcpend
      | 0xF0 => s.ctl.rpctl
      | 0xF8 => s.ctl.rpring
      | _ =>
        if 0x80 ≤ off ∧ off < 0xE0 then (s.port ((off - 0x80) / 8)).word
        else if 0x1000 ≤ off ∧ off < 0x1200 then (tabGet s.net.routes ((off - 0x1000) / 8) 0).setWidth 64
        else if 0x100000 ≤ off ∧ off < 0x110000 then
          let i := s.island ((off - 0x100000) / 256)
          let o := off % 256
          if o = 0 then i.cfgWord else if o ≤ 0x20 then i.ownWord (o / 8 - 1) else 0
        else if 0x800000 ≤ off ∧ off < 0x820000 then
          let n := (off - 0x800000) / 16
          if off % 16 = 0 then s.sem n else (tabGet s.sown n 0).setWidth 64
        else if 0x1000000 ≤ off ∧ off < 0x2000000 then s.readPage ((off - 0x1000000) / 4096) (off % 4096)
        else if 0x2000000 ≤ off ∧ off < 0x2010000 then
          let c := (off - 0x2000000) / 16
          let r := s.ring c
          if off % 16 = 0 then r.pi.setWidth 64
          else word (r.ci.toNat + r.lost.toNat * 2 ^ 32 + (s.ringFull c).toNat * 2 ^ 34)
        else if 0x2020000 ≤ off ∧ off < 0x2020800 then
          let n := (off - 0x2020000) / 64
          let o := off % 64
          if o = 0 then s.lctl n
          else if o ≤ 0x20 then tabGet (s.seq n).dhold (o / 8 - 1) 0
          else 0
        else 0

/-! ### Writes -/

/-- The least value for which the WAIT_GE that an item waits in completes, and its semaphore (R391). -/
def Item.waits (i : Item) : Option (Nat × Nat) :=
  if i.phase ≠ .running then none
  else match i.packets[i.idx]? with
    | some (.waitGe p) => some ((p.body.getD 0 0).toNat % 2 ^ 13, ((p.body.getD 2 0) ++ (p.body.getD 1 0)).toNat)
    | _ => none

/-- VALUE of semaphore `n` becomes `v`, every WAIT_GE that it satisfies has seen it, and each change that one watches is a
cause of work (R381, R390, R391). -/
def State.putSem (s : State) (n : Nat) (v : Word) : State :=
  let sees (i : Item) : Item :=
    match i.waits with
    | some (m, w) => if m = n ∧ w ≤ v.toNat then { i with met := true } else i
    | none => i
  let watching := (s.items.filter (fun p => p.2.waits.any (fun w => w.1 == n))).map (fun p => p.1)
  watching.foldl (fun st k => st.ariseOnce (.semaphore k))
    { s with sems := tabPut s.sems n v, items := s.items.map (fun p => (p.1, sees p.2)) }

/-- Semaphore VALUE takes a store of a sequencer that steers a launch of the owning context (R390). -/
def State.writeSem (s : State) (agent : Agent) (n : Nat) (v : Word) : State :=
  let own := tabGet s.sown n 0
  match agent with
  | .sequencer m =>
    if own.getLsbD 12 && s.seqCtx m == some (bits own.toNat 0 12) then s.putSem n v else s
  | _ => s

/-- The registers that only firmware and the physical function write. -/
def State.writeTrusted (s : State) (off : Nat) (v : Word) : State :=
  let c := s.ctl
  match off with
  | 0x50 => { s with ctl := { c with domid := v &&& 0x7F } }
  | 0x60 => { s with ctl := { c with qtbase := v &&& 0x7FFFFC0000 } }
  | 0x68 => { s with ctl := { c with frtbase := v &&& 0xFFFFFFFFE0000 } }
  | 0x70 => State.setAdapt { s with ctl := { c with pcap := v.setWidth 32 } } (v.extractLsb' 32 4)
  | 0xF0 =>
    let div := c.rpctl &&& 0x4000 &&& ~~~ v
    { s with ctl := { c with rpctl := (v &&& 0x3FFF) ||| div },
             sec := { s.sec with session := s.sec.session + (if v &&& 0x3FFF = c.rpctl &&& 0x3FFF then 0 else 1) } }
  | 0xF8 => { s with ctl := { c with rpring := v }, sec := { s.sec with session := s.sec.session + (if v = c.rpring then 0 else 1) } }
  | _ =>
    if 0x1000 ≤ off ∧ off < 0x1200 then
      { s with net := { s.net with routes := tabPut s.net.routes ((off - 0x1000) / 8) (v.setWidth 5) } }
    else if 0x100000 ≤ off ∧ off < 0x110000 then
      let i := (off - 0x100000) / 256
      let o := off % 256
      if o = 0 then s.andThen (execIslandRepartition i (v.setWidth 5))
      else if o ≤ 0x20 then s.setIsland i ((s.island i).writeOwn (o / 8 - 1) v)
      else s
    else if 0x800000 ≤ off ∧ off < 0x820000 ∧ off % 16 = 8 then
      { s with sown := tabPut s.sown ((off - 0x800000) / 16) (v.setWidth 13) }
    else s

/-- A 64-bit write by `agent`; a write that the register does not take is ignored. -/
def State.writeReg (s : State) (agent : Agent) (off : Nat) (v : Word) : State :=
  match agent.pages with
  | some f => (s.pageQueue f (off / 4096)).elim s (fun q => s.writePage q (off % 4096) v)
  | none =>
    match s.recoveryAt agent off with
    | some l => s.storeNat l 8 v.toNat
    | none =>
      if off % 8 ≠ 0 || s.closed agent off then s
      else if off = 0x38 then (if v.getLsbD 32 && agent == .pf then s.andThen execRecoveryVerify else s)
      else if off = 0x40 ∨ off = 0x48 then
        (match agent with
         | .firmware =>
           if off = 0x40 then { s with ctl := { s.ctl with stq0 := v &&& 0x1FFF } }
           else { s with ctl := { s.ctl with stq1 := v &&& 0x1FFF } }
         | _ => s)
      else if off = 0x58 then s.andThen (execFretry agent v)
      else if off = 0xE0 then (if agent = .pf then s.writeSecreq v else s)
      else if 0x800000 ≤ off ∧ off < 0x820000 ∧ off % 16 = 0 then s.writeSem agent ((off - 0x800000) / 16) v
      else if 0x1000000 ≤ off ∧ off < 0x2000000 then s.writePage ((off - 0x1000000) / 4096) (off % 4096) v
      else if 0x2000000 ≤ off ∧ off < 0x2010000 then
        let c := (off - 0x2000000) / 16
        let own : Bool := match agent with
          | .sequencer m => s.seqCtx m == some c
          | a => a.trusted
        if off % 16 = 8 && own then s.setRing c ((s.ring c).write v) else s
      else if 0x2020000 ≤ off ∧ off < 0x2020800 then
        let n := (off - 0x2020000) / 64
        let o := off % 64
        if !s.mayControl agent n then s
        else if o = 0 then s.writeLctl n v
        else if o ≤ 0x20 then s.andThen (execDholdWrite n (o / 8 - 1) v)
        else s
      else if agent.trusted then s.writeTrusted off v
      else s

/-- REGISTER_WRITE: a write by an agent, with the effect that the register's own rule gives it (R6). -/
def execRegisterWrite (agent : Agent) (offset value : BitVec 64) (s : State) : Out :=
  .next (s.writeReg agent offset.toNat value)

end Sys2Proof.Machine
end

