-- ==== Sys2Proof/Machine/SeqMem.lean ====
section
/-!
DEFINITION. A sequencer's loads, stores, atomics, status branch and fences (R330, R332 to R335), and what an answer from a
peer or from the host does to it (R275, R277, R278, R323).
-/
namespace Sys2Proof.Machine
open Sys2Proof

/-! ### What one access does -/

/-- An access of a sequencer: a read, a write of bytes with release order or without, or an atomic. -/
inductive SeqAcc where
  | read
  | write (bs : List Byte) (release : Bool)
  | atomic (op : Nat) (unsigned : Bool) (x expect : Word)
  deriving DecidableEq, Repr

def SeqAcc.kind : SeqAcc → AccKind
  | .read => .read
  | .write _ _ => .write
  | .atomic _ _ _ _ => .atomic

/-- The access is over: its word goes to its register, or decides the branch (R322, R330). -/
def State.settle (s : State) (n : Nat) (act : Pending) (v : Word) : State :=
  let q := { s.seq n with waiting := none }
  match act with
  | .load rd => s.setSeq n { q.wr rd v with pc := q.pc + 4 }
  | .store => s.setSeq n { q with pc := q.pc + 4 }
  | .test mask off => s.setSeq n { q with pc := if v &&& mask ≠ 0 then branchTarget q.pc off else q.pc + 4 }

/-- A release store sets its granule of tile scratch full (R99). -/
def State.fillGranule (s : State) (a : Word) (release : Bool) : State :=
  if release && pathOf a == 2 then s.setFull (tileOfAddr2 a) (bits a.toNat 0 15 / 16) true else s

/-- The access at a location of a store in the package. -/
def State.seqLocal (s : State) (act : Pending) (acc : SeqAcc) (a : Word) (n loc : Nat) : Out :=
  match acc with
  | .read => match s.dataError loc n with
    | some c => s.fault c a
    | none => .next (s.settle s.curSeq act (word (memNat s.mem loc n)))
  | .write bs release => .next (((s.storeBytes loc bs).fillGranule a release).settle s.curSeq act 0)
  | .atomic op u x e => match s.dataError loc n with
    | some c => s.fault c a
    | none =>
      let old := memNat s.mem loc n
      .next ((s.storeNat loc n (amoNew op u n old x.toNat e.toNat)).settle s.curSeq act (word old))

/-- The flit type, SUB, LEN16 and payload of a peer request for an access of `n` bytes (R270, DESIGN CHOICE, log 16). -/
def SeqAcc.request (acc : SeqAcc) (n : Nat) : Nat × Nat × Nat × List Nat :=
  match acc with
  | .read => (1, 0, 1, [0, n])
  | .write bs _ => (2, 0, (writePayload bs).1, (writePayload bs).2)
  | .atomic op u x e => (3, op, 2, [x.toNat, e.toNat, u.toNat, n])

/-- The access waits for the answer of a peer or of the host. -/
def State.seqWaits (s : State) (act : Pending) (acc : SeqAcc) (a : Word) (n bus : Nat) (tag : Option Nat) : State :=
  let bs := match acc with
    | .write b _ => b
    | _ => List.replicate n 0
  s.setCur { s.cur with waiting := some { act := act, bus := bus, bytes := bs, addr := a, tag := tag, since := s.now } }

/-- One access of the running sequencer (R332, R333), with the checks of R472. -/
def State.seqAccess (s : State) (act : Pending) (acc : SeqAcc) (a : Word) (n : Nat) : Out :=
  let q := s.cur
  let who : Who := { ctx := some q.ctxid.toNat, core := true }
  match s.check who 32 q.utlb acc.kind a n with
  | (.wait, _) => .next s
  | (.bad c, t) => (s.setCur { q with utlb := t }).fault c a
  | (.ok (.mem loc), t) => (s.setCur { q with utlb := t }).seqLocal act acc a n loc
  | (.ok (.reg off), _) => match acc with
    | .write bs _ => .next ((s.settle s.curSeq act 0).writeReg (.sequencer s.curSeq) off (word (leNat bs)))
    | _ => .next (s.settle s.curSeq act (s.readReg (.sequencer s.curSeq) off))
  | (.ok (.host bus), t) => .next ((s.setCur { q with utlb := t }).seqWaits act acc a n bus none)
  | (.ok (.peer pkg va), _) =>
    if !s.domain then s.fault .netNoRoute a
    else if pkg = s.pkg then
      match s.check who 32 q.utlb acc.kind (word va) n with
      | (.ok (.mem loc), t) => (s.setCur { q with utlb := t }).seqLocal act acc a n loc
      | (.bad c, t) => (s.setCur { q with utlb := t }).fault c a
      | _ => .next s
    else if (s.routeTo pkg).isNone then s.fault .netNoRoute a
    else
      let (ty, sub, len, ws) := acc.request n
      let (tag, s1) := s.sendRequest (.seq s.curSeq) ty pkg q.ctxid.toNat va sub 0 len ws
      .next (s1.seqWaits act acc a n 0 (some tag))

/-! ### Loads and stores (R332) -/

/-- The address of a load or store: the 11-bit offset is sign-extended (R332). -/
def State.memAddr (s : State) (base : Reg) (m : MemFn) : Word := s.cur.rd base + m.off.signExtend 64

def State.load (s : State) (data base : Reg) (m : MemFn) (n : Nat) : Out :=
  s.seqAccess (.load data) .read (s.memAddr base m) n

/-- ORD is release or acquire-release (R315). -/
def MemFn.release (m : MemFn) : Bool := m.ord.getLsbD 1

def State.store (s : State) (data base : Reg) (m : MemFn) (n : Nat) : Out :=
  s.seqAccess .store (.write (leBytes n (s.cur.rd data).toNat) (MemFn.release m)) (s.memAddr base m) n

/-- LDB (R332). -/
def execLdb (data base : Reg) (m : MemFn) (s : State) : Out := s.load data base m 1
/-- LDH (R332). -/
def execLdh (data base : Reg) (m : MemFn) (s : State) : Out := s.load data base m 2
/-- LDW (R332). -/
def execLdw (data base : Reg) (m : MemFn) (s : State) : Out := s.load data base m 4
/-- LDD (R332). -/
def execLdd (data base : Reg) (m : MemFn) (s : State) : Out := s.load data base m 8
/-- STB (R332). -/
def execStb (data base : Reg) (m : MemFn) (s : State) : Out := s.store data base m 1
/-- STH (R332). -/
def execSth (data base : Reg) (m : MemFn) (s : State) : Out := s.store data base m 2
/-- STW (R332). -/
def execStw (data base : Reg) (m : MemFn) (s : State) : Out := s.store data base m 4
/-- STD (R332). -/
def execStd (data base : Reg) (m : MemFn) (s : State) : Out := s.store data base m 8

/-! ### Atomics (R334) -/

def State.amo (s : State) (op : Nat) (rd rs1 rs2 : Reg) (f : AmoFn) : Out :=
  let q := s.cur
  s.seqAccess (.load rd) (.atomic op f.u (q.rd rs2) (q.rd rd)) (q.rd rs1) (if f.sz then 8 else 4)

/-- AMOADD (R334). -/
def execAmoadd (rd rs1 rs2 : Reg) (f : AmoFn) (s : State) : Out := s.amo 0 rd rs1 rs2 f
/-- AMOAND (R334). -/
def execAmoand (rd rs1 rs2 : Reg) (f : AmoFn) (s : State) : Out := s.amo 1 rd rs1 rs2 f
/-- AMOOR (R334). -/
def execAmoor (rd rs1 rs2 : Reg) (f : AmoFn) (s : State) : Out := s.amo 2 rd rs1 rs2 f
/-- AMOXOR (R334). -/
def execAmoxor (rd rs1 rs2 : Reg) (f : AmoFn) (s : State) : Out := s.amo 3 rd rs1 rs2 f
/-- AMOMIN (R334). -/
def execAmomin (rd rs1 rs2 : Reg) (f : AmoFn) (s : State) : Out := s.amo 4 rd rs1 rs2 f
/-- AMOMAX (R334). -/
def execAmomax (rd rs1 rs2 : Reg) (f : AmoFn) (s : State) : Out := s.amo 5 rd rs1 rs2 f
/-- AMOSWP (R334). -/
def execAmoswp (rd rs1 rs2 : Reg) (f : AmoFn) (s : State) : Out := s.amo 6 rd rs1 rs2 f
/-- AMOCAS: the expected value is the old g[rd] (R334). -/
def execAmocas (rd rs1 rs2 : Reg) (f : AmoFn) (s : State) : Out := s.amo 7 rd rs1 rs2 f

/-! ### BSTAT and fences -/

/-- BSTAT: an 8-byte load whose word decides a branch and writes no register (R330). -/
def execBstat (rs1 rs2 : Reg) (off : BitVec 16) (s : State) : Out :=
  s.seqAccess (.test (s.cur.rd rs2) off) .read (s.cur.rd rs1) 8

/-- FENCE: every earlier access has performed, since each performs in its own step (R335, DESIGN CHOICE, log 4). -/
def execFence (_scope : BitVec 3) (s : State) : Out := .next (s.retire s.cur)

/-- FENCEIO: a store to paths 0x5, 0x6 and 0x7 has taken effect by the time its instruction is over (R335, DESIGN CHOICE, log 4). -/
def execFenceio (_scope : BitVec 3) (s : State) : Out := .next (s.retire s.cur)

/-! ### Answers -/

/-- A fault that a peer has answered with: a record of origin kind peer, and the sequencer stops as at any fault (R275). -/
def State.seqPeerFault (s : State) (n tag : Nat) (c : Cause) (addr : Word) : State :=
  let q := s.seq n
  let s1 := s.raise c
    { origin := .peer, ctx := some q.ctxid.toNat, pos := s.pkg + tag * 2 ^ 6, addr := addr, clock := some (seqClock n) }
  s1.setSeq n { q with stop := some { cause := c, resume := q.pc }, waiting := none }

/-- A response reaches the sequencer that waits for it (R275, R277). -/
def State.seqResponse (s : State) (n : Nat) (f : Flit) : State :=
  match (s.seq n).waiting with
  | none => s
  | some w =>
    if w.tag ≠ some f.tag then s
    else match f.respCause with
      | some c => s.seqPeerFault n f.tag c w.addr
      | none =>
        if f.pmask ≠ 0 then s.seqFault n .memDataError w.addr
        else s.settle n w.act (word (f.pay 0 % 2 ^ (8 * w.bytes.length)))

/-- A sequencer's request that has had no response (R278). -/
def State.seqNoResponse (s : State) (n tag : Nat) : State :=
  match (s.seq n).waiting with
  | none => s
  | some w => if w.tag = some tag then s.seqFault n .netTimeout w.addr else s

/-- HOST_COMPLETION: the host answers the path-0x7 access that a sequencer waits for, before 100,000 ticks are over: a store's bytes
are the host's, and a load takes the data, which are the bytes of host memory (R322, R323, R364; DESIGN CHOICE, log 55). -/
def execHostCompletion (seq : Nat) (data : BitVec 64) (s : State) : Out :=
  match (s.seq seq).waiting with
  | none => .next s
  | some w =>
    let held := word (memNat s.mem (hostLoc w.bus) w.bytes.length)
    if w.tag.isSome || w.since + 100000 ≤ s.now then .next s
    else match w.act with
      | .store => .next ((s.storeBytes (hostLoc w.bus) w.bytes).settle seq .store 0)
      | a => .next (if data = held then s.settle seq a held else s)

end Sys2Proof.Machine
end

