-- ==== Sys2Proof/Machine/Charge.lean ====
section
/-!
DEFINITION. What the engines share with the command complex: charges (R402) and the end of a packet (R388).
-/
namespace Sys2Proof.Machine
open Sys2Proof

/-- Engine ticks are charged to a work item. -/
def State.chargeItem (s : State) (k n : Nat) : State :=
  match s.item k with
  | none => s
  | some i => s.setItem k { i with cheng := i.cheng + n }

/-- Engine ticks are charged to the entry that holds a launch. -/
def State.chargeLaunch (s : State) (l n : Nat) : State :=
  match s.launch l with
  | none => s
  | some v => s.chargeItem v.item n

/-- Whole units of `unit` bytes reached between `a` and `b` bytes. -/
def unitsReached (unit a b : Nat) : Nat := b / unit - a / unit

/-- The final partial unit of an operation of `n` bytes. -/
def unitsLeft (unit n : Nat) : Nat := if n % unit = 0 then 0 else 1

/-- An entry is over at the time that a core reads, which its record makes visible (R21, R401). -/
def State.closeItem (s : State) (k : Nat) (i : Item) : State :=
  let (t, s1) := s.readTime s.coreClock
  s1.setItem k { i with phase := .finished, endTime := t.toNat }

/-- An item whose launch holds its place or is saved. -/
def State.hasLaunch (s : State) (i : Item) : Bool :=
  (i.launch.bind s.launch).any (fun l => l.live || l.phase == .saved)

/-- An overrun without ABORT makes an entry that has no launch running background work at its next packet boundary (R408). -/
def State.atBoundary (s : State) (i : Item) : Item :=
  { i with background := i.background || (i.ovr && !i.abort && !s.hasLaunch i) }

/-- The running packet of an item completes: the next one may begin, or the entry is finished with STATE 0 (R388). -/
def State.packetDone (s : State) (k : Nat) : State :=
  match s.item k with
  | none => s
  | some i =>
    if !i.busy then s
    else if i.idx + 1 < i.packets.length then
      s.setItem k (s.atBoundary { i with idx := i.idx + 1, phase := .admitted, met := false })
    else s.closeItem k { i with idx := i.idx + 1 }

/-- The entry stops with a STATE and its first cause (R388, R401). -/
def State.entryStops (s : State) (k state : Nat) (c : Cause) : State :=
  match s.item k with
  | none => s
  | some i =>
    s.closeItem k { i with state := state, cause := if i.cause.isSome then i.cause else some c }

/-- The running packet fails: the entry stops with STATE 2 and the packet's cause (R388, R401). -/
def State.packetFails (s : State) (k : Nat) (c : Cause) : State :=
  match s.item k with
  | none => s
  | some i => if i.busy then s.entryStops k 2 c else s

/-- The command complex raises a cause of a packet, which fails (R395, R424; DEDUCED, log 39). -/
def State.packetFault (s : State) (k : Nat) (c : Cause) (addr : Word := 0) : State :=
  match s.item k with
  | none => s
  | some i => (s.complexRaise (some (s.queue i.queue).ctx) c (complexPos i.queue i.seqNo) addr).packetFails k c

end Sys2Proof.Machine
end

