-- ==== Sys2Proof/Machine/Recorder.lean ====
section
/-!
DEFINITION. The replay recorder (R466 to R468, DESIGN CHOICE, log 25).
-/
namespace Sys2Proof.Machine
open Sys2Proof

/-- The tile that an event names (R251). -/
def evTile (e : Word) : Nat := bits e.toNat 21 11

/-- The kind of an event (R251). -/
def evKind (e : Word) : Nat := bits e.toNat 7 2

/-- The origin of a record: its tile or sequencer number and its slot or port context (R467). A port context's number on its
die stands in the second place, and its die in the first; an engine's number stands in the first, and a sequencer has `noSlot`
in the second (DESIGN CHOICE, log 25). -/
def noSlot : Nat := 511
def recOrigin (num sub : Nat) : Nat := num % 2 ^ 11 + sub % 2 ^ 9 * 2 ^ 11

/-- What the recorder holds of an origin, an agent of a kind, in the recording of a launch. -/
def Launch.recKey (l : Launch) (who : Origin) (o : Nat) : Nat := l.recSession * 2 ^ 24 + who.code * 2 ^ 20 + o

/-- Records that the ring of a launch holds (R466). -/
def Launch.recSlots (l : Launch) : Nat := 2 ^ (bits l.recRing.toNat 0 4 + 10)

/-- Records in the ring of a launch's recording. -/
def State.recUsed (s : State) (l : Launch) : Nat := tabGet s.sec.recIdx l.recSession 0

/-- The place of record `i` of a launch's ring, with the checks of every access (R33 to R38, R105). -/
def State.recPlace (s : State) (l : Launch) (i : Nat) (k : AccKind) : Option Nat :=
  match (s.check { ctx := some l.ctx } 0 [] k (word (l.recRing.toNat / 16 * 16 + 32 * i)) 32).1 with
  | .ok (.mem loc) => some loc
  | _ => none

/-- Writes the next record of an origin; none while the ring is full or cannot be written, and the agent waits. -/
def State.record (s : State) (l : Launch) (kind : Nat) (who : Origin) (o : Nat) (v aux : Word) (clock : Nat) : Option State :=
  if l.recSlots ≤ s.recUsed l then none
  else match s.recPlace l (s.recUsed l) .write with
    | none => none
    | some loc =>
      let n := tabGet s.sec.recCount (l.recKey who o) 0
      let (time, s1) := s.readTime clock
      let w0 := kind + o * 2 ^ 4 + n % 2 ^ 40 * 2 ^ 24
      let s2 := s1.storeBytes loc (leBytes 8 w0 ++ leBytes 8 v.toNat ++ leBytes 8 aux.toNat ++ leBytes 8 time.toNat)
      some { s2 with sec := { s2.sec with
        recIdx := tabPut s2.sec.recIdx l.recSession (s.recUsed l + 1),
        recCount := tabPut s2.sec.recCount (l.recKey who o) (n + 1) } }

/-- A record as a replay finds it. -/
structure Recorded where
  kind : Nat
  count : Nat
  value : Word
  aux : Word
  /-- Its place in the ring. -/
  place : Nat
  deriving DecidableEq, Repr

/-- The kinds of decision that an agent takes, which with the bits of word 0 tell every origin apart (R467). -/
def Origin.decides (who : Origin) (kind : Nat) : Bool :=
  match who with
  | .tile => 1 ≤ kind && kind ≤ 4
  | .seq => kind == 1 || kind == 4
  | .agn => kind == 6
  | .indigo => kind == 5
  | _ => false

/-- Searches a ring from record `i` on for the next decision of an origin: the first of its kinds whose count is `n` or
above; a record that arrives with an error is none (R468). -/
def State.findRecord (s : State) (l : Launch) (who : Origin) (o n : Nat) : Nat → Nat → Option Recorded
  | 0, _ => none
  | left + 1, i =>
    match s.recPlace l i .read with
    | none => none
    | some loc =>
      let w0 := memNat s.mem loc 8
      if (s.dataError loc 32).isNone && bits w0 4 20 == o && n ≤ bits w0 24 40 && who.decides (bits w0 0 4) then
        some { kind := bits w0 0 4, count := bits w0 24 40, value := word (memNat s.mem (loc + 8) 8),
               aux := word (memNat s.mem (loc + 16) 8), place := i }
      else s.findRecord l who o n left (i + 1)

/-- The next decision of an origin in the recording of a launch. -/
def State.nextRecord (s : State) (l : Launch) (who : Origin) (o : Nat) : Option Recorded :=
  s.findRecord l who o (tabGet s.sec.recCount (l.recKey who o) 0) l.recSlots 0

/-- The ring of a replay holds a late delivery of position `x` that the origin has not taken. -/
def State.findLate (s : State) (l : Launch) (o n : Nat) (x : Word) : Nat → Nat → Bool
  | 0, _ => false
  | left + 1, i =>
    match s.findRecord l .agn o n left i with
    | none => false
    | some r => r.aux == x || s.findLate l o (r.count + 1) x left i

/-- The replay reads the ring up to record `n`; each record that meets an uncorrectable error as it is first read gets its
island's record (R32, R471). -/
def State.readRecords (s : State) (l : Launch) (n : Nat) : State :=
  let from_ := tabGet s.sec.recRead l.recSession 0
  let addr (i : Nat) : Word := word (l.recRing.toNat / 16 * 16 + 32 * i)
  let s1 := (List.range (n - from_)).foldl (fun t i => t.noteError l.ctx (addr (from_ + i)) 32) s
  { s1 with sec := { s1.sec with recRead := tabPut s1.sec.recRead l.recSession (max from_ n) } }

/-- An origin has taken its next record. -/
def State.tookRecord (s : State) (l : Launch) (who : Origin) (o : Nat) (r : Recorded) : State :=
  { s with sec := { s.sec with recCount := tabPut s.sec.recCount (l.recKey who o) (r.count + 1) } }

/-- A replay diverges at an origin, which returns to live operation (R468). -/
def State.diverge (s : State) (key : Nat) : State :=
  { s with ctl := { s.ctl with rpctl := s.ctl.rpctl ||| 0x4000 }, sec := { s.sec with diverged := key :: s.sec.diverged } }

/-- The launch replays and this origin has not diverged. -/
def State.replays (s : State) (l : Launch) (who : Origin) (o : Nat) : Bool :=
  l.recMode.toNat == 3 && !s.sec.diverged.contains (l.recKey who o)

/-- The arbiter of tile `t` inserts the event `e`: it is no mark, and it is the tile's own (R252, R258). -/
def arbitrates (t : Nat) (e : Word) : Bool := evKind e != 3 && evTile e == t

/-- The agent that made an insertion, from the origin of its record: a slot of a tile or a sequencer. -/
def arbiterAgent (o : Nat) : Origin := if o / 2 ^ 11 = noSlot then .seq else .tile

/-- The origin of record `n` of kind 4 has taken it or has diverged. -/
def State.arbitrated (s : State) (l : Launch) (o n : Nat) : Bool :=
  let who := arbiterAgent o
  !s.replays l who o || decide (n < tabGet s.sec.recCount (l.recKey who o) 0)

/-- The origins of the records from `i` on that the arbiter of tile `t` took before record `n` of origin `o` and has not taken
in the replay (R253, R468). -/
def State.arbitersAhead (s : State) (l : Launch) (t o n : Nat) : Nat → Nat → List Nat
  | 0, _ => []
  | left + 1, i =>
    match s.recPlace l i .read with
    | none => []
    | some loc =>
      let w0 := memNat s.mem loc 8
      let o1 := bits w0 4 20
      if o1 == o && bits w0 24 40 == n then []
      else
        let rest := s.arbitersAhead l t o n left (i + 1)
        if (s.dataError loc 32).isNone && bits w0 0 4 == 4 && arbitrates t (word (memNat s.mem (loc + 16) 8)) &&
            (o1 % 2 ^ 11 == t || arbiterAgent o1 == .seq) && !s.arbitrated l o1 (bits w0 24 40) then
          l.recKey (arbiterAgent o1) o1 :: rest
        else rest

/-- A replay takes record `r` of origin `o`, which for an insertion at the arbiter of a tile stands in the ring's order among
the insertions of every origin there: while an earlier one is not taken this one waits, or, by a free choice, the recorder
holds that the earlier event has not arrived and its origin diverges (R253, R468, DESIGN CHOICE, log 25). -/
def State.arbiterTurn (s : State) (l : Launch) (o : Nat) (r : Recorded) (arb : Option Nat) : Option State :=
  match arb with
  | none => some s
  | some t =>
    let ahead := if arbitrates t r.aux then s.arbitersAhead l t o r.count l.recSlots 0 else []
    if ahead.isEmpty then some s
    else if Config.replayWaits s.choice then none
    else some (ahead.foldl State.diverge s)

/-- A decision of kind 1 to 6 at an origin of a launch: the live value, recorded in modes 1 and 2; or the recorded one in
mode 3, if the next record of the origin is there, is of that kind and passes `ok`. A decision at the arbiter of a tile names
that tile in `arb`. None while the agent waits for room, or for its place at the arbiter. -/
def State.captured (s : State) (lc : Option Nat) (kind : Nat) (who : Origin) (num sub : Nat) (live aux : Word) (clock : Nat)
    (ok : Word → Word → Bool := fun _ _ => true) (arb : Option Nat := none) : Option (Word × State) :=
  let o := recOrigin num sub
  match lc.bind s.launch with
  | none => some (live, s)
  | some l =>
    match l.recMode.toNat with
    | 0 => some (live, s)
    | 3 =>
      if !s.replays l who o then some (live, s)
      else match s.nextRecord l who o with
        | none => some (live, (s.readRecords l l.recSlots).diverge (l.recKey who o))
        | some r =>
          let s1 := s.readRecords l (r.place + 1)
          if r.kind == kind && ok r.value r.aux then
            (s1.arbiterTurn l o r arb).map (fun s2 => (r.value, s2.tookRecord l who o r))
          else some (live, s1.diverge (l.recKey who o))
    | _ => (s.record l kind who o live aux clock).map (fun s1 => (live, s1))

/-- A read-stream element, which mode 2 records (R467); none while the agent waits for room. -/
def State.recordElement (s : State) (lc : Option Nat) (num sub : Nat) (v aux : Word) (clock : Nat) : Option State :=
  match lc.bind s.launch with
  | none => some s
  | some l => if l.recMode = 2 then s.record l 7 .agn (recOrigin num sub) v aux clock else some s

end Sys2Proof.Machine
end

