-- ==== Sys2Proof/Machine/Route.lean ====
section
/-!
DEFINITION. Route records (R192 to R203), router links (R16), spill rings (R103) and invocations (R100, R193, R194).
-/
namespace Sys2Proof.Machine
open Sys2Proof

/-! ### What the records share -/

def State.recHead (s : State) (p : Nat) : Option Token := s.headAt s.curTile (recTarget s.curSlot p)
def State.recTake (s : State) (p : Nat) : State := s.dequeue s.curTile (recTarget s.curSlot p)
def State.recRoom (s : State) (r : RecOp) (d : BitVec 9) : Bool := s.room (destTile s.curTile r) d.toNat 1

/-- A token goes to a destination of the record; none discards it, and sets PSEEN for a poisoned data token (R88,
R195). -/
def State.recPut (s : State) (r : RecOp) (d : BitVec 9) (k : Token) : State :=
  if d = 0x1FF then (if k.psn && k.kind == .data then s.orFlags flPSEEN else s)
  else s.send s.curTile (destTile s.curTile r) d.toNat k

/-- One more firing of a record of the tile (R216). -/
def State.recFired (s : State) : State := s.bumpCounter s.curTile 1 1

/-- The record has ended (R193). -/
def State.recEnd (s : State) : State := s.setRecSt { s.recSt with ended := true }

/-- A record that acts answers what `f` does. -/
def State.ifRec (s : State) (f : Out) : Out := if s.recLive then f else .next s

/-! ### The operations -/

/-- PASS (R196). -/
def execPass (r : RecOp) (s : State) : Out :=
  s.ifRec (match s.recHead 0 with
    | none => .next s
    | some t =>
      if !s.recRoom r r.dst then .next s
      else
        let s1 := ((s.recTake 0).recPut r r.dst t).recFired
        .next (if t.isEos then s1.recEnd else s1))

/-- FORK (R196). -/
def execFork (r : RecOp) (s : State) : Out :=
  s.ifRec (match s.recHead 0 with
    | none => .next s
    | some t =>
      if !s.recRoom r r.dst || !s.recRoom r r.dst2 then .next s
      else
        let s1 := (((s.recTake 0).recPut r r.dst t).recPut r r.dst2 t).recFired
        .next (if t.isEos then s1.recEnd else s1))

/-- STEER (R197). -/
def execSteer (r : RecOp) (s : State) : Out :=
  s.ifRec (match s.recHead 0, s.recHead 2 with
    | some a, some c =>
      if a.isEos && c.isEos then
        if !s.recRoom r r.dst || !s.recRoom r r.dst2 then .next s
        else .next (((((s.recTake 0).recTake 2).recPut r r.dst .eos).recPut r r.dst2 .eos).recFired.recEnd)
      else if a.isEos then s.recFault .flowEosMismatch 0
      else if c.isEos then s.recFault .flowEosMismatch 2
      else if c.psn then s.recFault .flowControlPoison 2
      else
        let d := if c.data.getLsbD 0 then r.dst else r.dst2
        if !s.recRoom r d then .next s else .next ((((s.recTake 2).recTake 0).recPut r d a).recFired)
    | _, _ => .next s)

/-- MERGE (R198). When c holds the end of stream and a or b does not, the record names c (R426; DEDUCED, log 29). -/
def execMerge (r : RecOp) (s : State) : Out :=
  s.ifRec (match s.recHead 2 with
    | none => .next s
    | some c =>
      if c.isEos then
        match s.recHead 0, s.recHead 1 with
        | some a, some b =>
          if a.isEos && b.isEos then
            if !s.recRoom r r.dst then .next s
            else .next (((((s.recTake 0).recTake 1).recTake 2).recPut r r.dst .eos).recFired.recEnd)
          else s.recFault .flowEosMismatch 2
        | _, _ => .next s
      else if c.psn then s.recFault .flowControlPoison 2
      else
        let p := if c.data.getLsbD 0 then 0 else 1
        match s.recHead p with
        | none => .next s
        | some t =>
          if t.isEos then s.recFault .flowEosMismatch p
          else if !s.recRoom r r.dst then .next s
          else .next ((((s.recTake 2).recTake p).recPut r r.dst t).recFired))

/-- CARRY (R199). -/
def execCarry (r : RecOp) (s : State) : Out :=
  let phase (st : State) (p : RecPhase) : State := st.setRecSt { st.recSt with phase := p }
  s.ifRec (match s.recSt.phase with
    | .init => match s.recHead 0 with
      | none => .next s
      | some a =>
        if !s.recRoom r r.dst then .next s
        else .next (phase ((s.recTake 0).recPut r r.dst a).recFired (if a.isEos then .ending else .loop))
    | .loop => match s.recHead 2 with
      | none => .next s
      | some c =>
        if c.isEos then s.recFault .flowEosMismatch 2
        else if c.psn then s.recFault .flowControlPoison 2
        else if !c.data.getLsbD 0 then .next (phase (s.recTake 2).recFired .init)
        else match s.recHead 1 with
          | none => .next s
          | some b =>
            if b.isEos then s.recFault .flowEosMismatch 1
            else if !s.recRoom r r.dst then .next s
            else .next ((((s.recTake 2).recTake 1).recPut r r.dst b).recFired)
    | .ending => match s.recHead 1, s.recHead 2 with
      | some b, some c =>
        if b.isEos && c.isEos then .next (((s.recTake 1).recTake 2).recFired.recEnd)
        else s.recFault .flowEosMismatch (if b.isEos then 1 else if c.isEos then 2 else 3)
      | _, _ => .next s)

/-- INVAR: IDLE while it holds no token, HOLD while it does (R200). -/
def execInvar (r : RecOp) (s : State) : Out :=
  let p := if r.param = 1 then 1 else 2
  let hold (st : State) (v : Option Token) : State := st.setRecSt { st.recSt with held := v }
  s.ifRec (match s.recSt.held with
    | none => match s.recHead 0 with
      | none => .next s
      | some a =>
        if a.isEos then
          match s.recHead p with
          | none => .next s
          | some k =>
            if !k.isEos then s.recFault .flowEosMismatch 0
            else if !s.recRoom r r.dst then .next s
            else .next ((((s.recTake 0).recTake p).recPut r r.dst .eos).recFired.recEnd)
        else if !s.recRoom r r.dst then .next s
        else .next (hold ((s.recTake 0).recPut r r.dst a).recFired (some a))
    | some v => match s.recHead p with
      | none => .next s
      | some k =>
        if k.isEos then s.recFault .flowEosMismatch p
        else if k.psn then s.recFault .flowControlPoison p
        else if !k.data.getLsbD 0 then .next (hold (s.recTake p).recFired none)
        else if !s.recRoom r r.dst then .next s
        else .next (((s.recTake p).recPut r r.dst v).recFired))

/-- DELAY: it puts its head where there is room, and otherwise takes a token into a free entry (R201); each of the two counts as a
firing (R216; DESIGN CHOICE, log 57). -/
def execDelay (r : RecOp) (s : State) : Out :=
  let d := r.param.toNat
  let buf := s.recSt.buffer.getD (List.replicate d (Token.mk' 0 false))
  let keep (st : State) (b : List Token) : State := st.setRecSt { st.recSt with buffer := some b }
  let append : Out := match s.recHead 0 with
    | none => .next s
    | some t =>
      if d ≤ buf.length || (buf.getLast?).any Token.isEos then .next s
      else .next (keep (s.recTake 0).recFired (buf ++ [t]))
  s.ifRec (match buf with
    | [] => append
    | h :: rest =>
      if s.recRoom r r.dst then
        let s1 := (keep (s.recPut r r.dst h) rest).recFired
        .next (if h.isEos then s1.recEnd else s1)
      else append)

/-- EDGE to a barrier: one arrival for each data token, poisoned or not (R202, R203). -/
def execEdgeBarrier (r : RecOp) (s : State) : Out :=
  s.ifRec (match s.recHead 0, s.tileLaunch s.curTile with
    | some t, some l =>
      if t.isEos then .next ((s.recTake 0).recFired.recEnd)
      else if !((s.seq l.seqn).barrier r.dst.toNat).init then s.recFault .flowBarrierState
      else
        let s1 := (s.recTake 0).recFired
        .next ((if t.psn then s1.orFlags flPSEEN else s1).arrive l.seqn r.dst.toNat 1)
    | _, _ => .next s)

/-! ### Router links (R16) -/

/-- The link on which a token leaves tile `t` for tile `d`: first along the row and then along the column (DESIGN CHOICE, log 10);
0 north, 1 east, 2 south, 3 west. -/
def hop (t d : Nat) : Nat :=
  if tileX t < tileX d then 1 else if tileX d < tileX t then 3 else if tileY t < tileY d then 2 else 0

def neighbour (t dir : Nat) : Nat := match dir with | 0 => t - 32 | 1 => t + 1 | 2 => t + 32 | _ => t - 1

/-- The arcs with a token that waits for a link: key in the table of arcs, and arc. -/
def State.linkArcs (s : State) (t dir : Nat) : List (Nat × Arc) :=
  s.arcs.filter (fun p => !p.2.stopped && p.2.transit.any (fun k => k.1 == t && hop t (p.1 / 512) == dir))

/-- The first arc after the one of key `last` in ascending order of arc key, wrapping round. -/
def nextArc (last : Nat) (l : List (Nat × Arc)) : Option (Nat × Arc) :=
  let least (m : List (Nat × Arc)) : Option (Nat × Arc) :=
    m.foldl (fun b p => match b with | none => some p | some q => if p.2.key < q.2.key then some p else b) none
  match least (l.filter (fun p => last < p.2.key)) with
  | some p => some p
  | none => least l

/-- A token moves from tile `t` on: the oldest of its arc at that tile. -/
def moveToken (t n : Nat) : List (Nat × Token) → List (Nat × Token)
  | [] => []
  | (p, k) :: r => if p = t then (n, k) :: r else (p, k) :: moveToken t n r

/-- The oldest token at tile `t` leaves an arc's way. -/
def dropToken (t : Nat) : List (Nat × Token) → List (Nat × Token)
  | [] => []
  | (p, k) :: r => if p = t then r else (p, k) :: dropToken t r

/-- ROUTER_LINK_TRANSFER: the link from `tile` in direction `dir` carries one token, in turn by arc key (R16). -/
def execRouterLinkTransfer (tile dir : Nat) (s : State) : Out :=
  let id := 4 * tile + dir
  match nextArc (tabGet s.links id 0) (s.linkArcs tile dir) with
  | none => .next s
  | some (key, a) =>
    let d := key / 512
    let g := key % 512
    let n := neighbour tile dir
    match a.transit.find? (fun k => k.1 == tile) with
    | none => .next s
    | some (_, k) =>
      let s1 := { s with links := tabPut s.links id a.key }.bumpCounter tile 4 1
      if n = d then
        let s2 := s1.arrives d g k
        let b := s2.arcAt d g
        .next (if b.stopped then s2 else s2.setArcAt d g { b with transit := dropToken tile b.transit })
      else .next (s1.setArcAt d g { a with transit := moveToken tile n a.transit })

/-- SPILL_RING_REFILL: the adapter refills the FIFO from the ring in ring order; the island records an uncorrectable error that
it meets (R32, R103). -/
def execSpillRingRefill (tile : Nat) (target : BitVec 9) (s : State) : Out :=
  let g := target.toNat
  let a := s.arcAt tile g
  match a.ring with
  | none => .next s
  | some r =>
    if a.stopped || r.wr ≤ r.rd || 64 ≤ a.queue.length then .next s
    else match s.ringPlace tile r r.rd .read with
      | none => .next (s.adapterFault tile g r.rd none)
      | some l =>
        let s1 := (s.engineRead ((s.tileCtx tile).getD 0) l 16 (r.slotAt r.rd)).2.2
        .next (s1.setArcAt tile g { a with queue := a.queue ++ [s.ringToken l], ring := some { r with rd := r.rd + 1 } })

/-! ### Invocations (R100, R193) -/

/-- An input has a producer: its arc has been wired (R139). -/
def State.hasProducer (s : State) (t g : Nat) : Bool := (tabFind s.arcs (512 * t + g)).isSome

/-- A slot has an input: a used port, or the row buffer of MROW and MROWS (R100). -/
def slotHasInput (opc : Nat) (o : SlotOp) : Bool := opc == 0x50 || opc == 0x51 || !(slotPorts opc o).isEmpty

/-- The slots of a plane that count for the end of an invocation. -/
def Plane.inputSlots (p : Plane) : List Nat :=
  (List.range 64).filter (fun i => (p.slot i).any (fun v => slotHasInput v.1 v.2))

/-- The records with a producer on a used input. -/
def State.fedRecs (s : State) (t : Nat) : List Nat :=
  let p := (s.tile t).plane
  (List.range p.recs.length).filter (fun q =>
    (p.rec_ q).any (fun v => (recPorts v.1 v.2).any (fun k => s.hasProducer t (recTarget q k))))

/-- The invocation has ended at a tile (R100, R193). -/
def State.invocationEnded (s : State) (t : Nat) : Bool :=
  let v := s.tile t
  v.active && v.plane.inputSlots.all (fun i => (v.slotSt i).ended) && (s.fedRecs t).all (fun q => (v.recSt q).ended) &&
    v.reqs.all (fun q => q.2.isEmpty)

/-- The frame's bytes become zero and its granules empty (R100). -/
def State.zeroFrame (s : State) (t : Nat) : State :=
  let n := (s.tile t).plane.fsize.toNat
  { s with mem := memClear s.mem (scratchLoc t 0) (16 * n),
           full := s.full.filter (fun g => !(decide (1536 * t ≤ g) && decide (g < 1536 * t + n))) }

/-- The matrix operator state is cleared, and what its links hold stays (R160, R240). -/
def Matrix.fresh (m : Matrix) : Matrix :=
  { m with filling := none, groups := [], partBuf := [], outBuf := [], gate := false, rows := 0, ending := 0 }

/-- The tile begins an invocation: operator and record state cleared, and the next seed in force (R100, R119, R160, R193). -/
def Tile.begin (v : Tile) : Tile :=
  { v with slots := v.slots.map (fun p => (p.1, { SlotState.reset with stopped := p.2.stopped })),
           recs := v.recs.map (fun p => (p.1, { RecState.reset with stopped := p.2.stopped })), reqs := [], last := none,
           seed := match v.nextSeed with | some x => x.1 | none => v.seed,
           nextSeed := none, active := true, invocation := v.invocation + 1, matrix := v.matrix.fresh }

end Sys2Proof.Machine
end

