-- ==== Sys2Proof/Machine/Matrix.lean ====
section
/-!
DEFINITION. The arithmetic of matrix mode (R122 to R125, R223, R224, R231, R232) and the wide-port chains (R221).
-/
namespace Sys2Proof.Machine
open Sys2Proof

/-! ### Block sums (R122 to R124) -/

/-- What a block's products are: R123 line 2 with its NV, line 3, or finite products with their least exponent. -/
inductive BlockKind where
  | nan (nv : Bool)
  | inf (neg : Bool)
  | finite (ps : List (Bool × Nat × Int))
  deriving DecidableEq, Repr

/-- Collects the products of a block. -/
def blockKind (ps : List (FVal × FVal)) : BlockKind :=
  let qs := ps.map (fun p => (p.1.mul p.2, p.1.isNan || p.2.isNan))
  let bad := qs.any (fun q => q.1.isNone)
  let pos := qs.any (fun q => q.1 == some (.inf false))
  let neg := qs.any (fun q => q.1 == some (.inf true))
  if bad || (pos && neg) then .nan true
  else if qs.any (fun q => q.2) then .nan false
  else if pos then .inf false
  else if neg then .inf true
  else .finite (qs.filterMap (fun q => match q.1 with | some (.fin n m e) => some (n, m, e) | _ => none))

/-- The exact sum of finite products in units of `2^q`, for `q` at most every exponent. -/
def blockSum (q : Int) (ps : List (Bool × Nat × Int)) : Int := ps.foldl (fun a p => a + scaled p.1 p.2.1 p.2.2 q) 0

/-- An MX block sum under the scales `sa` and `sb` (R122, R123); the Bool is the poison of a NaN scale (R112). -/
def mxBlock (q : Int) (ps : List (FVal × FVal)) (sa sb : Nat) : FRes × Bool :=
  if sa = 0xFF ∨ sb = 0xFF then (fp32.nanRes, true)
  else match blockKind ps with
    | .nan nv => ({ bits := fp32.nanRes.bits, fl := flIf nv flNV }, false)
    | .inf n => (fp32.infRes n, false)
    | .finite l =>
      let v := blockSum q l
      (fp32.round .rne (decide (v < 0)) v.natAbs (q + (sa : Int) + (sb : Int) - 254), false)

/-- `⌊log2 |p|⌋` of a nonzero product. -/
def prodLog (p : Bool × Nat × Int) : Int := (Nat.log2 p.2.1 : Int) + p.2.2

/-- The block sum of BF16 or FP16 elements in the 100-bit accumulator (R124); a representable sum whose products lost bits is
inexact, and below the smallest normal it underflows (R115; DEDUCED, log 45). -/
def wideBlock (ps : List (FVal × FVal)) : FRes :=
  match blockKind ps with
  | .nan nv => { bits := fp32.nanRes.bits, fl := flIf nv flNV }
  | .inf n => fp32.infRes n
  | .finite l =>
    match l.filter (fun p => p.2.1 != 0) with
    | [] => { bits := 0, fl := 0 }
    | p :: r =>
      let q := (r.foldl (fun a x => max a (prodLog x)) (prodLog p)) - 92
      let cut := (p :: r).map (fun x => (x.1, roundTo .rtz x.1 x.2.1 x.2.2 q))
      let lost := cut.any (fun c => c.2.2)
      let v := cut.foldl (fun a c => a + signedMag c.1 c.2.1) 0
      if v = 0 then { bits := 0, fl := flIf lost (flUF ||| flNX) }
      else
        let neg := decide (v < 0)
        let exact_ := fp32.round .rne neg v.natAbs q
        if !lost then exact_
        else if exact_.fl &&& flNX = 0 then
          { exact_ with fl := exact_.fl ||| flNX ||| flIf (decide (exact_.bits % 2 ^ 31 < 2 ^ 23)) flUF }
        else let (m, e) := sticky v.natAbs q true; fp32.round .rne neg m e

/-! ### Places in the weight store (R223, R224) -/

def State.weightByte (s : State) (t off : Nat) : Nat := (memRead s.mem (weightLoc t off)).toNat

/-- The nibble for column `n` of a byte. -/
def nibble (v n : Nat) : Nat := v / 16 ^ (n % 2) % 16

/-- B(k, n) of MROW. -/
def State.bElem (s : State) (t w bank k n : Nat) : Nat :=
  match w with
  | 4 => nibble (s.weightByte t (256 * k + 128 * bank + n / 2)) n
  | 0 => s.weightByte t (256 * k + n)
  | _ => memNat s.mem (weightLoc t (256 * (2 * k + n / 128) + 2 * (n % 128))) 2

/-- The position code of kept element `r` and column `n` (R224). -/
def State.posCode (s : State) (t r n : Nat) : Nat :=
  bits (memNat s.mem (weightLoc t (65536 + 4096 + 96 * r + 3 * n / 8)) 2) (3 * n % 8) 3

/-- sb(k, n). -/
def State.bScale (s : State) (t bank k n : Nat) : Nat := s.weightByte t (65536 + 2048 * bank + 256 * k + n)

/-! ### A row -/

/-- The format of A and of B (R229). -/
def rowFmts (o : SlotOp) : Fmt × Fmt :=
  match o.w.toNat with
  | 4 => (e2m1, e2m1)
  | 0 => (if o.m.getLsbD 0 then e5m2 else e4m3, if o.m.getLsbD 1 then e5m2 else e4m3)
  | _ => if o.m.getLsbD 0 then (fp16, fp16) else (bf16, bf16)

def rowN (o : SlotOp) : Nat := match extNc o.ext with | 0 => 256 | 1 => 128 | 2 => 64 | _ => 32
def rowK (o : SlotOp) : Nat := extKm1 o.ext + 1
/-- Transfers of one row (R226). -/
def rowNeed (opc : Nat) (o : SlotOp) : Nat := if opc = 0x50 ∧ o.w = 4 then 1 else 2
/-- The form takes scales (R228). -/
def rowMx (o : SlotOp) : Bool := o.w != 1

/-- The bits of a row. -/
def RowBuf.value (r : RowBuf) : Nat := r.transfers.foldr (fun t v => t.toNat + v * 2 ^ 1024) 0

/-- The elements of block `k`, column `n`: a value of A and one of B for each product, and whether SPCODE is set. -/
def State.blockElems (s : State) (t opc : Nat) (o : SlotOp) (row k n : Nat) : List (FVal × FVal) × Bool :=
  let (fa, fb) := rowFmts o
  let kk := rowK o
  let a (i : Nat) : FVal := fa.decode (bits row (fa.w * i) fa.w)
  if opc = 0x50 then
    let bank := (extBank o.ext).toNat
    (((List.range 32).map (fun j => 32 * k + j)).filterMap (fun i =>
      if i < kk then some (a i, fb.decode (s.bElem t o.w.toNat bank i n)) else none), false)
  else
    let groups := (List.range 4).map (fun j => 4 * k + j)
    let one (g : Nat) : List (FVal × FVal) × Bool :=
      let codes := (List.range 4).map (fun i => s.posCode t (4 * g + i) n)
      (List.range 4).foldl
        (fun r i =>
          let c := codes.getD i 0
          if (codes.take i).contains c then (r.1, true)
          else if kk ≤ 8 * g + c then r
          else (r.1 ++ [(a (8 * g + c), fb.decode (nibble (s.weightByte t (256 * (4 * g + i) + n / 2)) n))], r.2))
        ([], false)
    groups.foldl (fun r g => let q := one g; (r.1 ++ q.1, r.2 || q.2)) ([], false)

/-- Column `n` of a row firing: its value, its poison and its flags (R231). -/
def State.rowColumn (s : State) (t opc : Nat) (o : SlotOp) (row : Nat) (sa : List Byte) (pin : BitVec 32 × Bool) (n : Nat) :
    (BitVec 32 × Bool) × Flags :=
  let (fa, fb) := rowFmts o
  let bank := if opc = 0x50 ∧ o.w = 4 then (extBank o.ext).toNat else 0
  let r := (List.range (ceilDiv (rowK o) 32)).foldl
    (fun (a : Nat × Bool × Flags) k =>
      let (ps, dup) := s.blockElems t opc o row k n
      let (blk, bad) : FRes × Bool :=
        if rowMx o then mxBlock (fa.qmin + fb.qmin) ps ((sa[k]?).getD 0xFF).toNat (s.bScale t bank k n) else (wideBlock ps, false)
      let p := fp32.add .rne (fp32.decode a.1) (fp32.decode blk.bits)
      (p.bits, a.2.1 || bad, a.2.2 ||| blk.fl ||| p.fl ||| flIf dup 0x400))
    (pin.1.toNat, pin.2, 0)
  ((BitVec.ofNat 32 r.1, r.2.1), r.2.2)

/-- SCUND and SCOVR of a row under its group (R228). -/
def scaleFlags (o : SlotOp) (g : ScaleGroup) : Flags :=
  let nb := ceilDiv (rowK o) 32
  if !rowMx o then 0 else flIf (decide (g.scales.length < nb)) 0x100 ||| flIf (decide (nb < g.scales.length)) 0x200

/-- The output of a row firing and its flags (R231). -/
def State.rowFire (s : State) (t opc : Nat) (o : SlotOp) (row : RowBuf) (g : ScaleGroup) (pin : List (BitVec 32 × Bool)) :
    List (BitVec 32 × Bool) × Flags :=
  let v := row.value
  let cols := (List.range (rowN o)).map (fun n =>
    let c := s.rowColumn t opc o v g.scales (pin.getD n (0, false)) n
    ((c.1.1, c.1.2 || row.psn || (rowMx o && g.psn)), c.2))
  (cols.map Prod.fst, cols.foldl (fun f c => f ||| c.2) (scaleFlags o g))

/-- The tokens of a partial row (R227). -/
def rowTokens : List (BitVec 32 × Bool) → List Token
  | a :: b :: r => Token.mk' (b.1 ++ a.1) (a.2 || b.2) :: rowTokens r
  | _ => []

/-- The partial row that tokens carry. -/
def tokensRow (l : List Token) : List (BitVec 32 × Bool) :=
  l.flatMap (fun k => [(k.data.extractLsb' 0 32, k.psn), (k.data.extractLsb' 32 32, k.psn)])

/-- Columns of one transfer (R227). -/
def transferRow (x : BitVec 1024 × Bool) : List (BitVec 32 × Bool) :=
  (List.range 32).map (fun i => (x.1.extractLsb' (32 * i) 32, x.2))

/-! ### Chains (R221) -/

/-- MROW or MROWS of a plane: its slot, opcode and fields. -/
def Plane.matrixSlot (p : Plane) : Option (Nat × Nat × SlotOp) :=
  (List.range 64).findSome? (fun i => match p.slot i with
    | some (opc, o) => if opc = 0x50 ∨ opc = 0x51 then some (i, opc, o) else none
    | none => none)

/-- A tile beside `t` on its die, `dx` columns and `dy` rows away. -/
def sameDie (t : Nat) (dx dy : Int) : Option Nat :=
  let x := (tileX t : Int) + dx
  let y := (tileY t : Int) + dy
  if 0 ≤ x ∧ x < 32 ∧ 0 ≤ y ∧ y < 48 then
    let u := (32 * y + x).toNat
    if tileDie u = tileDie t then some u else none
  else none

/-- The step of the east–west chain on a die. -/
def rowStep (t : Nat) : Int := if tileDie t % 2 = 0 then 1 else -1
def downChain (t : Nat) : Option Nat := sameDie t (rowStep t) 0
def upChain (t : Nat) : Option Nat := sameDie t (-rowStep t) 0
def southOf (t : Nat) : Option Nat := sameDie t 0 1
def northOf (t : Nat) : Option Nat := sameDie t 0 (-1)

/-- A neighbour that lies in the same region. -/
def State.inRegion (s : State) (t : Nat) (u : Option Nat) : Option Nat :=
  match u, (s.tile t).launch with
  | some v, some l => if (s.tile v).launch = some l then some v else none
  | _, _ => none

/-- The matrix control word of a tile. -/
def State.controlOf (s : State) (t : Nat) : Option Word32 := (s.tile t).plane.matrixSlot.map (fun m => m.2.2.ext)

/-- The tile that takes `t`'s partial rows from its south output, if a tile does. -/
def State.southTile (s : State) (t : Nat) : Option Nat :=
  match s.inRegion t (southOf t) with
  | none => none
  | some u => if (s.controlOf u).any (fun e => extPsrc e == 1) then some u else none

def State.setMatrix (s : State) (t : Nat) (m : Matrix) : State := s.setTile t { s.tile t with matrix := m }

/-- Partial rows and markers that wait on the south link of a tile. -/
def State.southLink (s : State) (t : Nat) : List PartialRow :=
  match s.southTile t with
  | some u => (s.tile u).matrix.north
  | none => (s.tile t).matrix.south

/-- A partial row or marker goes south. -/
def State.putSouth (s : State) (t : Nat) (r : PartialRow) : State :=
  match s.southTile t with
  | some u => let m := (s.tile u).matrix; s.setMatrix u { m with north := m.north ++ [r] }
  | none => let m := (s.tile t).matrix; s.setMatrix t { m with south := m.south ++ [r] }

/-! ### Invocations and re-entry (R100, R194) -/

/-- A token waits at a port stub of the tile, an input whose only producer is a stream, its row buffer and north input among
them (R194, R221; DEDUCED, log 19). -/
def State.stubWaits (s : State) (t : Nat) : Bool :=
  let v := s.tile t
  let m := v.matrix
  let byTile (u : Option Nat) (f : Word32 → Bool) : Bool := (s.inRegion t u).any (fun x => (s.controlOf x).any f)
  s.arcs.any (fun p => p.1 / 512 == t && decide (196608 ≤ p.2.key) && !p.2.queue.isEmpty && v.plane.used (p.1 % 512)) ||
    !m.wide.isEmpty || !m.northWide.isEmpty ||
    (!byTile (upChain t) extAfwd && !m.row.fired && (!m.row.transfers.isEmpty || m.row.eos)) ||
    (!byTile (northOf t) (fun e => !extPdst e) && !m.north.isEmpty)

/-- INVOCATION_START: at a launch or plane swap, or at a token at a port stub of a tile whose invocation has ended (R100,
R194). -/
def execInvocationStart (tile : Nat) (s : State) : Out :=
  let v := s.tile tile
  if (s.tileLaunch tile).isSome && (!v.active || (s.invocationEnded tile && s.stubWaits tile)) then
    .next ((s.zeroFrame tile).setTile tile v.begin)
  else .next s

end Sys2Proof.Machine
end

