-- ==== Sys2Proof/Machine/Stream.lean ====
section
/-!
DEFINITION. Stream specifications: their fields and checks (R73, R74), element addresses (R75, R83), what a binding must
find free (R194, R221), and the binding of a port context (R85, R338).
-/
namespace Sys2Proof.Machine
open Sys2Proof

/-! ### Fields (R73), of a specification as a number -/

def spBase (v : Nat) : Nat := bits v 0 64
def spKind (v : Nat) : Nat := bits v 64 4
def spEsize (v : Nat) : Nat := bits v 68 3
def spAtt (v : Nat) : Bool := bits v 71 1 == 1
def spReord (v : Nat) : Bool := bits v 72 1 == 1
def spLoops (v : Nat) : Nat := bits v 73 3
def spPack (v : Nat) : Bool := bits v 76 1 == 1
def spSign (v : Nat) : Bool := bits v 77 1 == 1
def spDest (v : Nat) : Nat := bits v 78 9
def spDtile (v : Nat) : Nat := bits v 87 11
def spStw (v : Nat) : Bool := bits v 98 1 == 1
def spCnt (v k : Nat) : Nat := bits v (128 + 64 * k) 24
def spStr (v k : Nat) : Int := toSigned 40 (bits v (152 + 64 * k) 40)
def spBound (v : Nat) : Nat := bits v 192 48
def spBmap (v : Nat) : Nat := bits v 256 64
def spLen (v : Nat) : Nat := bits v 320 32
def spCdest (v : Nat) : Nat := bits v 352 9
def spCtile (v : Nat) : Nat := bits v 361 11
def spStoff (v : Nat) : Int := toSigned 32 (bits v 448 32)
def spPath (v : Nat) : Nat := spBase v / 2 ^ 60

/-- Bytes of an element. -/
def spSize (v : Nat) : Nat := if spEsize v = 4 then 128 else 2 ^ spEsize v
/-- Elements of one token. -/
def spPf (v : Nat) : Nat := if spPack v then 8 / spSize v else 1
def spAffine (v : Nat) : Bool := spKind v ≤ 1
def spReads (v : Nat) : Bool := spKind v == 0 || spKind v == 2 || spKind v == 4
def spIndirect (v : Nat) : Bool := spKind v == 2 || spKind v == 3

/-! ### Elements (R75, R81, R83) -/

/-- The product of the counts of levels 0 to k − 1. -/
def spProd (v : Nat) : Nat → Nat
  | 0 => 1
  | k + 1 => spProd v k * spCnt v k

/-- The elements of an affine stream, or the positions of a bitmap stream; a gather or scatter ends with its input. -/
def spTotal (v : Nat) : Nat := if spKind v = 4 then spCnt v 0 * spCnt v 1 else spProd v (spLoops v)

/-- The outer-iteration size (R83). -/
def spOuter (v : Nat) : Nat := if spAffine v then spProd v (spLoops v - 1) else spCnt v 0

/-- The offset of element `n` from level `k` up, `left` levels. -/
def spOffset (v : Nat) : Nat → Nat → Nat → Int
  | 0, _, _ => 0
  | left + 1, k, n => (n % spCnt v k : Nat) * spStr v k + spOffset v left (k + 1) (n / spCnt v k)

/-- The address of element `n` of an affine stream, an unbounded integer (R75). -/
def spAddr (v n : Nat) : Int := (spBase v : Int) + spOffset v (spLoops v) 0 n

/-! ### Where an AGN enters the fabric (R18, R19, R71) -/

/-- The island of port context `n` of a die. -/
def agnIsland (n : Nat) : Nat := n % 128 / 2

/-- The tile at which the tokens of an island enter. -/
def entryTile (die i : Nat) : Nat :=
  let x0 := 16 * (die % 2)
  let y0 := 24 * (die / 2)
  if i < 32 then 32 * (if die < 2 then 0 else 47) + x0 + i / 2
  else 32 * (y0 + 3 * (i - 32) / 4) + (if die % 2 = 0 then 0 else 31)

/-- A tile lies in the wide-port chain that an island enters. -/
def inChain (die i t : Nat) : Bool :=
  tileDie t == die && (if i < 32 then tileX t % 16 == i / 2 else tileY t % 24 == 3 * (i - 32) / 4)

/-! ### R74 -/

/-- The planes that a binding is checked against. -/
def State.planeOf (s : State) (shadow : Bool) (t : Nat) : Plane :=
  if shadow then (s.tile t).shadow.getD Plane.empty else (s.tile t).plane

/-- Fields that the kind does not use, reserved fields and values out of range: the checks that need no configuration. -/
def specShapeBad (v : Nat) : Bool :=
  let kind := spKind v
  let sz := spSize v
  let loops := spLoops v
  let levels := List.range 5
  bits v 99 29 != 0 || bits v 480 32 != 0 || 5 ≤ kind || 5 ≤ spEsize v ||
  (if kind ≤ 1 then
     loops == 0 || 5 < loops || levels.any (fun k => if k < loops then spCnt v k == 0 else bits v (128 + 64 * k) 64 != 0)
   else if kind ≤ 3 then
     loops != 1 || spCnt v 0 == 0 || spBound v == 0 || decide (spStr v 0 ≤ 0) || bits v 240 16 != 0 || bits v 256 96 != 0 ||
       bits v 372 76 != 0
   else
     loops != 2 || spCnt v 0 == 0 || spCnt v 1 == 0 || spStr v 0 != 0 || spStr v 1 != 0 || bits v 372 76 != 0) ||
  (spAtt v && (spEsize v != 4 || 1 < kind)) || (!spAtt v && spEsize v == 4) ||
  (spPack v && (3 ≤ spEsize v || 1 < kind || decide (spStr v 0 ≠ (sz : Int)) || spCnt v 0 % (8 / sz) != 0)) ||
  (spSign v && (kind == 1 || kind == 3 || kind == 2 || spPack v || 3 ≤ spEsize v)) ||
  (spReord v && (kind == 1 || kind == 3)) ||
  spBase v % sz != 0 || (spAffine v && levels.any (fun k => k < loops && decide (spStr v k % (sz : Int) ≠ 0))) ||
  (spIndirect v && decide (spStr v 0 % (sz : Int) ≠ 0)) || (kind == 4 && spBmap v % 8 != 0) ||
  decide (spStoff v % 8 ≠ 0) || !([0, 1, 6, 7].contains (spPath v))

/-- The checks of R74 against a configuration, for port context `n` of a die (DEDUCED, log 32, DEDUCED, log 34). -/
def State.specBad (s : State) (l : Launch) (shadow : Bool) (die n v : Nat) : Bool :=
  let isl := agnIsland n
  let kind := spKind v
  let at_ (t g : Nat) : Bool := l.covers t && t < 1536 && g != noTarget && (s.planeOf shadow t).used g
  specShapeBad v || !s.part.islandOk (64 * die + isl) ||
  (if spAtt v then
     !(l.covers (spDtile v)) || spDest v != noTarget || !inChain die isl (spDtile v) || (kind == 1 && 32 ≤ isl)
   else !at_ (spDtile v) (spDest v) || ((kind == 1 || kind == 3) && spDest v < 256)) ||
  (2 ≤ kind && (!at_ (spCtile v) (spCdest v) || (kind ≤ 3 && spCdest v < 256)))

/-! ### R194, R221 -/

/-- A slot or a route record of the configuration feeds target `g` of tile `t` (R139). -/
def State.fedByFabric (s : State) (l : Launch) (shadow : Bool) (t g : Nat) : Bool :=
  let p := s.planeOf shadow t
  (List.range 64).any (fun i => (p.slot i).any (fun v => v.2.t0.toNat == g || v.2.t1.toNat == g)) ||
    l.tiles.any (fun u =>
      let q := s.planeOf shadow u
      (List.range q.recs.length).any (fun k => (q.rec_ k).any (fun v =>
        v.1 != 7 && destTile u v.2 == t && (v.2.dst.toNat == g || v.2.dst2.toNat == g))))

/-- A stream of the configuration that has not yet emitted its end of stream feeds the target. -/
def State.fedByStream (s : State) (l cfg t g : Nat) : Bool :=
  s.pctxs.any (fun p =>
    let v := p.2.spec.toNat
    p.2.st != .free && p.2.launch == some l && p.2.cfg == cfg && spReads v && !spAtt v && !p.2.eosSent &&
      ((spDtile v == t && spDest v == g) || (spKind v == 4 && spCtile v == t && spCdest v == g)))

/-- The input that a wide-port stream feeds or takes: 0 the row buffer, 1 the north input, 2 the south output. -/
def wideInput (n v : Nat) : Nat := if spKind v = 1 then 2 else if agnIsland n < 32 then 1 else 0

/-- A neighbour in the region already feeds or takes that input (R221). -/
def State.wideFed (s : State) (l : Launch) (shadow : Bool) (t input : Nat) : Bool :=
  let ctl (u : Option Nat) (f : Word32 → Bool) : Bool :=
    u.any (fun x => l.covers x && ((s.planeOf shadow x).matrixSlot.any (fun m => f m.2.2.ext)))
  match input with
  | 0 => ctl (upChain t) extAfwd
  | 1 => ctl (northOf t) (fun e => !extPdst e)
  | _ => ctl (southOf t) (fun e => extPsrc e == 1)

/-- Another wide-port stream of the configuration holds the input. -/
def State.wideTaken (s : State) (l cfg t input : Nat) : Bool :=
  s.pctxs.any (fun p =>
    let v := p.2.spec.toNat
    p.2.st != .free && p.2.launch == some l && p.2.cfg == cfg && spAtt v && spDtile v == t &&
      wideInput (p.1 % 512) v == input && !p.2.eosSent)

/-- What forbids a binding by fan-in. -/
def State.faninBad (s : State) (k : Nat) (l : Launch) (shadow : Bool) (cfg n v : Nat) : Bool :=
  let fed (t g : Nat) : Bool := s.fedByFabric l shadow t g || s.fedByStream k cfg t g
  if spAtt v then s.wideFed l shadow (spDtile v) (wideInput n v) || s.wideTaken k cfg (spDtile v) (wideInput n v)
  else (spReads v && fed (spDtile v) (spDest v)) || (spKind v == 4 && fed (spCtile v) (spCdest v))

/-! ### Binding -/

/-- The port context that a binding operand names (R338). -/
def operandPctx (v : Nat) : Nat := 512 * bits v 9 2 + bits v 0 9

/-- An arc from an AGN to a target: its key, and whether its route crosses a die (R16, R17, R103). -/
def State.wireArc (s : State) (die n out t g : Nat) : State :=
  let a := s.arcAt t g
  s.setArcAt t g { a with key := 196608 + 2048 * die + 4 * n + out, crossing := decide (die ≠ tileDie t), ring := none }

/-- The arcs of a stream whose issue begins. -/
def State.wireStream (s : State) (pc v : Nat) : State :=
  let die := pc / 512
  let n := pc % 512
  if !spReads v || spAtt v then s
  else
    let s1 := s.wireArc die n 0 (spDtile v) (spDest v)
    if spKind v = 4 then s1.wireArc die n 1 (spCtile v) (spCdest v) else s1

/-- Binds a specification to a free port context, or the cause that forbids it (R338 step 3 and 4). -/
def State.bindStream (s : State) (k pc : Nat) (spec : BitVec 512) (shadow charged : Bool)
    (post : Option (BitVec 6 × BitVec 8)) (item : Option Nat) : Except Cause State :=
  match s.launch k with
  | none => .error .cfgBadStream
  | some l =>
    let v := spec.toNat
    let cfg := if shadow then l.cfg + 1 else l.cfg
    if s.specBad l shadow (pc / 512) (pc % 512) v then .error .cfgBadStream
    else if s.faninBad k l shadow cfg (pc % 512) v then .error .cfgFanin
    else
      let p := { PCtx.reset with
        st := if shadow then .bound else .running, spec := spec, launch := some k, cfg := cfg, post := post, item := item,
        charged := charged }
      let s1 := s.setPctx pc p
      .ok (if shadow then s1 else s1.wireStream pc v)

/-- A completion message of a stream (R343). -/
def State.postStream (s : State) (pc : Nat) (p : PCtx) : State :=
  match p.post, p.launch with
  | some (ch, gen), some l =>
    let (t, s1) := s.readTime (4 * (pc / 512))
    let m := hardMsg ch gen 2 (word (pc % 512 + pc / 512 * 512)) t (word p.count) p.acc
    s1.postLaunch l { m with work := (p.item.bind s.item).map Item.queue }
  | _, _ => s

/-- The TRUNC bit of the accumulator (R242). -/
def stTRUNC : Word := 0x4000
def stPELEM : Word := 0x800
def stLATE : Word := 0x1000
def stSPLEN : Word := 0x2000

/-- Bound contexts of a discarded shadow plane return to Free and post with word 2 zero and TRUNC set (R338). -/
def State.discardBound (s : State) (k : Nat) : State :=
  (s.pctxs.filter (fun p => p.2.launch == some k && p.2.st == .bound)).foldl
    (fun st p => (st.setPctx p.1 PCtx.reset).postStream p.1 { p.2 with acc := stTRUNC, count := 0 }) s

/-- A stream ends: its final partial unit of 128 bytes is charged, if its binding was a BIND or an SBIND (R402). -/
def State.chargeEnd (s : State) (p : PCtx) : State :=
  match p.launch with
  | some l => if p.charged then s.chargeLaunch l (unitsLeft 128 (p.count * spSize p.spec.toNat)) else s
  | none => s

/-- A port context is freed without a status OR, an end of stream or a message (R86); a BIND packet that waits for its stream
fails with SCH_NO_LAUNCH (R86, R395; DEDUCED, log 42). -/
def State.dropStream (s : State) (pc : Nat) : State :=
  let p := s.pctx pc
  let s1 := (s.setPctx pc PCtx.reset).chargeEnd p
  match p.item with
  | some i => s1.packetFails i .schNoLaunch
  | none => s1

/-- A queue reset's cancel: the context is freed, or holds still until its request to a peer has been answered (R86, R411). -/
def State.haltStream (s : State) (pc : Nat) : State :=
  let p := s.pctx pc
  if p.tag.isNone then s.dropStream pc
  else s.setPctx pc { p with st := .frozen, stopped := none, spill := [] }

/-- A cancel of the stream on a port context (R86; DEDUCED, log 34). -/
def State.cancelStream (s : State) (pc : Nat) : State :=
  let p := s.pctx pc
  let acc := p.acc ||| stTRUNC
  match p.st with
  | .free => s
  | .frozen => s.dropStream pc
  | .bound => (s.setPctx pc PCtx.reset).postStream pc { p with acc := acc, count := 0 }
  | _ =>
    if p.cancelled then s else
    s.setPctx pc { p with st := .draining, cancelled := true, acc := acc, spill := [], stopped := none, part := [],
                          draining := !spReads p.spec.toNat }

end Sys2Proof.Machine
end

