-- ==== Sys2Proof/Machine/Agn.lean ====
section
/-!
DEFINITION. The streams of the address-generator nodes: their elements, their faults and retries, status words, ends and
completions (R45 to R50, R72 to R87, R202, R243, R275).
-/
namespace Sys2Proof.Machine
open Sys2Proof

/-! ### Places and faults -/

/-- The context of the launch that holds a port context's stream. -/
def State.pctxCtx (s : State) (p : PCtx) : Nat := ((p.launch.bind s.launch).map Launch.ctx).getD 0

/-- The launch of a stream runs: only then does its AGN act. -/
def State.pctxLaunch (s : State) (p : PCtx) : Option Launch := (p.launch.bind s.launch).bind (fun l => if l.runs then some l else none)

/-- POS of an AGN's record (R426). -/
def agnPos (pc : Nat) (p : PCtx) : Nat := pc / 512 + pc % 512 * 4 + p.outer % 2 ^ 32 * 2 ^ 11

/-- A record of an AGN; for a cause that a peer has answered with, its origin is the peer request of tag `tag` (R275). -/
def State.agnRecord (s : State) (pc : Nat) (c : Cause) (addr : Word) (stop : Bool) (tok : Option Token := none)
    (tag : Option Nat := none) : State :=
  let p := s.pctx pc
  s.raise c { origin := if tag.isSome then .peer else .agn, ctx := some (s.pctxCtx p),
              pos := match tag with | some t => s.pkg + t * 2 ^ 6 | none => agnPos pc p,
              stop := stop, addr := addr, tok0 := tok, clock := some (4 * (pc / 512)) }

/-- A fault that stops the AGN for good: the port context and its launch are frozen (R85, R430, R431). -/
def State.agnFault (s : State) (pc : Nat) (c : Cause) (addr : Word := 0) (tok : Option Token := none)
    (tag : Option Nat := none) : State :=
  let s1 := s.agnRecord pc c addr true tok tag
  let p := s1.pctx pc
  (s1.setPctx pc { p with st := .frozen, tag := none }).freeze p.launch c

/-- The slice of the edge TLB that serves an address of an indirect stream (R40): 64 times the die plus its island. -/
def State.edgeSlice (s : State) (die va : Nat) : Nat :=
  let v := va / 2 ^ 17
  let h := [6, 12, 18, 24].foldl (fun a lo => Nat.xor a (bits v lo 6)) (Nat.xor (bits v 0 6) (bits v 30 5))
  64 * die + (((List.range 64).map (fun k => (h + k) % 64)).find? (fun i => s.part.islandOk (64 * die + i))).getD h

/-- The checks of one element's address under R33 and the path of its base, with the TLB that serves it (R39, R40, R76);
path 0x6 to this package performs locally (R274). -/
def State.agnCheck (s : State) (pc : Nat) (path : Nat) (k : AccKind) (a : Int) (n : Nat) : Res Place × State :=
  let p := s.pctx pc
  let who : Who := { ctx := some (s.pctxCtx p) }
  if a < 0 ∨ a / 2 ^ 60 ≠ (path : Int) then (.bad .memNoncanonical, s)
  else
    let run (w : Word) : Res Place × State :=
      if spIndirect p.spec.toNat then
        let sl := s.edgeSlice (pc / 512) (bits w.toNat 0 52)
        let (r, t) := s.check who 256 (tabGet s.edgeTlb sl []) k w n
        (r, { s with edgeTlb := tabPut s.edgeTlb sl t })
      else
        let (r, t) := s.check who 1 p.tlb k w n
        (r, s.setPctx pc { p with tlb := t })
    let w := word a.toNat
    match run w with
    | (.ok (.peer pkg va), s1) =>
      if !s.domain then (.bad .netNoRoute, s)
      else if pkg = s.pkg then run (word va)
      else if (s.routeTo pkg).isNone then (.bad .netNoRoute, s)
      else (.ok (.peer pkg va), s1)
    | r => r

/-- A location that an element names in this package. -/
def Place.loc? : Place → Option Nat
  | .mem l => some l
  | .host b => some (hostLoc b)
  | _ => none

/-! ### Delivery -/

/-- The consumer of value `out` of a read stream: 0 DEST, 1 CDEST. -/
def spTarget (v out : Nat) : Nat × Nat := if out = 0 then (spDtile v, spDest v) else (spCtile v, spCdest v)

/-- A wide-port read stream's input has room for another transfer (DESIGN CHOICE, log 30). -/
def State.wideRoom (s : State) (pc v : Nat) : Bool :=
  let t := spDtile v
  let m := (s.tile t).matrix
  if wideInput (pc % 512) v = 1 then
    match (s.tile t).plane.matrixSlot with
    | some (_, _, o) => decide (m.northWide.length < rowN o / 32)
    | none => false
  else decide (m.wide.length < 2)

/-- Every target of a read stream has room for one token. -/
def State.streamRoom (s : State) (pc v : Nat) : Bool :=
  if spAtt v then s.wideRoom pc v
  else s.room (spDtile v) (spDest v) 1 && (spKind v != 4 || s.room (spCtile v) (spCdest v) 1)

/-- A token sets out from the entry point of an AGN (R77). -/
def State.emit (s : State) (pc v out : Nat) (k : Token) : State :=
  let (t, g) := spTarget v out
  s.send (entryTile (pc / 512) (agnIsland (pc % 512))) t g k

/-- A transfer sets out on a wide port. -/
def State.emitWide (s : State) (pc v : Nat) (x : BitVec 1024 × Bool) : State :=
  let t := spDtile v
  let m := (s.tile t).matrix
  if wideInput (pc % 512) v = 1 then s.setMatrix t { m with northWide := m.northWide ++ [x] }
  else s.setMatrix t { m with wide := m.wide ++ [some x] }

/-- The stream of a port context has delivered or taken `n` more elements (R343, R402). -/
def State.counted (s : State) (pc n : Nat) : State :=
  let p := s.pctx pc
  let z := spSize p.spec.toNat
  let s1 := s.setPctx pc { p with count := p.count + n }
  match p.launch with
  | some l => if p.charged then s1.chargeLaunch l (unitsReached 128 (p.count * z) ((p.count + n) * z)) else s1
  | none => s1

/-- The bitmap byte of the present position arrived poisoned (R81). -/
def PCtx.bitmapBad (p : PCtx) : Bool := p.bitmap.any (fun b => b.2.2)

/-- Delivers the value of element `n`, of `count` elements, to DEST, and for a bitmap stream its coordinate, poisoned or not, to
CDEST. -/
def State.deliver (s : State) (pc n count : Nat) (x : Nat) (psn coord : Bool) : State :=
  let p := s.pctx pc
  let v := p.spec.toNat
  let s1 := s.setPctx pc { p with acc := if psn then p.acc ||| stPELEM else p.acc }
  let s2 := s1.counted pc count
  if spAtt v then s2.emitWide pc v (BitVec.ofNat 1024 x, psn)
  else
    let s3 := s2.emit pc v 0 (Token.mk' (word x) psn)
    if spKind v = 4 then
      s3.emit pc v 1 (Token.mk' (word (n / spCnt v 0 * 2 ^ 32 + n % spCnt v 0)) coord)
    else s3

/-- `n` elements more have been issued or taken; the last one begins the drain (R83, R85). -/
def State.advance (s : State) (pc n : Nat) : State :=
  let p := s.pctx pc
  let v := p.spec.toNat
  let pos := p.pos + n
  let last : Bool := !spIndirect v && decide (spTotal v ≤ pos)
  s.setPctx pc { p with pos := pos, outer := pos / spOuter v, recorded := false,
                        st := if last && p.st != .frozen then .draining else p.st }

/-- The bits of an element that a token takes: zero-extended, or sign-extended with SIGN (R75). -/
def extended (v x : Nat) : Nat := if spSign v then wrapNat 64 (toSigned (8 * spSize v) x) else x

/-- A stream that stands at an outer-iteration boundary on its way to a save issues nothing (R84). -/
def PCtx.boundary (p : PCtx) : Bool := p.st == .stopping && p.pos % spOuter p.spec.toNat == 0

/-- The AGN acts on a port context: its launch runs, and no record of it still waits to be written (R429). -/
def State.agnActs (s : State) (pc : Nat) : Bool := (s.pctxLaunch (s.pctx pc)).isSome && !s.agnRecordWaits pc

/-- The port context may issue an element. -/
def State.agnReady (s : State) (pc : Nat) : Bool :=
  let p := s.pctx pc
  s.agnActs pc && (p.st == .running || p.st == .stopping) && p.stopped.isNone && !p.boundary

/-- The port context may take an element, or an end of stream that it still awaits. -/
def State.agnTakes (s : State) (pc : Nat) : Bool :=
  let p := s.pctx pc
  s.agnActs pc && (p.st == .running || p.st == .stopping || p.st == .draining) && p.stopped.isNone && p.tag.isNone

/-- Translation faults of the launch are non-recoverable (R49). -/
def State.nrx (s : State) (p : PCtx) : Bool := (s.pctxLaunch p).any Launch.nrx

def HeldElement.at' (n addr now : Nat) : HeldElement := { n := n, addr := addr, due := now + 65536 }

/-- The element at position `n` is tried again 65536 ticks after an attempt that has failed at `addr` (R46). -/
def HeldElement.postponed (h : HeldElement) (n addr now : Nat) : HeldElement :=
  if h.n = n then { h with addr := addr, due := now + 65536 } else h

/-- Port context `k` of the AGN that `pc` belongs to (R71). -/
def agnCtx (pc k : Nat) : Nat := pc / 512 * 512 + k * 128 + pc % 128

/-- The four port contexts of the AGN that `pc` belongs to (R71). -/
def agnCtxs (pc : Nat) : List Nat := (List.range 4).map (agnCtx pc)

/-- Entries in the spill queue of the AGN that a port context belongs to (R45, R71). -/
def State.agnSpill (s : State) (pc : Nat) : Nat :=
  (agnCtxs pc).foldl (fun a c => a + (s.pctx c).spill.length) 0

/-- The last place in that spill queue. -/
def State.agnOrd (s : State) (pc : Nat) : Nat :=
  (agnCtxs pc).foldl (fun a c => (s.pctx c).spill.foldl (fun b h => max b h.ord) a) 0

/-- The AGN stops at a translation fault, with one record for the element (R45, R46). -/
def State.agnStop (s : State) (pc : Nat) (c : Cause) (addr : Int) (n : Nat) (tok : Option Token := none)
    (tag : Option Nat := none) : State :=
  let s1 := if (s.pctx pc).recorded then s else s.agnRecord pc c (wordZ addr) true tok tag
  s1.setPctx pc { s1.pctx pc with stopped := some (HeldElement.at' n addr.toNat s.now), recorded := true }

/-- An element enters the spill queue of its AGN (R45). -/
def State.divert (s : State) (pc n : Nat) (addr : Int) (due : Nat) : State :=
  let p := s.pctx pc
  s.setPctx pc { p with
    spill := p.spill ++ [{ n := n, addr := addr.toNat, due := due, ord := s.agnOrd pc + 1, bad := p.bitmapBad }] }

/-- A translation fault on element `n` of a read stream: diverted with the reorder flag, where `count` elements are passed
over, and otherwise stopped (R45). -/
def State.agnXlt (s : State) (pc : Nat) (c : Cause) (addr : Int) (n count : Nat) (tag : Option Nat := none) : State :=
  let p := s.pctx pc
  if spReord p.spec.toNat then
    let s1 := if p.recorded then s else s.agnRecord pc c (wordZ addr) false none tag
    State.advance (s1.divert pc n addr (s.now + 65536)) pc count
  else s.agnStop pc c addr n none tag

/-! ### Reading -/

/-- What reading the elements of one token comes to. -/
inductive TokRes where
  | ok (x : Nat) (psn : Bool) (s : State)
  | xlt (c : Cause) (addr : Int)
  | stop (c : Cause) (addr : Int)
  | peer (pkg va : Nat)
  | wait

/-- Reads the elements of a token from address `a` up, `left` of them, lowest first; `loud` writes the record of an address
that is out of its path's form (R45, R49, R75, R76). An island block at or above SCR, which R68 answers with the same cause, is
delivered poisoned like one (DESIGN CHOICE, log 34). -/
def State.readElems (s : State) (pc path z : Nat) (nrx loud : Bool) : Nat → Int → Nat → Nat → Bool → TokRes
  | 0, _, _, x, psn => .ok x psn s
  | left + 1, a, sh, x, psn =>
    let (r, s1) := s.agnCheck pc path .read a z
    let free : Nat := (Config.poisonData s.choice).toNat % 2 ^ (8 * z)
    match r with
    | .ok (.peer pkg va) => .peer pkg va
    | .ok pl => match pl.loc? with
      | none => .stop .memBadPath a
      | some loc =>
        let (bs, bad, s2) := s1.engineRead (s.pctxCtx (s.pctx pc)) loc z (wordZ a)
        State.readElems s2 pc path z nrx loud left (a + z) (sh + 8 * z) (x + leNat bs * 2 ^ sh) (psn || bad)
    | .wait => .wait
    | .bad c =>
      if c = .memNoncanonical then
        let s2 := if loud then s.agnRecord pc c (wordZ a) false else s
        State.readElems s2.bump pc path z nrx loud left (a + z) (sh + 8 * z) (x + free * 2 ^ sh) true
      else if !c.isXlt then .stop c a
      else if nrx then State.readElems s.bump pc path z nrx loud left (a + z) (sh + 8 * z) (x + free * 2 ^ sh) true
      else .xlt c a

/-- Sends a request of `n` bytes for a stream; the rest of a token that crosses a 128 KiB span goes in a second one. -/
def State.agnRequest (s : State) (pc : Nat) (want : PeerWant) (type sub pkg va pmask len : Nat) (ws : List Nat) : State :=
  let p := s.pctx pc
  let (t, s1) := s.sendRequest (.agn pc) type pkg (s.pctxCtx p) va sub pmask len ws
  s1.setPctx pc { s1.pctx pc with tag := some t, want := want }

/-- Bytes from `va` up to the end of its 128 KiB span, at most `n` (R275). -/
def spanLen (va n : Nat) : Nat := min n (131072 - va % 131072)

/-- A read stream can read and deliver a value now: no request to a peer is under way, its targets have room, and so has the
spill queue of its AGN (R45). -/
def State.readFree (s : State) (pc : Nat) : Bool :=
  let p := s.pctx pc
  let v := p.spec.toNat
  p.tag.isNone && !(p.want == .late && !p.part.isEmpty) && s.streamRoom pc v && !(spReord v && 64 ≤ s.agnSpill pc)

/-- What a write stream takes next: an element's bits with their poison, or an end of stream. -/
def State.writeHead (s : State) (p : PCtx) : Option (Option (Nat × Bool)) :=
  let v := p.spec.toNat
  if spAtt v then
    match (s.tile (spDtile v)).matrix.south with
    | [] => none
    | none :: _ => some none
    | some cols :: _ =>
      let c := cols.take 32
      some (some (packWords ((List.range 16).map (fun i =>
        ((c.getD (2 * i) (0, false)).1.toNat + (c.getD (2 * i + 1) (0, false)).1.toNat * 2 ^ 32))), c.any (fun x => x.2)))
  else match p.inA with
    | [] => none
    | k :: _ => if k.isEos then some none else some (some (k.data.toNat, k.psn))

/-- A port context can issue or take its next element. -/
def State.agnCan (s : State) (pc : Nat) : Bool :=
  let p := s.pctx pc
  let v := p.spec.toNat
  match spKind v with
  | 0 => s.agnReady pc && decide (p.pos < spTotal v) && s.readFree pc
  | 1 => s.agnTakes pc && !p.eosA && (s.writeHead p).isSome
  | 2 => s.agnReady pc && (match p.inA with | [] => false | k :: _ => k.isEos || s.readFree pc)
  | 3 =>
    s.agnTakes pc && !p.boundary && !(p.eosA && p.eosB) &&
      (if p.draining then !(p.inA.isEmpty && p.inB.isEmpty) else !(p.inA.isEmpty || p.inB.isEmpty))
  | _ =>
    s.agnReady pc && decide (p.pos < spTotal v) && p.tag.isNone &&
      (match p.bitmap with
       | none => true
       | some (i, b, _) => i != p.pos / 8 || !b.getLsbD (p.pos % 8) || s.readFree pc)

/-- It is the turn of a port context with a stream of the given kind: no other that can issue comes first after the one that its
AGN served last (R72). -/
def State.agnTurn (s : State) (pc kind : Nat) : Bool :=
  let last := tabGet s.agnLast (pc / 512 * 128 + pc % 128) 3
  spKind (s.pctx pc).spec.toNat == kind && s.agnCan pc &&
    (List.range ((pc % 512 / 128 + 3 - last) % 4)).all (fun i => !s.agnCan (agnCtx pc ((last + 1 + i) % 4)))

/-- Its AGN serves a port context (R72). -/
def State.served (s : State) (pc : Nat) : State :=
  { s with agnLast := tabPut s.agnLast (pc / 512 * 128 + pc % 128) (pc % 512 / 128) }

/-- In a replay, the ring says that element `n` of a stream was delivered late (R468). -/
def State.wasLate (s : State) (pc n : Nat) : Bool :=
  match (s.pctx pc).launch.bind s.launch with
  | none => false
  | some l =>
    let o := recOrigin (pc / 512) (pc % 512)
    s.replays l .agn o && s.findLate l o (tabGet s.sec.recCount (l.recKey .agn o) 0) (word n) l.recSlots 0

/-- Elements `n` and up of a token of a read stream, which mode 2 records one by one, are delivered; none while the recorder
waits (R467). -/
def State.deliverRecorded (s : State) (pc n count x : Nat) (psn coord : Bool) : Option State :=
  let p := s.pctx pc
  let z := spSize p.spec.toNat
  let value (i : Nat) : Word := if count = 1 then word x else word (x / 2 ^ (8 * z * i) % 2 ^ (8 * z))
  let rec_ (t : Option State) (i : Nat) : Option State :=
    t.bind (fun u => u.recordElement p.launch (pc / 512) (pc % 512) (value i) (word (n + i)) (4 * (pc / 512)))
  ((List.range count).foldl rec_ (some s)).map (fun t => t.deliver pc n count x psn coord)

/-- A value is read at address `a` for element `n`, of `pf` elements of `z` bytes: it is delivered, the element is diverted
or stopped, or a request goes to a peer. `done` moves the stream on. A replay diverts what was late in the run that it
replays (R468). -/
def State.readValue (s : State) (pc path z pf n : Nat) (a : Int) (done : State → State) : Out :=
  let p := s.pctx pc
  let v := p.spec.toNat
  if spReord v && p.part.isEmpty && s.wasLate pc n then .next ((s.divert pc n a s.now).advance pc pf)
  else match s.readElems pc path z (s.nrx p) true pf a 0 0 false with
    | .wait => .next s
    | .stop c x => .next (s.agnFault pc c (word x.toNat))
    | .xlt c x => .next (s.agnXlt pc c x n pf)
    | .peer pkg va =>
      let from_ := va + p.part.length
      .next (s.agnRequest pc .element 1 0 pkg from_ 0 1 [0, spanLen from_ (pf * z - p.part.length)])
    | .ok x psn s1 =>
      let y := if pf = 1 then extended v x else x
      .next ((s1.deliverRecorded pc n pf y psn p.bitmapBad).elim s done)

/-- STREAM_ELEMENT_ISSUE: the next token of an affine read stream (R75). -/
def execStreamElementIssue (pc : Nat) (s : State) : Out :=
  let p := s.pctx pc
  let v := p.spec.toNat
  if !s.agnTurn pc 0 then .next s
  else (s.served pc).readValue pc (spPath v) (spSize v) (spPf v) p.pos (spAddr v p.pos) (fun t => t.advance pc (spPf v))

/-! ### Gather (R79) -/

/-- An index token is used up. -/
def State.popA (s : State) (pc : Nat) : State := let p := s.pctx pc; s.setPctx pc { p with inA := p.inA.drop 1 }
def State.popB (s : State) (pc : Nat) : State := let p := s.pctx pc; s.setPctx pc { p with inB := p.inB.drop 1 }

/-- The address of index `x` (R79, R80), none out of bounds. -/
def spIndex (v : Nat) (k : Token) : Option Int :=
  let x := k.data.toInt
  if 0 ≤ x ∧ x < (spBound v : Int) then some ((spBase v : Int) + x * spStr v 0) else none

/-- A poisoned element is delivered without an access; none while the recorder waits. -/
def State.deliverPoison (s : State) (pc n : Nat) : Option State :=
  let z := spSize (s.pctx pc).spec.toNat
  s.bump.deliverRecorded pc n 1 ((Config.poisonData s.choice).toNat % 2 ^ (8 * z)) true false

/-- INDIRECT_GATHER: the next index token (R79). -/
def execIndirectGather (pc : Nat) (s : State) : Out :=
  let p := s.pctx pc
  let v := p.spec.toNat
  let s1 := s.served pc
  if !s.agnTurn pc 2 then .next s
  else match p.inA with
    | [] => .next s
    | k :: _ =>
      if k.isEos then .next (s1.setPctx pc { p with inA := p.inA.drop 1, eosA := true, st := .draining })
      else if k.psn || (spIndex v k).isNone then
        .next ((s1.deliverPoison pc p.pos).elim s (fun t => (t.popA pc).advance pc 1))
      else match spIndex v k with
        | none => .next s
        | some a =>
          let pop (t : State) : State := (t.popA pc).advance pc 1
          match s1.readValue pc (spPath v) (spSize v) 1 p.pos a pop with
          | .next t =>
            if spReord v && (s.pctx pc).spill.length < (t.pctx pc).spill.length then .next (t.popA pc) else .next t
          | o => o

/-! ### Bitmap streams (R81) -/

/-- The bitmap byte of the present position has come; a fault on the element itself is another fault (R45, R81). -/
def State.bitmapByte (s : State) (pc x : Nat) (psn : Bool) : State :=
  let p := s.pctx pc
  (s.setPctx pc { p with bitmap := some (p.pos / 8, BitVec.ofNat 8 x, psn), recorded := false }).bump

/-- BITMAP_SPARSE_ELEMENT: the bitmap byte of the next position is read, or the position is passed, with two tokens when
its bit is set (R81). The bits of a byte that arrives poisoned are used as they are; they poison the coordinate tokens that they
make and set PELEM, and leave the value tokens clean; a byte that cannot be translated under the declaration of R49 has free bits
and acts as a poisoned one (DESIGN CHOICE, log 34). -/
def execBitmapSparseElement (pc : Nat) (s0 : State) : Out :=
  let s := s0.served pc
  let p := s.pctx pc
  let v := p.spec.toNat
  let n := p.pos
  let a : Int := (spBmap v : Int) + (n / 8 : Nat)
  if !s0.agnTurn pc 4 then .next s0
  else
    let fetch : Out :=
      match s.readElems pc (spBmap v / 2 ^ 60) 1 false true 1 a 0 0 false with
      | .wait => .next s
      | .stop c x => .next (s.agnFault pc c (word x.toNat))
      | .xlt c x =>
        .next (if s.nrx p then s.bitmapByte pc (Config.poisonData s.choice).toNat true else s.agnStop pc c x n)
      | .peer pkg va => .next (s.agnRequest pc .bitmap 1 0 pkg va 0 1 [0, 1])
      | .ok x psn s1 =>
        .next (s1.bitmapByte pc x psn)
    match p.bitmap with
    | none => fetch
    | some (i, b, bad) =>
      if i ≠ n / 8 then fetch
      else
        let finish (t : State) : State :=
          let s1 := t.advance pc 1
          s1.setPctx pc { s1.pctx pc with acc := (s1.pctx pc).acc ||| (if bad then stPELEM else 0) }
        let taken (t : State) : State := t.setPctx pc { t.pctx pc with setBits := p.setBits + 1 }
        if !b.getLsbD (n % 8) then .next (finish s)
        else if spLen v ≤ p.setBits then .next ((s.deliverRecorded pc n 1 0 true bad).elim s (fun t => finish (taken t)))
        else match s.readValue pc (spPath v) (spSize v) 1 n ((spBase v : Int) + (p.setBits * spSize v : Nat))
            (fun t => finish (taken t)) with
          | .next t =>
            if spReord v && p.spill.length < (t.pctx pc).spill.length then .next (taken t) else .next t
          | o => o

/-! ### Writing (R78, R80) -/

/-- What a write stream has taken leaves its input. -/
def State.writePop (s : State) (pc : Nat) : State :=
  let p := s.pctx pc
  let v := p.spec.toNat
  if spAtt v then
    let t := spDtile v
    let m := (s.tile t).matrix
    let rest := match m.south with
      | some cols :: r => if 32 < cols.length then some (cols.drop 32) :: r else r
      | l => l.drop 1
    s.setMatrix t { m with south := rest }
  else s.popA pc

/-- The token that a record of a write stream names. -/
def heldToken (x : Nat) (psn : Bool) : Option Token := some (Token.mk' (word x) psn)

/-- A poisoned element of a write that stays in this package stops the stream (R78, R436). -/
def State.poisonedWrite (s : State) (pc path x : Nat) (a : Int) : State :=
  let p := s.pctx pc
  (s.setPctx pc { p with acc := p.acc ||| stPELEM }).agnFault pc (if path = 7 then .psnEgress else .psnStore) (wordZ a)
    (heldToken x true)

/-- An address on path 0x6 goes to another package; one that names this package acts as on path 0x0 (R274). -/
def State.leaves (s : State) (path : Nat) (a : Int) : Bool := path == 6 && (!s.domain || bits a.toNat 52 6 != s.pkg)

/-- An element has been written at a location: the stream remembers the places in main memory (R57). -/
def State.wrote (s : State) (pc loc : Nat) : State :=
  let p := s.pctx pc
  if loc < 2 ^ 39 then s.setPctx pc { p with written := loc :: p.written } else s

/-- Writes `n` bytes of a token at address `a`; `after` moves the stream on once they are written. The poison of an element that
stays in this package is checked before its address (DESIGN CHOICE, log 34). -/
def State.writeValue (s : State) (pc path n x : Nat) (psn : Bool) (a : Int) (pos : Nat) (after : State → State) : Out :=
  let p := s.pctx pc
  if psn && !s.leaves path a then .next (s.poisonedWrite pc path x a)
  else match s.agnCheck pc path .write a n with
    | (.wait, _) => .next s
    | (.bad c, s1) =>
      if c.isXlt && !s.nrx p then .next (s1.agnStop pc c a pos (heldToken x psn))
      else .next (s.agnFault pc c (wordZ a) (heldToken x psn))
    | (.ok (.peer pkg va), s1) =>
      let m := spanLen va n
      let bs := leBytes n x
      let (len, ws) := writePayload (bs.take m)
      let s2 := s1.setPctx pc { s1.pctx pc with part := bs.drop m, acc := if psn then p.acc ||| stPELEM else p.acc }
      .next (s2.agnRequest pc .element 2 0 pkg va (if psn then 2 ^ ceilDiv m 8 - 1 else 0) len ws)
    | (.ok pl, s1) => match pl.loc? with
      | none => .next s
      | some loc => .next (after ((s1.storeBytes loc (leBytes n x)).wrote pc loc))

/-- WRITE_STREAM_ELEMENT: the next element of the token that an affine write stream takes, or its end of stream (R78). -/
def execWriteStreamElement (pc : Nat) (s0 : State) : Out :=
  let s := s0.served pc
  let p := s.pctx pc
  let v := p.spec.toNat
  let z := spSize v
  if !s0.agnTurn pc 1 then .next s0
  else match s.writeHead p with
    | none => .next s
    | some none =>
      if p.draining || spTotal v ≤ p.pos then
        let s1 := s.writePop pc
        .next (s1.setPctx pc { s1.pctx pc with eosA := true, st := .draining })
      else .next (s.agnFault pc .flowStreamLength 0 (some .eos))
    | some (some (x, psn)) =>
      if p.draining then .next (s.writePop pc)
      else if spTotal v ≤ p.pos then .next (s.agnFault pc .flowStreamLength 0 (heldToken x psn))
      else
        let j := p.pos % spPf v
        let after (t : State) : State :=
          let t1 := (t.counted pc 1).advance pc 1
          if j + 1 = spPf v then t1.writePop pc else t1
        s.writeValue pc (spPath v) z (x / 2 ^ (8 * z * j) % 2 ^ (8 * z)) psn (spAddr v p.pos) p.pos after

/-- INDIRECT_SCATTER: the next pair of index and value (R80). -/
def execIndirectScatter (pc : Nat) (s0 : State) : Out :=
  let s := s0.served pc
  let p := s.pctx pc
  let v := p.spec.toNat
  let z := spSize v
  if !s0.agnTurn pc 3 then .next s0
  else if p.draining then
    let (a, ea) := match p.inA with | [] => ([], p.eosA) | k :: r => (r, p.eosA || k.isEos)
    let (b, eb) := match p.inB with | [] => ([], p.eosB) | k :: r => (r, p.eosB || k.isEos)
    .next (s.setPctx pc { p with inA := a, inB := b, eosA := ea, eosB := eb })
  else match p.inA, p.inB with
    | x :: ra, y :: rb =>
      if x.isEos && y.isEos then
        .next (s.setPctx pc { p with inA := ra, inB := rb, eosA := true, eosB := true, st := .draining })
      else if x.isEos || y.isEos then .next (s.agnFault pc .flowStreamLength 0 (some x))
      else if x.psn then .next (s.agnFault pc .psnStore 0 (some x))
      else match spIndex v x with
        | none => .next (s.agnFault pc .memIndexBounds 0 (some x))
        | some a =>
          s.writeValue pc (spPath v) z (y.data.toNat % 2 ^ (8 * z)) y.psn a p.pos
            (fun t => (((t.counted pc 1).popA pc).popB pc).advance pc 1)
    | _, _ => .next s

/-! ### EDGE records that feed a stream (R78, R202) -/

/-- The input of a stream that an EDGE record of a tile feeds: 0 the first input, 1 the value input of a scatter. -/
def feedsInput (v t g : Nat) : Option Nat :=
  if spKind v = 1 then (if spDtile v = t ∧ spDest v = g ∧ !spAtt v then some 0 else none)
  else if spKind v = 2 then (if spCtile v = t ∧ spCdest v = g then some 0 else none)
  else if spKind v = 3 then
    if spCtile v = t ∧ spCdest v = g then some 0 else if spDtile v = t ∧ spDest v = g then some 1 else none
  else none

/-- The input of a write stream has taken its end of stream, or holds it: a token that comes after it waits in its arc (R202; DEDUCED,
log 34). -/
def PCtx.inputEnded (p : PCtx) (i : Nat) : Bool :=
  if i = 0 then p.eosA || p.inA.any Token.isEos else p.eosB || p.inB.any Token.isEos

/-- A data token reaches a write stream that drains and has taken its end of stream: it lies beyond element N - 1 (R78, R202). -/
def PCtx.beyond (p : PCtx) (k : Token) : Bool :=
  p.st == .draining && !p.draining && spKind p.spec.toNat == 1 && p.eosA && p.inA.isEmpty && !k.isEos

/-- EDGE to an AGN: the token goes to the stream that names this record, waits, or raises FLOW_STREAM_SOURCE or FLOW_STREAM_LENGTH
(R78, R202); each input of the stream holds two (DESIGN CHOICE, log 30). -/
def execEdgeAgn (r : RecOp) (s : State) : Out :=
  let pc := 512 * tileDie s.curTile + r.dst.toNat
  let p := s.pctx pc
  s.ifRec (match s.recHead 0 with
    | none => .next s
    | some k =>
      if p.launch ≠ s.curT.launch ∨ p.st = .free ∨ p.st = .bound ∨ p.st = .frozen ∨ p.st = .saved then .next s
      else match feedsInput p.spec.toNat s.curTile (recTarget s.curSlot 0) with
        | none => .next (s.agnFault pc .flowStreamSource 0 (some k))
        | some i =>
          let full : Bool := if i = 0 then 2 ≤ p.inA.length else 2 ≤ p.inB.length
          if p.beyond k then .next (s.agnFault pc .flowStreamLength 0 (some k))
          else if full || p.inputEnded i then .next s
          else
            let s1 := (s.recTake 0).recFired
            let q := s1.pctx pc
            let s2 := s1.setPctx pc (if i = 0 then { q with inA := q.inA ++ [k] } else { q with inB := q.inB ++ [k] })
            .next (if k.isEos then s2.recEnd else s2))

/-! ### Retries (R46) -/

/-- A retried element of a read stream is delivered late: among the elements now being issued, with LATE (R45, R48). -/
def State.lateValue (s : State) (pc : Nat) (h : HeldElement) (x : Nat) (psn : Bool) : Out :=
  let p := s.pctx pc
  let v := p.spec.toNat
  let y := if spPf v = 1 then extended v x else x
  match s.captured p.launch 6 .agn (pc / 512) (pc % 512) (word y) (word h.n) (4 * (pc / 512)) (fun _ n => n == word h.n) with
  | none => .next s
  | some (w, s1) =>
    let s2 := s1.setPctx pc { s1.pctx pc with spill := p.spill.erase h, acc := p.acc ||| stLATE }
    .next ((s2.deliverRecorded pc h.n (spPf v) (if spAtt v then y else w.toNat) psn h.bad).getD s)

/-- The diverted element of a port context that is tried next: the one that a peer has answered in part; in a replay the next
that was late, once it has been diverted (R468); else the first that is due (R46). -/
def State.lateNext (s : State) (pc : Nat) : Option HeldElement :=
  let p := s.pctx pc
  let at_ (n : Nat) : Option HeldElement := p.spill.find? (fun h => h.n == n)
  let first := p.spill.find? (fun h => h.due ≤ s.now)
  if p.want == .late && !p.part.isEmpty then at_ p.asked
  else match p.launch.bind s.launch with
    | none => none
    | some l =>
      let o := recOrigin (pc / 512) (pc % 512)
      if !s.replays l .agn o then first
      else match s.nextRecord l .agn o with
        | none => first
        | some r => match at_ r.aux.toNat with
          | some h => if h.due ≤ s.now then some h else none
          | none => if p.pos ≤ r.aux.toNat then none else first

/-- A port context can try its next diverted element now. -/
def State.lateReady (s : State) (pc : Nat) : Option HeldElement :=
  let p := s.pctx pc
  let busy : Bool := p.tag.isSome || (p.want == .element && !p.part.isEmpty)
  if !s.agnActs pc || p.stopped.isSome || busy || !s.streamRoom pc p.spec.toNat then none else s.lateNext pc

/-- AGN_RETRY: a stopped element goes on to its next attempt, or a diverted one that is due is read again, if no other of its AGN
comes first in the order of the spill queue (R46). -/
def execAgnRetry (pc : Nat) (s : State) : Out :=
  let p := s.pctx pc
  let v := p.spec.toNat
  let before (h : HeldElement) : Bool :=
    (agnCtxs pc).any (fun c => c != pc && (s.lateReady c).any (fun e => e.ord < h.ord))
  match p.stopped, s.lateReady pc with
  | some h, _ => .next (if !s.agnActs pc || p.tag.isSome || s.now < h.due then s else s.setPctx pc { p with stopped := none })
  | none, none => .next s
  | none, some h =>
    if before h then .next s
    else
      let a : Int := if spKind v = 0 then spAddr v h.n else (h.addr : Int)
      match s.readElems pc (spPath v) (spSize v) false false (spPf v) a 0 0 false with
      | .xlt _ x => .next (s.setPctx pc { p with spill := p.spill.map (fun e => e.postponed h.n x.toNat s.now) })
      | .stop c x => .next (s.agnFault pc c (word x.toNat))
      | .ok x psn s1 => s1.lateValue pc h x psn
      | .peer pkg va =>
        let from_ := va + p.part.length
        let s1 := s.agnRequest pc .late 1 0 pkg from_ 0 1 [0, spanLen from_ (spPf v * spSize v - p.part.length)]
        .next (s1.setPctx pc { s1.pctx pc with asked := h.n })
      | .wait => .next s

/-! ### Status words (R82, R243) -/

/-- The element of tile `t` that a target belongs to, if it names one (R137). -/
def targetElem (t : Nat) (g : BitVec 9) : List (Nat × Nat) := if g.toNat = noTarget then [] else [(t, g.toNat / 4)]

/-- The elements that slot or record `e` (records from 64 up) of tile `t` puts tokens on. -/
def State.elemTargets (s : State) (t e : Nat) : List (Nat × Nat) :=
  let p := (s.tile t).plane
  if e < 64 then
    match p.slot e with
    | none => []
    | some (opc, o) =>
      let own := targetElem t o.t0 ++ targetElem t o.t1
      if opc ≠ 0x50 ∧ opc ≠ 0x51 then own
      else
        let row (u : Option Nat) : List (Nat × Nat) := match u with
          | some x => ((s.tile x).plane.matrixSlot.map (fun m => (x, m.1))).toList
          | none => []
        own ++ (if extPdst o.ext then [] else row (s.southTile t)) ++
          (if extAfwd o.ext then row (s.inRegion t (downChain t)) else [])
  else match p.rec_ (e - 64) with
    | none => []
    | some (op, r) => if op = 7 then [] else targetElem (destTile t r) r.dst ++ targetElem (destTile t r) r.dst2

/-- The elements from which a chain of arcs, records and wide-port links leads to one of `found`; `fuel` bounds the chain. -/
def State.feedChain (s : State) (all : List (Nat × Nat)) : Nat → List (Nat × Nat) → List (Nat × Nat)
  | 0, found => found
  | fuel + 1, found =>
    let new := all.filter (fun e => !found.contains e && (s.elemTargets e.1 e.2).any found.contains)
    if new.isEmpty then found else s.feedChain all fuel (found ++ new)

/-- The flags of every tile that feeds a write stream, as they stand: a tile with an operator, a slot's or a record's, from which
a chain leads to the source of the stream (R243; DEDUCED, log 36). -/
def State.feedFlags (s : State) (p : PCtx) : Nat :=
  let v := p.spec.toNat
  match p.launch.bind s.launch with
  | none => 0
  | some l =>
    let all := l.tiles.flatMap (fun t => (List.range 128).map (fun e => (t, e)))
    let source := if spAtt v then ((s.tile (spDtile v)).plane.matrixSlot.map (fun m => (spDtile v, m.1))).toList
      else (spDtile v, spDest v / 4) :: (if spKind v = 3 then [(spCtile v, spCdest v / 4)] else [])
    (s.feedChain all all.length source).foldl (fun a e => Nat.lor a (s.tile e.1).flags.toNat) 0

/-- The stream has issued or taken everything and may perform its status OR. -/
def State.orReady (s : State) (pc : Nat) : Bool :=
  let p := s.pctx pc
  let v := p.spec.toNat
  s.agnActs pc && p.st == .draining && p.spill.isEmpty && p.stopped.isNone && p.tag.isNone && !p.statusDone &&
    (spReads v || (p.eosA && (spKind v != 3 || p.eosB)))

/-- What the checks of an AGN's access in its spans come to: the peer that it goes to, the places of its parts, the cause and
address of the lowest part that faults, or a wait. -/
inductive AgnParts where
  | peer (pkg va : Nat)
  | parts (ps : List (Nat × Nat))
  | bad (c : Cause) (a : Int)
  | wait

/-- The checks of one part of a status OR, which needs RD and WR (R37, R82). -/
def State.agnCheckBoth (s : State) (pc path : Nat) (a : Int) (n : Nat) : Res Place × State :=
  match s.agnCheck pc path .read a n with
  | (.ok _, t) => t.agnCheck pc path .write a n
  | r => r

/-- The checks of a status OR part by part, the lowest first (R38), with the state whose TLBs they leave. -/
def State.agnParts (s : State) (pc path : Nat) : List (Int × Nat) → List (Nat × Nat) → AgnParts × State
  | [], ps => (.parts ps, s)
  | (a, n) :: r, ps =>
    match s.agnCheckBoth pc path a n with
    | (.wait, t) => (.wait, t)
    | (.bad c, t) => (.bad c a, t)
    | (.ok (.peer pkg va), t) => (.peer pkg va, t)
    | (.ok pl, t) => match pl.loc? with
      | none => (.bad .memBadPath a, t)
      | some loc => t.agnParts pc path r (ps ++ [(loc, n)])

/-- The parts of the 8 bytes at an address that lie in one 64 KiB block each, so that no span of a translation and no block of an
island ends within a part (R38, R53, R66). -/
def wordParts (a : Int) : List (Int × Nat) :=
  let m := min 8 (65536 - (a % 65536).toNat)
  if m = 8 then [(a, 8)] else [(a, m), (a + (m : Nat), 8 - m)]

/-- STATUS_OR: the accumulator, with the flags of the tiles that feed a write stream, is ORed into the status word (R82). -/
def execStatusOr (pc : Nat) (s : State) : Out :=
  let p0 := s.pctx pc
  let v := p0.spec.toNat
  if !s.orReady pc then .next s
  else
    let short : Bool := spKind v == 4 && decide (spTotal v ≤ p0.pos) && p0.setBits != spLen v
    let p := if spReads v then { p0 with acc := if short then p0.acc ||| stSPLEN else p0.acc }
      else { p0 with acc := p0.acc ||| word (s.feedFlags p0) }
    let s0 := s.setPctx pc p
    let a : Int := (spBase v : Int) + spStoff v
    let done (t : State) : State := t.setPctx pc { t.pctx pc with statusDone := true }
    let fails (c : Cause) (x : Int) : State :=
      if c.isXlt && !s.nrx p then s0.agnStop pc c x p.pos else s0.agnFault pc c (wordZ x)
    if !spStw v then .next (done s0)
    else match s0.agnParts pc (spPath v) (wordParts a) [] with
      | (.wait, _) => .next s
      | (.bad c x, _) => .next (fails c x)
      | (.peer pkg va, s1) => .next (s1.agnRequest pc .status 3 2 pkg va 0 2 [p.acc.toNat, 0, 0, 8])
      | (.parts ps, s1) =>
        let old := leNat (s1.loadParts ps)
        let s2 := ps.foldl (fun t q => (t.engineRead (s.pctxCtx p) q.1 q.2 (wordZ a)).2.2) s1
        .next (done (s2.storeParts ps (leBytes 8 (Nat.lor old p.acc.toNat))))

/-! ### Ends and completions (R77, R85, R343) -/

/-- END_OF_STREAM: after the last element and the status OR, a read stream emits its end of stream (R47, R77). -/
def execEndOfStream (pc : Nat) (s : State) : Out :=
  let p := s.pctx pc
  let v := p.spec.toNat
  let ready : Bool := s.agnActs pc && p.st == .draining && spReads v && p.statusDone && !p.eosSent
  let sent (t : State) : State := t.setPctx pc { t.pctx pc with eosSent := true }
  if !ready then .next s
  else if spAtt v then
    let t := spDtile v
    let m := (s.tile t).matrix
    if !s.wideRoom pc v then .next s
    else if wideInput (pc % 512) v = 1 then .next (sent (s.setMatrix t { m with north := m.north ++ [none] }))
    else .next (sent (s.setMatrix t { m with wide := m.wide ++ [none] }))
  else if !s.streamRoom pc v then .next s
  else
    let s1 := s.emit pc v 0 .eos
    .next (sent (if spKind v = 4 then s1.emit pc v 1 .eos else s1))

/-- Every element slot of a frame whose poison state is set lies among the locations that a write stream has written
(R57). -/
def frameCovered (locs : List Nat) (z f : Nat) : Bool :=
  (List.range (131072 / z)).all (fun i => locs.contains (131072 * f + z * i))

/-- A write stream that has written all of a frame's bytes sets the frame clean (R57). -/
def State.cleanFrames (s : State) (p : PCtx) : State :=
  let v := p.spec.toNat
  if p.cancelled then s
  else { s with frameState := s.frameState.filter (fun f => f.2 == 0 || !frameCovered p.written (spSize v) f.1) }

/-- STREAM_COMPLETION: the port context becomes Free, its message posts, and a BIND packet completes (R85, R343, R395). -/
def execStreamCompletion (pc : Nat) (s : State) : Out :=
  let p := s.pctx pc
  let v := p.spec.toNat
  let isOver : Bool := (s.pctxLaunch p).isSome && p.st == .draining && p.statusDone && p.tag.isNone &&
    (if spReads v then p.eosSent else p.eosA && (spKind v != 3 || p.eosB))
  if !isOver then .next s
  else
    let s2 := (((s.cleanFrames p).chargeEnd p).setPctx pc PCtx.reset).postStream pc p
    .next (match p.item with | some i => s2.packetDone i | none => s2)

/-! ### Answers from peers (R275 to R278) -/

/-- The bytes that the present request of a stream stands for: a bitmap byte, or those of a token. -/
def PCtx.whole (p : PCtx) : Nat := if p.want = .bitmap then 1 else spPf p.spec.toNat * spSize p.spec.toNat

/-- What a stream has asked a peer for has arrived whole. -/
def State.agnArrived (s : State) (pc x : Nat) (psn : Bool) : Out :=
  let p := s.pctx pc
  let v := p.spec.toNat
  let y := if spPf v = 1 then extended v x else x
  match p.want with
  | .bitmap => .next (s.bitmapByte pc x psn)
  | .late => match p.spill.find? (fun h => h.n == p.asked) with
    | some h => s.lateValue pc h x psn
    | none => .next s
  | _ =>
    match s.deliverRecorded pc p.pos (spPf v) y psn p.bitmapBad with
    | none => .next s
    | some s2 =>
      let s3 := if spKind v = 4 then s2.setPctx pc { s2.pctx pc with setBits := p.setBits + 1 } else s2
      .next ((if spKind v = 2 then s3.popA pc else s3).advance pc (spPf v))

/-- A write of an element to a peer is over, or its second part follows. -/
def State.agnWritten (s : State) (pc : Nat) (addr : Word) (psn : Bool) : State :=
  let p := s.pctx pc
  let v := p.spec.toNat
  match p.part with
  | [] =>
    let s1 := (s.counted pc 1).advance pc 1
    if spKind v = 3 then (s1.popA pc).popB pc
    else if p.pos % spPf v + 1 = spPf v then s1.writePop pc
    else s1
  | bs =>
    let next := addr.toNat / 131072 * 131072 + 131072
    let (len, ws) := writePayload bs
    (s.setPctx pc { p with part := [] }).agnRequest pc .element 2 0 (bits next 52 6) (bits next 0 52)
      (if psn then 2 ^ ceilDiv bs.length 8 - 1 else 0) len ws

/-- A peer has answered a stream's request with a cause (R275, R277). -/
def State.agnRefused (s : State) (pc tag : Nat) (c : Cause) (addr : Word) : State :=
  let p := s.pctx pc
  let v := p.spec.toNat
  let a : Int := (addr.toNat : Int)
  if c = .psnStore ∧ p.want = .element ∧ !spReads v then
    (s.setPctx pc { p with acc := p.acc ||| stPELEM }).agnWritten pc addr true
  else if !c.isXlt then s.agnFault pc c addr none (some tag)
  else match p.want with
    | .late => s.setPctx pc { p with spill := p.spill.map (fun h => h.postponed p.asked h.addr s.now), part := [] }
    | .element =>
      if s.nrx p then
        if spReads v then s.bump.andThen (fun t => t.agnArrived pc ((Config.poisonData s.choice).toNat % 2 ^ (8 * p.whole)) true)
        else s.agnFault pc c addr none (some tag)
      else if spReads v then
        let s1 := s.agnXlt pc c a p.pos (spPf v) (some tag)
        if spReord v && spKind v == 2 then s1.popA pc
        else if spReord v && spKind v == 4 then s1.setPctx pc { s1.pctx pc with setBits := p.setBits + 1 }
        else s1
      else s.agnStop pc c a p.pos none (some tag)
    | .bitmap =>
      if s.nrx p then s.bitmapByte pc (Config.poisonData s.choice).toNat true else s.agnStop pc c a p.pos none (some tag)
    | .status => if s.nrx p then s.agnFault pc c addr none (some tag) else s.agnStop pc c a p.pos none (some tag)

/-- A response reaches a stream (R275, R277); a cancelled stream only awaits the answer to its status OR (R86). -/
def State.agnResponse (s : State) (pc : Nat) (f : Flit) (addr : Word) : State :=
  let p := s.pctx pc
  if p.tag ≠ some f.tag then s
  else
    let s0 := s.setPctx pc { p with tag := none }
    if p.st = .frozen ∨ (p.cancelled ∧ p.want ≠ .status) then s0
    else match f.respCause with
      | some c => s0.agnRefused pc f.tag c addr
      | none =>
        if p.want = .status then s0.setPctx pc { s0.pctx pc with statusDone := true }
        else if spReads p.spec.toNat then
          let n := spanLen (bits addr.toNat 0 52) (p.whole - p.part.length)
          let got := p.part ++ leBytes n f.payload.toNat
          let psn := p.partPsn || f.pmask != 0
          if got.length < p.whole then s0.setPctx pc { s0.pctx pc with part := got, partPsn := psn }
          else
            (s0.setPctx pc { s0.pctx pc with part := [], partPsn := false }).andThen
              (fun t => t.agnArrived pc (leNat got) psn)
        else s0.agnWritten pc addr (p.acc &&& stPELEM != 0 && f.pmask != 0)

/-- A stream's request that has had no response stops the AGN for good (R278, R430). -/
def State.agnNoResponse (s : State) (pc tag : Nat) (addr : Word) : State :=
  let p := s.pctx pc
  if p.tag ≠ some tag then s
  else if p.st = .frozen then s.setPctx pc { p with tag := none }
  else s.agnFault pc .netTimeout addr

end Sys2Proof.Machine
end

