-- ==== Sys2Proof/Machine/Copy.lean ====
section
/-!
DEFINITION. Copies: descriptors and their checks (R55, R56, R63, R344), the copy engine (R345), and what a peer's answer and
a completion do to a copy (R275, R343, R402).
-/
namespace Sys2Proof.Machine
open Sys2Proof

/-! ### Reading a descriptor -/

/-- What reading a descriptor comes to. -/
inductive DescRead where
  | bytes (bs : List Byte)
  | bad (c : Cause) (a : Word)
  | wait
  deriving DecidableEq, Repr

/-- Reads `n` aligned 8-byte words under a context, as a sequencer's accesses are checked (R44, R472). -/
def State.readDesc (s : State) (ctx : Nat) (a : Word) : Nat → DescRead
  | 0 => .bytes []
  | n + 1 =>
    match s.check { ctx := some ctx } 0 [] .read a 8 with
    | (.wait, _) => .wait
    | (.bad c, _) => .bad c a
    | (.ok (.mem l), _) => match s.dataError l 8 with
      | some c => .bad c a
      | none => match s.readDesc ctx (a + 8) n with
        | .bytes bs => .bytes (memBytes s.mem l 8 ++ bs)
        | r => r
    | _ => .bad .memBadPath a

/-- A descriptor's address: on path 0x0, 0x1 or 0x4 and aligned (R344, R346). -/
def descAddrOk (a : Word) (align : Nat) : Bool := [0, 1, 4].contains (pathOf a) && a.toNat % align == 0

/-! ### Storage extents (R55, R56, R63) -/

def exPort (v : Nat) : Nat := bits v 0 1
def exWci (v : Nat) : Bool := bits v 1 1 == 1
/-- DIR: memory to storage. -/
def exOut (v : Nat) : Bool := bits v 2 1 == 1
def exKey (v : Nat) : Nat := bits v 8 4
def exNsid (v : Nat) : Nat := bits v 16 32
def exBase (v : Nat) : Nat := bits v 64 64
def exFirst (v : Nat) : Nat := bits v 128 32
def exCount (v : Nat) : Nat := bits v 160 32
def exDpages (v : Nat) : Nat := bits v 192 64
def exImgid (v : Nat) : Nat := bits v 256 128

def pageSize : Nat := 131072

/-- LBA size and number of blocks of an active namespace (R52). -/
def State.namespace? (s : State) (v : Nat) : Option (Nat × Nat) := tabFind s.namespaces (2 * exNsid v + exPort v)

/-- What an extent decides alone with the memory side at `mem`: reserved fields, pages, and the range in memory (R55, R56). -/
def extentShapeBad (v mem : Nat) : Bool :=
  bits v 3 5 != 0 || bits v 12 4 != 0 || bits v 48 16 != 0 || exCount v == 0 ||
  (!exWci v && (exDpages v != 0 || exImgid v != 0)) ||
  mem / 2 ^ 60 != 0 || mem % pageSize != 0 || decide (2 ^ 60 < mem + exCount v * pageSize)

/-- Pages of an extent on its drive from page 0 up: those that it transfers, and for a cache image the tag pages of the data pages
among them (R56, R61, R63; DEDUCED, log 37). -/
def extentPages (v : Nat) : Nat :=
  let last := exFirst v + exCount v
  let data := min (last - 1) (exDpages v)
  if exWci v && exFirst v ≤ exDpages v && 0 < data then max last (exDpages v + 1 + (data - 1) / 8192 + 1) else last

/-- MEM_STORAGE_DESC of an extent whose memory side is at `mem` (R56, R63). -/
def State.extentBad (s : State) (v mem : Nat) : Bool :=
  let last := exFirst v + exCount v
  extentShapeBad v mem || !s.part.storage.getLsbD (exPort v) ||
  (match s.namespace? v with
   | none => true
   | some (lba, blocks) =>
     exBase v % (pageSize / lba) != 0 || decide (blocks < exBase v + extentPages v * (pageSize / lba))) ||
  (exWci v && exOut v &&
    (!(exFirst v == 0 || (exFirst v - 1) % 8192 == 0) || exDpages v + 1 < last ||
      !(last == exDpages v + 1 || (last - 1) % 8192 == 0)))

/-! ### The copy descriptor (R344) -/

def cdSrc (d : Nat) : Nat := bits d 0 64
def cdDst (d : Nat) : Nat := bits d 64 64
def cdLen (d : Nat) : Nat := bits d 128 32
def cdStor (d : Nat) : Bool := bits d 160 1 == 1

/-- R33 on the first and the last byte of a range. -/
def State.rangeBad (s : State) (a n : Nat) : Option Cause :=
  if 2 ^ 64 < a + n then some .memNoncanonical
  else match s.checkPath (word a) with
    | some c => some c
    | none => s.checkPath (word (a + n - 1))

/-- What the checks of a descriptor come to: the storage extent descriptor, or 0 without one; a wait; or a cause with its
address. -/
inductive CopyPlan where
  | ok (sdesc : Nat)
  | bad (c : Cause) (a : Word)
  | wait
  deriving DecidableEq, Repr

/-- The 48 bytes at an address where a storage extent descriptor may stand (R55). -/
def State.readExtent (s : State) (ctx a : Nat) : CopyPlan :=
  if a / 2 ^ 60 ≠ 0 ∨ a % 16 ≠ 0 then .bad .memStorageDesc 0
  else match s.readDesc ctx (word a) 6 with
    | .wait => .wait
    | .bad c x => .bad c x
    | .bytes bs => .ok (leNat bs)

/-- The storage extent of a copy descriptor: it stands at SRCA with DIR 0 or at DSTA with DIR 1, and the other side is memory
(R63, R344). Which side it is, SRCA's word decides first: where that reads as a good extent with DIR 0, DSTA is memory whatever
its bytes are, a good extent with DIR 1 or unreadable ones too (DESIGN CHOICE, log 37). -/
def State.extentSide (s : State) (ctx d : Nat) : CopyPlan :=
  let a := s.readExtent ctx (cdSrc d)
  let b := s.readExtent ctx (cdDst d)
  match a, b with
  | .ok v, .ok w => if !exOut v && (!extentShapeBad v (cdDst d) || !exOut w) then .ok v
      else if exOut w then .ok w else .bad .memStorageDesc 0
  | .ok v, r => if !exOut v then .ok v else r
  | r, .ok w => if exOut w then .ok w else r
  | .wait, _ => .wait
  | _, .wait => .wait
  | .bad c x, .bad e y => if c = .memStorageDesc then .bad e y else .bad c x

/-- The checks of a copy descriptor (R55, R56, R344); its bits 255:161 are reserved and name no fault (R7). -/
def State.copyPlan (s : State) (ctx d : Nat) : CopyPlan :=
  let src := cdSrc d
  let dst := cdDst d
  let len := cdLen d
  if cdStor d then
    if len ≠ 0 then .bad .memCopyDesc 0
    else match s.extentSide ctx d with
      | .ok v => if s.extentBad v (if exOut v then src else dst) then .bad .memStorageDesc 0 else .ok v
      | r => r
  else if len = 0 ∨ len % 16 ≠ 0 ∨ src % 16 ≠ 0 ∨ dst % 16 ≠ 0 ∨ src / 2 ^ 60 = 5 ∨ dst / 2 ^ 60 = 5 then .bad .memCopyDesc 0
  else match s.rangeBad src len with
    | some c => .bad c (word src)
    | none => match s.rangeBad dst len with
      | some c => .bad c (word dst)
      | none => .ok 0

/-- A copy starts. -/
def State.startCopy (s : State) (ctx d sdesc : Nat) (launch : Option Nat) (seqn : Nat) (item : Option Nat)
    (post : Option (BitVec 6 × BitVec 8)) (desc : Word) : State :=
  let j : CopyJob :=
    { ctx := ctx, launch := launch, seqn := seqn, item := item, post := post, desc := desc, srca := word (cdSrc d),
      dsta := word (cdDst d), len := cdLen d, stor := cdStor d, done := 0, cause := none, count := 0, failed := false,
      cancelled := false, stopped := none, firstPsn := false, spanPsn := false, clean := [], buf := none, tag := none,
      sdesc := BitVec.ofNat 384 sdesc, page := 0 }
  { s with copies := tabPut s.copies (tabFresh s.copies) j }

/-- COPY (R344). -/
def execCopy (rd rs1 : Reg) (ch : BitVec 6) (s : State) : Out :=
  let q := s.cur
  let a := q.rd rs1
  let ctx := q.ctxid.toNat
  let flying := (s.copies.filter (fun j => j.2.item.isNone && j.2.launch == q.launch)).length
  if q.nch.toNat ≤ ch.toNat || !descAddrOk a 32 then s.fault .seqBadOperand
  else if 8 ≤ flying then .next (s.result rd 1)
  else match s.readDesc ctx a 4 with
    | .wait => .next s
    | .bad c x => s.fault c x
    | .bytes bs =>
      let d := leNat bs
      match s.copyPlan ctx d with
      | .wait => .next s
      | .bad c x => s.fault c x
      | .ok v =>
        let post := some (ch, entryGen (s.handler s.curSeq ch.toNat))
        .next ((s.startCopy ctx d v q.launch s.curSeq none post a).result rd 0)

/-! ### The engine (R345) -/

def State.copyJob (s : State) (k : Nat) : Option CopyJob := tabFind s.copies k
def State.setCopy (s : State) (k : Nat) (j : CopyJob) : State := { s with copies := tabPut s.copies k j }

/-- Index of the 128 KiB span of the source that byte `off` of a copy lies in. -/
def CopyJob.span (j : CopyJob) (off : Nat) : Nat := (j.srca.toNat + off) / pageSize - j.srca.toNat / pageSize

/-- POS of a copy engine's record (R426): each page of a storage copy is a span. -/
def State.copyPos (s : State) (j : CopyJob) : Nat :=
  (if j.stor then j.page else j.span j.done) % 2 ^ 32 * 2 ^ 6 +
    (match j.item.bind s.item with
     | some i => 32 + i.queue * 2 ^ 38
     | none => j.seqn % 32)

/-- A record of a copy engine. -/
def State.copyRecord (s : State) (j : CopyJob) (c : Cause) (addr : Word) (stop : Bool) : State :=
  s.raise c { origin := .copy, ctx := some j.ctx, pos := s.copyPos j, stop := stop, addr := addr }

/-- The copy's first cause. -/
def CopyJob.because (j : CopyJob) (c : Cause) : CopyJob := { j with cause := if j.cause.isSome then j.cause else some c }

/-- A fault ends the copy with failure. -/
def State.copyFail (s : State) (j : CopyJob) (k : Nat) (c : Cause) (addr : Word) : State :=
  (s.copyRecord j c addr true).setCopy k { j.because c with failed := true, stopped := none, buf := none, tag := none }

/-- A fault of a span: a recoverable translation fault stops the copy there, and any other ends it with failure. -/
def State.copyBad (s : State) (k : Nat) (c : Cause) (addr : Word) : State :=
  match s.copyJob k with
  | none => s
  | some j =>
    if c.isXlt && !(j.launch.bind s.launch).any Launch.nrx then
      let s1 := if j.stopped.isSome then s else s.copyRecord j c addr true
      s1.setCopy k { j with stopped := some (HeldElement.at' (j.span j.done) addr.toNat s.now), buf := none, tag := none }
    else s.copyFail j k c addr

/-- Engine ticks of a copy. -/
def State.chargeCopy (s : State) (j : CopyJob) (n : Nat) : State :=
  match j.item, j.launch with
  | some i, _ => s.chargeItem i n
  | none, some l => s.chargeLaunch l n
  | none, none => s

/-- The granule is over: `loc` is where it has been written, none when it has not. -/
def State.copyNext (s : State) (k : Nat) (loc : Option Nat) : State :=
  match s.copyJob k with
  | none => s
  | some j =>
    let done := j.done + 16
    let dst := j.dsta.toNat
    let bad := j.spanPsn || loc.isNone
    let edge : Bool := (dst + done) % pageSize == 0
    let full : Bool := edge && decide (pageSize ≤ done) && !bad
    let clean := match loc with
      | some l => if full && l < 2 ^ 39 then l / pageSize :: j.clean else j.clean
      | none => j.clean
    (s.setCopy k { j with done := done, stopped := none, buf := none, spanPsn := bad && !edge, clean := clean }).chargeCopy j
      (unitsReached 256 j.done done)

/-- A poisoned granule is not written: one record for the first, and the count (R345). -/
def State.copyPoisoned (s : State) (k : Nat) (j : CopyJob) (dst : Word) : State :=
  let c : Cause := if pathOf dst = 7 then .psnEgress else .psnStore
  let s1 := if j.firstPsn then s else s.copyRecord j c dst false
  (s1.setCopy k { j.because c with firstPsn := true, count := j.count + 1 }).copyNext k none

/-- A request of 16 bytes to a peer. -/
def State.copyRequest (s : State) (k : Nat) (j : CopyJob) (type pkg va pmask len : Nat) (ws : List Nat) : State :=
  let (t, s1) := s.sendRequest (.copy k) type pkg j.ctx va 0 pmask len ws
  s1.setCopy k { j with tag := some t }

/-- Where one granule of a copy lies: in this package, at a peer, nowhere because of a cause, or behind a wait (R33, R67,
R274). -/
def State.copyPlace (s : State) (j : CopyJob) (k : AccKind) (a : Word) : Res Place :=
  match (s.check { ctx := some j.ctx } 0 [] k a 16).1 with
  | .ok (.peer pkg va) =>
    if !s.domain then .bad .netNoRoute
    else if pkg = s.pkg then (s.check { ctx := some j.ctx } 0 [] k (word va) 16).1
    else if (s.routeTo pkg).isNone then .bad .netNoRoute
    else .ok (.peer pkg va)
  | r => r

/-- Writes a granule that has been read, with its poisoned words; path 0x6 to this package acts as path 0x0 (R99, R274, R277,
R345). -/
def State.copyWrite (s : State) (k : Nat) (j : CopyJob) (bs : List Byte) (mask : Nat) : State :=
  let dst := j.dsta + word j.done
  if mask ≠ 0 ∧ !s.leaves (pathOf dst) dst.toNat then s.copyPoisoned k j dst
  else match s.copyPlace j .write dst with
    | .wait => s.setCopy k { j with buf := some (bs, mask) }
    | .bad c => s.copyBad k c dst
    | .ok (.peer pkg va) =>
      let (len, ws) := writePayload bs
      s.copyRequest k { j with buf := some (bs, mask) } 2 pkg va mask len ws
    | .ok pl => match pl.loc? with
      | none => s.copyBad k .memBadPath dst
      | some l =>
        let s1 := s.storeBytes l bs
        let s2 := if pathOf dst = 2 then s1.setFull (tileOfAddr2 dst) (bits dst.toNat 0 15 / 16) true else s1
        s2.copyNext k (some l)

/-- One granule of a copy in this package or the request that it needs. -/
def State.copyGranule (s : State) (k : Nat) (j : CopyJob) : State :=
  match j.buf with
  | some (bs, mask) => s.copyWrite k j bs mask
  | none =>
    let src := j.srca + word j.done
    match s.copyPlace j .read src with
    | .wait => s
    | .bad c => s.copyBad k c src
    | .ok (.peer pkg va) => s.copyRequest k j 1 pkg va 0 1 [0, 16]
    | .ok pl => match pl.loc? with
      | none => s.copyBad k .memBadPath src
      | some l =>
        let (bs, bad, s1) := s.engineRead j.ctx l 16 src
        s1.copyWrite k j bs (if bad then 3 else 0)

/-- A copy may move: it has not failed or been cancelled, waits for no peer, and no fault holds it. -/
def State.copyLive (s : State) (j : CopyJob) : Bool :=
  !j.failed && !j.cancelled && j.tag.isNone && (match j.stopped with | some h => decide (h.due ≤ s.now) | none => true)

/-- A response reaches a copy (R275, R277): the granule has been read, or written; a poisoned word has not been. A fault
response ends the copy with failure, whatever its cause (R345). -/
def State.copyResponse (s : State) (k : Nat) (f : Flit) : State :=
  match s.copyJob k with
  | none => s
  | some j0 =>
    if j0.tag ≠ some f.tag then s
    else
      let j := { j0 with tag := none }
      let s1 := s.setCopy k j
      if j.cancelled then s1
      else match j.buf, f.respCause with
        | none, none => s1.setCopy k { j with buf := some (leBytes 16 f.payload.toNat, f.pmask % 4) }
        | none, some c => s1.copyFail j k c (j.srca + word j.done)
        | some (_, mask), some c =>
          if c = .psnStore ∧ mask ≠ 0 then (s1.setCopy k { j.because c with count := j.count + 1 }).copyNext k none
          else s1.copyFail j k c (j.dsta + word j.done)
        | some _, none => s1.copyNext k (some (2 ^ 64))

/-- A copy's request that has had no response (R278). -/
def State.copyNoResponse (s : State) (k tag : Nat) (addr : Word) : State :=
  match s.copyJob k with
  | none => s
  | some j =>
    if j.tag ≠ some tag then s
    else if j.cancelled then s.setCopy k { j with tag := none }
    else s.copyBad k .netTimeout addr

/-! ### Completion (R343) -/

/-- Every access of a copy has performed; a storage copy's records are written too (R64). -/
def State.copyOver (s : State) (k : Nat) (j : CopyJob) : Bool :=
  let moved : Bool := if j.stor then j.page == exCount j.sdesc.toNat else j.done == j.len
  let idle : Bool := j.tag.isNone && s.storage.all (fun c => c.2.copy != k)
  let written : Bool := !j.stor ||
    s.records.all (fun r => !((r.origin == .copy || r.origin == .storage) && r.ctx == some j.ctx))
  idle && (j.cancelled || ((j.failed || moved) && written))

/-- A frame of main memory becomes clean (R57). -/
def State.cleanFrame (s : State) (f : Nat) : State := { s with frameState := tabDel s.frameState f }

/-- A frame of main memory fails: what operations still under way wrote of it before counts no more for its state, which the
operation that finishes the frame last sets (R57, R64). -/
def State.failFrame (s : State) (f : Nat) (v : BitVec 2) : State :=
  let copy (j : CopyJob) : CopyJob := { j with clean := j.clean.filter (· != f) }
  let pctx (p : PCtx) : PCtx := { p with written := p.written.filter (fun l => l / pageSize != f) }
  { s with frameState := tabPut s.frameState f v, copies := s.copies.map (fun c => (c.1, copy c.2)),
           pctxs := s.pctxs.map (fun c => (c.1, pctx c.2)) }

/-- COPY_COMPLETION: frames that the copy has written whole become clean, its message posts, and a COPY packet completes or
fails; a packet that completes keeps the copy's first cause (R57, R343, R396, R401; DEDUCED, log 37). -/
def execCopyCompletion (copy : Nat) (s : State) : Out :=
  match s.copyJob copy with
  | none => .next s
  | some j =>
    if !s.copyOver copy j then .next s
    else
      let s0 : State := { s with copies := tabDel s.copies copy }
      let s1 := if j.stor then s0 else s0.chargeCopy j (unitsLeft 256 j.done)
      if j.cancelled then .next s1
      else
        let s2 := if j.failed then s1 else j.clean.foldl (fun st f => st.cleanFrame f) s1
        match j.item with
        | some i =>
          if j.failed then .next (s2.packetFails i (j.cause.getD .memCopyDesc))
          else
            let s3 := match s2.item i with
              | some v => s2.setItem i { v with cause := if v.cause.isSome then v.cause else j.cause }
              | none => s2
            .next (s3.packetDone i)
        | none => match j.post, j.launch with
          | some (ch, gen), some l =>
            let (t, s3) := s2.readTime (seqClock j.seqn)
            .next (s3.postLaunch l (hardMsg ch gen 5 (word ((j.cause.map Cause.code).getD 0)) (word j.count) t j.desc))
          | _, _ => .next s2

/-- A copy is cancelled: it moves nothing more; an answer that is still to come is awaited (R50, R278, R345). -/
def State.cancelCopy (s : State) (k : Nat) : State :=
  match s.copyJob k with
  | none => s
  | some j => { s.setCopy k { j with cancelled := true } with storage := s.storage.filter (fun c => c.2.copy != k) }

end Sys2Proof.Machine
end

