-- ==== Sys2Proof/Machine/Fire.lean ====
section
/-!
DEFINITION. The firing rule of a slot (R93 to R96, R138, R158) and what the slice operators share (R107, R154 to R159).
-/
namespace Sys2Proof.Machine
open Sys2Proof

/-! ### Ports -/

/-- The sticky count of a port (R94, R140). -/
def stickyCount (opc : Nat) (o : SlotOp) (p : Nat) : Nat :=
  if o.m.getLsbD 3 && extKind opc == .arith then (match p with | 0 => extKA o.ext | 1 => extKB o.ext | _ => 0) else 0

/-- The value of an immediate, as the port that it replaces reads it (R140, R155). -/
def immValue (opc : Nat) (o : SlotOp) : Nat :=
  let i := extImm o.ext
  match floatImm opc o.w.toNat with
  | none => wrapNat 64 i.toInt
  | some 2 => i.toNat * 2 ^ 16
  | some 1 => i.toNat
  | some _ => i.toNat % 256

/-- The immediate as a token. -/
def immToken (opc : Nat) (o : SlotOp) : Token := Token.mk' (word (immValue opc o)) false

def SlotState.resident (v : SlotState) (p : Nat) : Option (Token × Nat) :=
  match p with | 0 => v.resA | 1 => v.resB | _ => none
def SlotState.setResident (v : SlotState) (p : Nat) (r : Option (Token × Nat)) : SlotState :=
  match p with | 0 => { v with resA := r } | 1 => { v with resB := r } | _ => v

/-- The head of the queue of port `p` of the running slot. -/
def State.head (s : State) (p : Nat) : Option Token := s.headAt s.curTile (slotTarget s.curSlot p)

/-- The effective head of port `p` (R93). -/
def State.effHead (s : State) (p : Nat) : Option Token :=
  match s.slotSt.resident p with
  | some r => some r.1
  | none => s.head p

def State.take (s : State) (p : Nat) : State := s.dequeue s.curTile (slotTarget s.curSlot p)

/-- Takes the input of a firing from port `p`: a resident token serves again, or the head is dequeued and becomes resident
under its sticky count (R93, R94). -/
def State.takePort (s : State) (opc : Nat) (o : SlotOp) (p : Nat) : State :=
  match s.slotSt.resident p with
  | some (k, left) =>
    let r := if left = 31 then some (k, 31) else if left ≤ 1 then none else some (k, left - 1)
    s.setSlotSt (s.slotSt.setResident p r)
  | none => match s.head p with
    | none => s
    | some k =>
      let n := stickyCount opc o p
      let s1 := s.take p
      if n = 0 then s1 else s1.setSlotSt (s1.slotSt.setResident p (some (k, n)))

/-! ### Targets -/

/-- T0 has room for `n0` tokens and T1 for `n1`. -/
def State.slotRoom (s : State) (o : SlotOp) (n0 n1 : Nat) : Bool :=
  s.room s.curTile o.t0.toNat n0 && s.room s.curTile o.t1.toNat n1

/-- Puts tokens on T0 and on T1. -/
def State.put (s : State) (o : SlotOp) (k0 k1 : List Token) : State :=
  (s.sendAll s.curTile s.curTile o.t0.toNat k0).sendAll s.curTile s.curTile o.t1.toNat k1

/-- Some token that leaves carries poison. -/
def carried (o : SlotOp) (k0 k1 : List Token) : Bool :=
  (o.t0 != 0x1FF && k0.any Token.psn) || (o.t1 != 0x1FF && k1.any Token.psn)

end Sys2Proof.Machine
namespace Sys2Proof
open Machine
/-- Both targets hold no place, so that a result is discarded (R138). -/
def SlotOp.mute (o : SlotOp) : Bool := o.t0 == 0x1FF && o.t1 == 0x1FF
end Sys2Proof
namespace Sys2Proof.Machine
open Sys2Proof

/-- What an end action emits before its EOS: its cost category, where it counts as a firing, the tokens and flags. -/
structure Ending where
  base : Option Nat := none
  k0 : List Token := []
  k1 : List Token := []
  fl : Flags := 0

/-- The end action: it takes the end of stream of every port, discards resident tokens, and puts its final emissions and
one EOS on each target (R95, R182); it waits for room, and for power where an emission counts as a firing. -/
def State.endAction (s : State) (o : SlotOp) (ports : List Nat) (e : Ending) : Out :=
  let poor : Bool := match e.base with | none => false | some b => !s.canPay b
  if !s.slotRoom o (e.k0.length + 1) (e.k1.length + 1) || poor then .next s
  else
    let s0 := match e.base with | none => s | some b => s.pay b
    let s1 := ports.foldl (fun st p => st.take p) s0
    let s2 := s1.setSlotSt { s1.slotSt with resA := none, resB := none, ended := true }
    .next ((s2.orFlags e.fl).put o (e.k0 ++ [.eos]) (e.k1 ++ [.eos]))

/-! ### The rule -/

/-- One data firing: its cost category, the room it needs, a fault it takes instead with the input and address that it
names, and its effect with the tokens it puts; `counts` when the effect itself accounts for the poison it discards. -/
structure Firing where
  base : Nat
  room0 : Nat := 1
  room1 : Nat := 1
  fault : Option (Cause × Nat × Word) := none
  counts : Bool := false
  run : State → State × List Token × List Token

/-- Every listed port has a data token as its effective head. -/
def State.allData (s : State) (ports : List Nat) : Bool := ports.all (fun p => (s.effHead p).any (fun k => k.kind == .data))
/-- Every listed port has an end of stream at the head of its queue. -/
def State.allEos (s : State) (ports : List Nat) : Bool := ports.all (fun p => (s.head p).any Token.isEos)
/-- The first port whose effective head is an end of stream, while another holds a data token (R93; that it is the
lowest such port: DEDUCED, log 29). -/
def State.eosMismatch (s : State) (ports : List Nat) : Option Nat :=
  if ports.any (fun p => (s.head p).any (fun k => k.kind == .data)) then
    ports.find? (fun p => (s.effHead p).any Token.isEos)
  else none

/-- The token that an operator reads on port `p`: the effective head, or the immediate where the port is unused. -/
def State.operand (s : State) (opc : Nat) (o : SlotOp) (p : Nat) : Token :=
  if (slotPorts opc o).contains p then (s.effHead p).getD (Token.mk' 0 false) else immToken opc o

/-- The firing rule of R93: fire, end, fault or wait. -/
def State.fireRule (s : State) (opc : Nat) (o : SlotOp) (f : Token → Token → Token → Firing) (e : Ending := {}) : Out :=
  let ports := slotPorts opc o
  if !s.slotLive then .next s
  else if s.allData ports then
    let a := s.operand opc o 0
    let b := s.operand opc o 1
    let c := s.operand opc o 2
    let g := f a b c
    if !s.slotRoom o g.room0 g.room1 || !s.canPay g.base then .next s
    else match g.fault with
      | some (cause, input, addr) => s.slotFault cause input addr
      | none =>
        let s1 := ports.foldl (fun st p => st.takePort opc o p) (s.pay g.base)
        let (s2, k0, k1) := g.run s1
        let poison := ports.any (fun p => (s.operand opc o p).psn) || k0.any Token.psn || k1.any Token.psn
        let lost := !g.counts && poison && !carried o k0 k1
        .next ((if lost then s2.orFlags flPSEEN else s2).put o k0 k1)
  else if s.allEos ports then s.endAction o ports e
  else match s.eosMismatch ports with
    | some p => s.slotFault .flowEosMismatch p
    | none => .next s

/-- A firing with one result on both targets that carries the OR of the inputs' poison, and `more` (R93, R138). -/
def oneResult (base : Nat) (a b c : Token) (used : List Nat) (r : Nat × Flags) (more : Bool := false) : Firing :=
  let psn := (used.contains 0 && a.psn) || (used.contains 1 && b.psn) || (used.contains 2 && c.psn) || more
  let k := Token.mk' (word r.1) psn
  { base := base, run := fun s => (s.orFlags r.2, [k], [k]) }

/-- An operator whose result and flags depend on the DATA of its operands alone. -/
def State.pureOp (s : State) (opc : Nat) (o : SlotOp) (base : Nat) (f : Nat → Nat → Nat → Nat × Flags) : Out :=
  s.fireRule opc o (fun a b c =>
    oneResult base a b c (slotPorts opc o) (f a.data.toNat b.data.toNat c.data.toNat))

/-! ### Elements (R107, R156) -/

/-- The width of an element of a W code. -/
def elemWidth (w : Nat) : Nat := if w = 4 then 4 else 8 * 2 ^ w

/-- Element `j` of an operand. -/
def elem (w j v : Nat) : Nat := bits v (elemWidth w * j) (elemWidth w)

/-- Element-wise over one element, or over the two of a pair, each result in the place of its element. -/
def perElem (w : Nat) (f : Nat → Nat × Flags) : Nat × Flags :=
  if w = 4 then ((f 0).1 + (f 1).1 * 16, (f 0).2 ||| (f 1).2) else f 0

/-- An element-wise operator. -/
def State.elemOp (s : State) (opc : Nat) (o : SlotOp) (base : Nat) (f : Nat → Nat → Nat → Nat × Flags) : Out :=
  let w := o.w.toNat
  s.pureOp opc o base (fun a b c => perElem w (fun j => f (elem w j a) (elem w j b) (elem w j c)))

end Sys2Proof.Machine
end

