-- ==== Sys2Proof/Machine/SlotInt.lean ====
section
/-!
DEFINITION. The integer and logic operators of a slot, compares and SEL (R161 to R165).
-/
namespace Sys2Proof.Machine
open Sys2Proof

/-- An exact result in `n` bits: clamped with SAT, or wrapped (R163). -/
def fitInt (n : Nat) (sat : Bool) (v : Int) : Nat × Flags :=
  let hi : Int := (2 ^ (n - 1) : Nat) - 1
  let lo : Int := -(2 ^ (n - 1) : Nat)
  if sat then
    if v < lo then (wrapNat n lo, flSAT) else if hi < v then (wrapNat n hi, flSAT) else (wrapNat n v, 0)
  else (wrapNat n v, 0)

/-- An integer operator of an exact value of the width, the saturation bit and the elements. -/
def State.intOp (s : State) (opc : Nat) (o : SlotOp) (f : Nat → Bool → Nat → Nat → Nat → Int) (sat : Bool := o.m.getLsbD 0) :
    Out :=
  let n := elemWidth o.w.toNat
  s.elemOp opc o (slices o.w.toNat) (fun a b c => fitInt n sat (f n sat a b c))

/-- A predicate of two elements (R157, R164). -/
def State.predOp (s : State) (opc : Nat) (o : SlotOp) (f : Nat → Nat → Nat → Bool) : Out :=
  let n := elemWidth o.w.toNat
  s.elemOp opc o (slices o.w.toNat) (fun a b _ => ((f n a b).toNat, 0))

/-- ADD (R163). -/
def execAddOperator (o : SlotOp) (s : State) : Out := s.intOp 0x01 o (fun n _ a b _ => toSigned n a + toSigned n b)

/-- SUB (R163). -/
def execSubOperator (o : SlotOp) (s : State) : Out := s.intOp 0x02 o (fun n _ a b _ => toSigned n a - toSigned n b)

/-- ADDS saturates always (R163). -/
def execAdds (o : SlotOp) (s : State) : Out := s.intOp 0x03 o (fun n _ a b _ => toSigned n a + toSigned n b) true

/-- SUBS saturates always (R163). -/
def execSubs (o : SlotOp) (s : State) : Out := s.intOp 0x04 o (fun n _ a b _ => toSigned n a - toSigned n b) true

/-- MUL (R163). -/
def execMulOperator (o : SlotOp) (s : State) : Out := s.intOp 0x05 o (fun n _ a b _ => toSigned n a * toSigned n b)

/-- MULH (R163). -/
def execMulhOperator (o : SlotOp) (s : State) : Out :=
  s.intOp 0x06 o (fun n _ a b _ => toSigned n a * toSigned n b / (2 ^ n : Nat))

/-- MAD (R163). -/
def execMad (o : SlotOp) (s : State) : Out :=
  s.intOp 0x07 o (fun n _ a b c => toSigned n a * toSigned n b + toSigned n c)

/-- ABS (R163). -/
def execAbs (o : SlotOp) (s : State) : Out := s.intOp 0x08 o (fun n _ a _ _ => (toSigned n a).natAbs)

/-- NEG (R163). -/
def execNeg (o : SlotOp) (s : State) : Out := s.intOp 0x09 o (fun n _ a _ _ => -toSigned n a)

/-- MIN (R163). -/
def execMinOperator (o : SlotOp) (s : State) : Out := s.intOp 0x0A o (fun n _ a b _ => min (toSigned n a) (toSigned n b))

/-- MAX (R163). -/
def execMaxOperator (o : SlotOp) (s : State) : Out := s.intOp 0x0B o (fun n _ a b _ => max (toSigned n a) (toSigned n b))

/-- MINU (R163). -/
def execMinu (o : SlotOp) (s : State) : Out := s.intOp 0x0C o (fun _ _ a b _ => (min a b : Nat))

/-- MAXU (R163). -/
def execMaxu (o : SlotOp) (s : State) : Out := s.intOp 0x0D o (fun _ _ a b _ => (max a b : Nat))

/-- AND (R163). -/
def execAndOperator (o : SlotOp) (s : State) : Out := s.intOp 0x0E o (fun _ _ a b _ => (Nat.land a b : Nat))

/-- OR (R163). -/
def execOrOperator (o : SlotOp) (s : State) : Out := s.intOp 0x0F o (fun _ _ a b _ => (Nat.lor a b : Nat))

/-- XOR (R163). -/
def execXorOperator (o : SlotOp) (s : State) : Out := s.intOp 0x10 o (fun _ _ a b _ => (Nat.xor a b : Nat))

/-- ANDN (R163). -/
def execAndn (o : SlotOp) (s : State) : Out := s.intOp 0x11 o (fun n _ a b _ => (Nat.land a (2 ^ n - 1 - b) : Nat))

/-- NOT (R163). -/
def execNot (o : SlotOp) (s : State) : Out := s.intOp 0x12 o (fun n _ a _ _ => (2 ^ n - 1 - a : Nat))

/-- `v · 2^k` brought into `n` bits without forming a huge power: beyond `2 n` places only the sign and zero matter. -/
def shiftLeft (n : Nat) (v : Int) (k : Nat) : Int := v * (2 ^ (min k (2 * n)) : Nat)

/-- SHL by the whole unsigned value of b (R163). -/
def execShl (o : SlotOp) (s : State) : Out :=
  s.intOp 0x13 o (fun n sat a b _ => if sat then shiftLeft n (toSigned n a) b else shiftLeft n a b)

/-- SHR (R163). -/
def execShr (o : SlotOp) (s : State) : Out := s.intOp 0x14 o (fun n _ a b _ => (if n ≤ b then 0 else a / 2 ^ b : Nat))

/-- SAR (R163). -/
def execSar (o : SlotOp) (s : State) : Out := s.intOp 0x15 o (fun n _ a b _ => toSigned n a / (2 ^ (min b n) : Nat))

/-- ROL by n mod w (R163). -/
def execRol (o : SlotOp) (s : State) : Out :=
  s.intOp 0x16 o (fun n _ a b _ => (a * 2 ^ (b % n) % 2 ^ n + a / 2 ^ (n - b % n) : Nat))

/-- CLZ (R163). -/
def execClz (o : SlotOp) (s : State) : Out := s.intOp 0x17 o (fun n _ a _ _ => (if a = 0 then n else n - 1 - Nat.log2 a : Nat))

/-- POPC (R163). -/
def execPopc (o : SlotOp) (s : State) : Out :=
  s.intOp 0x18 o (fun n _ a _ _ => ((List.range n).foldl (fun k i => k + bits a i 1) 0 : Nat))

/-- CMPEQ (R164). -/
def execCmpeq (o : SlotOp) (s : State) : Out := s.predOp 0x19 o (fun _ a b => a == b)

/-- CMPNE (R164). -/
def execCmpne (o : SlotOp) (s : State) : Out := s.predOp 0x1A o (fun _ a b => a != b)

/-- CMPLT (R164). -/
def execCmplt (o : SlotOp) (s : State) : Out := s.predOp 0x1B o (fun n a b => decide (toSigned n a < toSigned n b))

/-- CMPLE (R164). -/
def execCmple (o : SlotOp) (s : State) : Out := s.predOp 0x1C o (fun n a b => decide (toSigned n a ≤ toSigned n b))

/-- CMPLTU (R164). -/
def execCmpltu (o : SlotOp) (s : State) : Out := s.predOp 0x1D o (fun _ a b => decide (a < b))

/-- CMPLEU (R164). -/
def execCmpleu (o : SlotOp) (s : State) : Out := s.predOp 0x1E o (fun _ a b => decide (a ≤ b))

/-- SEL: each element by its own predicate bit (R157, R165). -/
def execSel (o : SlotOp) (s : State) : Out :=
  s.elemOp 0x1F o (slices o.w.toNat) (fun a b c => (if c % 2 = 1 then a else b, 0))

end Sys2Proof.Machine
end

