-- ==== Sys2Proof/Machine/SlotControl.lean ====
section
/-!
DEFINITION. The control operators of a slot (R212 to R217) and their debug holds (R434).
-/
namespace Sys2Proof.Machine
open Sys2Proof

/-- Power of a control operator (R413). -/
def controlCost : Nat := 4

/-! ### EOSG (R213) -/

/-- EOSG in CLOSED takes one token of port `p`, which is bit `k` of the ends it has seen. -/
def State.closedTake (s : State) (p k : Nat) : State :=
  if s.slotSt.seen.getLsbD k then s
  else match s.head p with
    | none => s
    | some h =>
      let s1 := s.take p
      if h.isEos then s1.setSlotSt { s1.slotSt with seen := s1.slotSt.seen ||| (1 <<< k) }
      else if h.psn then s1.orFlags flPSEEN else s1

/-- EOSG (R213; DEDUCED, log 33). -/
def execEosg (o : SlotOp) (s : State) : Out :=
  if !s.slotLive then .next s
  else if s.slotSt.closed then
    let s1 := (s.closedTake 0 0).closedTake 2 1
    .next (if s1.slotSt.seen = 3 then s1.setSlotSt { s1.slotSt with ended := true } else s1)
  else match s.head 0, s.head 2 with
    | some a, some c =>
      if a.isEos && c.isEos then s.endAction o [0, 2] {}
      else if a.isEos then s.slotFault .flowEosMismatch 0
      else if c.isEos then s.slotFault .flowEosMismatch 2
      else if c.psn then s.slotFault .flowControlPoison 2
      else
        let close := c.data.getLsbD 0
        let ks := if close then [a, Token.eos] else [a]
        if !s.slotRoom o ks.length ks.length || !s.canPay controlCost then .next s
        else
          let s1 := ((s.pay controlCost).take 2).take 0
          let s2 := s1.setSlotSt { s1.slotSt with closed := close }
          let s3 := if a.psn && o.mute then s2.orFlags flPSEEN else s2
          .next (s3.put o ks ks)
    | _, _ => .next s

/-! ### TRAP and BRK -/

/-- The slot holds: its record has STOP = 0 and it takes nothing (R430, R434). -/
def State.slotHold (s : State) (c : Cause) (input : Nat) (addr : Word) : State :=
  let s1 := s.raise c (s.tileReport s.curTile s.curSlot false input addr false)
  s1.setSlotSt { s1.slotSt with held := true }

/-- A pass-through firing of port a, after which the slot holds no longer and has counted one more firing. -/
def passThrough (a : Token) : Firing :=
  { base := controlCost,
    run := fun s => (s.setSlotSt { s.slotSt with held := false, released := false, count := s.slotSt.count + 1 }, [a], [a]) }

/-- A slot that would hold: it raises its cause once, waits, and proceeds once a release and the writing of its record
(R429, R434) allow it. -/
def State.orHold (s : State) (o : SlotOp) (hold : Bool) (c : Cause) (input : Nat) (addr : Word) (go : Out) : Out :=
  let v := s.slotSt
  if !hold then go
  else if v.held then
    (if v.released && !s.tileRecordWaits s.curTile s.curSlot false then go else .next s)
  else if s.slotRoom o 1 1 && s.canPay controlCost then .next (s.slotHold c input addr)
  else .next s

/-- TRAP (R214). -/
def execTrapOperator (o : SlotOp) (s : State) : Out :=
  let hold : Bool := s.slotLive && s.allData [0, 2] && (s.head 2).any (fun c => !c.psn && c.data.getLsbD 0)
  s.orHold o hold .flowTrap 2 (word (bits o.ext.toNat 0 8))
    (s.fireRule 0x69 o (fun a _ c =>
      if c.psn then { base := controlCost, fault := some (.flowControlPoison, 2, 0), run := fun s => (s, [], []) }
      else passThrough a))

/-- BRK (R215). -/
def execBrk (o : SlotOp) (s : State) : Out :=
  let at_ := bits o.ext.toNat 0 16
  let debug : Bool := (s.tileLaunch s.curTile).any Launch.debug
  let hold : Bool := s.slotLive && s.allData [0] && debug && (at_ == 0xFFFF || s.slotSt.count == at_)
  s.orHold o hold .flowBreak 0 (word at_) (s.fireRule 0x6A o (fun a _ _ => passThrough a))

/-! ### TIME, PCNT and SEED -/

/-- A firing whose result the recorder captures; it waits while the recorder does. -/
def State.capturedOp (s : State) (opc : Nat) (o : SlotOp) (cap : State → Option (Word × State)) : Out :=
  if s.allData [0] && (cap s).isNone then .next s
  else s.fireRule opc o (fun a _ _ =>
    { base := controlCost,
      run := fun s1 => match cap s1 with
        | none => (s1, [], [])
        | some (v, s2) => (s2, [Token.mk' v a.psn], [Token.mk' v a.psn]) })

/-- TIME: the replica's value under the hold of R21 (R216). -/
def execTimeOperator (o : SlotOp) (s : State) : Out :=
  let c := tileCluster s.curTile
  s.capturedOp 0x6B o (fun s1 =>
    let (v, s2) := s1.readTime c
    s2.captured s2.curT.launch 1 .tile s2.curTile s2.curSlot v 0 c)

/-- The value of a counter of the running tile (R216). -/
def State.counter (s : State) (n : Nat) : Word := word (tabGet s.curT.counters n 0)

/-- PCNT: the counter before this firing (R216). -/
def execPcnt (o : SlotOp) (s : State) : Out :=
  let n := bits o.ext.toNat 0 4
  s.capturedOp 0x6C o (fun s1 =>
    s1.captured s1.curT.launch 2 .tile s1.curTile s1.curSlot (s.counter n) 0 (tileCluster s.curTile))

/-- SEED: the last value of the lowest-numbered SEED slot that fires becomes the next seed (R217). -/
def execSeed (o : SlotOp) (s : State) : Out :=
  s.fireRule 0x6D o (fun a _ _ =>
    { base := controlCost, fault := if a.psn then some (.psnStore, 0, 0) else none,
      run := fun s1 =>
        let t := s1.curT
        let keep : Bool := t.nextSeed.any (fun p => p.2 < s1.curSlot)
        let s2 := if keep then s1 else s1.setTile s1.curTile { t with nextSeed := some (a.data.setWidth 32, s1.curSlot) }
        (s2, [Token.mk' 0 false], [Token.mk' 0 false]) })

end Sys2Proof.Machine
end

