-- ==== Sys2Proof/Machine/SlotMatrix.lean ====
section
/-!
DEFINITION. The matrix operators of a slot (R226 to R240) and the movement of rows between tiles.
-/
namespace Sys2Proof.Machine
open Sys2Proof

/-! ### MROW and MROWS -/

def State.mx (s : State) : Matrix := s.curT.matrix
def State.setMx (s : State) (m : Matrix) : State := s.setMatrix s.curTile m

/-- Power of a row firing (R413). -/
def rowCost (opc : Nat) (o : SlotOp) : Nat :=
  if opc = 0x51 then 1100 else match o.w.toNat with | 4 => 1100 | 0 => 2200 | _ => 4400

/-- The row buffer holds a complete row that has not fired. -/
def Matrix.rowReady (m : Matrix) (need : Nat) : Bool := m.row.transfers.length == need && !m.row.fired && !m.row.eos

/-- The scale group of the row, and the scale queue after it: the one it came with, the head of the queue, or an empty
one once MSCL has ended (R228, R233); none while MSCL may still bring one. -/
def State.rowGroup (s : State) (o : SlotOp) : Option (ScaleGroup × List ScaleGroup) :=
  let m := s.mx
  let none_ : ScaleGroup := { scales := [], psn := false }
  let v := s.curT
  let msclEnded : Bool := (List.range 64).all (fun i => match v.plane.slot i with
    | some (opc, _) => opc != 0x54 || (v.slotSt i).ended
    | none => true)
  if !rowMx o then some (none_, m.groups)
  else match m.row.group with
    | some g => some (g, m.groups)
    | none => match m.groups with
      | g :: r => some (g, r)
      | [] => if msclEnded then some (none_, []) else none

/-- The weight hold of R448. -/
def State.weightHold (s : State) : Bool := (s.tileLaunch s.curTile).any Launch.whold

/-- An end of stream at an input from which the held row still needs data: the input that R234 names. -/
def State.rowMismatch (s : State) (o : SlotOp) : Option Nat :=
  let m := s.mx
  let e := o.ext
  let eos (p : Nat) : Bool := (s.head p).any Token.isEos
  if extGate e && !m.gate && eos 0 then some 0
  else if 2 ≤ extPsrc e && m.partBuf.length < rowN o / 2 && eos 1 then some 1
  else if extPsrc e = 1 ∧ m.north.head? = some none then some 3
  else none

/-- A row fires on the row buffer (R231). -/
def State.rowFiring (s : State) (opc : Nat) (o : SlotOp) : Out :=
  let m := s.mx
  let e := o.ext
  let n := rowN o
  let psrc := extPsrc e
  let pin : Option (List (BitVec 32 × Bool)) :=
    if psrc = 0 then some []
    else if psrc = 1 then (match m.north with | some r :: _ => some r | _ => none)
    else if m.partBuf.length = n / 2 then some (tokensRow m.partBuf)
    else none
  let room : Bool := if extPdst e then m.outBuf.isEmpty
    else decide (((s.southLink s.curTile).filter Option.isSome).length < 2)
  match pin, s.rowGroup o with
  | some p, some (g, rest) =>
    if !room || s.weightHold || (extGate e && !m.gate) || !s.canPay (rowCost opc o) then .next s
    else
      let (out, fl) := s.rowFire s.curTile opc o m.row g p
      let row := if extAfwd e then { m.row with fired := true, group := some g } else RowBuf.empty
      let m1 := { m with row := row, groups := rest, north := if psrc = 1 then m.north.drop 1 else m.north,
                         partBuf := if 2 ≤ psrc then [] else m.partBuf, rows := m.rows + 1 }
      let s1 := (s.pay (rowCost opc o)).orFlags fl
      if extPdst e then .next (s1.setMx { m1 with outBuf := rowTokens out })
      else .next ((s1.setMx m1).putSouth s.curTile (some out))
  | _, _ => .next s

/-- Steps 1 to 3 of R234: the row buffer holds an end-of-stream marker. -/
def State.rowEnd (s : State) (o : SlotOp) : Out :=
  let m := s.mx
  let e := o.ext
  let psrc := extPsrc e
  let gate := extGate e
  let gathered : Bool := !m.partBuf.isEmpty
  let dataAt (p : Nat) : Bool := (s.head p).any (fun k => !k.isEos)
  let eosAt (p : Nat) : Bool := (s.head p).any Token.isEos
  if psrc = 1 ∧ ((m.north.head?).any Option.isSome ∨ !m.northWide.isEmpty) then s.slotFault .flowEosMismatch
  else if psrc = 2 && (gathered || dataAt 1) then s.slotFault .flowEosMismatch 1
  else if gate && dataAt 0 then s.slotFault .flowEosMismatch 0
  else if (psrc = 1 && m.north.isEmpty) || (psrc = 2 && !eosAt 1) || (gate && !eosAt 0) ||
      (extPdst e && (!m.outBuf.isEmpty || !s.slotRoom o 1 1)) then .next s
  else
    let left := m.groups ++ m.filling.toList
    let s1 := if psrc = 2 then s.take 1 else s
    let s2 := if gate then s1.take 0 else s1
    let row := if extAfwd e then { m.row with fired := true } else RowBuf.empty
    let m1 := { m with row := row, north := if psrc = 1 then m.north.drop 1 else m.north, groups := [], filling := none,
                       ending := 1 }
    let s3 := (s2.setMx m1).orFlags (flIf (left.any (fun g => !g.scales.isEmpty)) 0x200 ||| flIf (left.any ScaleGroup.psn) flPSEEN)
    let s4 := if extPdst e then s3.put o [.eos] [.eos] else s3.putSouth s.curTile none
    .next (if psrc = 3 then s4 else s4.setSlotSt { s4.slotSt with ended := true })

/-- With nothing to put, take or gather: the end, a mismatch, or a row firing. -/
def State.rowRest (s : State) (opc : Nat) (o : SlotOp) : Out :=
  let m := s.mx
  if m.row.eos && !m.row.fired then s.rowEnd o
  else if m.rowReady (rowNeed opc o) then
    match s.rowMismatch o with
    | some p => s.slotFault .flowEosMismatch p
    | none => s.rowFiring opc o
  else .next s

/-- One action of MROW or MROWS: it puts a token of its output buffer, takes what it can, fires a row or ends. -/
def State.rowOp (s : State) (opc : Nat) (o : SlotOp) : Out :=
  let m := s.mx
  let e := o.ext
  let atEnd : Bool := m.row.eos && !m.row.fired
  if !s.slotLive then .next s
  else match m.outBuf with
    | k :: rest =>
      if s.slotRoom o 1 1 then .next ((s.setMx { m with outBuf := rest }).put o [k] [k]) else .next s
    | [] =>
      if m.ending = 1 && !m.partBuf.isEmpty then s.slotFault .flowEosMismatch 1
      else if m.ending = 1 then
        match s.head 1 with
        | none => .next s
        | some k =>
          if k.isEos then let s1 := s.take 1; .next (s1.setSlotSt { s1.slotSt with ended := true })
          else s.slotFault .flowEosMismatch 1
      else if !atEnd && extGate e && !m.gate && (s.head 0).any (fun k => !k.isEos) then
        if (s.head 0).any Token.psn then s.slotFault .flowControlPoison 0
        else .next ((s.take 0).setMx { m with gate := true })
      else match s.head 1 with
        | some k =>
          if !atEnd && 2 ≤ extPsrc e && m.partBuf.length < rowN o / 2 && !k.isEos then
            .next ((s.take 1).setMx { m with partBuf := m.partBuf ++ [k] })
          else s.rowRest opc o
        | none => s.rowRest opc o

/-- MROW (R229 to R235). -/
def execMrow (o : SlotOp) (s : State) : Out := s.rowOp 0x50 o

/-- MROWS (R229 to R235). -/
def execMrows (o : SlotOp) (s : State) : Out := s.rowOp 0x51 o

/-! ### Rows between tiles (R226, R227) -/

/-- ROW_ARRIVAL: the next transfer of a read stream enters the row buffer, or the next N/32 transfers the north input. -/
def execRowArrival (tile : Nat) (s : State) : Out :=
  let v := s.tile tile
  let m := v.matrix
  match v.plane.matrixSlot with
  | none => .next s
  | some (i, opc, o) =>
    if (s.tileLaunch tile).isNone then .next s
    else if extPsrc o.ext = 1 ∧ rowN o / 32 ≤ m.northWide.length ∧ m.north.length < 2 then
      let n := rowN o / 32
      .next (s.setMatrix tile
        { m with north := m.north ++ [some ((m.northWide.take n).flatMap transferRow)], northWide := m.northWide.drop n })
    else match m.wide with
      | [] => .next s
      | none :: rest =>
        if m.row.eos then .next s
        else if m.row.transfers.isEmpty then .next (s.setMatrix tile { m with row := { m.row with eos := true }, wide := rest })
        else if m.row.transfers.length < rowNeed opc o && !(v.slotSt i).stopped then
          { s with curTile := tile, curSlot := i }.slotFault .flowEosMismatch
        else .next s
      | some x :: rest =>
        if m.row.eos || m.row.fired || rowNeed opc o ≤ m.row.transfers.length then .next s
        else
          let row := { m.row with transfers := m.row.transfers ++ [x.1], psn := m.row.psn || x.2 }
          .next (s.setMatrix tile { m with row := row, wide := rest })

/-- ROW_FORWARD: a fired row with its scale group, or a marker that has ended its tile, is copied into the empty buffer of
the down-chain neighbour (R226, R234). -/
def execRowForward (tile : Nat) (s : State) : Out :=
  let m := (s.tile tile).matrix
  match s.inRegion tile (downChain tile) with
  | none => .next s
  | some u =>
    let d := (s.tile u).matrix
    if !m.row.fired || (s.tileLaunch tile).isNone || !d.row.transfers.isEmpty || d.row.eos then .next s
    else .next ((s.setMatrix tile { m with row := RowBuf.empty }).setMatrix u { d with row := { m.row with fired := false } })

/-! ### MSCL (R233) -/

/-- A scale token enters a group: the group, and whether a scale was dropped. -/
def scaleToken (g : ScaleGroup) (k : Token) : ScaleGroup × Bool :=
  let n := bits k.data.toNat 0 3
  let new := (List.range n).map (fun j => k.data.extractLsb' (8 * j + 8) 8)
  ({ scales := (g.scales ++ new).take 16, psn := g.psn || k.psn }, decide (16 < g.scales.length + n))

/-- MSCL (R233). -/
def execMscl (o : SlotOp) (s : State) : Out :=
  let m := s.mx
  if 2 ≤ m.groups.length && ((s.allData [0]) || m.filling.isSome) then .next s
  else if s.slotLive && s.allEos [0] then
    (s.setMx { m with groups := m.groups ++ m.filling.toList, filling := none }).endAction o [0] {}
  else s.fireRule 0x54 o (fun a _ _ =>
    let r := scaleToken (m.filling.getD { scales := [], psn := false }) a
    { base := controlCost, counts := true,
      run := fun s1 =>
        let m1 := s1.mx
        let m2 := if a.data.getLsbD 7 then { m1 with groups := m1.groups ++ [r.1], filling := none }
                  else { m1 with filling := some r.1 }
        ((s1.setMx m2).orFlags (flIf r.2 0x200), [], []) })

/-! ### The weight store (R236 to R238) -/

/-- The place of unit `q` of the array that an access word names. -/
def unitLoc (t : Nat) (e : Word32) (q : Nat) : Nat := weightLoc t ((if extArr e then 65536 else 0) + 8 * q)

/-- The running slot has used one more unit. -/
def State.nextUnit (s : State) : State := s.setSlotSt { s.slotSt with aux := s.slotSt.aux + 1 }

/-- MWLD: a unit for each data token, and the count of units before the end of stream (R237). -/
def execMwld (o : SlotOp) (s : State) : Out :=
  let n := s.slotSt.aux
  s.fireRule 0x52 o (fun a _ _ =>
    { base := controlCost, room0 := 0, room1 := 0,
      fault := if a.psn then some (.psnStore, 0, 0) else if extLenm1 o.ext < n then some (.flowWstoreRange, 0, 0) else none,
      run := fun s1 => ((s1.storeNat (unitLoc s.curTile o.ext (extStart o.ext + n)) 8 a.data.toNat).nextUnit, [], []) })
    { k0 := [Token.mk' (word n) false], k1 := [Token.mk' (word n) false] }

/-- MWRD (R237). -/
def execMwrd (o : SlotOp) (s : State) : Out :=
  let n := s.slotSt.aux
  s.fireRule 0x53 o (fun a _ _ =>
    { base := controlCost, fault := if extLenm1 o.ext < n then some (.flowWstoreRange, 0, 0) else none,
      run := fun s1 =>
        let k := Token.mk' (word (memNat s1.mem (unitLoc s.curTile o.ext (extStart o.ext + n)) 8)) a.psn
        (s1.nextUnit, [k], [k]) })

/-- MCLR (R237). -/
def execMclr (o : SlotOp) (s : State) : Out :=
  s.fireRule 0x56 o (fun a _ _ =>
    { base := 1024, fault := if a.psn then some (.psnStore, 0, 0) else none,
      run := fun s1 =>
        let m := memClear s1.mem (unitLoc s.curTile o.ext (extStart o.ext)) (8 * (extLenm1 o.ext + 1))
        ({ s1 with mem := m }, [Token.mk' 0 false], [Token.mk' 0 false]) })

/-- MSTAT: the flag set, and the row firings of the invocation (R239). -/
def execMstat (o : SlotOp) (s : State) : Out :=
  let t := s.curT
  let v := word (t.flags.toNat + t.matrix.rows % 2 ^ 32 * 2 ^ 32)
  s.capturedOp 0x55 o (fun s1 => s1.captured t.launch 3 .tile s.curTile s.curSlot v 0 (tileCluster s.curTile))

end Sys2Proof.Machine
end

