-- ==== Sys2Proof/Machine/Special.lean ====
section
/-!
DEFINITION. The special functions of R171, each the exact value rounded once: series on fixed-point numbers of 320
fraction bits, far finer than any rounding boundary of the formats comes to a value of these functions, with the
arguments too small or too large for that treated apart (that 320 bits suffice: DEDUCED, log 50). The leak of R262 and R259 uses the same exponential.
-/
namespace Sys2Proof.Machine
open Sys2Proof

/-- Fraction bits of the series. -/
def fixP : Nat := 320
def fixOne : Nat := 2 ^ fixP

/-- `z + z^3/3 + z^5/5 + …` for `0 ≤ z < 1/2` in fixed point: `n` more terms from exponent `k`, `pw` being `z^k`. -/
def atanhSeries (zz : Nat) : Nat → Nat → Nat → Nat → Nat
  | 0, _, _, acc => acc
  | n + 1, k, pw, acc => atanhSeries zz n (k + 2) (pw * zz / fixOne) (acc + pw / k)

/-- The inverse hyperbolic tangent of a fixed-point number below 1/2. -/
def fixAtanh (z : Nat) : Nat := atanhSeries (z * z / fixOne) 110 1 z 0

/-- `ln 2` in fixed point: twice the inverse hyperbolic tangent of 1/3. -/
def fixLn2 : Nat := 2 * fixAtanh (fixOne / 3)

/-- `1 + x + x^2/2 + …` in fixed point, by its terms from number `k` on. -/
def expSeries (x : Nat) : Nat → Nat → Nat → Nat → Nat
  | 0, _, _, acc => acc
  | n + 1, k, term, acc => expSeries x n (k + 1) (term * x / fixOne / k) (acc + term)

/-- `e^x` of a fixed-point number below 1. -/
def fixExp (x : Nat) : Nat := expSeries x 90 1 fixOne 0

/-- `2^v` for a finite nonzero `v = (-1)^neg * m * 2^e`: an integral `v` gives the exact power. -/
def exp2Mag (neg : Bool) (m : Nat) (e : Int) : Nat × Int :=
  let top : Int := (Nat.log2 m : Int) + e
  if 9 < top then (if neg then sticky 1 (-600) true else sticky 1 600 true)
  else
    let v := scaled neg m e (-(fixP : Int))
    let i := v / (fixOne : Int)
    let f := (v % (fixOne : Int)).toNat
    if f = 0 then (1, i) else sticky (fixExp (f * fixLn2 / fixOne)) (i - (fixP : Int)) true

/-- EXP2 (R171). -/
def Fmt.exp2 (f : Fmt) : FVal → FRes
  | .nan => f.nanRes
  | .inf neg => if neg then { bits := 0, fl := 0 } else f.infRes false
  | .fin neg m e => if m = 0 then f.round .rne false 1 0 else let (a, b) := exp2Mag neg m e; f.round .rne false a b

/-- LOG2 (R171). -/
def Fmt.log2 (f : Fmt) : FVal → FRes
  | .nan => f.nanRes
  | .inf neg => if neg then f.invalid else f.infRes false
  | .fin neg m e =>
    if m = 0 then let i := f.infRes true; { i with fl := i.fl ||| flDZ }
    else if neg then f.invalid
    else
      let l := Nat.log2 m
      let up := decide (3 * 2 ^ l < 2 * m)
      let k : Int := (l : Int) + e + (if up then 1 else 0)
      let y := m * 2 ^ fixP / 2 ^ (if up then l + 1 else l)
      if y = fixOne then f.round .rne (decide (k < 0)) k.natAbs 0
      else
        let below := decide (y < fixOne)
        let d := if below then fixOne - y else y - fixOne
        let t := 2 * fixAtanh (d * fixOne / (y + fixOne)) * fixOne / fixLn2
        let v : Int := k * (fixOne : Int) + signedMag below t
        let (a, b) := sticky v.natAbs (-(fixP : Int)) true
        f.round .rne (decide (v < 0)) a b

/-- `e^x` for `x = m * 2^e`, in fixed point. -/
def expMag (m : Nat) (e : Int) : Nat :=
  let u := (scaled false m e (-(fixP : Int))).toNat
  fixExp (u % fixLn2) * 2 ^ (u / fixLn2)

/-- TANH (R171). -/
def Fmt.tanh (f : Fmt) : FVal → FRes
  | .nan => f.nanRes
  | .inf neg => f.round .rne neg 1 0
  | .fin neg m e =>
    let top : Int := (Nat.log2 m : Int) + e
    if m = 0 then { bits := f.signBit neg, fl := 0 }
    else if top < -45 then f.round .rne neg (m * 2 ^ 48 - 1) (e - 48)
    else if 5 ≤ top then f.round .rne neg (2 ^ 64 - 1) (-64)
    else
      let x := expMag m (e + 1)
      let (a, b) := sticky ((x - fixOne) * fixOne / (x + fixOne)) (-(fixP : Int)) true
      f.round .rne neg a b

/-- SIGM (R171). -/
def Fmt.sigm (f : Fmt) : FVal → FRes
  | .nan => f.nanRes
  | .inf neg => if neg then { bits := 0, fl := 0 } else f.round .rne false 1 0
  | .fin neg m e =>
    let top : Int := (Nat.log2 m : Int) + e
    if m = 0 then f.round .rne false 1 (-1)
    else if top < -60 then f.round .rne false (if neg then 2 ^ 63 - 1 else 2 ^ 63 + 1) (-64)
    else if 8 ≤ top then (if neg then f.round .rne false 1 (-300) else f.round .rne false (2 ^ 200 - 1) (-200))
    else
      let x := expMag m e
      let (a, b) := if neg then sticky (fixOne * 2 ^ 600 / (x + fixOne)) (-600) true
                    else sticky (x * 2 ^ 600 / (x + fixOne)) (-600) true
      f.round .rne false a b

end Sys2Proof.Machine
end

