-- ==== Sys2Proof/Machine/SlotEvent.lean ====
section
/-!
DEFINITION. The event bank of a tile (R245 to R266): neuron records and tables, the queue and its horizon, the event
operators, deliveries and marks.
-/
namespace Sys2Proof.Machine
open Sys2Proof

/-! ### Records and tables (R113, R245, R247 to R251) -/

/-- The place of neuron record `n`. -/
def neuronLoc (t n : Nat) : Nat := if n < 2048 then scratchLoc t (8192 + 8 * n) else weightLoc t (65536 + 8 * (n - 2048))
def State.neuron (s : State) (t n : Nat) : Nat := memNat s.mem (neuronLoc t n) 8
def State.setNeuron (s : State) (t n v : Nat) : State := s.storeNat (neuronLoc t n) 8 v

def State.threshold (s : State) (t i : Nat) : Nat := memNat s.mem (weightLoc t (65536 + 24576 + 8 * i)) 8
def State.leakTau (s : State) (t i : Nat) : Nat := bits (memNat s.mem (weightLoc t (65536 + 24704 + 4 * i)) 4) 0 24
def State.synapse (s : State) (t g j : Nat) : Nat := memNat s.mem (weightLoc t (512 * g + 4 * j)) 4
def State.fanPointer (s : State) (t m : Nat) : Nat := memNat s.mem (weightLoc t (65536 + 16384 + 2 * m)) 2
def State.fanDescriptor (s : State) (t u : Nat) : Nat := memNat s.mem (weightLoc t (8 * u)) 8

def evStamp (e : Word) : Nat := bits e.toNat 32 32
def evNeuron (e : Word) : Nat := bits e.toNat 9 12
def evGroup (e : Word) : Nat := bits e.toNat 0 7

/-- An event word. -/
def evWord (stamp tile neuron kind group : Nat) : Word :=
  word (stamp * 2 ^ 32 + tile * 2 ^ 21 + neuron * 2 ^ 9 + kind * 2 ^ 7 + group)

/-- A record from V, THR and LEAK as they stand in `r`, REFR and STAMP. -/
def neuronRecord (r v refr stamp : Nat) : Nat :=
  v % 2 ^ 24 + bits r 24 8 * 2 ^ 24 + refr % 2 ^ 8 * 2 ^ 32 + stamp % 2 ^ 24 * 2 ^ 40

/-- `V · 2^(−dt/τ)` in units of 2^−12, rounded once to the nearest, ties to even (R113, R259). -/
def leak (v dt tau : Nat) : Nat :=
  let x := toSigned 24 v
  let neg := decide (x < 0)
  let q := dt / tau
  let r := dt % tau
  let (m, e) : Nat × Int :=
    if r = 0 then (x.natAbs, -(q : Int))
    else sticky (x.natAbs * fixExp ((tau - r) * fixLn2 / tau)) (-(q : Int) - 1 - (fixP : Int)) (x != 0)
  wrapNat 24 (signedMag neg (roundTo .rne neg m e 0).1)

/-- bring(m, t) on a record (R259); none is EVT_STAMP_RANGE. -/
def State.bring (s : State) (tile t : Nat) (r : Nat) : Option Nat :=
  let b := (s.tile tile).events.b.toNat
  let last := b + bits r 40 24
  if b + 2 ^ 24 ≤ t then none
  else if t < last then
    let f := (Config.earlyNeuron (word r) t).toNat
    some (neuronRecord r (bits f 0 24) (bits f 32 8) (t - b))
  else
    let dt := t - last
    let tau := s.leakTau tile (bits r 28 4)
    some (neuronRecord r (if tau = 0 then bits r 0 24 else leak (bits r 0 24) dt tau) (bits r 32 8 - dt) (t - b))

/-! ### The queue (R252 to R255) -/

def State.bank (s : State) (t : Nat) : EventBank := (s.tile t).events
def State.setBank (s : State) (t : Nat) (b : EventBank) : State := s.setTile t { s.tile t with events := b }

/-- An event enters the queue after every event of an equal or earlier stamp (R253). -/
def insertEvent (e : Word) : List Word → List Word
  | [] => [e]
  | x :: r => if evStamp x ≤ evStamp e then x :: insertEvent e r else e :: x :: r

/-- The check of an event of this bank (R252, R255). -/
def EventBank.checkEvent (b : EventBank) (e : Word) : Option Cause :=
  if evKind e = 3 ∨ (evKind e ≠ 0 ∧ evGroup e ≠ 0) then some .evtBadKind
  else if evStamp e < b.h.toNat then some .evtLateEvent
  else none

def EventBank.full (b : EventBank) : Bool := 512 ≤ b.queue.length
def EventBank.insert (b : EventBank) (e : Word) : EventBank := { b with queue := insertEvent e b.queue }

/-- The queue holds an event that a horizon releases. -/
def EventBank.due (b : EventBank) (h : Nat) : Bool := b.queue.any (fun e => evStamp e ≤ h)

/-! ### Slots of the bank -/

/-- The slot of the block's EVIN, with its fields. -/
def Plane.evin (p : Plane) : Option (Nat × SlotOp) :=
  (List.range 64).findSome? (fun i => match p.slot i with
    | some (opc, o) => if opc = 0x60 then some (i, o) else none
    | none => none)

/-- The neuron count: 4096 in a block without EVIN (R257). -/
def Plane.neurons (p : Plane) : Nat := match p.evin with | some (_, o) => bits o.ext.toNat 20 12 + 1 | none => 4096

/-- The tile's EVIN has ended. -/
def Tile.evinEnded (v : Tile) : Bool := match v.plane.evin with | some (i, _) => (v.slotSt i).ended | none => false

/-- Power of an event operator besides EVIN (R413). -/
def eventCost : Nat := 4

/-! ### EVQ (R258) -/

/-- The port that EVQ serves: the one that holds a token, or the arbiter's choice, which the recorder captures; none while
it waits. The first component says that the choice was free. -/
def State.evqPort (s : State) : Option (Nat × State) :=
  let seen := s.slotSt.seen
  let at_ (p : Nat) : Option Token := if seen.getLsbD p then none else s.head p
  let word_ (p : Nat) : Word := match at_ p with | some k => k.data | none => 0
  let live : Option (Nat × State) := match at_ 0, at_ 1 with
    | some a, some b =>
      if a.isEos then some (0, s) else if b.isEos then some (1, s)
      else some (if Config.evqPort s.choice then 1 else 0, s.bump)
    | some _, none => some (0, s)
    | none, some _ => some (1, s)
    | none, none => none
  match live with
  | none => none
  | some (p, s1) =>
    if (at_ p).any Token.isEos then some (p, s1)
    else
      let ok (v e : Word) : Bool := v.toNat ≤ 1 && (at_ v.toNat).any (fun k => k.data == e && !k.isEos)
      match s1.captured s1.curT.launch 4 .tile s1.curTile s1.curSlot (word p) (word_ p) (tileCluster s1.curTile) ok
          (some s1.curTile) with
      | none => none
      | some (v, s2) => some (v.toNat % 2, s2)

/-- EVQ takes token `k` of port `p` (R258, R264). A late event or one of a bad kind faults before the queue is asked for room
(R253; DESIGN CHOICE, log 57). -/
def State.evqTake (s : State) (o : SlotOp) (p : Nat) (k : Token) (waits : State) : Out :=
  let b := s.bank s.curTile
  let e := k.data
  let drop : Out :=
    if !s.canPay eventCost then .next waits
    else let s1 := (s.pay eventCost).take p; .next (if k.psn then s1.orFlags flPSEEN else s1)
  if s.curT.evinEnded then drop
  else if evKind e = 3 then
    if bits e.toNat 9 23 ≠ 0 ∨ bits e.toNat 0 7 ≠ 0 then waits.slotFault .evtBadKind p e
    else if !s.slotRoom o 1 1 || !s.canPay eventCost then .next waits
    else
      let s1 := (s.pay eventCost).take p
      .next ((if k.psn && o.mute then s1.orFlags flPSEEN else s1).put o [k] [k])
  else if evTile e ≠ s.curTile then drop
  else if k.psn then waits.slotFault .psnStore p
  else match b.checkEvent e with
    | some c => waits.slotFault c p e
    | none =>
      if b.full || !s.canPay eventCost then .next waits
      else let s1 := (s.pay eventCost).take p; .next (s1.setBank s1.curTile (b.insert e))

/-- EVQ (R258). -/
def execEvq (o : SlotOp) (s : State) : Out :=
  if !s.slotLive then .next s
  else if s.slotSt.seen = 3 then s.endAction o [] {}
  else match s.evqPort with
    | none => .next s
    | some (p, s1) => match s1.head p with
      | none => .next s
      | some k =>
        if k.isEos then let s2 := s.take p; .next (s2.setSlotSt { s2.slotSt with seen := s2.slotSt.seen ||| (1 <<< p) })
        else s1.evqTake o p k s

/-! ### EVIN (R256, R259, R260) -/

/-- A horizon that EVIN has completed and not marked (R256). -/
def EventBank.markDue (b : EventBank) : Bool :=
  decide ((b.marked.getD 0).toNat < b.h.toNat) && !b.due b.h.toNat && b.busy.isNone

/-- EVIN's close input and its end (R260): a token is discarded; after the end of stream and the deliveries and marks that
are left, the queue is emptied and EVIN ends. -/
def execEvin (o : SlotOp) (s : State) : Out :=
  let b := s.bank s.curTile
  if !s.slotLive then .next s
  else if s.slotSt.closed then
    if b.due b.h.toNat || b.markDue || b.busy.isSome || !s.slotRoom o 1 1 then .next s
    else (s.setBank s.curTile { b with queue := [] }).endAction o [] {}
  else match s.head 0 with
    | none => .next s
    | some k =>
      let s1 := s.take 0
      if k.isEos then .next (s1.setSlotSt { s1.slotSt with closed := true })
      else .next (if k.psn then s1.orFlags flPSEEN else s1)

/-- Power of a synapse entry, set or probe (R413). -/
def entryCost : Nat := 200

/-- EVIN faults: the report names the event, and the entry that it interrupts. -/
def State.evinFault (s : State) (c : Cause) (e : Word) (j : Option Nat) : State :=
  let r := s.tileReport s.curTile s.curSlot false 3 e true
  let pos := match j with | none => r.pos | some n => r.pos + n * 2 ^ 20 + 2 ^ 27
  let s1 := s.raise c { r with pos := pos }
  let s2 := s1.setBank s1.curTile { s1.bank s1.curTile with busy := none }
  (s2.setSlotSt { s2.slotSt with stopped := true }).freeze s.curT.launch c

/-- The potential after a weight: exact, clamped to its range with SAT (R113, R259). -/
def addWeight (v wt : Nat) : Nat × Flags :=
  fitInt 24 true (toSigned 24 v + toSigned 16 wt)

/-- What entry `j` of a spike does to its neuron: the record, whether it fires, and flags. -/
def State.spikeEntry (s : State) (t : Nat) (r w : Nat) : Nat × Bool × Flags :=
  if bits r 32 8 ≠ 0 then (r, false, 0)
  else
    let (v, fl) := addWeight (bits r 0 24) (bits w 0 16)
    let th := s.threshold t (bits r 24 4)
    if toSigned 24 th ≤ toSigned 24 v then
      (neuronRecord r (bits th 24 24) (bits th 48 8) (bits r 40 24), true, fl)
    else (neuronRecord r v (bits r 32 8) (bits r 40 24), false, fl)

/-- Entry `j` of event `e` performs, if power and room allow; `s` is as it stands while it waits. -/
def State.deliverEntry (s : State) (o : SlotOp) (e : Word) (j : Nat) : State :=
  let t := s.curTile
  let b := s.bank t
  let nn := s.curT.plane.neurons
  let kind := evKind e
  let w := s.synapse t (evGroup e) j
  let m := if kind = 0 then (evNeuron e + bits w 16 12) % 4096 else evNeuron e
  let ej := if kind = 0 then some j else none
  let bankNow (more : Bool) (st : State) : State :=
    st.setBank t { st.bank t with queue := if j = 0 then b.queue.drop 1 else b.queue,
                                  busy := if more then some (s.curSlot, e, j + 1) else none }
  if nn ≤ m then (bankNow false s).evinFault .evtNeuronRange e ej
  else match s.bring t (evStamp e) (s.neuron t m) with
    | none => (bankNow false s).evinFault .evtStampRange e ej
    | some r =>
      if !s.canPay entryCost then s
      else if kind = 0 then
        let (r1, fires, fl) := s.spikeEntry t r w
        if fires && !s.room t o.t0.toNat 1 then s
        else
          let s1 := ((s.pay entryCost).setNeuron t m r1).orFlags fl
          let s2 := if fires then s1.sendAll t t o.t0.toNat [Token.mk' (evWord (evStamp e) t m 0 0) false] else s1
          bankNow (bits w 31 1 == 0 && j < 127) s2
      else if kind = 1 then
        let th := s.threshold t (bits r 24 4)
        bankNow false ((s.pay entryCost).setNeuron t m (neuronRecord r (bits th 24 24) 0 (bits r 40 24)))
      else if !s.room t o.t1.toNat 1 then s
      else bankNow false (((s.pay entryCost).setNeuron t m r).sendAll t t o.t1.toNat [Token.mk' (word r) false])

/-- EVENT_DELIVERY: the next entry of the event in delivery, or the first of the head event once the horizon allows it
(R254, R259); EVIN does not fire under a weight hold (R448). -/
def execEventDelivery (tile : Nat) (s : State) : Out :=
  let v := s.tile tile
  let b := v.events
  match v.plane.evin with
  | none => .next s
  | some (i, o) =>
    let s0 := { s with curTile := tile, curSlot := i }
    if !s0.slotLive || s0.weightHold then .next s
    else match b.busy with
      | some (k, e, j) => if k = i then .next (s0.deliverEntry o e j) else .next s
      | none => match b.queue with
        | [] => .next s
        | e :: _ => if evStamp e ≤ b.h.toNat then .next (s0.deliverEntry o e 0) else .next s

/-- MARK_EMIT: one mark for the horizon that EVIN has completed (R256). -/
def execMarkEmit (tile : Nat) (s : State) : Out :=
  let v := s.tile tile
  let b := v.events
  match v.plane.evin with
  | none => .next s
  | some (i, o) =>
    let s0 := { s with curTile := tile, curSlot := i }
    if !s0.slotLive || s0.weightHold || !b.markDue || !s0.room tile o.t0.toNat 1 then .next s
    else
      let k := Token.mk' (evWord b.h.toNat 0 0 3 0) false
      .next ((s0.setBank tile { b with marked := some b.h }).sendAll tile tile o.t0.toNat [k])

/-! ### EVFR (R261) -/

/-- One emission of EVFR's run. -/
def State.evfrEmit (s : State) (o : SlotOp) (f : Word) (u : Nat) (psn : Bool) : Out :=
  let d := s.fanDescriptor s.curTile u
  let stamp := evStamp f + bits d 48 16
  if !s.slotRoom o 1 1 || !s.canPay eventCost then .next s
  else if bits d 16 2 = 3 then s.slotFault .evtBadKind 3 f
  else if 2 ^ 32 ≤ stamp then s.slotFault .evtStampRange 3 f
  else
    let k := Token.mk' (evWord stamp (bits d 37 11) (bits d 25 12) (bits d 16 2) (bits d 18 7)) psn
    let last := bits d 15 1 == 1
    let s1 := s.pay eventCost
    let s2 := s1.setSlotSt { s1.slotSt with iota := if last || u == 8191 then none else some (f, u + 1, psn) }
    let s3 := (if psn && o.mute then s2.orFlags flPSEEN else s2).put o [k] [k]
    if !last && u == 8191 then s3.slotFault .evtFanoutRange 3 f else .next s3

/-- EVFR (R261). -/
def execEvfr (o : SlotOp) (s : State) : Out :=
  if !s.slotLive then .next s
  else match s.slotSt.iota with
    | some (f, u, psn) => s.evfrEmit o f u psn
    | none => match s.head 0 with
      | none => .next s
      | some k =>
        if k.isEos then s.endAction o [0] {}
        else if evKind k.data = 3 then
          if !s.slotRoom o 1 1 || !s.canPay eventCost then .next s
          else
            let s1 := (s.pay eventCost).take 0
            .next ((if k.psn && o.mute then s1.orFlags flPSEEN else s1).put o [k] [k])
        else
          let ptr := s.fanPointer s.curTile (evNeuron k.data)
          let s1 := s.take 0
          if bits ptr 15 1 = 0 then .next (if k.psn then s1.orFlags flPSEEN else s1)
          else .next (s1.setSlotSt { s1.slotSt with iota := some (k.data, bits ptr 0 13, k.psn) })

/-! ### EVLK, EVST and EVWR (R262, R263) -/

/-- The next neuron of an EVLK in progress, or its last step. -/
def State.evlkStep (s : State) (o : SlotOp) (x : Word) (m : Nat) : Out :=
  let t := s.curTile
  let b := s.bank t
  let time := bits x.toNat 0 32
  if s.curT.plane.neurons ≤ m then
    .next ((s.setBank t { b with b := BitVec.ofNat 32 time, busy := none }).put o [Token.mk' 0 false] [Token.mk' 0 false])
  else if !s.canPay eventCost then .next s
  else
    let r := s.neuron t m
    let last := b.b.toNat + bits r 40 24
    let go (v : Nat) : Out :=
      let s1 := (s.pay eventCost).setNeuron t m v
      .next (s1.setBank t { s1.bank t with busy := some (s.curSlot, x, m + 1) })
    if last ≤ time then
      match s.bring t time r with
      | none => (s.setBank t { b with busy := none }).slotFault .evtStampRange 0 x
      | some v => go (neuronRecord v (bits v 0 24) (bits v 32 8) 0)
    else go (neuronRecord r (bits r 0 24) (bits r 32 8) (last - time))

/-- EVLK (R262). -/
def execEvlk (o : SlotOp) (s : State) : Out :=
  let b := s.bank s.curTile
  if !s.slotLive then .next s
  else match b.busy with
    | some (k, x, m) => if k = s.curSlot then s.evlkStep o x m else .next s
    | none =>
      if s.allEos [0] then s.endAction o [0] {}
      else match s.head 0 with
        | none => .next s
        | some k =>
          let time := bits k.data.toNat 0 32
          if k.psn then s.slotFault .psnStore 0
          else if time < b.b.toNat ∨ b.h.toNat < time then s.slotFault .evtStampRange 0 k.data
          else if b.due time || !s.slotRoom o 1 1 then .next s
          else let s1 := s.take 0; .next (s1.setBank s1.curTile { b with busy := some (s.curSlot, k.data, 0) })

/-- EVST (R263). -/
def execEvst (o : SlotOp) (s : State) : Out :=
  if s.bankBusy s.curTile then .next s
  else s.fireRule 0x63 o (fun a _ _ =>
    oneResult eventCost a a a [0] (s.neuron s.curTile (bits a.data.toNat 0 12), 0))

/-- EVWR (R263). -/
def execEvwr (o : SlotOp) (s : State) : Out :=
  if s.bankBusy s.curTile then .next s
  else s.fireRule 0x64 o (fun a b _ =>
    { base := eventCost,
      fault := if a.psn then some (.psnStore, 0, 0) else if b.psn then some (.psnStore, 1, 0) else none,
      run := fun s1 =>
        (s1.setNeuron s.curTile (bits a.data.toNat 0 12) b.data.toNat, [Token.mk' 0 false], [Token.mk' 0 false]) })

end Sys2Proof.Machine
end

