-- ==== Sys2Proof/Machine/SeqStream.lean ====
section
/-!
DEFINITION. A sequencer's stream, configuration and event instructions (R337 to R342, R353, R354).
-/
namespace Sys2Proof.Machine
open Sys2Proof

/-- The launch that the running sequencer steers. -/
def State.curLaunch (s : State) : Option (Nat × Launch) :=
  match s.cur.launch with
  | none => none
  | some k => (s.launch k).map (fun l => (k, l))

/-- A channel at or above the launch's channel count (R325). -/
def State.badChannel (s : State) (ch : Nat) : Bool := s.cur.nch.toNat ≤ ch

/-- The channel and the generation that its handler entry holds now (R305). -/
def State.postOf (s : State) (ch : BitVec 6) : BitVec 6 × BitVec 8 := (ch, entryGen (s.handler s.curSeq ch.toNat))

/-! ### Streams -/

/-- Word `w` of a descriptor register becomes `v`; word 8 clears it whole (R337). -/
def sdWrite (old : BitVec 512) (w : Nat) (v : Word) : BitVec 512 :=
  if w = 8 then 0
  else
    let mask : BitVec 512 := (BitVec.allOnes 64).setWidth 512 <<< (64 * w)
    (old &&& ~~~mask) ||| (v.setWidth 512 <<< (64 * w))

/-- SDSET (R337). -/
def execSdset (sd rs1 : Reg) (word : BitVec 8) (s : State) : Out :=
  let q := s.cur
  let i := sd.toNat
  let v := sdWrite ((q.sd[i]?).getD 0) word.toNat (q.rd rs1)
  .next (s.retire { q with sd := q.sd.setIfInBounds i v })

/-- SBIND (R338). -/
def execSbind (rd rs1 : Reg) (shadow : Bool) (sd : BitVec 4) (s : State) : Out :=
  let q := s.cur
  let v := (q.rd rs1).toNat
  let ch : BitVec 6 := BitVec.ofNat 6 (bits v 11 6)
  let pc := operandPctx v
  if 2 ^ 18 ≤ v || s.badChannel ch.toNat then s.fault .seqBadOperand
  else if (s.pctx pc).st ≠ .free then .next (s.result rd 2)
  else match s.curLaunch with
    | none => .next s
    | some (k, l) =>
      if shadow && l.shadow != .loaded then .next (s.result rd 3)
      else
        let post := if bits v 17 1 = 1 then some (s.postOf ch) else none
        match s.bindStream k pc q.sd[sd.toNat] shadow true post none with
        | .error c => s.fault c
        | .ok s1 => .next (s1.result rd (if shadow then 1 else 0))

/-- SCANCEL (R339). -/
def execScancel (rd rs1 : Reg) (s : State) : Out :=
  let v := (s.cur.rd rs1).toNat
  let p := s.pctx (operandPctx v)
  if 2 ^ 18 ≤ v then s.fault .seqBadOperand
  else if p.st ≠ .free ∧ p.launch.isSome ∧ p.launch = s.cur.launch then
    .next ((s.cancelStream (operandPctx v)).result rd 0)
  else .next (s.result rd 1)

/-! ### Configurations -/

/-- CFGLD: the load begins, unless one is running or a loaded plane waits (R340). -/
def execCfgld (rd rs1 : Reg) (ch : BitVec 6) (s : State) : Out :=
  let a := s.cur.rd rs1
  if s.badChannel ch.toNat || pathOf a != 0 || a.toNat % 64 != 0 then s.fault .seqBadOperand
  else match s.curLaunch with
    | none => .next s
    | some (k, l) =>
      if l.shadow ≠ .none then .next (s.result rd 1)
      else
        let l1 := { l with shadow := .loading, shImage := a, shPost := some (s.postOf ch), shPosted := false, loadHeld := false }
        .next ((s.setLaunch k l1).result rd 0)

/-- The tiles of a region have not seen the token that sets out. -/
def State.resetPassed (s : State) (k : Nat) : State :=
  { s with tiles := s.tiles.map (fun p => (p.1, if p.2.launch = some k then { p.2 with passed := false, strayed := false } else p.2)) }

/-- RECONF: the token is injected; during the load that a resume repeats after its message has posted, it waits for the load
(R341, R446). -/
def execReconf (rd : Reg) (ch : BitVec 6) (s : State) : Out :=
  if s.badChannel ch.toNat then s.fault .seqBadOperand
  else match s.curLaunch with
    | none => .next s
    | some (k, l) =>
      if l.reconf.isSome then .next (s.result rd 2)
      else if l.shadow = .loaded ∨ (l.shadow = .loading ∧ l.shPosted) then
        .next (((s.setLaunch k { l with reconf := some (s.postOf ch) }).resetPassed k).result rd 0)
      else .next (s.result rd 1)

/-- DRAIN arms the drain watch (R342). -/
def execDrain (rd : Reg) (ch : BitVec 6) (s : State) : Out :=
  let q := s.cur
  if s.badChannel ch.toNat then s.fault .seqBadOperand
  else if q.drainWatch.isSome then .next (s.result rd 1)
  else .next ((s.setCur { q with drainWatch := some (s.postOf ch) }).result rd 0)

/-! ### Events -/

/-- A tile of a launch's region in event mode. -/
def State.eventBank (s : State) (l : Launch) (t : Nat) : Bool :=
  l.covers t && t < 1536 && (s.tile t).plane.mode == 2

/-- EVSEND offers an event to the arbiter of a tile; the recorder captures the insertion (R353, R467). A late event or one of a bad
kind faults before the queue is asked for room (R253; DESIGN CHOICE, log 57). -/
def execEvsend (rd rs1 : Reg) (s : State) : Out :=
  let e := s.cur.rd rs1
  let t := evTile e
  match s.curLaunch with
  | none => .next s
  | some (k, l) =>
    if !s.eventBank l t then .next (s.result rd 2)
    else
      let b := s.bank t
      match b.checkEvent e with
      | some c => s.fault c e
      | none =>
        if b.full then .next (s.result rd 1)
        else match s.captured (some k) 4 .seq s.curSeq noSlot 0 e (seqClock s.curSeq) (fun _ x => x == e) (some t) with
          | none => .next s
          | some (_, s1) => .next ((s1.setBank t (b.insert e)).result rd 0)

/-- Width and height of the subgroups of level `n` of a region (R23). -/
def subgroupSize (w h : Nat) : Nat → Nat × Nat
  | 0 => (w, h)
  | n + 1 =>
    let (a, b) := subgroupSize w h n
    if b ≤ a then (if a % 2 = 0 then (a / 2, b) else (a, b / 2))
    else if b % 2 = 0 then (a, b / 2) else (a / 2, b)

/-- The highest level of a region (R23). -/
def Launch.topLevel (l : Launch) : Nat := if l.whole then 9 else l.lw + l.lh

/-- The tiles of subgroup `k` of level `n` (R23). -/
def Launch.subgroup (l : Launch) (n k : Nat) : List Nat :=
  let (a, b) := subgroupSize l.w l.h n
  let cols := l.w / a
  l.tiles.filter (fun t => (tileX t - l.x0) / a == k % cols && (tileY t - l.y0) / b == k / cols)

/-- The bank of a tile applies a horizon; one below H writes a record and stops nothing (R254; DEDUCED, log 31). -/
def State.applyHorizon (s : State) (t : Nat) (h : Nat) : State :=
  let b := s.bank t
  if h < b.h.toNat then
    let slot := (((s.tile t).plane.evin).map Prod.fst).getD 0
    s.raise .evtHorizonBack (s.tileReport t slot false 3 (word h) false)
  else s.setBank t { b with h := BitVec.ofNat 32 h }

/-- The copy still writes to path 0x2 or 0x3 of the tile (R254). -/
def CopyJob.writesTile (j : CopyJob) (t : Nat) : Bool :=
  let tile : Option (Word → Nat) := if pathOf j.dsta = 2 then some tileOfAddr2 else if pathOf j.dsta = 3 then some tileOfAddr3 else none
  !j.cancelled && !j.failed && decide (j.done < j.len) &&
    tile.any (fun f => decide (f j.dsta ≤ t) && decide (t ≤ f (j.dsta + word (j.len - 1))))

/-- A COPY that the running sequencer issued still writes to the tile. -/
def State.copiesInto (s : State) (t : Nat) : Bool :=
  s.copies.any (fun j => j.2.item.isNone && j.2.launch == s.cur.launch && j.2.seqn == s.curSeq && j.2.writesTile t)

/-- EVHZ writes a horizon to every event bank of a subgroup (R354), after the COPYs of this sequencer into their tiles (R254). -/
def execEvhz (rs1 : Reg) (s : State) : Out :=
  let v := (s.cur.rd rs1).toNat
  let n := bits v 32 4
  let k := bits v 36 11
  match s.curLaunch with
  | none => .next s
  | some (_, l) =>
    if 2 ^ 47 ≤ v ∨ l.topLevel < n ∨ 2 ^ n ≤ k then s.fault .seqBadOperand
    else
      let banks := (l.subgroup n k).filter (s.eventBank l)
      if banks.any s.copiesInto then .next s
      else .next (banks.foldl (fun st x => st.applyHorizon x (bits v 0 32)) (s.retire s.cur))

end Sys2Proof.Machine
end

