-- ==== Sys2Proof/Machine/Collective.lean ====
section
/-!
DEFINITION. Collectives (R279 to R292, R346): descriptors, the tree, sums, sorted-sparse windows and the engines. How units
are laid out in flits, and what a control flit says in its payload, are the model's (DESIGN CHOICE, log 16).
-/
namespace Sys2Proof.Machine
open Sys2Proof

/-! ### The descriptor (R279), as a number -/

def clSrca (v : Nat) : Nat := bits v 0 64
def clDsta (v : Nat) : Nat := bits v 64 64
def clCount (v : Nat) : Nat := bits v 128 64
def clKind (v : Nat) : Nat := bits v 256 3
def clSparse (v : Nat) : Bool := bits v 259 1 == 1
def clVt (v : Nat) : Nat := bits v 260 2
def clSrcf (v : Nat) : Bool := bits v 262 1 == 1
def clStw (v : Nat) : Bool := bits v 263 1 == 1
def clEng (v : Nat) : Nat := bits v 264 3
def clFan (v : Nat) : Nat := bits v 267 4
def clRoot (v : Nat) : Nat := bits v 272 6
def clFill (v : Nat) : Nat := bits v 280 12
def clId (v : Nat) : Nat := bits v 304 16
def clDcap (v : Nat) : Nat := bits v 320 64
def clSta (v : Nat) : Nat := bits v 384 64

/-- The members in ascending package number (R281). -/
def clMembers (v : Nat) : List Nat := (List.range 64).filter (fun p => bits v (192 + p) 1 == 1)
def clSize (v : Nat) : Nat := (clMembers v).length

/-- Bytes of an element in memory. -/
def clBytes (v : Nat) : Nat := if clVt v = 1 then 2 else 4

/-! ### The tree (R281) -/

def clRank (v p : Nat) : Nat :=
  ((clMembers v).idxOf p + clSize v - (clMembers v).idxOf (clRoot v)) % clSize v
def clPkg (v r : Nat) : Nat := (clMembers v).getD ((r + (clMembers v).idxOf (clRoot v)) % clSize v) 0

/-- Ranks of the children of rank `r`, ascending. -/
def clChildren (v r : Nat) : List Nat := ((List.range (clFan v)).map (fun i => r * clFan v + 1 + i)).filter (· < clSize v)

/-- Rank `q` lies in the subtree of rank `r`; `fuel` bounds its depth. -/
def inSubtree (f r : Nat) : Nat → Nat → Bool
  | 0, _ => false
  | fuel + 1, q => q == r || (decide (r < q) && inSubtree f r fuel ((q - 1) / f))

/-- The input of rank `r` that brings the block of rank `q`, in ascending rank (R282, all-gather). -/
def clInputOf (v r q : Nat) : Nat :=
  if q = r then 0
  else ((clChildren v r).findIdx (fun c => inSubtree (clFan v) c 64 q)) + 1

/-- The member takes a contribution of its own. -/
def clGives (v rank : Nat) : Bool := clKind v ≤ 2 || (clKind v == 3 && rank == 0)

/-- Contributions and results are sums, so that BF16 travels as FP32 toward the root (R284). -/
def clSums (v : Nat) : Bool := clKind v ≤ 1 || (clKind v == 3 && clSparse v)

/-- Elements that the reduce phase of a dense collective forms at a member. -/
def clFormed (v rank : Nat) : Nat :=
  if clKind v = 2 then ((List.range (clSize v)).filter (inSubtree (clFan v) rank 64)).length * clCount v else clCount v

/-- Elements of a dense result as the root sends it. -/
def clResult (v : Nat) : Nat := if clKind v = 2 then clSize v * clCount v else clCount v

/-- Bytes of a dense result at a member (R288). -/
def clRoom (v : Nat) : Nat := (if clKind v = 1 then clCount v / clSize v else clResult v) * clBytes v

/-! ### The checks (R280) -/

/-- EDGE records of a launch that name an engine (R145). -/
def State.edgesTo (s : State) (l : Launch) (eng : Nat) : Nat :=
  (l.tiles.map (fun t =>
    let p := (s.tile t).plane
    ((List.range p.recs.length).filter (fun q => (p.rec_ q).any (fun r =>
      r.1 == 7 && r.2.param.toNat / 64 == 2 && r.2.dst.toNat == eng))).length)).foldl (· + ·) 0

/-- NET_COLL_DESC; a COLLID counts as active while its collective waits for its engine too (DESIGN CHOICE, log 16). -/
def State.collBad (s : State) (l : Launch) (v : Nat) : Bool :=
  let sparse := clSparse v
  let kind := clKind v
  let dense := !sparse && kind != 4
  let al := if sparse then 8 else clBytes v
  let place (a : Nat) : Bool := a / 2 ^ 60 ≤ 1
  bits v 271 1 != 0 || bits v 278 2 != 0 || bits v 292 12 != 0 || bits v 448 64 != 0 ||
  5 ≤ kind || clVt v == 3 || clFan v < 2 || 8 < clFan v || bits v (192 + clRoot v) 1 == 0 ||
  bits v (192 + s.pkg) 1 == 0 ||
  (if dense then clCount v == 0 || 2 ^ 32 < clCount v else clCount v != 0) ||
  (if sparse then clFill v == 0 || 2048 < clFill v else clFill v != 0) ||
  ((clSrcf v || !clGives v (clRank v s.pkg)) && clSrca v != 0) || (kind == 4 && clDsta v != 0) ||
  (!clStw v && clSta v != 0) || clSta v % 8 != 0 ||
  !place (clSrca v) || !place (clDsta v) || !place (clSta v) || clSrca v % al != 0 || clDsta v % al != 0 ||
  (dense && kind == 1 && clCount v % clSize v != 0) || (dense && clDcap v < clRoom v) ||
  (sparse && kind == 2) || (kind == 4 && (sparse || clVt v != 0)) ||
  (clSrcf v && s.edgesTo l (clEng v) != 1) ||
  s.net.colls.any (fun c => clId c.2.desc.toNat == clId v)

/-- The domain is not configured, or a member cannot be reached (R273, R274, R280). -/
def State.collUnreachable (s : State) (v : Nat) : Bool :=
  !s.domain || (clMembers v).any (fun q => q != s.pkg && (s.routeTo q).isNone)

/-! ### Access to a collective -/

def collKey (eng id : Nat) : Nat := 65536 * eng + id
def State.coll (s : State) (k : Nat) : Option Coll := tabFind s.net.colls k
def State.setColl (s : State) (k : Nat) (c : Coll) : State :=
  { s with net := { s.net with colls := tabPut s.net.colls k c } }
def Coll.v (c : Coll) : Nat := c.desc.toNat

/-- The collective of an identifier, on whichever engine it runs. -/
def State.collById (s : State) (id : Nat) : Option (Nat × Coll) := s.net.colls.find? (fun c => c.1 % 65536 == id)

/-- Input `j` is replaced. -/
def Coll.setInput (c : Coll) (j : Nat) (i : CollIn) : Coll := { c with inputs := c.inputs.set j i }
def Coll.input (c : Coll) (j : Nat) : CollIn := c.inputs.getD j CollIn.reset

/-- Bits join the collective status (R289). -/
def Coll.raises (c : Coll) (b : BitVec 19) : Coll := { c with status := c.status ||| b }

def csPELEM : BitVec 19 := 0x800
def csSPORD : BitVec 19 := 0x10000
def csDNS : BitVec 19 := 0x20000
def csDCAPX : BitVec 19 := 0x40000

/-- Packages of the tree neighbours: the parent and the children. -/
def Coll.neighbours (c : Coll) (pkg : Nat) : List Nat :=
  let r := clRank c.v pkg
  (if r = 0 then [] else [clPkg c.v ((r - 1) / clFan c.v)]) ++ (clChildren c.v r).map (clPkg c.v)

/-- COLL (R346). -/
def execColl (rd rs1 : Reg) (ch : BitVec 6) (s : State) : Out :=
  let q := s.cur
  let a := q.rd rs1
  let ctx := q.ctxid.toNat
  if s.badChannel ch.toNat || !descAddrOk a 64 then s.fault .seqBadOperand
  else match s.curLaunch with
    | none => .next s
    | some (k, l) =>
      if 4 ≤ (s.net.colls.filter (fun c => c.2.launch == some k && !c.2.cancelled)).length then .next (s.result rd 1)
      else match s.readDesc ctx a 8 with
        | .wait => .next s
        | .bad c x => s.fault c x
        | .bytes bs =>
          let v := leNat bs
          if s.collBad l v then s.fault .netCollDesc
          else if s.collUnreachable v then s.fault .netNoRoute
          else
            let n := (clChildren v (clRank v s.pkg)).length
            let c : Coll :=
              { ctx := ctx, launch := some k, seqn := s.curSeq, post := s.postOf ch, cfg := l.cfg,
                desc := BitVec.ofNat 512 v, active := false, inputs := List.replicate (n + 1) CollIn.reset,
                down := CollIn.reset, src := 0, srcLen := none, formed := 0, upUnits := 0, downUnits := 0, taken := 0,
                wrote := 0, needed := 0, status := 0, psn := false, sentUp := false, told := false, complete := false, failed := none,
                cancelled := false }
            .next ((s.setColl (collKey (clEng v) (clId v)) c).result rd 0)

/-! ### Flits of a collective (R270, DESIGN CHOICE, log 16): one unit to a data flit; a control flit's first word says what it is, 0 a digest,
1 the end of a phase with the status, 2 an abort, 3 the status of a subtree's sparse results and 4 that of all of them, and
its second word is the digest or the status -/

def State.collFlit (s : State) (c : Coll) (type dest seq psn a b : Nat) : State :=
  s.sendFlit (mkFlit type s.pkg dest c.ctx 0 1 psn 0 (clId c.v + seq % 2 ^ 36 * 2 ^ 16) [a, b])

/-- A collective is changed. -/
def State.editColl (s : State) (k : Nat) (f : Coll → Coll) : State :=
  match s.coll k with
  | none => s
  | some c => s.setColl k (f c)

/-! ### Failure (R291) -/

/-- A member's collective fails: one record, which names the package whose step failed, and an abort to every neighbour that a
route leads to; flits of it that came early are dropped. -/
def State.collFail (s : State) (k : Nat) (why : Cause) (pkg : Nat) (addr : Word := 0) : State :=
  match s.coll k with
  | none => s
  | some c =>
    if c.failed.isSome || c.complete then s
    else
      let s1 := s.raise why
        { origin := .indigo, ctx := some c.ctx, pos := k / 65536 + k % 65536 * 2 ^ 3 + pkg * 2 ^ 19, stop := false, addr := addr }
      let s2 := (c.neighbours s.pkg).foldl (fun st p => st.collFlit c 6 p 0 0 2 0) s1
      let s3 : State := { s2 with net := { s2.net with early := s2.net.early.filter (fun f => f.addr % 65536 != k % 65536) } }
      s3.setColl k { c with failed := some why }

/-- A step toward another member: its flit, or NET_NO_ROUTE and nothing sent when no route leads there (R274). -/
def State.collStep (s : State) (k : Nat) (type dest seq psn a b : Nat) : State :=
  match s.coll k with
  | none => s
  | some c =>
    if c.failed.isSome then s
    else if (s.routeTo dest).isNone then s.collFail k .netNoRoute dest
    else s.collFlit c type dest seq psn a b

/-- The fields that every member must give alike (R283). -/
def Coll.shared (c : Coll) : List Byte :=
  let v := c.v
  leBytes 64 (bits v 128 134 * 2 ^ 128 + bits v 263 1 * 2 ^ 263 + bits v 267 53 * 2 ^ 267)

/-- The parent of a member below the root. -/
def Coll.parent (c : Coll) (pkg : Nat) : Nat := clPkg c.v ((clRank c.v pkg - 1) / clFan c.v)

/-- A step toward every child. -/
def State.collKids (s : State) (k : Nat) (c : Coll) (type seq psn a b : Nat) : State :=
  (clChildren c.v (clRank c.v s.pkg)).foldl (fun st r => st.collStep k type (clPkg c.v r) seq psn a b) s

/-- A unit goes to the parent. -/
def State.sendUp (s : State) (k : Nat) (u : Word × Bool) : State :=
  match s.coll k with
  | none => s
  | some c =>
    (s.collStep k 5 (c.parent s.pkg) c.upUnits u.2.toNat u.1.toNat 0).editColl k
      (fun d => { d with upUnits := c.upUnits + 1 })

/-- A unit of the result goes to the children, and to this member itself. -/
def State.sendDown (s : State) (k : Nat) (u : Word × Bool) : State :=
  match s.coll k with
  | none => s
  | some c =>
    (s.collKids k c 5 c.downUnits u.2.toNat u.1.toNat 0).editColl k
      (fun d => { d with downUnits := c.downUnits + 1, down := { d.down with units := d.down.units ++ [u] } })

/-- The end of the down phase, with the status so far, goes to the children and to this member (R289). -/
def State.sendRelease (s : State) (k : Nat) (status : BitVec 19) : State :=
  match s.coll k with
  | none => s
  | some c =>
    (s.collKids k c 6 c.downUnits 0 1 status.toNat).editColl k
      (fun d => { d with status := d.status ||| status, down := { d.down with ended := true } })

/-- The status of every member's sparse result, DCAPX of any of them included, goes to the children and to this member
(R288, R289). -/
def State.sendSettled (s : State) (k : Nat) (status : BitVec 19) : State :=
  match s.coll k with
  | none => s
  | some c =>
    (s.collKids k c 6 c.downUnits 0 4 status.toNat).editColl k
      (fun d => { d with status := d.status ||| status, down := { d.down with settled := true } })

/-- A collective is cancelled with its launch (R291): it fails with NET_COLL_ABORT and posts nothing. -/
def State.cancelColl (s : State) (k : Nat) : State :=
  let s1 := s.collFail k .netCollAbort s.pkg
  match s1.coll k with
  | none => s1
  | some c => s1.setColl k { c with cancelled := true }

/-- The neighbour behind input `j`, 0 the parent, has still to send something and has sent nothing for 10^6 ticks (R291). -/
def Coll.silent (c : Coll) (now j : Nat) : Bool :=
  let i : CollIn := if j = 0 then c.down
    else { c.input j with ended := (c.input j).ended || (3 ≤ clKind c.v && clKind c.v != 4) }
  (!i.met || !i.ended || (clSparse c.v && !i.settled)) && decide (i.heard + 1000000 ≤ now)

/-- COLLECTIVE_TIMEOUT: a tree neighbour that has still to send something has sent nothing for 10^6 ticks. -/
def execCollectiveTimeout (eng : Nat) (collid : BitVec 16) (s : State) : Out :=
  let k := collKey eng collid.toNat
  match s.coll k with
  | none => .next s
  | some c =>
    let r := clRank c.v s.pkg
    if !c.active then .next s
    else match (List.range (clChildren c.v r).length).find? (fun j => c.silent s.now (j + 1)) with
      | some j => .next (s.collFail k .netTimeout (clPkg c.v ((clChildren c.v r).getD j 0)))
      | none =>
        if r ≠ 0 ∧ c.silent s.now 0 = true then .next (s.collFail k .netTimeout (clPkg c.v ((r - 1) / clFan c.v))) else .next s

/-! ### Arriving flits (R283, R291) -/

end Sys2Proof.Machine

namespace Sys2Proof
open Machine

/-- A control flit that carries an abort. -/
def Flit.aborts (f : Flit) : Bool := f.type == 6 && f.pay 0 == 2

end Sys2Proof

namespace Sys2Proof.Machine
open Sys2Proof

/-- The neighbour that a package is: 0 the parent, j a child. -/
def Coll.from? (c : Coll) (pkg src : Nat) : Option Nat :=
  let r := clRank c.v pkg
  if r ≠ 0 ∧ clPkg c.v ((r - 1) / clFan c.v) = src then some 0
  else ((clChildren c.v r).findIdx? (fun q => clPkg c.v q == src)).map (· + 1)

/-- What a data flit of a collective does: a unit of a child enters its input, and one of the parent is passed on and taken; the
recorder captures it (R467). None while the recorder waits. -/
def State.collData (s : State) (k : Nat) (c : Coll) (flit : Flit) : Option State :=
  if c.failed.isSome || c.complete then some s
  else match c.from? s.pkg flit.srcp with
    | none => some s
    | some j =>
      let aux := word flit.addr
      (s.captured c.launch 5 .indigo (k / 65536) 0 (word (flit.pay 0)) aux s.coreClock (fun _ x => x == aux)).map (fun x =>
        let u := (x.1, flit.pmask % 2 == 1)
        if j = 0 then x.2.sendDown k u
        else x.2.setColl k (c.setInput j { c.input j with units := (c.input j).units ++ [u] }))

/-- What a control flit of a collective does: a digest, the end of a phase, an abort, or a status. A digest that differs and an
abort count from any package, since its own tree may differ from this one's (R283, R291). -/
def State.collControl (s : State) (k : Nat) (c : Coll) (flit : Flit) : State :=
  let v : BitVec 64 := word (flit.pay 1)
  if c.failed.isSome || c.complete then s
  else if flit.pay 0 = 0 ∧ v ≠ Config.collDigest c.shared then s.collFail k .netCollMismatch flit.srcp
  else if flit.pay 0 = 2 then s.collFail k .netCollAbort flit.srcp
  else match c.from? s.pkg flit.srcp with
    | none => s
    | some j =>
      let i := if j = 0 then c.down else c.input j
      let put (x : CollIn) : Coll := if j = 0 then { c with down := x } else c.setInput j x
      match flit.pay 0 with
      | 0 => s.setColl k (put { i with met := true })
      | 1 =>
        if j = 0 then (s.setColl k (put i)).sendRelease k (v.setWidth 19)
        else s.setColl k ((put { i with ended := true }).raises (v.setWidth 19))
      | 3 => s.setColl k ((put { i with settled := true }).raises (v.setWidth 19))
      | 4 => if j = 0 then (s.setColl k (put i)).sendSettled k (v.setWidth 19) else s
      | _ => s

/-- A flit of a collective that its engine cannot take up yet waits in the engine, which leaves the link to later flits
(R272, R283); an abort of a collective that is not here is for nobody (DESIGN CHOICE, log 16). -/
def State.collEarly (s : State) (flit : Flit) : State :=
  if flit.aborts then s else { s with net := { s.net with early := s.net.early ++ [flit] } }

/-- Flits of a collective that came early wait in the engine. -/
def State.hasEarly (s : State) (id : Nat) : Bool := s.net.early.any (fun f => f.addr % 65536 == id)

/-- The collective that takes a flit now: one that is active, once the flits that came before have been taken; but an abort
reaches every collective that is not complete (R291). -/
def State.collOf (s : State) (flit : Flit) : Option (Nat × Coll) :=
  let id := flit.addr % 65536
  match s.collById id with
  | none => none
  | some (k, c) =>
    if !c.complete && (flit.aborts || c.failed.isSome || (c.active && !s.hasEarly id)) then some (k, c) else none

/-- A neighbour is heard as its flit arrives; one that has been silent for 10^6 ticks is too late (R291). -/
def State.collHeard (s : State) (flit : Flit) : State :=
  match s.collById (flit.addr % 65536) with
  | none => s
  | some (k, c) =>
    if !c.active || c.complete || c.failed.isSome || flit.aborts then s
    else match c.from? s.pkg flit.srcp with
      | none => s
      | some j =>
        if c.silent s.now j then s.collFail k .netTimeout flit.srcp
        else if j = 0 then s.setColl k { c with down := { c.down with heard := s.now } }
        else s.setColl k (c.setInput j { c.input j with heard := s.now })

/-- COLLECTIVE_DATA (R283). -/
def execCollectiveData : Arrival → State → Out
  | ⟨port, flit⟩, s =>
    if !s.takes port flit 5 then .next s
    else
      let s1 := (s.acceptOn port flit).collHeard flit
      match s1.collOf flit with
      | none => .next (s1.collEarly flit)
      | some (k, c) => .next ((s1.collData k c flit).getD s)

/-- COLLECTIVE_CONTROL (R283, R289, R291). -/
def execCollectiveControl : Arrival → State → Out
  | ⟨port, flit⟩, s =>
    if !s.takes port flit 6 then .next s
    else
      let s1 := (s.acceptOn port flit).collHeard flit
      match s1.collOf flit with
      | none => .next (s1.collEarly flit)
      | some (k, c) => .next (s1.collControl k c flit)

/-! ### EDGE to an engine (R202, R283, R285) -/

/-- A fabric token as a unit: a dense value or a record, BF16 widened where values are summed. -/
def clWiden (v : Nat) (w : Nat) : Nat :=
  if clVt v = 1 && clSums v then (if clSparse v then bits w 32 32 * 2 ^ 32 + bits w 0 16 * 2 ^ 16 else bits w 0 16 * 2 ^ 16)
  else if clSparse v then w else bits w 0 (8 * clBytes v)

/-- Units of 8 bytes that the merge buffer of an engine holds (R287). -/
def mergeUnits : Nat := 8192

/-- A record from the fabric is out of order: its index is not above the last one that the engine took from the input (R286). -/
def CollIn.late (i : CollIn) (idx : Nat) : Bool :=
  idx == 0xFFFFFFFF || (match i.units.getLast? with
    | some u => decide (idx ≤ bits u.1.toNat 32 32)
    | none => i.last.any (fun l => idx ≤ l))

/-- EDGE to an engine: the token enters input 0 of the launch's collective while the merge buffer has room (R202, R287), of
several the first that the engine holds (DESIGN CHOICE, log 16); a record that is out of order is dropped (R286). Without such a
collective it waits. -/
def execEdgeIndigo (r : RecOp) (s : State) : Out :=
  let mine (c : Nat × Coll) : Bool :=
    c.1 / 65536 == r.dst.toNat && c.2.active && clSrcf c.2.v && c.2.launch == s.curT.launch && c.2.launch.isSome &&
      !(c.2.input 0).ended && decide ((c.2.input 0).units.length < mergeUnits)
  s.ifRec (match s.recHead 0, s.net.colls.find? mine with
    | some t, some (k, c) =>
      let s1 := (s.recTake 0).recFired
      let i := c.input 0
      if t.isEos then .next ((s1.setColl k (c.setInput 0 { i with ended := true })).recEnd)
      else if clSparse c.v && i.late (bits t.data.toNat 32 32) then .next (s1.setColl k (c.raises csSPORD))
      else .next (s1.setColl k (c.setInput 0 { i with units := i.units ++ [(word (clWiden c.v t.data.toNat), t.psn)] }))
    | _, _ => .next s)

/-! ### Values and sums (R284) -/

/-- The flags of a sum that a collective status shows. -/
def csOf (f : Flags) : BitVec 19 := f.setWidth 19 &&& 0x35

/-- The sum of the values that inputs hold, in ascending input number; with its poison and its flags. -/
def clSum (vt : Nat) : List (Nat × Bool) → Option (Nat × Bool) → BitVec 19 → (Nat × Bool) × BitVec 19
  | [], acc, f => (acc.getD (0, false), f)
  | x :: r, none, f => clSum vt r (some x) f
  | (x, p) :: r, some (a, q), f =>
    if vt = 2 then
      let n := toSigned 32 a + toSigned 32 x
      let m := max (-2 ^ 31) (min n (2 ^ 31 - 1))
      clSum vt r (some (wrapNat 32 m, p || q)) (if m = n then f else f ||| 0x20)
    else
      let y := fp32.add .rne (fp32.decode a) (fp32.decode x)
      clSum vt r (some (y.bits, p || q)) (f ||| csOf y.fl)

/-- The root rounds a sum to BF16 (R284). -/
def clRound (v : Nat) (x : Nat) : Nat × BitVec 19 :=
  if clVt v = 1 && clSums v then
    let y := bf16.roundVal .rne (fp32.decode x)
    (y.bits, csOf y.fl)
  else (x, 0)

/-! ### Sorted-sparse items (R285, R286) -/

inductive CollItem where
  | one (idx val : Nat) (psn : Bool)
  | window (w : Nat) (vals : List (Nat × Bool))
  deriving DecidableEq, Repr

/-- The item at the head of a list of units, and the rest; none when it is not whole. -/
def collItem : List (Word × Bool) → Option (CollItem × List (Word × Bool))
  | [] => none
  | (h, p) :: r =>
    if bits h.toNat 32 32 = 0xFFFFFFFF then
      if r.length < 4096 then none
      else some (.window (bits h.toNat 0 32) ((r.take 4096).map (fun u => (bits u.1.toNat 0 32, u.2))), r.drop 4096)
    else some (.one (bits h.toNat 32 32) (bits h.toNat 0 32) p, r)

def CollItem.first : CollItem → Nat
  | .one i _ _ => i
  | .window w _ => 4096 * w
def CollItem.last : CollItem → Nat
  | .one i _ _ => i
  | .window w _ => 4096 * w + 4095
def CollItem.win (i : CollItem) : Nat := i.first / 4096

/-- An item that R286 drops; a window that no index reaches is dropped too (DESIGN CHOICE, log 16). -/
def CollItem.disorder (i : CollItem) (last : Option Nat) : Bool :=
  last.any (fun l => i.first ≤ l) || 2 ^ 32 ≤ i.last

/-- Drops what is out of order at the head of an input, and the remainder of an ended one that is not whole (R288); the
answer says whether it has dropped anything. -/
def CollIn.tidy : Nat → CollIn → CollIn × Bool
  | 0, i => (i, false)
  | fuel + 1, i =>
    match collItem i.units with
    | none => if i.ended && !i.units.isEmpty then ({ i with units := [] }, true) else (i, false)
    | some (x, rest) => if x.disorder i.last then ((CollIn.tidy fuel { i with units := rest }).1, true) else (i, false)

/-- The window of the first item of a tidy input. -/
def CollIn.head (i : CollIn) : Option Nat := (collItem i.units).map (fun x => x.1.win)

/-- Nothing more comes from an input that holds no item. -/
def CollIn.known (i : CollIn) : Bool := i.head.isSome || i.ended

/-- What an input gives to a window. -/
structure WinPart where
  vals : List (Nat × Nat × Bool)
  dense : Bool
  spord : Bool
  rest : CollIn

/-- Takes the items of window `w` from an input. -/
def CollIn.takeWindow (w : Nat) : Nat → CollIn → WinPart
  | 0, i => { vals := [], dense := false, spord := false, rest := i }
  | fuel + 1, i0 =>
    let (i, bad) := CollIn.tidy (i0.units.length + 1) i0
    match collItem i.units with
    | none => { vals := [], dense := false, spord := bad, rest := i }
    | some (x, rest) =>
      if x.win ≠ w then { vals := [], dense := false, spord := bad, rest := i }
      else
        let p := CollIn.takeWindow w fuel { i with units := rest, last := some x.last }
        let mine := match x with
          | .one k v q => [(k, v, q)]
          | .window _ vs => vs.zipIdx.map (fun y => (4096 * w + y.2, y.1.1, y.1.2))
        let isDense := match x with
          | .one _ _ _ => false
          | .window _ _ => true
        { p with vals := mine ++ p.vals, dense := isDense || p.dense, spord := bad || p.spord }

/-- The next window that the engine forms: the inputs' parts and its number; none while some input has not passed it. -/
def Coll.nextWindow (c : Coll) : Option (Nat × List WinPart) :=
  let tidy := c.inputs.map (fun i => (CollIn.tidy (i.units.length + 1) i).1)
  if !tidy.all CollIn.known then none
  else match tidy.filterMap CollIn.head with
    | [] => none
    | w :: ws =>
      let m := ws.foldl min w
      let parts := c.inputs.map (fun i => CollIn.takeWindow m (i.units.length + 1) i)
      if parts.all (fun p => p.rest.known) then some (m, parts) else none

/-- The units of a window's result, and its status bits (R286). -/
def clWindow (v w : Nat) (parts : List WinPart) : List (Word × Bool) × BitVec 19 :=
  let held (i : Nat) : List (Nat × Bool) :=
    parts.filterMap (fun p => (p.vals.find? (fun x => x.1 == i)).map (fun x => x.2))
  let dense := parts.any (fun p => p.dense)
  let all := (List.range 4096).map (fun o => 4096 * w + o)
  let d := all.filter (fun i => !(held i).isEmpty)
  let res (i : Nat) := clSum (clVt v) (held i) none 0
  let flags := d.foldl (fun f i => f ||| (res i).2) 0
  let unit (i : Nat) : Word × Bool := (word (res i).1.1, (res i).1.2)
  if dense ∨ clFill v < d.length then
    ((word (0xFFFFFFFF * 2 ^ 32 + w), false) :: all.map unit, flags ||| csDNS)
  else (d.map (fun i => (word (i * 2 ^ 32 + (res i).1.1), (res i).1.2)), flags)

/-- A unit of a sparse result at the root: its value is rounded; `isVal` is true inside a dense window. -/
def clRootUnits (v : Nat) : List (Word × Bool) → List (Word × Bool) × BitVec 19
  | [] => ([], 0)
  | (u, p) :: r =>
    let hdr := bits u.toNat 32 32 = 0xFFFFFFFF
    let (x, f) := clRound v (bits u.toNat 0 32)
    let (rest, g) := clRootUnits v r
    if hdr then ((u, p) :: rest, g) else ((word (bits u.toNat 32 32 * 2 ^ 32 + x), p) :: rest, f ||| g)

/-! ### The reduce phase -/

/-- Units that the reduce phase has formed go to the parent, or at the root, rounded, to every member (R284, R290). -/
def State.collEmit (s : State) (k : Nat) (c : Coll) (us : List (Word × Bool)) (f : BitVec 19) : State :=
  if clRank c.v s.pkg = 0 then
    let (out, g) := clRootUnits c.v us
    let f1 := if us.any (fun u => u.2) then f ||| g ||| csPELEM else f ||| g
    out.foldl (fun st u => st.sendDown k u) (s.setColl k (c.raises f1))
  else us.foldl (fun st u => st.sendUp k u) (s.setColl k (c.raises f))

/-- The next element of a dense collective: the sum, or for all-gather the block's own element (R282, R284); an element that no
contribution holds is a free value (DESIGN CHOICE, log 16). -/
def State.collElement (s : State) (k : Nat) (c : Coll) : Option State :=
  let v := c.v
  let r := clRank v s.pkg
  let n := c.inputs.length
  let pop (d : Coll) (j : Nat) : Coll := d.setInput j { d.input j with units := (d.input j).units.drop 1 }
  let ready (j : Nat) : Bool := !(c.input j).units.isEmpty || (c.input j).ended
  let value (j : Nat) : List (Nat × Bool) := ((c.input j).units.head?.map (fun u => (bits u.1.toNat 0 32, u.2))).toList
  let from_ : List Nat :=
    if clKind v = 2 then
      let ranks := (List.range (clSize v)).filter (inSubtree (clFan v) r 64)
      [clInputOf v r (ranks.getD (c.formed / clCount v) 0)]
    else if clKind v = 3 then [0] else List.range n
  if clFormed v r ≤ c.formed || !from_.all ready then none
  else
    let vals := from_.flatMap value
    let c1 := { from_.foldl pop c with formed := c.formed + 1 }
    let free := bits (Config.poisonData s.choice).toNat 0 (8 * clBytes v)
    let (x, f) := clSum (clVt v) vals none 0
    if vals.isEmpty then some (s.bump.collEmit k c1 [(word free, false)] 0)
    else some (s.collEmit k c1 [(word x.1, x.2)] f)

/-- One step of the reduce phase of a collective with data; none when it cannot go on now. -/
def State.collForm (s : State) (k : Nat) (c : Coll) : Option State :=
  if clKind c.v = 4 ∨ (clKind c.v = 3 ∧ clRank c.v s.pkg ≠ 0) then none
  else if clSparse c.v then
    let c0 : Coll := if clKind c.v = 3 then { c with inputs := [c.input 0] } else c
    match c0.nextWindow with
    | none => none
    | some (w, parts) =>
      let (us, f) := clWindow c.v w parts
      let f1 := if parts.any (fun p => p.spord) then f ||| csSPORD else f
      let ins := parts.map (fun p => p.rest)
      some (s.collEmit k { c with inputs := ins ++ c.inputs.drop ins.length } us f1)
  else s.collElement k c

/-- Nothing more is to be formed, and every child has ended its phase. -/
def Coll.reduced (c : Coll) (pkg : Nat) : Bool :=
  let v := c.v
  let r := clRank v pkg
  let kids := c.inputs.drop 1
  let own := (c.input 0).ended || !clGives v r
  let quiet (i : CollIn) : Bool := i.ended && i.units.isEmpty
  match clKind v with
  | 4 => kids.all (fun i => i.ended)
  | 3 => if clSparse v then quiet (c.input 0) else own && decide (clCount v ≤ c.formed)
  | _ =>
    if clSparse v then own && (c.inputs.all quiet)
    else own && decide (clFormed v r ≤ c.formed) && kids.all (fun i => i.ended)

/-- What is left of an input that has ended is out of order. -/
def Coll.tidied (c : Coll) : Coll :=
  let t := c.inputs.map (fun i => CollIn.tidy (i.units.length + 1) i)
  let d := { c with inputs := t.map (fun x => x.1) }
  if t.any (fun x => x.2) then d.raises csSPORD else d

/-! ### The contribution in memory (R285, R288, R292) -/

/-- The place of an access of a collective. -/
def State.collPlace (s : State) (c : Coll) (k : AccKind) (a n : Nat) : Res Nat :=
  match (s.check { ctx := some c.ctx } 0 [] k (word a) n).1 with
  | .ok (.mem l) => .ok l
  | .bad x => .bad x
  | .wait => .wait
  | _ => .bad .memBadPath

/-- The units of the bytes read: records, the values of dense windows, or dense elements, BF16 widened where it is summed.
`left` counts the values that a dense window still has. -/
def clUnits (v : Nat) (have_ : List (Word × Bool)) (bs : List Byte) (psn : Bool) : List (Word × Bool) :=
  if clSparse v then
    let w := leNat bs
    let inside : Bool := (collItem have_).isNone && !have_.isEmpty
    let wide (x : Nat) : Nat := if clVt v = 1 then bits x 0 16 * 2 ^ 16 else bits x 0 32
    if inside then [(word (wide (bits w 0 32)), psn), (word (wide (bits w 32 32)), psn)]
    else if bits w 32 32 = 0xFFFFFFFF then [(word w, false)]
    else [(word (bits w 32 32 * 2 ^ 32 + wide (bits w 0 32)), psn)]
  else
    (List.range (bs.length / clBytes v)).map (fun i =>
      (word (clWiden v (leNat ((bs.drop (clBytes v * i)).take (clBytes v)))), psn))

/-- The units after the last whole item. -/
def unitTail : Nat → List (Word × Bool) → List (Word × Bool)
  | 0, l => l
  | fuel + 1, l => match collItem l with
    | none => l
    | some (_, r) => unitTail fuel r

/-- Reads the rest of an aligned 8-byte unit of the contribution at SRCA; none when there is nothing left to read. -/
def State.collRead (s : State) (k : Nat) (c : Coll) : Option State :=
  let v := c.v
  let i := c.input 0
  let total := if clSparse v then (match c.srcLen with | none => 8 | some n => 8 + n / 8 * 8) else clCount v * clBytes v
  if clSrcf v || i.ended || !clGives v (clRank v s.pkg) || clKind v == 4 then none
  else if total ≤ c.src then
    let short : Bool := clSparse v && (c.srcLen.getD 0) % 8 != 0
    let c1 := c.setInput 0 { i with ended := true }
    some (s.setColl k (if short then c1.raises csSPORD else c1))
  else
    let a := clSrca v + c.src
    let n := min (8 - a % 8) (total - c.src)
    match s.collPlace c .read a n with
    | .wait => none
    | .bad x => some (s.collFail k x s.pkg (word a))
    | .ok loc =>
      let (bs, psn, s1) := s.engineRead c.ctx loc n (word a)
      if clSparse v && c.srcLen.isNone then some (s1.setColl k { c with src := 8, srcLen := some (leNat bs) })
      else
        let us := clUnits v (unitTail (i.units.length + 1) i.units) bs psn
        some (s1.setColl k { c.setInput 0 { i with units := i.units ++ us } with src := c.src + n })

/-! ### The down phase (R282, R288 to R290) -/

/-- A poisoned value of the result: PELEM, and one record for the collective at this member (R290). -/
def State.collPoison (s : State) (k : Nat) (addr : Nat) : State :=
  match s.coll k with
  | none => s
  | some c =>
    let s1 := if c.psn then s else s.raise .psnStore
      { origin := .indigo, ctx := some c.ctx, pos := k / 65536 + k % 65536 * 2 ^ 3 + s.pkg * 2 ^ 19, stop := false,
        addr := word addr }
    s1.setColl k { (c.raises csPELEM) with psn := true }

/-- Writes the parts of one unit of `n` bytes at offset `off` of DSTA: each part is its offset, its bytes and its poison.
None while the place waits. -/
def State.collStore (s : State) (k : Nat) (off n : Nat) (parts : List (Nat × List Byte × Bool)) : Option State :=
  match s.coll k with
  | none => some s
  | some c =>
    let a := clDsta c.v + off
    match s.collPlace c .write a n with
    | .wait => none
    | .bad x => some (s.collFail k x s.pkg (word a))
    | .ok loc =>
      let put (st : State) (p : Nat × List Byte × Bool) : State :=
        if p.2.2 then st.collPoison k (a + p.1) else st.storeBytes (loc + p.1) p.2.1
      let whole : Bool := parts.all (fun p => !p.2.2)
      let s1 := if whole then s.storeBytes loc (parts.flatMap (fun p => p.2.1)) else parts.foldl put s
      match s1.coll k with
      | none => some s1
      | some d =>
        let s2 := s1.setColl k { d with wrote := d.wrote + n }
        some (match c.launch with | some l => s2.chargeLaunch l (unitsReached 256 c.wrote (c.wrote + n)) | none => s2)

/-- One 8-byte unit of a sparse result: it needs 8 bytes more, and is written if it fits whole (R288). -/
def State.collUnit (s : State) (k : Nat) (parts : List (Nat × List Byte × Bool)) : Option State :=
  match s.coll k with
  | none => some s
  | some c =>
    let s1 := s.setColl k { c with needed := c.needed + 8 }
    if c.failed.isSome then some s
    else if clDcap c.v < c.needed + 16 then some (s1.setColl k { (c.raises csDCAPX) with needed := c.needed + 8 })
    else s1.collStore k (8 + c.needed) 8 parts

/-- The parts of a 4-byte value: a poisoned BF16 value leaves out only its own two bytes. -/
def valueParts (v off x : Nat) (psn : Bool) : List (Nat × List Byte × Bool) :=
  if clVt v = 1 then [(off, leBytes 2 x, psn), (off + 2, leBytes 2 (x / 2 ^ 16), false)] else [(off, leBytes 4 x, psn)]

/-- The units of a dense window, pair by pair. -/
def State.collPairs (s : State) (k v : Nat) : List (Nat × Bool) → Option State
  | (a, p) :: (b, q) :: r =>
    match s.collUnit k (valueParts v 0 a p ++ valueParts v 4 b q) with
    | none => none
    | some s1 => s1.collPairs k v r
  | _ => some s

/-- This member's share of the result takes window `w` (R282). -/
def Coll.shares (c : Coll) (pkg w : Nat) : Bool := clKind c.v != 1 || w % clSize c.v == clRank c.v pkg

/-- Takes the next item of the result; none when there is none or its place waits. -/
def State.collTake (s : State) (k : Nat) (c : Coll) : Option State :=
  let v := c.v
  let pop (r : List (Word × Bool)) (n : Nat) : State :=
    s.setColl k { c with down := { c.down with units := r }, taken := c.taken + n }
  if clSparse v then
    match collItem c.down.units with
    | none => none
    | some (.one i x p, r) =>
      if !c.shares s.pkg (i / 4096) then some (pop r 1)
      else (pop r 1).collUnit k (valueParts v 0 x p ++ [(4, leBytes 4 i, false)])
    | some (.window w vals, r) =>
      if !c.shares s.pkg w then some (pop r 1)
      else match (pop r 1).collUnit k [(0, leBytes 8 (0xFFFFFFFF * 2 ^ 32 + w), false)] with
        | none => none
        | some s1 => s1.collPairs k v vals
  else match c.down.units with
    | [] => none
    | (x, p) :: r =>
      let size := clCount v / clSize v
      let rank := clRank v s.pkg
      let mine : Bool := clKind v != 1 || (rank * size ≤ c.taken && c.taken < (rank + 1) * size)
      let at_ := if clKind v = 1 then c.taken - rank * size else c.taken
      if !mine then some (pop r 1)
      else (pop r 1).collStore k (clBytes v * at_) (clBytes v) [(0, leBytes (clBytes v) x.toNat, p)]

/-- The length of a sparse result, which is written last (R288). -/
def State.collLength (s : State) (k : Nat) (c : Coll) : Option State :=
  if !clSparse c.v then some s
  else if clDcap c.v < 8 then some (s.setColl k (c.raises csDCAPX))
  else match s.collPlace c .write (clDsta c.v) 8 with
    | .wait => none
    | .bad x => some (s.collFail k x s.pkg (word (clDsta c.v)))
    | .ok loc => some (s.storeNat loc 8 c.wrote)

/-- The status is ORed into the word at STA in one access, the member's last write (R289). -/
def State.collStatus (s : State) (k : Nat) : Option State :=
  match s.coll k with
  | none => some s
  | some c =>
    let a := clSta c.v
    let closed (st : State) : State := st.setColl k { c with complete := true }
    if c.failed.isSome then some s
    else if !clStw c.v then some (closed s)
    else match s.collPlace c .read a 8, s.collPlace c .write a 8 with
      | .ok loc, .ok _ =>
        let (bs, _, s1) := s.engineRead c.ctx loc 8 (word a)
        some (closed (s1.storeNat loc 8 (Nat.lor (leNat bs) c.status.toNat)))
      | .bad x, _ => some (s.collFail k x s.pkg (word a))
      | _, .bad x => some (s.collFail k x s.pkg (word a))
      | _, _ => none

/-- Every neighbour's digest has come and agrees (R283). -/
def Coll.allMet (c : Coll) (pkg : Nat) : Bool :=
  (clRank c.v pkg == 0 || c.down.met) && (c.inputs.drop 1).all (fun i => i.met)

/-! ### The engine's steps -/

/-- The engine takes up a collective: its digest goes to every neighbour (R283). -/
def State.collBegin (s : State) (k : Nat) (c : Coll) : State :=
  let begun (i : CollIn) : CollIn := { i with heard := s.now }
  let s1 := s.setColl k { c with active := true, inputs := c.inputs.map begun, down := begun c.down }
  (c.neighbours s.pkg).foldl (fun st p => st.collStep k 6 p 0 0 0 (Config.collDigest c.shared).toNat) s1

/-- The engine takes the first flit of a collective that came early; none when there is none or the recorder waits. -/
def State.collCatchUp (s : State) (k : Nat) (c : Coll) : Option State :=
  match s.net.early.find? (fun f => f.addr % 65536 == k % 65536) with
  | none => none
  | some f =>
    let s1 : State := { s with net := { s.net with early := s.net.early.erase f } }
    if f.type = 5 then s1.collData k c f else some (s1.collControl k c f)

/-- The end of the reduce phase: the root releases the members, any other member tells its parent (R282, R289). -/
def State.collReduced (s : State) (k : Nat) (c : Coll) : State :=
  let s1 := s.setColl k { c with sentUp := true }
  if clRank c.v s.pkg = 0 then s1.sendRelease k c.status else s1.collStep k 6 (c.parent s.pkg) c.upUnits 0 1 c.status.toNat

/-- This member has taken the whole result, and its children have sent their status: its length is written, and the status of
its subtree goes up, or from the root to every member (R288, R289). None while a place waits. -/
def State.collSettle (s : State) (k : Nat) (c : Coll) : Option State :=
  (s.collLength k c).map (fun s1 =>
    match s1.coll k with
    | none => s1
    | some d =>
      if d.failed.isSome then s1
      else
        let s2 := s1.setColl k { d with told := true }
        if clRank d.v s.pkg = 0 then s2.sendSettled k d.status
        else s2.collStep k 6 (d.parent s.pkg) d.upUnits 0 3 d.status.toNat)

/-- The end of a member's part: a dense collective or a barrier ORs the status at STA; a sparse one first settles the status of
every member. None while it cannot go on. -/
def State.collEnd (s : State) (k : Nat) (c : Coll) : Option State :=
  if !(c.down.ended && c.down.units.isEmpty && c.allMet s.pkg) then none
  else if !clSparse c.v || (c.told && c.down.settled) then s.collStatus k
  else if !c.told && (c.inputs.drop 1).all (fun i => i.settled) then s.collSettle k c
  else none

/-- A member below the root of a broadcast has no reduce phase (R282). -/
def Coll.upless (c : Coll) (pkg : Nat) : Bool := clKind c.v == 3 && clRank c.v pkg != 0

/-- COLLECTIVE_WINDOW_MERGE: the engine takes up a collective, reads its contribution, forms the next window or element,
writes the next item of the result, or ends a phase. A flit that came early is taken first. -/
def execCollectiveWindowMerge (eng : Nat) (collid : BitVec 16) (s : State) : Out :=
  let k := collKey eng collid.toNat
  match s.coll k with
  | none => .next s
  | some c0 =>
    if c0.failed.isSome || c0.complete then .next s
    else if !c0.active then
      let busy := (s.net.colls.filter (fun x => x.1 / 65536 == eng && x.2.active)).length
      if busy < 4 then .next (s.collBegin k c0) else .next s
    else
      let c := if clSparse c0.v then c0.tidied else c0
      let reduced (_ : Unit) : Option State :=
        if !c.sentUp && !c.upless s.pkg && c.reduced s.pkg then some (s.collReduced k c) else none
      .next ((((((s.collCatchUp k c0).orElse (fun _ => s.collRead k c0)).orElse (fun _ => s.collForm k c0)).orElse reduced).orElse
        (fun _ => s.collTake k c)).orElse (fun _ => s.collEnd k c) |>.getD s)

/-- COLLECTIVE_COMPLETION: the message posts after every write (R292, R343); its charges end (R402). -/
def execCollectiveCompletion (eng : Nat) (collid : BitVec 16) (s : State) : Out :=
  let k := collKey eng collid.toNat
  match s.coll k with
  | none => .next s
  | some c =>
    if !c.complete && c.failed.isNone && !c.cancelled then .next s
    else
      let s1 : State := { s with net := { s.net with colls := tabDel s.net.colls k } }
      match c.launch with
      | none => .next s1
      | some l =>
        let paid := s1.chargeLaunch l (500 + unitsLeft 256 c.wrote)
        if c.cancelled then .next paid
        else
          let (t, s2) := paid.readTime (seqClock c.seqn)
          let n := if c.status &&& csDCAPX ≠ 0 then c.needed else c.wrote
          .next (s2.postLaunch l (hardMsg c.post.1 c.post.2 6 (word ((c.failed.map Cause.code).getD 0)) (word n) t
            (word (clId c.v))))

end Sys2Proof.Machine
end

