-- ==== Sys2Proof/Machine/LoadCheck.lean ====
section
/-!
DEFINITION. The checks of an image that its header, one table entry or one block decides, in the order of R149 (R128 to
R149, R201, R203, R220, R257, R414).
-/
namespace Sys2Proof.Machine
open Sys2Proof

/-- Why a load fails: the cause, and what the loader's record says (R426). A translation cause waits for a retry (R445). -/
structure LoadErr where
  cause : Cause
  part : Nat := 0
  entry : Nat := 0
  rel : Nat := 0
  idx : Nat := 0
  isRec : Bool := false
  word : Word := 0
  addr : Word := 0
  deriving DecidableEq, Repr

/-- POS of a loader's record (R426). -/
def LoadErr.pos (e : LoadErr) : Nat :=
  e.rel + e.idx * 2 ^ 11 + e.isRec.toNat * 2 ^ 17 + e.part * 2 ^ 18 + e.entry % 2 ^ 32 * 2 ^ 21

/-- The first error of a list of checks. -/
def firstErr (l : List (Bool × LoadErr)) : Option LoadErr := (l.find? (fun p => p.1)).map Prod.snd

/-! ### The image header (R128, R296, R340, R462) -/

def ihMagic : Nat := 0x0031474643564E52
def ihLw (h : Nat) : Nat := bits h 72 3
def ihLh (h : Nat) : Nat := bits h 75 3
def ihWhole (h : Nat) : Bool := bits h 78 1 == 1
def ihAttest (h : Nat) : Bool := bits h 79 1 == 1
def ihTdir (h : Nat) : Nat := bits h 96 32
def ihSdir (h : Nat) : Nat := bits h 128 32
def ihScnt (h : Nat) : Nat := bits h 160 16
def ihSpcnt (h : Nat) : Nat := bits h 176 16
def ihSpdir (h : Nat) : Nat := bits h 192 32
def ihTask (h : Nat) : Nat := bits h 224 32
def ihTasklen (h : Nat) : Nat := bits h 256 32
def ihTotal (h : Nat) : Nat := bits h 288 32
def ihSigoff (h : Nat) : Nat := bits h 320 32

/-- Entries of the tile directory (R129). -/
def ihTiles (h : Nat) : Nat := if ihWhole h then 1536 else 2 ^ (ihLw h + ihLh h)

/-- The extents that a header names: first byte, length, and the header word that names it. -/
def headerExtents (h : Nat) : List (Nat × Nat × Nat) :=
  [(0, 64, 0), (ihTdir h, 8 * ihTiles h, 1), (ihSdir h, 72 * ihScnt h, 2), (ihSpdir h, 16 * ihSpcnt h, 3),
   (ihTask h, ihTasklen h, 3), (ihSigoff h, if ihAttest h then 2456 else 0, 5)]

/-- Two extents share a byte. -/
def overlap (a b : Nat × Nat) : Bool := a.1 < b.1 + b.2 && b.1 < a.1 + a.2 && 0 < a.2 && 0 < b.2

/-- The header word of the first extent that passes TOTAL, be it empty (DESIGN CHOICE, log 44), or meets an earlier one (R128). -/
def badExtent (total : Nat) : List (Nat × Nat) → List (Nat × Nat × Nat) → Option Nat
  | _, [] => none
  | seen, (lo, n, w) :: r =>
    if total < lo + n ∨ seen.any (overlap (lo, n)) = true then some w else badExtent total ((lo, n) :: seen) r

/-- The header word that first breaks R128 or R296; SPDIR may be 8 modulo 16, and an empty table beyond TOTAL breaks R128
(DESIGN CHOICE, log 44). `shape` is LW, LH and WHOLE of the region that the image is for. -/
def headerWordBad (h : Nat) (shape : Option (Nat × Nat × Bool)) : Option Nat :=
  let bad : List (Bool × Nat) :=
    [(bits h 0 64 != ihMagic, 0),
     (bits h 64 5 != 1 || bits h 69 3 != 0 || 5 < ihLw h || 5 < ihLh h || (ihWhole h && (ihLw h != 0 || ihLh h != 0)) ||
        bits h 80 16 != 0 || shape.any (fun x => x != (ihLw h, ihLh h, ihWhole h)) || ihTdir h % 8 != 0, 1),
     (ihSdir h % 8 != 0 || 2048 < ihScnt h || 4096 < ihSpcnt h, 2),
     (ihSpdir h % 8 != 0 || ihTask h % 4 != 0, 3),
     (ihTasklen h % 4 != 0 || ihTasklen h < 512 || 262144 < ihTasklen h, 4),
     ((ihSigoff h != 0) != ihAttest h || (ihAttest h && (ihSigoff h + 2456 != ihTotal h || ihSigoff h % 8 != 0)) || bits h 352 32 != 0, 5),
     (bits h 384 64 != 0, 6), (bits h 448 64 != 0, 7)]
  match bad.find? (fun p => p.1) with
  | some p => some p.2
  | none => badExtent (ihTotal h) [] (headerExtents h)

/-- The checks of an image header. -/
def headerErr (h : Nat) (shape : Option (Nat × Nat × Bool)) : Option LoadErr :=
  (headerWordBad h shape).map (fun w => { cause := .cfgBadImage, word := word (bits h (64 * w) 64) })

/-! ### The tile directory (R129) -/

def deOff (e : Nat) : Nat := bits e 0 32
def deLen (e : Nat) : Nat := bits e 32 16

/-- The first directory entry that breaks R129, with the extents seen so far; `p` is its position and `rel` gives the relative
tile of a position (R149). -/
def directoryErr (total : Nat) (rel : Nat → Nat) : Nat → List (Nat × Nat) → List Nat → Option LoadErr
  | _, _, [] => none
  | p, seen, e :: r =>
    let x := (deOff e, deLen e)
    let bad : Bool := bits e 48 16 != 0 || deOff e % 8 != 0 || (deOff e == 0 && deLen e != 0) ||
      (deOff e != 0 && (total < deOff e + deLen e || seen.any (overlap x)))
    if bad then some { cause := .cfgBadImage, part := 1, entry := p, rel := rel p, word := word e }
    else directoryErr total rel (p + 1) (if deOff e = 0 then seen else x :: seen) r

/-! ### Block headers (R133) -/

def bhWcnt (v : Nat) : Nat := bits v 26 6
def bhMode (v : Nat) : Nat := bits v 24 2
def bhRcnt (v : Nat) : Nat := bits v 17 7

/-- Words of 4 bytes before the route records. -/
def bhLead (v : Nat) : Nat := 2 * ceilDiv (bhWcnt v + 2) 2

/-- A block header, the length that the directory gives, and the padding word. -/
def blockHeaderBad (v len pad : Nat) : Bool :=
  bhMode v == 3 || 64 < bhRcnt v || bits v 0 5 != 1 || len != 4 * bhLead v + 8 * bhRcnt v ||
    (bhWcnt v % 2 == 1 && pad != 0)

/-- The plane that the words of a block describe: the header, the instruction words, padding and the records. -/
def blockPlane (ws : List Word32) : Plane :=
  let v := (ws.headD 0).toNat
  let recs := ws.drop (bhLead v)
  { mode := BitVec.ofNat 2 (bhMode v), fsize := BitVec.ofNat 8 (bits v 9 8), pclass := BitVec.ofNat 4 (bits v 5 4),
    slots := (ws.drop 1).take (bhWcnt v + 1),
    recs := (List.range (bhRcnt v)).map (fun k => recs.getD (2 * k + 1) 0 ++ recs.getD (2 * k) 0) }

/-! ### Slots -/

/-- Slices of a source format (R141). -/
def srcSlices (src : Nat) : Nat :=
  match src with
  | 0 | 8 | 13 => 4
  | 1 | 2 | 7 | 12 => 2
  | 9 | 14 => 8
  | _ => 1

/-- Slices that an operator occupies (R146). -/
def occupied (opc : Nat) (o : SlotOp) : Nat :=
  if opc = 0x3F then 0
  else if opc = 0x35 ∨ opc = 0x36 ∨ opc = 0x37 then max (slices o.w.toNat) (srcSlices (extSrc o.ext))
  else if opc < 0x40 ∨ (0x58 ≤ opc ∧ opc < 0x60) then slices o.w.toNat
  else 0

/-- The base cost of one firing (R413). -/
def baseCost (opc : Nat) (o : SlotOp) : Nat :=
  let n := occupied opc o
  if opc < 0x20 then n
  else if 0x2C ≤ opc ∧ opc ≤ 0x32 then 4 * n
  else if opc < 0x38 then 2 * n
  else if opc = 0x3F then 1
  else if opc < 0x40 then (if [0x39, 0x3A, 0x3B, 0x3E].contains opc && o.m.getLsbD 0 then 2 * n else n)
  else if opc = 0x50 ∨ opc = 0x51 then rowCost opc o
  else if opc = 0x56 then 1024
  else if 0x58 ≤ opc ∧ opc < 0x60 then 2 * n
  else if opc = 0x60 then entryCost
  else 4

/-- R148. -/
def modeOk (opc mode : Nat) : Bool :=
  if opc = 0x50 ∨ opc = 0x51 ∨ opc = 0x54 ∨ opc = 0x55 ∨ opc = 0x56 then mode == 1
  else if opc = 0x52 ∨ opc = 0x53 then mode == 1 || mode == 2
  else if 0x60 ≤ opc ∧ opc < 0x68 then mode == 2
  else true

/-- Operators of which a block holds at most one: a number for each kind (R220, R257). -/
def soleKind (opc : Nat) : Option Nat :=
  if opc = 0x50 ∨ opc = 0x51 then some 0 else if opc = 0x54 then some 1
  else if opc = 0x60 then some 2 else if opc = 0x62 then some 3 else none

/-- The cause of a rejection by the slot's own two words. -/
def Reject.cause : Reject → Cause
  | .badOpcode => .cfgBadOpcode
  | .badExt => .cfgBadExt
  | .badWidth => .cfgBadWidth
  | .badMod => .cfgBadMod
  | .badRoute => .cfgBadRoute
  | _ => .cfgBadHeader

/-- A target that names nothing, or a used input of the plane (R137). -/
def Plane.targetOk (p : Plane) (g : Nat) : Bool := g == noTarget || (g % 4 != 3 && p.used g)

/-- T0 and T1 of a matrix row operator or of MSCL (R229). -/
def rowTargetsOk (opc : Nat) (o : SlotOp) : Bool :=
  let none2 : Bool := o.t0.toNat == noTarget && o.t1.toNat == noTarget
  if opc = 0x54 then none2
  else if opc = 0x50 ∨ opc = 0x51 then (if extPdst o.ext then !none2 else none2)
  else true

/-- The frame bound of a local memory operator (R97). -/
def Plane.frameOk (p : Plane) (opc : Nat) (o : SlotOp) : Bool :=
  extKind opc != .memory || extOff o.ext + (if granular opc then 16 else 2 ^ o.w.toNat) ≤ 16 * p.fsize.toNat

/-- What the slots before one leave: the slices free in each lane, the sole operators met, and the OWN fields of the local
memory operators. -/
structure SlotScan where
  lanes : List Nat
  sole : List Nat
  owns : List Nat
  deriving DecidableEq, Repr

def SlotScan.start : SlotScan := { lanes := List.replicate 8 8, sole := [], owns := [] }

/-- The OWN field of a local memory operator (R101). -/
def ownOf (opc : Nat) (o : SlotOp) : List Nat := if extKind opc = .memory then [extOwn o.ext] else []

/-- The lowest lane with room takes `n` slices; none when no lane has it (R146). -/
def placeSlices (n : Nat) : List Nat → Option (List Nat)
  | [] => none
  | f :: r => if n ≤ f then some ((f - n) :: r) else (placeSlices n r).map (fun l => f :: l)

/-- The checks of slot `i`, in the order of R149; `rate` is that of the launch's class (R414). -/
def Plane.slotErr (p : Plane) (rate i : Nat) (x : SlotScan) : Except Cause SlotScan :=
  match p.slot i with
  | none => .ok x
  | some (opc, o) =>
    if (slotCtor opc).isNone then .error .cfgBadOpcode
    else if !modeOk opc p.mode.toNat then .error .cfgModeOp
    else if (soleKind opc).any x.sole.contains then .error (if 0x60 ≤ opc then .cfgEventUnit else .cfgRowChain)
    else if o.m.getLsbD 3 && p.slots.length ≤ i + 1 then .error .cfgBadExt
    else match slotCheck opc o with
      | .error r => .error (Reject.cause r)
      | .ok () =>
        if (ownOf opc o).any x.owns.contains then .error .cfgBadExt
        else if !p.frameOk opc o then .error .cfgFrameRange
        else if !p.targetOk o.t0.toNat || !p.targetOk o.t1.toNat || !rowTargetsOk opc o then .error .cfgBadTarget
        else
          let n := occupied opc o
          match (if n = 0 then some x.lanes else placeSlices n x.lanes) with
          | none => .error .cfgNoFit
          | some lanes =>
            if rate < p.cost (baseCost opc o) then .error .cfgPowerClass
            else .ok { lanes := lanes, sole := (soleKind opc).toList ++ x.sole, owns := ownOf opc o ++ x.owns }

/-! ### Route records -/

/-- The checks of a route record that its own block decides; `depth` is the delay store used before it (R201, R203). -/
def Plane.recErr (p : Plane) (nb q depth : Nat) : Except Cause Nat :=
  let v := p.recs.getD q 0
  match decodeRec v with
  | .error r => .error (Reject.cause r)
  | .ok _ =>
    let op := bits v.toNat 60 4
    let r := recFields v
    let d := if op = 5 then depth + r.param.toNat else depth
    if op = 7 ∧ r.param.toNat / 64 = 1 ∧ nb ≤ r.dst.toNat then .error .cfgBadRoute
    else if 64 < d then .error .cfgBadRoute
    else if op ≠ 7 ∧ r.dx = 0 ∧ r.dy = 0 ∧ !(p.targetOk r.dst.toNat && p.targetOk r.dst2.toNat) then .error .cfgBadTarget
    else .ok d

/-! ### A block -/

/-- The first error of the slots from `i` up. -/
def Plane.slotsErr (p : Plane) (rate : Nat) : Nat → Nat → SlotScan → Option (Cause × Nat)
  | 0, _, _ => none
  | left + 1, i, x =>
    match p.slotErr rate i x with
    | .error c => some (c, i)
    | .ok y => p.slotsErr rate left (i + 1) y

/-- The first error of the records from `q` up. -/
def Plane.recsErr (p : Plane) (nb : Nat) : Nat → Nat → Nat → Option (Cause × Nat)
  | 0, _, _ => none
  | left + 1, q, depth =>
    match p.recErr nb q depth with
    | .error c => some (c, q)
    | .ok d => p.recsErr nb left (q + 1) d

/-- The checks of a block's slots and records, for directory entry `entry` and relative tile `rel`. -/
def Plane.err (p : Plane) (rate nb entry rel : Nat) : Option LoadErr :=
  match p.slotsErr rate p.slots.length 0 SlotScan.start with
  | some (c, i) =>
    some { cause := c, part := 2, entry := entry, rel := rel, idx := i, word := (p.slotWord i).setWidth 64 }
  | none => (p.recsErr nb p.recs.length 0 0).map (fun x =>
      { cause := x.1, part := 2, entry := entry, rel := rel, idx := x.2, isRec := true, word := p.recs.getD x.2 0 })

/-! ### Spill descriptors (R104) -/

def sdBase (d : Nat) : Nat := bits d 0 64
def sdSize (d : Nat) : Nat := bits d 64 4
def sdTile (d : Nat) : Nat := bits d 68 11
def sdRec (d : Nat) : Nat := bits d 79 6
/-- Bytes of a ring. -/
def sdBytes (d : Nat) : Nat := 2 ^ (sdSize d + 10)

/-- What a spill descriptor decides alone. -/
def spillShapeBad (d : Nat) : Bool :=
  bits d 85 43 != 0 || 10 < sdSize d || sdBase d / 2 ^ 60 != 0 || sdBase d % sdBytes d != 0

end Sys2Proof.Machine
end

