-- ==== Sys2Proof/Machine/Load.lean ====
section
/-!
DEFINITION. The load of an image into the shadow planes of a region: fetching (R445), the tables, the checks that span tiles
in the order of R149 (R48, R104, R130, R132, R137, R139, R143, R221), and the signature (R462).
-/
namespace Sys2Proof.Machine
open Sys2Proof

/-! ### Fetching (R37, R445) -/

/-- Reads `n` words of an image from address `a`; `e` says which part they belong to. -/
def State.imageWords (s : State) (ctx : Nat) (e : LoadErr) : Nat → Nat → Except LoadErr (List Word32)
  | 0, _ => .ok []
  | n + 1, a =>
    match (s.check { ctx := some ctx } 0 [] .read (word a) 4).1 with
    | .ok (.mem l) => match s.dataError l 4 with
      | some c => .error { e with cause := c, addr := word a }
      | none => match s.imageWords ctx e n (a + 4) with
        | .error x => .error x
        | .ok ws => .ok (BitVec.ofNat 32 (memNat s.mem l 4) :: ws)
    | .bad c => .error { e with cause := c, addr := word a }
    | _ => .error { e with cause := .memBadPath, addr := word a }

/-- The number in little-endian words. -/
def wordsNat (ws : List Word32) : Nat := leNat (ws.flatMap (fun w => leBytes 4 w.toNat))

/-- Reads a table of `n` entries of `size` bytes from address `a`, counting entries from `i`. -/
def State.imageTable (s : State) (ctx part size : Nat) : Nat → Nat → Nat → Except LoadErr (List Nat)
  | 0, _, _ => .ok []
  | n + 1, i, a =>
    match s.imageWords ctx { cause := .cfgBadImage, part := part, entry := i } (size / 4) a with
    | .error x => .error x
    | .ok ws => match s.imageTable ctx part size n (i + 1) (a + size) with
      | .error x => .error x
      | .ok r => .ok (wordsNat ws :: r)

/-- The image header at address `a`. -/
def State.imageHeader (s : State) (ctx a : Nat) : Except LoadErr Nat :=
  (s.imageWords ctx { cause := .cfgBadImage } 16 a).map wordsNat

/-! ### Blocks -/

/-- The region-relative index of directory position `p` (R132). -/
def Launch.relIndex (l : Launch) (p : Nat) : Nat := 32 * (p / l.w) + p % l.w

/-- The tile of directory position `p`. -/
def Launch.tileAt (l : Launch) (p : Nat) : Nat := 32 * l.y0 + l.x0 + l.relIndex p

/-- The block of a directory entry, checked (R133, R149). -/
def State.loadBlock (s : State) (l : Launch) (a p e : Nat) : Except LoadErr Plane :=
  let err : LoadErr := { cause := .cfgBadHeader, part := 2, entry := p, rel := l.relIndex p }
  match s.imageWords l.ctx err 1 (a + deOff e) with
  | .error x => .error x
  | .ok hw =>
    let v := wordsNat hw
    if blockHeaderBad v (deLen e) 0 then .error { err with word := word v }
    else match s.imageWords l.ctx err (bhLead v + 2 * bhRcnt v) (a + deOff e) with
      | .error x => .error x
      | .ok ws =>
        if blockHeaderBad v (deLen e) (ws.getD (bhWcnt v + 2) 0).toNat then .error { err with word := word v }
        else match (blockPlane ws).err (rate l.pclass) l.nb p (l.relIndex p) with
          | some x => .error x
          | none => .ok (blockPlane ws)

/-- The planes of a region from its directory, by tile; a tile without a block is empty (R129). -/
def State.loadBlocks (s : State) (l : Launch) (a : Nat) : Nat → List Nat → Except LoadErr (List (Nat × Plane))
  | _, [] => .ok []
  | p, e :: r =>
    match (if deOff e = 0 then .ok Plane.empty else s.loadBlock l a p e) with
    | .error x => .error x
    | .ok pl => match s.loadBlocks l a (p + 1) r with
      | .error x => .error x
      | .ok rest => .ok ((l.tileAt p, pl) :: rest)

/-! ### Streams (R130, R132) -/

/-- The tile fields of a specification move by the region's origin; none when one leaves its field. -/
def relocate (o v : Nat) : Option Nat :=
  if 2 ^ 11 ≤ spDtile v + o ∨ (2 ≤ spKind v ∧ 2 ^ 11 ≤ spCtile v + o) then none
  else some (v + o * 2 ^ 87 + (if 2 ≤ spKind v then o * 2 ^ 361 else 0))

/-- A port context that the same launch holds Bound for the image that is loaded again (R130, R446). -/
def State.keptBound (s : State) (k cfg pc : Nat) : Bool :=
  let p := s.pctx pc
  p.st == .bound && p.launch == some k && p.cfg == cfg

/-- Binds the entries of the stream table to the shadow planes; `seen` holds the port contexts named so far. Bits 63:11 of a
binding word are ignored (R7). -/
def State.loadStreams (s : State) (k : Nat) (l : Launch) : Nat → List Nat → List Nat → Except LoadErr State
  | _, _, [] => .ok s
  | j, seen, e :: r =>
    let b := bits e 0 64
    let pc := operandPctx b
    let fail (c : Cause) : Except LoadErr State := .error { cause := c, part := 3, entry := j, word := word b }
    if seen.contains pc = true then fail .cfgBadImage
    else if s.keptBound k (l.cfg + 1) pc then s.loadStreams k l (j + 1) (pc :: seen) r
    else match relocate (32 * l.y0 + l.x0) (bits e 64 512) with
      | none => fail .cfgBadStream
      | some v =>
        if (s.pctx pc).st ≠ .free ∨ s.specBad l true (pc / 512) (pc % 512) v then fail .cfgBadStream
        else if spAtt v && (s.wideFed l true (spDtile v) (wideInput (pc % 512) v) ||
            s.wideTaken k (l.cfg + 1) (spDtile v) (wideInput (pc % 512) v)) then fail .cfgFanin
        else
          let p := { PCtx.reset with st := .bound, spec := BitVec.ofNat 512 v, launch := some k, cfg := l.cfg + 1 }
          State.loadStreams (s.setPctx pc p) k l (j + 1) (pc :: seen) r

/-! ### Spill descriptors (R104) -/

/-- The tile that a record of tile `t` sends to, if it lies in the region (R143). -/
def Launch.destOf (l : Launch) (t : Nat) (r : RecOp) : Option Nat :=
  let x := (tileX t : Int) + r.dx.toInt
  let y := (tileY t : Int) + r.dy.toInt
  if 0 ≤ x ∧ x < 32 ∧ 0 ≤ y ∧ y < 48 then
    let u := (32 * y + x).toNat
    if l.covers u then some u else none
  else none

/-- The destination of a record besides EDGE: its tile and targets. -/
def State.recDest (s : State) (l : Launch) (t q : Nat) : Option (Nat × Nat × Nat) :=
  match (s.planeOf true t).rec_ q with
  | none => none
  | some (op, r) => if op = 7 then none else (l.destOf t r).map (fun u => (u, r.dst.toNat, r.dst2.toNat))

/-- The die-crossing arc of record `q` of a tile that a spill descriptor gives a ring: that of DST, or of DST2 when DST names
nothing (DEDUCED, log 35). -/
def State.spillArc (s : State) (l : Launch) (t q : Nat) : Option (Nat × Nat) :=
  match s.recDest l t q with
  | none => none
  | some (u, g, g2) =>
    if tileDie u = tileDie t then none
    else if g ≠ noTarget then some (u, g) else if g2 ≠ noTarget then some (u, g2) else none

/-- The descriptors in the tile indices of the mesh, checked. -/
def State.loadSpills (s : State) (l : Launch) : Nat → List Nat → List Nat → Except LoadErr (List Nat)
  | _, _, [] => .ok []
  | j, seen, e :: r =>
    let t := sdTile e + 32 * l.y0 + l.x0
    let d := e + (32 * l.y0 + l.x0) * 2 ^ 68
    let clash (x : Nat) : Bool :=
      (sdTile x == t && sdRec x == sdRec e) || overlap (sdBase x, sdBytes x) (sdBase e, sdBytes e)
    if spillShapeBad e ∨ 2 ^ 11 ≤ t ∨ !l.covers t ∨ (s.spillArc l t (sdRec e)).isNone ∨ seen.any clash = true then
      .error { cause := .cfgBadSpill, part := 4, entry := j, word := word (bits e 0 64) }
    else match s.loadSpills l (j + 1) (d :: seen) r with
      | .error x => .error x
      | .ok rest => .ok (d :: rest)

/-! ### The checks that span tiles -/

/-- An error of slot or record `i` of directory position `p`. -/
def State.spanErr (s : State) (l : Launch) (c : Cause) (p i : Nat) (isRec : Bool) : LoadErr :=
  let pl := s.planeOf true (l.tileAt p)
  { cause := c, part := 2, entry := p, rel := l.relIndex p, idx := i, isRec := isRec,
    word := if isRec then pl.recs.getD i 0 else (pl.slotWord i).setWidth 64 }

/-- An error of entry `j` of the stream table. -/
def tableErr (c : Cause) (j e : Nat) : LoadErr := { cause := c, part := 3, entry := j, word := word (bits e 0 64) }

/-- Every producer of an input, in the order in which R139 is checked, with the error that a second one is. -/
def State.producers (s : State) (l : Launch) (table : List (Nat × Nat)) : List (Nat × LoadErr) :=
  let key (t g : Nat) (e : LoadErr) : List (Nat × LoadErr) := if g = noTarget then [] else [(512 * t + g, e)]
  let tile (p : Nat) : List (Nat × LoadErr) :=
    let t := l.tileAt p
    let pl := s.planeOf true t
    (List.range 64).flatMap (fun i => match pl.slot i with
      | none => []
      | some (_, o) => key t o.t0.toNat (s.spanErr l .cfgFanin p i false) ++ key t o.t1.toNat (s.spanErr l .cfgFanin p i false)) ++
    (List.range pl.recs.length).flatMap (fun q => match s.recDest l t q with
      | none => []
      | some (u, g, g2) => key u g (s.spanErr l .cfgFanin p q true) ++ key u g2 (s.spanErr l .cfgFanin p q true))
  let stream (j e v : Nat) : List (Nat × LoadErr) :=
    (if spReads v && !spAtt v then key (spDtile v) (spDest v) (tableErr .cfgFanin j e) else []) ++
    (if spKind v = 4 then key (spCtile v) (spCdest v) (tableErr .cfgFanin j e) else [])
  (List.range l.area).flatMap tile ++ (table.zipIdx).flatMap (fun x => stream x.2 x.1.1 x.1.2)

/-- The first producer of an input that has one already. -/
def secondProducer : List Nat → List (Nat × LoadErr) → Option LoadErr
  | _, [] => none
  | seen, (k, e) :: r => if seen.contains k then some e else secondProducer (k :: seen) r

/-- R48 (DEDUCED, log 38): whether an element that is delivered late may reach target `g` of tile `t`; `fuel` bounds the route. -/
def State.lateOk (s : State) (l : Launch) : Nat → Nat → Nat → Bool
  | 0, _, _ => true
  | fuel + 1, t, g =>
    let pl := s.planeOf true t
    let port := g % 4
    let i := g / 4 % 64
    if g < 256 then
      match pl.slot i with
      | none => false
      | some (opc, o) =>
        ([0x39, 0x44, 0x45, 0x46].contains opc && port == 0) || (opc == 0x38 && bits o.m.toNat 0 3 == 3 && port ≤ 1)
    else match pl.rec_ i with
      | none => false
      | some (op, r) =>
        if op = 7 then r.param.toNat / 64 == 2
        else if op ≠ 0 ∧ op ≠ 6 then false
        else match l.destOf t r with
          | none => true
          | some u => s.lateOk l fuel u r.dst.toNat && (op == 0 || s.lateOk l fuel u r.dst2.toNat)

/-- A matrix slot has the same opcode, W and M as another. -/
def sameRow (a b : Nat × Nat × SlotOp) : Bool := a.2.1 == b.2.1 && a.2.2.w == b.2.2.w && a.2.2.m == b.2.2.m

/-- R221 at a tile. -/
def State.rowChainBad (s : State) (l : Launch) (t : Nat) : Bool :=
  let slot (u : Option Nat) : Option (Nat × Nat × SlotOp) :=
    u.bind (fun x => if l.covers x then (s.planeOf true x).matrixSlot else none)
  let mscl := (List.range 64).any (fun i => ((s.planeOf true t).slot i).any (fun v => v.1 == 0x54))
  match (s.planeOf true t).matrixSlot with
  | none => false
  | some m =>
    let e := m.2.2.ext
    let fwd := (slot (upChain t)).any (fun u => extAfwd u.2.2.ext)
    (extAfwd e && !(slot (downChain t)).any (sameRow m)) ||
    (!extPdst e && (slot (southOf t)).any (fun u =>
      extPsrc u.2.2.ext == 1 && !(sameRow m u && extNc u.2.2.ext == extNc e))) ||
    (fwd && mscl) || (!fwd && rowMx m.2.2 && !mscl)

/-- The first error of the checks that span tiles, in the order of R149. -/
def State.spanningErr (s : State) (l : Launch) (table : List (Nat × Nat)) : Option LoadErr :=
  let places := List.range l.area
  let recs : List (Nat × Nat) :=
    places.flatMap (fun p => (List.range (s.planeOf true (l.tileAt p)).recs.length).map (fun q => (p, q)))
  let late (x : (Nat × Nat) × Nat) : Option LoadErr :=
    let v := x.1.2
    let fuel := 64 * l.area + 1
    let ok : Bool := s.lateOk l fuel (spDtile v) (spDest v) && (spKind v != 4 || s.lateOk l fuel (spCtile v) (spCdest v))
    if spReord v && (spAtt v || !ok) then some (tableErr .cfgOrderConsumer x.2 x.1.1) else none
  let route (x : Nat × Nat) : Option LoadErr :=
    let t := l.tileAt x.1
    match (s.planeOf true t).rec_ x.2 with
    | some (op, r) => if op ≠ 7 ∧ (l.destOf t r).isNone then some (s.spanErr l .cfgBadRoute x.1 x.2 true) else none
    | none => none
  let target (x : Nat × Nat) : Option LoadErr :=
    let t := l.tileAt x.1
    match s.recDest l t x.2 with
    | some (u, g, g2) =>
      if u ≠ t ∧ !((s.planeOf true u).targetOk g && (s.planeOf true u).targetOk g2) then
        some (s.spanErr l .cfgBadTarget x.1 x.2 true)
      else none
    | none => none
  let chain (p : Nat) : Option LoadErr :=
    let t := l.tileAt p
    if s.rowChainBad l t then
      (s.planeOf true t).matrixSlot.map (fun m => s.spanErr l .cfgRowChain p m.1 false)
    else none
  (secondProducer [] (s.producers l table)).orElse (fun _ =>
  (table.zipIdx.findSome? late).orElse (fun _ =>
  (recs.findSome? route).orElse (fun _ =>
  (recs.findSome? target).orElse (fun _ =>
  places.findSome? chain))))

/-! ### The signature (R462) -/

/-- The message of an attested image whose signature a filled slot verifies. -/
def State.attested (s : State) (l : Launch) (a h : Nat) : Except LoadErr (List Byte) :=
  let n := ihSigoff h
  let e : LoadErr := { cause := .cfgAttestFail, part := 5 }
  match s.imageWords l.ctx e 614 (a + n) with
  | .error x => .error x
  | .ok sw => match s.imageWords l.ctx { e with part := 0 } (n / 4) a with
    | .error x => .error x
    | .ok ws =>
      let bytesOf (v : List Word32) : List Byte := v.flatMap (fun w => leBytes 4 w.toNat)
      let sig := bytesOf sw
      let msg := sha3 (bytesOf ws)
      match s.imageKeyById (sig.take 32) with
      | none => .error { e with word := sw.getD 1 0 ++ sw.getD 0 0 }
      | some key =>
        if mlVerify key (signed (ascii "RNVIMG1") msg) ((sig.drop 32).take 2420) then .ok msg
        else .error { e with word := sw.getD 1 0 ++ sw.getD 0 0 }

/-! ### The load -/

/-- The planes of a load stand as the shadow planes of their tiles. -/
def State.putShadows (s : State) (ps : List (Nat × Plane)) : State :=
  ps.foldl (fun st p => st.setTile p.1 { st.tile p.1 with shadow := some p.2 }) s

/-- The whole load of the image at `a` for launch `k`: the region's shadow planes, the image's streams Bound and its spill
descriptors listed, or the first error (R149). An attested image extends MEAS as it reports loaded, which a load that R446 runs
again after its message does not (R465). -/
def State.loadImage (s : State) (k : Nat) (l : Launch) (a : Nat) : Except LoadErr State :=
  match s.imageHeader l.ctx a with
  | .error x => .error x
  | .ok h => match headerErr h (some (l.lw, l.lh, l.whole)) with
    | some x => .error x
    | none => match s.imageTable l.ctx 1 8 (ihTiles h) 0 (a + ihTdir h) with
      | .error x => .error x
      | .ok dir => match directoryErr (ihTotal h) l.relIndex 0 ((headerExtents h).map (fun e => (e.1, e.2.1))) dir with
        | some x => .error x
        | none => match s.loadBlocks l a 0 dir with
          | .error x => .error x
          | .ok planes => match s.imageTable l.ctx 3 72 (ihScnt h) 0 (a + ihSdir h) with
            | .error x => .error x
            | .ok table => match (s.putShadows planes).loadStreams k l 0 [] table with
              | .error x => .error x
              | .ok s1 => match s1.imageTable l.ctx 4 16 (ihSpcnt h) 0 (a + ihSpdir h) with
                | .error x => .error x
                | .ok sp => match s1.loadSpills l 0 [] sp with
                  | .error x => .error x
                  | .ok spills =>
                    let specs := table.map (fun e => (e, (relocate (32 * l.y0 + l.x0) (bits e 64 512)).getD 0))
                    match s1.spanningErr l specs with
                    | some x => .error x
                    | none =>
                      let done (t : State) : State := t.setLaunch k { l with spills := spills.map (BitVec.ofNat 128) }
                      if !ihAttest h then .ok (done s1)
                      else match s1.attested l a h with
                        | .error x => .error x
                        | .ok msg => .ok (if l.shPosted then done s1 else (done s1).extendMeasure l.ctx msg)

/-- The loader's record of an error: the first word that a check finds wrong (R149, R426; DEDUCED, log 44). -/
def State.loadRecord (s : State) (ctx : Nat) (e : LoadErr) : State :=
  s.raise e.cause { origin := .loader, ctx := some ctx, pos := e.pos, stop := false, cfgw := e.word, addr := e.addr }

/-- The shadow planes of a launch's tiles are discarded (R149). -/
def State.dropShadows (s : State) (l : Launch) : State :=
  l.tiles.foldl (fun st t => if (st.tile t).shadow.isSome then st.setTile t { st.tile t with shadow := none } else st) s

end Sys2Proof.Machine
end

