-- ==== Sys2Proof/Machine/Residency.lean ====
section
/-!
DEFINITION. Configurations of a region: the preparation of its tiles (R100, R222, R246), residency (R103, R105, R443), the end
of a load (R340, R393, R445, R446), the reconfiguration token (R442 to R444, R450), the drain watch (R342, R449) and the
release of a region.
-/
namespace Sys2Proof.Machine
open Sys2Proof

/-! ### Work of a launch -/

/-- Port contexts that a launch holds. -/
def State.pctxsOf (s : State) (k : Nat) : List (Nat × PCtx) :=
  s.pctxs.filter (fun p => p.2.launch == some k && p.2.st != .free)

/-- An address on path 0x2 or 0x3 in a launch's region. -/
def Launch.owns (l : Launch) (a : Word) : Bool :=
  (pathOf a == 2 && l.covers (tileOfAddr2 a)) || (pathOf a == 3 && l.covers (tileOfAddr3 a))

/-- A copy is bound to the resident configuration of its launch (R376). -/
def CopyJob.bound (j : CopyJob) (k : Nat) (l : Launch) : Bool :=
  j.launch == some k && j.item.isNone && (l.owns j.srca || l.owns j.dsta)

/-- A collective that an EDGE of the resident configuration feeds (R376). -/
def Coll.bound (c : Coll) (k : Nat) : Bool := c.launch == some k && clSrcf c.v

/-- Every engine bound to the resident configuration has drained (R442). -/
def State.enginesDrained (s : State) (k : Nat) (l : Launch) : Bool :=
  (s.pctxsOf k).all (fun p => p.2.cfg != l.cfg) && s.copies.all (fun j => !j.2.bound k l) &&
    s.net.colls.all (fun c => !c.2.bound k)

/-! ### Tiles -/

/-- A tile of a launch that starts: its scratch and weight store are zero, and its granules empty (R100, R119, R216, R222,
R415; DESIGN CHOICE, log 27). -/
def State.prepareTile (s : State) (k : Nat) (l : Launch) (t : Nat) : State :=
  let mem := memClear (memClear s.mem (scratchLoc t 0) 24576) (weightLoc t 0) 98304
  let full := s.full.filter (fun g => g / 1536 != t)
  State.setTile { s with mem := mem, full := full } t { Tile.reset with launch := some k, seed := l.seed }

/-- The arcs that a tile's slots and records feed in its resident plane (R16, R90, R103). -/
def State.wireTile (s : State) (t : Nat) : State :=
  let p := (s.tile t).plane
  let put (st : State) (key u g : Nat) : State :=
    if g = noTarget then st
    else st.setArcAt u g { st.arcAt u g with key := key, crossing := decide (tileDie u ≠ tileDie t) }
  let slots := (List.range 64).foldl (fun st i => match p.slot i with
    | none => st
    | some (_, o) => put (put st (128 * t) t o.t0.toNat) (128 * t) t o.t1.toNat) s
  (List.range p.recs.length).foldl (fun st q => match p.rec_ q with
    | none => st
    | some (op, r) =>
      if op = 7 then st
      else put (put st (128 * t + 2 * q) (destTile t r) r.dst.toNat) (128 * t + 2 * q + 1) (destTile t r) r.dst2.toNat) slots

/-- A tile takes its shadow plane: flags are clear, no invocation has begun, and a bank that comes into event mode is empty
(R243, R246, R443). One that stays in event mode keeps its bank, the last horizon that it marked too (R256; DESIGN CHOICE,
log 57). -/
def State.swapTile (s : State) (t : Nat) : State :=
  let v := s.tile t
  let p := v.shadow.getD Plane.empty
  let fresh : Bool := p.mode == 2 && v.plane.mode != 2
  let s1 : State := if fresh then
      { s with mem := memClear (memClear s.mem (neuronLoc t 0) 16384) (neuronLoc t 2048) 16384 } else s
  s1.setTile t { v with
    plane := p, shadow := none, slots := [], recs := [], reqs := [], last := none, flags := 0, active := false,
    passed := false, strayed := false, matrix := Matrix.reset, events := if fresh then EventBank.reset else v.events }

/-! ### Spill rings (R103 to R105) -/

/-- The rings of a launch's spill descriptors, by the tile and target of their arcs in the shadow planes. -/
def State.spillRings (s : State) (l : Launch) : List (Nat × Nat × Ring) :=
  l.spills.filterMap (fun d =>
    let v := d.toNat
    (s.spillArc l (sdTile v) (sdRec v)).map (fun a =>
      (a.1, a.2, { base := word (sdBase v), slots := sdBytes v / 16, wr := 0, rd := 0 })))

/-- The pages that hold the rings: base and size. -/
def State.ringPages (s : State) (l : Launch) : List (Nat × Nat) :=
  l.spills.flatMap (fun d =>
    let v := d.toNat
    (List.range (ceilDiv (sdBytes v) 131072)).filterMap (fun i => match s.translate l.ctx false (sdBase v + 131072 * i) with
      | .ok e => some (e.base, 2 ^ e.log2)
      | .error _ => none))

/-! ### Residency (R393, R443) -/

/-- The shadow planes become resident: the tiles swap together, the arcs of the new planes stand empty with their rings, and
the port contexts Bound for them begin to issue (R85, R130, R443). -/
def State.makeResident (s : State) (k : Nat) : State :=
  match s.launch k with
  | none => s
  | some l =>
    let rings := s.spillRings l
    let s1 := l.tiles.foldl State.swapTile s
    let s2 : State := { s1 with arcs := s1.arcs.filter (fun a => !l.covers (a.1 / 512)) }
    let s3 := l.tiles.foldl State.wireTile s2
    let s4 := rings.foldl (fun st r => st.setArcAt r.1 r.2.1 { st.arcAt r.1 r.2.1 with ring := some r.2.2 }) s3
    let s5 := s4.setLaunch k { l with cfg := l.cfg + 1, shadow := .none, shPost := none, shPosted := false,
                                      spillPages := s.ringPages l }
    let waits := (s.pctxsOf k).filter (fun p => p.2.st == .bound && p.2.cfg == l.cfg + 1)
    waits.foldl (fun st p => (st.setPctx p.1 { p.2 with st := .running }).wireStream p.1 p.2.spec.toNat) s5

/-! ### The end of a launch's hold -/

/-- The sequencer is free: what it holds is zeroed at the next launch (R294). -/
def State.freeSeq (s : State) (n : Nat) : State := s.setSeq n Seq.reset

/-- The ISLOWN fields of a launch's blocks are cleared, CTX and OWN (R66, R397). -/
def State.freeBlocks (s : State) (l : Launch) : State :=
  l.blocks.foldl (fun st b =>
    let i := st.island (b / 16)
    st.setIsland (b / 16) { i with own := tabPut i.own (b % 16) 0 }) s

/-- The launch has taken its place: its sequencer steers it (R393). -/
def State.placed (s : State) (l : Launch) : Bool := ((s.seq l.seqn).launch.bind s.launch).any (fun v => v.item == l.item)

/-- The region, the sequencer and the island blocks of a launch are free, and its region charge ends (R397, R402, R417,
R437). -/
def State.freeRegion (s : State) (l : Launch) : State :=
  if !s.placed l then s else
  let tiles := s.tiles.filter (fun t => !l.covers t.1)
  let arcs := s.arcs.filter (fun a => !l.covers (a.1 / 512))
  let idle := ((List.range 16).filter l.onCluster).foldl (fun t c => tabPut t c s.now) s.power.idle
  let s1 : State := { s with tiles := tiles, arcs := arcs, power := { s.power with idle := idle } }
  let s2 := match s1.item l.item with
    | some i => if l.runs then s1.setItem l.item { i with chreg := i.chreg + (s.now - l.joined) } else s1
    | none => s1
  (s2.freeSeq l.seqn).freeBlocks l

/-- SAVING clears when no launch runs any more: every one is saved or over (R422). -/
def State.settleSaving (s : State) : State :=
  if s.saving && !s.launches.any (fun l => l.2.live) then s.setTherm s.warn false else s

/-- A launch is over: its spans are unbound, its place is free and no page holds a ring of it any more. -/
def State.overLaunch (s : State) (k : Nat) (phase : LaunchPhase) (cause : Option Cause) : State :=
  match s.launch k with
  | none => s
  | some l =>
    let held := l.live
    let s1 := s.unbindSpans k
    let kept := l.saved.elim [] (fun v => v.pctxs.filterMap (fun p => p.2.item))
    let s2 := kept.foldl (fun st i => st.packetFails i .schNoLaunch) (if held then s1.freeRegion l else s1)
    (s2.setLaunch k { l with phase := phase, endCause := cause, saved := none, spillPages := [], shadow := .none, reconf := none,
                             whold := false }).settleSaving

/-! ### Messages of CFGLD and RECONF (R343) -/

/-- The message of a load, kind 1, or of a swap, kind 2. -/
def State.postConfig (s : State) (k : Nat) (l : Launch) (post : BitVec 6 × BitVec 8) (kind : Nat) (cause : Option Cause)
    (image : Word) : State :=
  let (t, s1) := s.readTime (seqClock l.seqn)
  s1.postLaunch k (hardMsg post.1 post.2 3 (word (kind + (cause.elim 0 Cause.code) * 2 ^ 16)) image t 0)

/-- The shadow planes of a launch are discarded whole, and its Bound contexts are free (R149, R338, R444). -/
def State.dropShadow (s : State) (k : Nat) (l : Launch) : State :=
  let s1 := (s.dropShadows l).discardBound k
  match s1.launch k with
  | none => s1
  | some v => s1.setLaunch k { v with shadow := .none, shPost := none, shPosted := false, loadHeld := false }

/-- A swap is refused with a cause (R341, R444). -/
def State.refuseSwap (s : State) (k : Nat) (c : Cause) : State :=
  match s.launch k with
  | none => s
  | some l =>
    let s1 := s.dropShadow k l
    match s1.launch k, l.reconf with
    | some v, some p => (s1.setLaunch k { v with reconf := none }).postConfig k l p 2 (some c) 0
    | _, _ => s1

/-! ### The end of a load (R149, R340, R393, R445, R446) -/

/-- The task section of an image. -/
def State.taskSection (s : State) (l : Launch) (a : Nat) : Except LoadErr (Nat × List Byte) :=
  match s.imageHeader l.ctx a with
  | .error x => .error x
  | .ok h =>
    match s.imageWords l.ctx { cause := .cfgBadImage } (ihTasklen h / 4) (a + ihTask h) with
    | .error x => .error x
    | .ok ws => .ok (ihTasklen h, ws.flatMap (fun w => leBytes 4 w.toNat))

/-- A launch whose image is loaded starts: its sequencer has the task section, the configuration is resident and the start
message is on its way to channel 0 (R296, R393). -/
def State.startLaunch (s : State) (k : Nat) (len : Nat) (task : List Byte) : State :=
  match s.launch k with
  | none => s
  | some l =>
    let s1 := (s.zeroRange (localLoc l.seqn 0) 262144).storeBytes (localLoc l.seqn 0) task
    let s2 := s1.setSeq l.seqn { s1.seq l.seqn with codelim := BitVec.ofNat 19 len }
    let s3 := s2.makeResident k
    match s3.launch k with
    | none => s3
    | some v =>
      let s4 := s3.setLaunch k { v with phase := .running, joined := s.now, tasklen := len }
      let p (i : Nat) : Word := l.payload.getD i 0
      (s4.hardPost l.seqn (hardMsg 0 (entryGen (s4.handler l.seqn 0)) 1 (p 0) (p 1) (p 2) (p 3))).packetDone l.item

/-- The load of a LAUNCH has failed: its packet fails and everything reserved is released (R393). -/
def State.launchFails (s : State) (k : Nat) (c : Cause) : State :=
  match s.launch k with
  | none => s
  | some l =>
    let bound := (s.pctxsOf k).foldl (fun st p => st.dropStream p.1) s
    (bound.overLaunch k .retired (some c)).packetFails l.item c

/-- A load meets an error: a translation fault is recorded and holds it until a retry, and any other fails it. -/
def State.loadFails (s : State) (k : Nat) (l : Launch) (e : LoadErr) : State :=
  let s1 := s.loadRecord l.ctx e
  if e.cause.isXlt then s1.setLaunch k { l with loadHeld := true }
  else if l.phase = .loading then s1.launchFails k e.cause
  else
    let s2 := s1.dropShadow k l
    let s3 := match l.shPost with
      | some p => s2.postConfig k l p 1 (some e.cause) l.shImage
      | none => s2
    if l.reconf.isSome then s3.refuseSwap k e.cause else s3

/-- IMAGE_LOAD_COMPLETE: the load of a LAUNCH, once its clusters have their bias, or of a CFGLD ends (R149, R340, R393,
R417). Both fetch the whole image, though CFGLD leaves local memory as it is (R296; DEDUCED, log 44). The loader of a context
stays stopped while a record of it waits (R429). -/
def execImageLoadComplete (launch : Nat) (s : State) : Out :=
  match s.launch launch with
  | none => .next s
  | some l =>
    if l.loadHeld || s.loadRecordWaits l.ctx then .next s
    else if l.phase = .loading then
      if !s.biasReady l || !(s.item l.item).any (fun i => i.phase == .running) then .next s
      else match s.loadImage launch l l.image.toNat with
        | .error e => .next (s.loadFails launch l e)
        | .ok s1 => match s1.taskSection l l.image.toNat with
          | .error e => .next (s.loadFails launch l e)
          | .ok (n, task) => .next (s1.startLaunch launch n task)
    else if l.shadow = .loading ∧ l.phase = .running then
      match s.loadImage launch l l.shImage.toNat with
      | .error e => .next (s.loadFails launch l e)
      | .ok s1 => match s1.taskSection l l.shImage.toNat, s1.launch launch with
        | .error e, _ => .next (s.loadFails launch l e)
        | .ok _, none => .next s1
        | .ok _, some v =>
          let s2 := s1.setLaunch launch { v with shadow := .loaded, shPosted := true }
          match l.shPost with
          | some p => .next (if l.shPosted then s2 else s2.postConfig launch l p 1 none l.shImage)
          | none => .next s2
    else .next s

/-! ### The token (R442) -/

/-- Tiles into which a tile's records and wide-port links lead in the resident configuration. -/
def State.feedsTiles (s : State) (t : Nat) : List Nat :=
  let p := (s.tile t).plane
  let recs := (List.range p.recs.length).filterMap (fun q => match p.rec_ q with
    | none => none
    | some (op, r) =>
      if op = 7 ∨ (r.dst.toNat = noTarget ∧ r.dst2.toNat = noTarget) then none else some (destTile t r))
  let wide := match s.controlOf t with
    | none => []
    | some e => (if extAfwd e then (s.inRegion t (downChain t)).toList else []) ++
        (if extPdst e then [] else (s.southTile t).toList)
  (recs ++ wide).filter (· != t)

/-- The tiles that arcs and links lead to from the tiles found; `fuel` bounds the way. -/
def State.tilesAfter (s : State) : Nat → List Nat → List Nat
  | 0, found => found
  | fuel + 1, found =>
    let new := (found.flatMap s.feedsTiles).eraseDups.filter (fun t => !found.contains t)
    if new.isEmpty then found else s.tilesAfter fuel (found ++ new)

/-- The tiles joined with a tile by a cycle, in ascending order, itself included. -/
def State.group (s : State) (l : Launch) (t : Nat) : List Nat :=
  let after := s.tilesAfter l.area [t]
  l.tiles.filter (fun u => u == t || (after.contains u && (s.tilesAfter l.area [u]).contains t))

/-- The tile's invocation has ended, or it has nothing that an invocation waits for (R342, R442). -/
def State.tileDone (s : State) (t : Nat) : Bool :=
  s.invocationEnded t || ((s.tile t).plane.inputSlots.isEmpty && (s.fedRecs t).isEmpty)

/-- A tile of a group may be checked. -/
def State.mayPass (s : State) (l : Launch) (g : List Nat) (t : Nat) : Bool :=
  s.tileDone t && l.tiles.all (fun u => (s.tile u).passed || g.contains u || !(s.feedsTiles u).contains t)

/-! ### Stray tokens (R426, R442, R450) -/

/-- The tile from which an arc's tokens set out: that of its slot or record, or where its AGN enters (R16, R19). -/
def Arc.from_ (a : Arc) : Nat :=
  if a.key < 196608 then a.key / 128 else entryTile ((a.key - 196608) / 2048) (agnIsland ((a.key - 196608) / 4 % 512))

/-- The edge of its die at which an AGN's tokens enter: 0 north, 1 east, 2 south, 3 west. -/
def entryEdge (die isl : Nat) : Nat :=
  if isl < 32 then (if die < 2 then 0 else 2) else (if die % 2 = 0 then 3 else 1)

/-- The ADDR code of an arc into tile `t` (R426). -/
def Arc.code (a : Arc) (t : Nat) : Nat :=
  let p := a.from_
  if a.crossing then 6
  else if p = t then
    (if a.key < 196608 then 7 else entryEdge ((a.key - 196608) / 2048) (agnIsland ((a.key - 196608) / 4 % 512)))
  else if tileY p < tileY t then 0
  else if tileY t < tileY p then 2
  else if tileX t < tileX p then 1
  else 3

/-- Tokens on the wide ports of a tile: the code of the first port that holds one. A partial row that no write stream has taken
from the south output counts at its tile (R240). -/
def Matrix.stray (m : Matrix) : Option Nat :=
  if !m.row.transfers.isEmpty || m.row.eos || !m.wide.isEmpty then some 4
  else if !m.north.isEmpty || !m.northWide.isEmpty || !m.south.isEmpty then some 5
  else none

/-- The first place with a token in ascending order of ADDR code and target: code and target. -/
def State.strayAt (s : State) (t : Nat) : Option (Nat × Nat) :=
  let arcs := (s.arcs.filter (fun a => a.1 / 512 == t && 0 < a.2.held)).map (fun a => (a.2.code t, a.1 % 512))
  let all := arcs ++ ((s.tile t).matrix.stray.map (fun c => (c, noTarget))).toList
  all.foldl (fun b x => match b with
    | none => some x
    | some y => if x.1 * 512 + x.2 < y.1 * 512 + y.2 then some x else some y) none

/-- FLOW_STRAY_TOKEN at a tile: the record names the element whose input the place feeds, which stops for good (R450). -/
def State.strayFault (s : State) (t code target : Nat) : State :=
  let addr := word (code + target * 2 ^ 3)
  let wide := target = noTarget
  let isRec : Bool := !wide && 256 ≤ target
  let i := if wide then (((s.tile t).plane.matrixSlot).elim 0 (fun m => m.1)) else target / 4 % 64
  let r := s.tileReport t i isRec (if wide then 3 else target % 4) addr true true
  let r1 : Report := if wide ∧ (s.tile t).plane.matrixSlot.isNone then { r with cfgw := 0, tok0 := none, tok1 := none, tok2 := none } else r
  let s1 := s.raise .flowStrayToken r1
  let v := s1.tile t
  let s2 := if isRec then s1.setTile t { v with recs := tabPut v.recs i { v.recSt i with stopped := true } }
    else s1.setTile t { v with slots := tabPut v.slots i { v.slotSt i with stopped := true } }
  s2.freeze v.launch .flowStrayToken

/-- The token of a launch is out, and no stop for good but a stray token on its way forbids the swap (R444). -/
def State.tokenOut (s : State) (l : Launch) : Bool :=
  l.reconf.isSome && l.shadow == .loaded && l.phase == .running && (!l.frozen || l.tiles.any (fun t => (s.tile t).strayed))

/-- The tiles that the token would pass with a tile now: those joined to it by a cycle (R442). -/
def State.passGroup (s : State) (k : Nat) (l : Launch) (tile : Nat) : Option (List Nat) :=
  let v := s.tile tile
  if !l.covers tile || !s.tokenOut l || v.passed || v.strayed || !s.enginesDrained k l then none
  else
    let g := s.group l tile
    if g.all (s.mayPass l g) then some g else none

/-- TOKEN_PASS: the token passes a tile, and with it the tiles joined to it by a cycle, or finds stray tokens, each tile with a
record of its own (R442). -/
def execTokenPass (tile : Nat) (s : State) : Out :=
  match (s.tile tile).launch with
  | none => .next s
  | some k => match s.launch k with
    | none => .next s
    | some l => match s.passGroup k l tile with
      | none => .next s
      | some g =>
        let bad := g.filterMap (fun t => (s.strayAt t).map (fun x => (t, x)))
        if bad.isEmpty then .next (g.foldl (fun st t => st.setTile t { st.tile t with passed := true }) s)
        else
          let s1 := bad.foldl (fun st b => st.strayFault b.1 b.2.1 b.2.2) s
          .next (g.foldl (fun st t => st.setTile t { st.tile t with strayed := true }) s1)

/-- The requests that a tile has fired, and the step that its event unit is in, have performed (R378). -/
def Tile.settled (v : Tile) : Bool := v.reqs.all (fun r => r.2.isEmpty) && v.events.busy.isNone

/-- PLANE_SWAP: every tile has passed and every access of the outgoing configuration has performed, and all tiles swap together
(R378, R443). -/
def execPlaneSwap (launch : Nat) (s : State) : Out :=
  match s.launch launch with
  | none => .next s
  | some l =>
    if !s.tokenOut l || l.frozen || !l.tiles.all (fun t => (s.tile t).passed && (s.tile t).settled) ||
        !s.enginesDrained launch l then .next s
    else match l.reconf with
      | none => .next s
      | some p =>
        let s1 := s.setLaunch launch { l with reconf := none }
        .next ((s1.makeResident launch).postConfig launch l p 2 none 0)

/-- SWAP_REFUSED: the launch is frozen while a token passes, or was before RECONF (R444); every tile that the token has reached
by then has been checked (R442). -/
def execSwapRefused (launch : Nat) (s : State) : Out :=
  match s.launch launch with
  | none => .next s
  | some l =>
    if l.reconf.isSome && l.frozen && l.runs && l.tiles.all (fun t => (s.passGroup launch l t).isNone) then
      .next (s.refuseSwap launch (l.lcause.getD .flowStrayToken))
    else .next s

/-! ### The drain watch (R342, R449) -/

/-- No token is on an arc, a channel FIFO or a wide-port link of a tile. -/
def State.tileEmpty (s : State) (t : Nat) : Bool :=
  s.arcs.all (fun a => a.1 / 512 != t || a.2.held == 0) && (s.tile t).matrix.stray.isNone

/-- The three conditions of R342. -/
def State.drained (s : State) (k : Nat) (l : Launch) : Bool :=
  (s.pctxsOf k).all (fun p => p.2.cfg != l.cfg) && s.copies.all (fun j => j.2.launch != some k || j.2.item.isSome) &&
    s.net.colls.all (fun c => c.2.launch != some k) && l.tiles.all (fun t => s.tileDone t && s.tileEmpty t)

/-- DRAIN_WATCH_POST: the armed watch posts once and is disarmed. -/
def execDrainWatchPost (seq : Nat) (s : State) : Out :=
  match (s.seq seq).drainWatch, s.seqLaunch seq with
  | some (ch, gen), some k => match s.launch k with
    | none => .next s
    | some l =>
      if !s.drained k l then .next s
      else
        let s1 := s.setSeq seq { s.seq seq with drainWatch := none }
        let (t, s2) := s1.readTime (seqClock seq)
        .next (s2.postLaunch k (hardMsg ch gen 7 0 t 0 0))
  | _, _ => .next s

end Sys2Proof.Machine
end

