-- ==== Sys2Proof/Machine/Mordant.lean ====
section
/-!
DEFINITION. Admission (R382, R403 to R406), dispatch in deadline order (R407, R410), and charges and deadlines (R402, R408,
R409).
-/
namespace Sys2Proof
open Machine

/-- A packet's body as one little-endian number. -/
def Pkt.v (p : Pkt) : Nat := leNat (p.body.flatMap (fun d => leBytes 4 d.toNat))
/-- Field `lo` up of `n` bits of the body. -/
def Pkt.field (p : Pkt) (lo n : Nat) : Nat := bits p.v lo n

end Sys2Proof

namespace Sys2Proof.Machine
open Sys2Proof

/-! ### Items -/

/-- The packets of an item with their codes. -/
def Item.pkts (i : Item) : List (Nat × Pkt) := i.packets.filterMap Instr.pkt?

/-- The LAUNCH packet of an item. -/
def Item.launchPkt (i : Item) : Option Pkt := (i.pkts.find? (fun p => p.1 == 4)).map (fun p => p.2)

/-- An item's next packet is its LAUNCH. -/
def Item.atLaunch (i : Item) : Bool := (i.packets[i.idx]?).any isLaunch

/-- What is left of an item's budget (R404). -/
def State.remOf (s : State) (i : Item) : Nat := i.budget - (s.regCharge i + i.cheng)

/-- An item that is dispatched as background work: it is such work, or an overrun without ABORT makes it so when it is next
dispatched (R408, R410). -/
def Item.behind (i : Item) : Bool := i.background || (i.ovr && !i.abort)

/-- Dispatch order: deadline, queue, entry; background work comes last, in the tie order (R407, R410). -/
def Item.before (a b : Item) : Bool :=
  let key (i : Item) : List Nat := [i.behind.toNat, if i.behind then 0 else i.deadline, i.queue, i.seqNo]
  decide (key a < key b)

/-- The launch of an item that has not retired. -/
def State.launchOf (s : State) (i : Item) : Option Launch :=
  (i.launch.bind s.launch).filter (fun l => l.phase != .retired)

/-- Admitted deadline work: an entry that has not completed, or a launch that has not retired (R404). -/
def State.inWork (s : State) (i : Item) : Bool :=
  !i.background && (i.phase == .admitted || i.busy || (s.launchOf i).isSome)

/-- The admitted set S of R404: what has missed its deadline has left it (R409). -/
def State.inS (s : State) (i : Item) : Bool := s.inWork i && decide (s.now < i.deadline)

/-- The charges of an item exceed its budget and it has not been told so; a pair whose SIGNAL has begun ends first (R408). -/
def State.overrunDue (s : State) (i : Item) : Bool :=
  !i.ovr && decide (i.budget < s.regCharge i + i.cheng) && i.phase != .pending &&
    !(i.abort && i.launch.isNone && i.inPair && i.phase != .running)

/-- The timebase has reached the deadline of an item of S, or had when the item finished (R409). -/
def State.missDue (s : State) (i : Item) : Bool :=
  decide (i.deadline ≤ s.now) &&
    (s.inWork i || (!i.background && i.phase == .finished && i.rcode == 0 && decide (i.deadline ≤ i.endTime)))

/-- An overrun or a miss of the item comes before its next step (R408, R409; DEDUCED, log 46). -/
def State.actionDue (s : State) (i : Item) : Bool := s.overrunDue i || s.missDue i

/-- Launches admitted and not retired (R404). -/
def State.unretired (s : State) : List (Nat × Launch) := s.launches.filter (fun l => l.2.phase != .retired)

/-- The unretired launch of a context with a tag (R392). -/
def State.findLaunch (s : State) (ctx ltag : Nat) : Option (Nat × Launch) :=
  s.unretired.find? (fun l => l.2.ctx == ctx && l.2.ltag == ltag)

/-- An entry that has not been recorded stops with STATE 3 (R408, R437). -/
def State.abortEntry (s : State) (k : Nat) (c : Cause) : State :=
  match s.item k with
  | none => s
  | some i => if i.phase = .finished ∨ i.phase = .recorded then s else s.entryStops k 3 c

/-! ### Regions (R22) -/

/-- The legal origins of a shape, by ascending y and then x. -/
def originsOf (whole : Bool) (w h : Nat) : List (Nat × Nat) :=
  if whole then [(0, 0)]
  else (List.range (48 / h)).flatMap (fun y => (List.range (32 / w)).map (fun x => (w * x, h * y)))

/-- No tile of a rectangle is disabled. -/
def Part.boxOk (p : Part) (x y w h : Nat) : Bool :=
  (List.range (w * h)).all (fun i => p.tileOk (32 * (y + i / w) + x + i % w))

/-- The most regions of `2 ^ c` tiles that a box of power-of-two sides holds without a disabled tile; `fuel` bounds its
halving. -/
def Part.pack (p : Part) (c : Nat) : Nat → Nat → Nat → Nat → Nat → Nat
  | 0, _, _, _, _ => 0
  | fuel + 1, x, y, w, h =>
    if w * h < 2 ^ c then 0
    else if p.boxOk x y w h then w * h / 2 ^ c
    else if w * h = 2 ^ c then 0
    else
      let across := if 1 < w then p.pack c fuel x y (w / 2) h + p.pack c fuel (x + w / 2) y (w / 2) h else 0
      let down := if 1 < h then p.pack c fuel x y w (h / 2) + p.pack c fuel x (y + h / 2) w (h / 2) else 0
      max across down

/-- cap(c) of R404. -/
def Part.cap (p : Part) (c : Nat) : Nat :=
  if c = 11 then (if p.boxOk 0 0 32 48 then 1536 else 0)
  else (p.pack c 11 0 0 32 32 + p.pack c 11 0 32 32 16) * 2 ^ c

/-- The class of a launch's region (R404). -/
def Launch.cls (l : Launch) : Nat := if l.whole then 11 else l.lw + l.lh

/-- Exposed sequencers. -/
def Part.seqCount (p : Part) : Nat := ((List.range 32).filter p.seqOk).length

/-! ### The LAUNCH body (R392), as a number -/

def lbImage (v : Nat) : Nat := bits v 0 64
def lbSavea (v : Nat) : Nat := bits v 64 64
def lbIsla (v : Nat) : Nat := bits v 128 64
def lbX0 (v : Nat) : Nat := bits v 224 5
def lbY0 (v : Nat) : Nat := bits v 229 6
def lbPlace (v : Nat) : Bool := bits v 235 1 == 1
def lbNb (v : Nat) : Nat := bits v 236 7
def lbNch (v : Nat) : Nat := bits v 243 7
def lbPg (v : Nat) : Nat := bits v 250 11
def lbIsln (v : Nat) : Nat := bits v 265 8

/-- The launch of an entry as it is admitted. -/
def newLaunch (item : Nat) (i : Item) (ctx v : Nat) (blocks : List Nat) : Launch :=
  { ctx := ctx, ltag := bits v 273 15, seqn := 0, x0 := lbX0 v, y0 := lbY0 v, lw := i.lw, lh := i.lh, whole := i.whole,
    place := lbPlace v, pclass := i.pclass, image := word (lbImage v), savea := word (lbSavea v), isla := word (lbIsla v),
    isln := lbIsln v, seed := BitVec.ofNat 32 (bits v 192 32), nb := lbNb v, nch := lbNch v, pg := lbPg v,
    wsp := bits v 261 1 == 1, evp := bits v 262 1 == 1, debug := bits v 263 1 == 1, nrx := bits v 264 1 == 1,
    payload := (List.range 4).map (fun k => word (bits v (288 + 64 * k) 64)), blocks := blocks, iter := i.iter, item := item,
    phase := .waiting, frozen := false, lcause := none, endCause := none, shadow := .none, shImage := 0, shPost := none,
    shPosted := false, reconf := none, cfg := 0, tasklen := 0, spillPages := [], spills := [], saved := none, nsave := 0,
    whold := false, asked := false, loadHeld := false, recMode := 0, recRing := 0, recSession := 0, joined := 0 }

/-! ### Codes 0x01 to 0x05 (R386, R387, R391 to R400, R406) -/

/-- A field outside the range that its packet's table gives: code 0x05. -/
def rangeBad (code : Nat) (p : Pkt) : Bool :=
  let v := p.v
  let f := p.field
  match code with
  | 1 => f 0 64 % 4 != 0 || (f 60 4 == 5 && (f 0 64 % 8 != 0 || p.body.length % 2 != 0))
  | 2 | 3 => f 13 19 != 0
  | 4 =>
    96 < lbNb v || lbNch v == 0 || 64 < lbNch v || 1280 < lbPg v || (lbPlace v && (lbX0 v != 0 || lbY0 v != 0)) ||
      (lbIsln v == 0 && lbIsla v != 0) || lbImage v % 64 != 0 || lbIsla v % 8 != 0
  | 5 => f 33 31 != 0
  | 7 => f 15 17 != 0
  | 10 => f 0 64 % 8 != 0
  | 11 =>
    let va := f 32 64
    let len := f 96 64
    (!p.flags.getLsbD 2 && f 160 256 != 0) ||
      (if p.flags.toNat % 4 = 0 then va % 131072 != 0 || len % 131072 != 0 || len == 0 else va != 0 || len != 0)
  | _ => false

/-- A linkage or a flag against R398 to R400: code 0x03. -/
def linkBad : List (Nat × Pkt) → Bool
  | [] => false
  | (c, p) :: r =>
    let next := r.head?
    (p.link && !((c == 1 || c == 6) && next.any (fun q => q.1 == 2 && !q.2.link))) ||
      (c == 9 && p.flags.getLsbD 0 && next.isSome) ||
      (c == 11 && (p.flags.toNat % 4 == 3 || (p.flags.getLsbD 2 && p.flags.toNat % 4 != 1))) || linkBad r

/-- The first code of the structure checks. -/
def Item.shapeCode (i : Item) : Option Nat :=
  if i.headerBad then some 1
  else if i.bad = 2 then some 2
  else if i.bad = 3 ∨ linkBad i.pkts = true then some 3
  else if i.pkts.any (fun p => rangeBad p.1 p.2) then some 5
  else none

/-! ### Codes 0x09 to 0x19 -/

/-- Every 128 KiB page of `n` bytes at a path-0x0 address is mapped with RD and WR under a context. -/
def State.mappedRW (s : State) (ctx a n : Nat) : Bool :=
  let lo := a / 131072
  let hi := (a + n + 131071) / 131072
  a / 2 ^ 52 == 0 && decide (a + n ≤ 2 ^ 52) &&
    (List.range (hi - lo)).all (fun i => match s.translate ctx false (131072 * (lo + i)) with
      | .ok e => e.rd && e.wr
      | .error _ => false)

/-- The extent that was read. -/
def CopyPlan.read? : CopyPlan → Option Nat
  | .ok v => some v
  | _ => none

/-- The storage extent descriptor that a copy descriptor with STOR = 1 names (R63, R344), or the one that stands where neither
side holds a good one; none when it cannot be read (R403). -/
def State.extentOf (s : State) (ctx d : Nat) : Option Nat :=
  ((s.extentSide ctx d).read?.or (s.readExtent ctx (cdSrc d)).read?).or (s.readExtent ctx (cdDst d)).read?

/-- The blocks that a declaration names, by 16 times the island plus the block; none when a check of code 0x0F fails. Its bits
63:24 are ignored (R7). -/
def State.declared (s : State) (ctx x : Nat) : Option (List Nat) :=
  let isl := 64 * bits x 0 2 + bits x 2 6
  let i := s.island isl
  let blocks := (List.range 16).filter (fun b => bits x (8 + b) 1 == 1)
  let bad (b : Nat) : Bool :=
    let own := tabGet i.own b 0
    s.reserved isl b || i.scr.toNat ≤ b || (own.getLsbD 12 && bits own.toNat 0 12 != ctx)
  if !s.part.islandOk isl ∨ blocks.any bad = true then none
  else some (blocks.map (fun b => 16 * isl + b))

/-- The blocks of a launch's declaration list (R392). -/
def State.declaredBlocks (s : State) (ctx v : Nat) : Option (List Nat) :=
  match s.imageTable ctx 0 8 (lbIsln v) 0 (lbIsla v) with
  | .error _ => none
  | .ok l => (l.mapM (s.declared ctx)).map List.flatten

/-- What admission reads of an image: its header, stream table and spill table; none when a part cannot be read or the header
breaks R128 (code 0x12). -/
def State.imageAhead (s : State) (ctx a : Nat) : Option (Nat × List Nat × List Nat) :=
  match s.imageHeader ctx a with
  | .error _ => none
  | .ok h =>
    if (headerErr h none).isSome then none
    else match s.imageTable ctx 3 72 (ihScnt h) 0 (a + ihSdir h), s.imageTable ctx 4 16 (ihSpcnt h) 0 (a + ihSpdir h) with
      | .ok t, .ok sp => some (h, t, sp)
      | _, _ => none

/-- Code 0x0E where an address of a packet or a stream names a disabled island or sequencer (R25). -/
def State.unitCodes (s : State) (a : Nat) : List Nat :=
  if (a / 2 ^ 60 = 1 ∧ !s.part.islandOk (bits a 50 8)) ∨ (a / 2 ^ 60 = 4 ∧ !s.part.seqOk (bits a 18 5)) then [0x0E] else []

/-- A stream of a binding operand `b` and specification `v`: code 0x0E, and 0x11 against an iteration bound. -/
def State.streamCodes (s : State) (b v iter : Nat) : List Nat :=
  (if s.part.islandOk (64 * bits b 9 2 + agnIsland (bits b 0 9)) then [] else [0x0E]) ++
    s.unitCodes (spBase v) ++ (if spKind v = 4 then s.unitCodes (spBmap v) else []) ++
    (if iter < spOuter v then [0x11] else [])

/-- The codes of a LAUNCH packet. -/
def State.launchCodes (s : State) (i : Item) (ctx : Nat) (p : Pkt) : List Nat :=
  let v := p.v
  let w := if i.whole then 32 else 2 ^ i.lw
  let h := if i.whole then 48 else 2 ^ i.lh
  let fixed := !lbPlace v
  let origins := if fixed then [(lbX0 v, lbY0 v)] else originsOf i.whole w h
  let shapeBad : Bool := 5 < i.lw || 5 < i.lh || (i.whole && (lbX0 v != 0 || lbY0 v != 0)) ||
    (fixed && (lbX0 v % w != 0 || lbY0 v % h != 0 || 32 < lbX0 v + w || 48 < lbY0 v + h))
  let holds (l : Launch) : Bool := (!l.place || l.phase != .waiting) && l.phase != .ended &&
    decide (l.x0 < lbX0 v + w) && decide (lbX0 v < l.x0 + l.w) && decide (l.y0 < lbY0 v + h) && decide (lbY0 v < l.y0 + l.h)
  let image := s.imageAhead ctx (lbImage v)
  let shape : List Nat :=
    if shapeBad || image.any (fun x => (ihLw x.1, ihLh x.1, ihWhole x.1) != (i.lw, i.lh, i.whole)) then [0x0A]
    else
      (if fixed && s.unretired.any (fun l => holds l.2) then [0x0B] else []) ++
      (if origins.any (fun o => s.part.boxOk o.1 o.2 w h) then [] else [0x0C])
  let parts : List Nat := match image with
    | none => [0x12]
    | some (_, t, sp) =>
      t.flatMap (fun e => s.streamCodes (bits e 0 64) (bits e 64 512) i.iter) ++
      (if sp.all (fun d => s.mappedRW ctx (sdBase d) (sdBytes d)) then [] else [0x10])
  shape ++ parts ++
    (if s.part.seqCount = 0 then [0x0D] else []) ++
    (if (s.declaredBlocks ctx v).isNone then [0x0F] else []) ++
    (if (s.findLaunch ctx (bits v 273 15)).isSome then [0x13] else []) ++
    (if lbImage v / 2 ^ 60 ≠ 0 ∨ lbSavea v / 2 ^ 60 ≠ 0 ∨ lbIsla v / 2 ^ 60 ≠ 0 then [0x17] else [])

/-- Semaphore `n` is owned by a context (R390). -/
def State.ownsSem (s : State) (n ctx : Nat) : Bool :=
  let o := tabGet s.sown n 0
  o.getLsbD 12 && bits o.toNat 0 12 == ctx

/-- PRIV is honoured for the physical function only (R383). -/
def Queue.privileged (g : Queue) : Bool := g.priv && g.func == 0

/-- The codes of one packet. -/
def State.packetCodes (s : State) (g : Queue) (i : Item) (code : Nat) (p : Pkt) : List Nat :=
  let f := p.field
  let own : Option Pkt := i.launchPkt.bind (fun q => if bits q.v 273 15 = f (if code = 5 then 18 else 0) 15 then some q else none)
  let target : Option Nat := match own, s.findLaunch g.ctx (f (if code = 5 then 18 else 0) 15) with
    | some _, _ => some i.iter
    | none, some l => some l.2.iter
    | none, none => none
  let path := f 60 4
  match code with
  | 1 => if path = 5 then (if g.privileged then [] else [0x15])
      else if [0, 1, 4, 7].contains path then s.unitCodes (f 0 64) else [0x17]
  | 2 | 3 => if s.ownsSem (f 0 13) g.ctx then [] else [0x14]
  | 4 => s.launchCodes i g.ctx p
  | 5 => match target with
    | none => [0x13]
    | some n => s.streamCodes (f 0 64) (f 64 512) n
  | 6 =>
    if cdStor p.v then
      match s.extentOf g.ctx p.v with
      | none => [0x12]
      | some e => if s.part.storage.getLsbD (exPort e) then [] else [0x0E]
    else s.unitCodes (cdSrc p.v) ++ s.unitCodes (cdDst p.v)
  | 7 => if target.isSome then [] else [0x13]
  | 9 => if (if g.func = 0 then 2048 else 64) ≤ f 0 11 then [0x16] else []
  | 10 => if [0, 1, 4, 7].contains path then s.unitCodes (f 0 64) else [0x17]
  | 11 =>
    if (p.flags.toNat % 4 = 2 ∨ p.flags.getLsbD 2 = true ∨ f 0 12 ≠ g.ctx) ∧ !g.privileged then [0x15] else []
  | _ => []

/-- Rows 0x09 to 0x19 of R406 (DEDUCED, log 41). -/
def State.entryCodes (s : State) (i : Item) : List Nat :=
  let g := s.queue i.queue
  (if !i.background && i.deadline ≤ s.now then [0x09] else []) ++
    i.pkts.flatMap (fun p => s.packetCodes g i p.1 p.2) ++
    (if g.rbusy then [0x18] else []) ++
    (if s.ctxValid g.ctx then [] else [0x19])

/-! ### The bound P and the tests (R400, R403, R404) -/

/-- The bound of one packet. -/
def State.packetBound (s : State) (ctx code : Nat) (p : Pkt) : Nat :=
  match code with
  | 0 | 2 | 8 | 9 | 10 => 500
  | 1 => 2000
  | 6 => if cdStor p.v then 1500 * ((s.extentOf ctx p.v).elim 0 exCount) else 2000 + cdLen p.v / 64
  | _ => 0

/-- Lmax: the largest bound among packets and pairs. -/
def State.lmax (s : State) (ctx : Nat) (l : List (Nat × Pkt)) : Nat :=
  (l.map (fun p => s.packetBound ctx p.1 p.2 + (if p.2.link then 500 else 0))).foldl max 0

/-- P of an entry (R403). -/
def State.entryBound (s : State) (i : Item) (ctx : Nat) : Nat :=
  let lm := s.lmax ctx i.pkts
  match i.launchPkt with
  | none => lm
  | some p =>
    let v := p.v
    let npc := (s.imageAhead ctx (lbImage v)).elim 0 (fun x => x.2.1.length)
    let area := if i.whole then 1536 else 2 ^ (i.lw + i.lh)
    4 * i.iter + 1500 + 120 * npc +
      ceilDiv area 64 * (100 + lbPg v + 3000 * bits v 261 1 + 1200 * bits v 262 1) + lm

/-- An item as the tests see it. -/
structure Task where
  deadline : Nat
  rem : Nat
  /-- Area and class of a launch. -/
  region : Option (Nat × Nat)
  p : Nat
  deriving DecidableEq, Repr

def State.taskOf (s : State) (i : Item) (l : Option Launch) : Task :=
  { deadline := i.deadline, rem := s.remOf i, region := l.map (fun x => (x.area, x.cls)), p := i.bound }

/-- The density tests of R404. -/
def State.denseBad (s : State) (ts : List Task) : Bool :=
  let left (d : Nat) : Int := (d : Int) - (s.now : Int)
  let due (d : Nat) : List Task := ts.filter (fun t => t.deadline ≤ d)
  let need (c d : Nat) : Nat := ((due d).map (fun t => match t.region with
    | some (a, k) => if c ≤ k then a * t.rem else 0
    | none => 0)).foldl (· + ·) 0
  let seqs (d : Nat) : Nat := ((due d).map (fun t => if t.region.isSome then t.rem else 0)).foldl (· + ·) 0
  ts.any (fun t =>
    (List.range 12).any (fun c => decide (left t.deadline * (s.part.cap c : Int) < (need c t.deadline : Int))) ||
      decide (left t.deadline * (s.part.seqCount : Int) < (seqs t.deadline : Int)))

/-- The power test: reservations of launches that are not retired against PCAP, which counts as 0 for an entry with a LAUNCH
while WARN holds (R404, R416, R422). -/
def State.powerBad (s : State) (own : Option (Nat × Nat)) : Bool :=
  let rate (c : Nat) : Nat := 14500 * (c + 1)
  let sum := (s.unretired.map (fun l => rate l.2.pclass * l.2.area)).foldl (· + ·) (own.elim 0 (fun x => rate x.1 * x.2))
  decide ((if s.warn && own.isSome then 0 else s.ctl.pcap.toNat) < sum)

/-- The pre-emption test: the bound of a later launch against the slack of an earlier item (R404). -/
def State.slackBad (s : State) (e : Task) (ts : List Task) : Bool :=
  let slack (i : Task) : Int := (i.deadline : Int) - (s.now : Int) - (i.rem : Int)
  let pair (i j : Task) : Bool := decide (i.deadline < j.deadline) && j.region.isSome && decide (slack i < (j.p : Int))
  ts.any (fun t => pair e t || pair t e)

/-- The code of an entry, 0 when it is admitted (R404 to R406). -/
def State.admitCode (s : State) (i : Item) (l : Option Launch) (bound : Nat) : Nat :=
  match i.shapeCode with
  | some c => c
  | none =>
    let codes := s.entryCodes i
    let least := codes.foldl min 0xFF
    if least ≠ 0xFF then least
    else
      let set := (s.items.filter (fun j => s.inS j.2)).map (fun j => j.2)
      let own := l.map (fun x => (x.pclass, x.area))
      if i.background then (if s.powerBad own then 0x07 else 0)
      else if 1024 ≤ set.length then 0x1A
      else
        let me := { s.taskOf i l with p := bound }
        let ts := set.map (fun j => s.taskOf j (s.launchOf j))
        if s.denseBad (ts ++ [me]) then 0x06
        else if s.powerBad own then 0x07
        else if s.slackBad me ts then 0x08
        else 0

/-- The oldest entry not yet admitted, in the order in which the complex took the kicks (R382). -/
def State.oldestPending (s : State) : Option (Nat × Item) :=
  (s.items.filter (fun i => i.2.phase == .pending)).foldl (fun best i => match best with
    | none => some i
    | some b => if i.2.turn < b.2.turn then some i else some b) none

/-- A core still holds a kick that the complex took before that of an entry (R382). -/
def State.kickAhead (s : State) (i : Item) : Bool :=
  s.cores.any (fun c => match c.2 with
    | .kick _ _ n => decide (n < i.turn)
    | _ => false)

/-- ENTRY_ADMISSION: the oldest entry not yet admitted, when it is one of queue `q`, is admitted, or rejected with its code
(R382, R404, R406). -/
def execEntryAdmission (q : Nat) (s : State) : Out :=
  match s.oldestPending with
  | none => .next s
  | some (k, i) =>
    if i.queue ≠ q ∨ s.kickAhead i then .next s
    else
      let ctx := (s.queue q).ctx
      let l := i.launchPkt.map (fun p => newLaunch k i ctx p.v ((s.declaredBlocks ctx p.v).getD []))
      let bound := s.entryBound i ctx
      let code := s.admitCode i l bound
      if code ≠ 0 then .next (s.closeItem k { i with rcode := code, state := 1 })
      else match l with
        | none => .next (s.setItem k { i with phase := .admitted, bound := bound })
        | some v =>
          let n := tabFresh s.launches
          .next ((s.setLaunch n v).setItem k { i with phase := .admitted, bound := bound, launch := some n })

/-! ### Dispatch (R407, R410) -/

/-- Earlier entries of the queue have started (R388). -/
def State.inRingOrder (s : State) (k : Nat) (i : Item) : Bool :=
  i.started || s.items.all (fun j => !(decide (j.1 < k) && j.2.queue == i.queue && !j.2.started &&
    (j.2.phase == .pending || j.2.phase == .admitted)))

/-- Launches that wait for tiles and a sequencer, the first-ordered first: their number, and whether they are saved. No launch
starts or resumes while WARN holds (R422). -/
def insertWaiting (s : State) (x : Nat × Launch) : List (Nat × Launch) → List (Nat × Launch)
  | [] => [x]
  | y :: r => match s.item x.2.item, s.item y.2.item with
    | some a, some b => if a.before b then x :: y :: r else y :: insertWaiting s x r
    | _, _ => y :: r

def State.waitingLaunches (s : State) : List (Nat × Launch) :=
  let ready (l : Launch) : Bool := match s.item l.item with
    | none => false
    | some i =>
      l.phase == .saved ||
        (l.phase == .waiting && i.phase == .admitted && i.atLaunch && s.inRingOrder l.item i)
  if s.warn || s.saving then []
  else (s.launches.filter (fun l => ready l.2)).foldl (fun acc l => insertWaiting s l acc) []

/-- What a waiting launch is given: an origin, a sequencer, and the launches that stand in its way. -/
structure Pick where
  x0 : Nat
  y0 : Nat
  seqn : Nat
  victims : List Nat
  deriving DecidableEq, Repr

/-- Two regions share a tile. -/
def Launch.meets (a b : Launch) : Bool :=
  decide (a.x0 < b.x0 + b.w) && decide (b.x0 < a.x0 + a.w) && decide (a.y0 < b.y0 + b.h) && decide (b.y0 < a.y0 + a.h)

/-- Launch `j` may be pre-empted for item `i`: it comes later in dispatch order, and `i` is not background work. -/
def State.yields (s : State) (i : Item) (j : Launch) : Bool :=
  !i.behind && (s.item j.item).any (fun x => i.before x)

/-- The places that a waiting launch may take: its legal origins, or the one that it is fixed to (R22, R407). -/
def State.seats (s : State) (l : Launch) : List Launch :=
  let origins := if l.place && l.phase == .waiting then originsOf l.whole l.w l.h else [(l.x0, l.y0)]
  (origins.map (fun o => { l with x0 := o.1, y0 := o.2 })).filter (fun m => s.part.boxOk m.x0 m.y0 m.w m.h)

/-- The pick of a waiting launch, when earlier ones have claimed regions and sequencers. -/
def State.pickFor (s : State) (l : Launch) (claims : List (Launch × Nat)) : Option Pick :=
  match s.item l.item with
  | none => none
  | some i =>
    let live := s.launches.filter (fun j => j.2.live)
    let legal := (s.seats l).filter (fun m => claims.all (fun c => !c.1.meets m))
    let holders (m : Launch) := live.filter (fun j => j.2.meets m)
    let best := (legal.find? (fun m => (holders m).isEmpty)).orElse (fun _ =>
      legal.find? (fun m => (holders m).all (fun j => s.yields i j.2)))
    match best with
    | none => none
    | some m =>
      let hs := (holders m).map (fun j => j.1)
      let seqs := (if l.phase = .saved then [l.seqn] else List.range 32).filter (fun n =>
        s.part.seqOk n && claims.all (fun c => c.2 != n))
      match seqs.find? (fun n => live.all (fun j => j.2.seqn != n)) with
      | some n => some { x0 := m.x0, y0 := m.y0, seqn := n, victims := hs }
      | none =>
        let give := live.filter (fun j => seqs.contains j.2.seqn && s.yields i j.2)
        let last := give.foldl (fun (b : Option (Nat × Launch)) j => match b with
          | none => some j
          | some c => match s.item c.2.item, s.item j.2.item with
            | some x, some y => if x.before y then some j else some c
            | _, _ => b) none
        last.map (fun j => { x0 := m.x0, y0 := m.y0, seqn := j.2.seqn, victims := (j.1 :: hs).eraseDups })

/-- The picks of the waiting launches in dispatch order; each one's claim stands against the later ones, and one without a
pick claims every place that it waits for (R407, R410; DEDUCED, log 41). -/
def State.picks (s : State) : List (Nat × Launch) → List (Launch × Nat) → List (Nat × Pick)
  | [], _ => []
  | (k, l) :: r, claims =>
    match s.pickFor l claims with
    | none => s.picks r ((s.seats l).map (fun m => (m, if l.phase = .saved then l.seqn else 32)) ++ claims)
    | some p => (k, p) :: s.picks r (({ l with x0 := p.x0, y0 := p.y0 }, p.seqn) :: claims)

def State.plan (s : State) : List (Nat × Pick) := s.picks s.waitingLaunches []

/-- The pick of a launch that nothing stands in the way of (R407; DEDUCED, log 41). -/
def State.clearPick (s : State) (k : Nat) : Option Pick :=
  match tabFind s.plan k with
  | some p => if p.victims.isEmpty then some p else none
  | none => none

/-- A queue's reset that a linked pair has put off comes as soon as no pair of the queue runs: nothing else of the queue begins or
goes on before it (R400, R411; DEDUCED, log 42). -/
def State.resetDue (s : State) (q : Nat) : Bool := (s.queue q).putOff && !s.pairRuns q

/-- The first packet of item `k`, or its LAUNCH, may be dispatched now. -/
def State.startable (s : State) (k : Nat) (i : Item) : Bool :=
  i.phase == .admitted && s.inRingOrder k i && !s.actionDue i && !s.resetDue i.queue &&
    (!i.atLaunch || i.launch.any (fun n => (s.launch n).any (fun l => l.phase == .waiting) && (s.clearPick n).isSome))

/-- Some item that comes before `i` in dispatch order waits for nothing but its dispatch (R407). -/
def State.outranked (s : State) (i : Item) : Bool :=
  s.items.any (fun j => j.2.before i && (!j.2.started || j.2.atLaunch) && s.startable j.1 j.2)

/-- DISPATCH: the next packet of an item may begin, its first packet and its LAUNCH in dispatch order; a LAUNCH is given its
region and its sequencer (R388, R407). -/
def execDispatch (item : Nat) (s : State) : Out :=
  match s.item item with
  | none => .next s
  | some i =>
    if i.phase ≠ .admitted ∨ !s.inRingOrder item i ∨ s.actionDue i ∨ s.resetDue i.queue ∨ ((!i.started || i.atLaunch) && s.outranked i) then .next s
    else
      let j := { i with phase := .dispatched, started := true }
      if !i.atLaunch then .next (s.setItem item j)
      else match i.launch with
        | none => .next s
        | some k => match s.launch k, s.clearPick k with
          | some l, some p =>
            if l.phase ≠ .waiting then .next s
            else .next ((s.setLaunch k { l with x0 := p.x0, y0 := p.y0, seqn := p.seqn, phase := .loading }).setItem item j)
          | _, _ => .next s

end Sys2Proof.Machine
end

