-- ==== Sys2Proof/Machine/SlotFloat.lean ====
section
/-!
DEFINITION. The float operators of a slot (R166 to R171) and the conversions between elements (R172 to R174).
-/
namespace Sys2Proof.Machine
open Sys2Proof

/-- The float format of W and M[0] (R135). -/
def slotFmt (w : Nat) (alt : Bool) : Fmt :=
  match w with
  | 0 => if alt then e5m2 else e4m3
  | 1 => if alt then fp16 else bf16
  | 4 => e2m1
  | _ => fp32

end Sys2Proof.Machine
namespace Sys2Proof
open Machine
def SlotOp.fmt (o : SlotOp) : Fmt := slotFmt o.w.toNat (o.m.getLsbD 0)

/-- The rounding mode of M[2:1] (R114). -/
def SlotOp.mode (o : SlotOp) : Round := roundOf (bits o.m.toNat 1 2)
end Sys2Proof
namespace Sys2Proof.Machine
open Sys2Proof

def FRes.pair (r : FRes) : Nat × Flags := (r.bits, r.fl)

/-- An element-wise float operator on patterns; `k` tokens of power for each slice (R413). -/
def State.floatBits (s : State) (opc : Nat) (o : SlotOp) (k : Nat) (f : Fmt → Nat → Nat → Nat → FRes) : Out :=
  s.elemOp opc o (k * slices o.w.toNat) (fun a b c => (f o.fmt a b c).pair)

/-- An element-wise float operator on values. -/
def State.floatOp (s : State) (opc : Nat) (o : SlotOp) (f : Fmt → Round → FVal → FVal → FVal → FRes) : Out :=
  s.floatBits opc o 2 (fun t a b c => f t o.mode (t.decode a) (t.decode b) (t.decode c))

/-- FADD (R166). -/
def execFadd (o : SlotOp) (s : State) : Out := s.floatOp 0x20 o (fun t r a b _ => t.add r a b)

/-- FSUB (R166). -/
def execFsub (o : SlotOp) (s : State) : Out := s.floatOp 0x21 o (fun t r a b _ => t.add r a b.neg)

/-- FMUL (R166). -/
def execFmul (o : SlotOp) (s : State) : Out := s.floatOp 0x22 o (fun t r a b _ => t.mul r a b)

/-- FMA (R166). -/
def execFma (o : SlotOp) (s : State) : Out := s.floatOp 0x23 o (fun t r a b c => t.fma r a b c)

/-- The sign bit of a pattern. -/
def Fmt.isNeg (t : Fmt) (a : Nat) : Bool := bits a (t.w - 1) 1 == 1

/-- `a` is below `b`, with −0 below +0; no operand is a NaN (R167). -/
def Fmt.below (t : Fmt) (a b : Nat) : Bool :=
  let x := t.decode a
  let y := t.decode b
  x.lt y || (x.eqv y && t.isNeg a && !t.isNeg b)

/-- FMIN and FMAX: the operand that is no NaN, or the one that `first` prefers (R167). -/
def pickFloat (first : Fmt → Nat → Nat → Bool) (t : Fmt) (a b : Nat) : FRes :=
  match (t.decode a).isNan, (t.decode b).isNan with
  | true, true => { bits := t.nanRes.bits, fl := 0 }
  | true, false => { bits := b, fl := 0 }
  | false, true => { bits := a, fl := 0 }
  | false, false => { bits := if first t a b then a else b, fl := 0 }

/-- FMIN (R167). -/
def execFmin (o : SlotOp) (s : State) : Out :=
  s.floatBits 0x24 o 2 (fun t a b _ => pickFloat (fun t a b => !t.below b a) t a b)

/-- FMAX (R167). -/
def execFmax (o : SlotOp) (s : State) : Out :=
  s.floatBits 0x25 o 2 (fun t a b _ => pickFloat (fun t a b => !t.below a b) t a b)

/-- A pattern with its sign replaced; a NaN gives the canonical NaN (R167). -/
def Fmt.withSign (t : Fmt) (neg : Bool) (a : Nat) : FRes :=
  { bits := if (t.decode a).isNan then t.nanRes.bits else t.signBit neg + bits a 0 (t.w - 1), fl := 0 }

/-- FABS (R167). -/
def execFabs (o : SlotOp) (s : State) : Out := s.floatBits 0x26 o 2 (fun t a _ _ => t.withSign false a)

/-- FNEG (R167). -/
def execFneg (o : SlotOp) (s : State) : Out := s.floatBits 0x27 o 2 (fun t a _ _ => t.withSign (!t.isNeg a) a)

/-- A compare; an ordered one sets NV for a NaN operand (R168). -/
def floatPred (ordered : Bool) (test : FVal → FVal → Bool) (a b : FVal) : FRes :=
  if a.isNan || b.isNan then { bits := 0, fl := flIf ordered flNV } else { bits := (test a b).toNat, fl := 0 }

/-- FCMPEQ (R168). -/
def execFcmpeq (o : SlotOp) (s : State) : Out := s.floatOp 0x28 o (fun _ _ a b _ => floatPred false FVal.eqv a b)

/-- FCMPLT (R168). -/
def execFcmplt (o : SlotOp) (s : State) : Out := s.floatOp 0x29 o (fun _ _ a b _ => floatPred true FVal.lt a b)

/-- FCMPLE (R168). -/
def execFcmple (o : SlotOp) (s : State) : Out :=
  s.floatOp 0x2A o (fun _ _ a b _ => floatPred true (fun x y => !y.lt x) a b)

/-- FCMPUN (R168). -/
def execFcmpun (o : SlotOp) (s : State) : Out :=
  s.floatOp 0x2B o (fun _ _ a b _ => { bits := (a.isNan || b.isNan).toNat, fl := 0 })

/-- `1 / a`: division of one. -/
def execRcp (o : SlotOp) (s : State) : Out :=
  s.floatBits 0x2C o 4 (fun t a _ _ => t.div .rne (.fin false 1 0) (t.decode a))

/-- RSQ (R171). -/
def execRsq (o : SlotOp) (s : State) : Out := s.floatBits 0x2D o 4 (fun t a _ _ => t.rsq (t.decode a))

/-- SQRT under the mode of M[2:1] (R171). -/
def execSqrt (o : SlotOp) (s : State) : Out := s.floatBits 0x2E o 4 (fun t a _ _ => t.sqrt o.mode (t.decode a))

/-- EXP2 (R171). -/
def execExp2 (o : SlotOp) (s : State) : Out := s.floatBits 0x2F o 4 (fun t a _ _ => t.exp2 (t.decode a))

/-- LOG2 (R171). -/
def execLog2 (o : SlotOp) (s : State) : Out := s.floatBits 0x30 o 4 (fun t a _ _ => t.log2 (t.decode a))

/-- TANH (R171). -/
def execTanh (o : SlotOp) (s : State) : Out := s.floatBits 0x31 o 4 (fun t a _ _ => t.tanh (t.decode a))

/-- SIGM (R171). -/
def execSigm (o : SlotOp) (s : State) : Out := s.floatBits 0x32 o 4 (fun t a _ _ => t.sigm (t.decode a))

/-- FRND (R169). -/
def execFrnd (o : SlotOp) (s : State) : Out :=
  s.floatBits 0x33 o 2 (fun t a _ _ => { bits := t.integral o.mode a, fl := 0 })

/-- The class of a pattern: its bit in the mask of R170. -/
def Fmt.classBit (t : Fmt) (a : Nat) : Nat :=
  let neg := t.isNeg a
  match t.decode a with
  | .nan => 8
  | .inf n => if n then 0 else 7
  | .fin _ m _ =>
    if m = 0 then (if neg then 3 else 4)
    else if bits a t.mb t.eb = 0 then (if neg then 2 else 5)
    else if neg then 1 else 6

/-- FCLASS: a mask of each element, 16 bits apart (R170). -/
def execFclass (o : SlotOp) (s : State) : Out :=
  let w := o.w.toNat
  let cls (v j : Nat) : Nat := 2 ^ o.fmt.classBit (elem w j v)
  s.pureOp 0x34 o (2 * slices w) (fun a _ _ => (if w = 4 then cls a 0 + cls a 1 * 2 ^ 16 else cls a 0, 0))

/-! ### Conversions (R141, R172 to R174) -/

/-- A conversion's source: its format or its integer width and sign. -/
inductive Src where
  | float (f : Fmt)
  | int (w : Nat) (signed : Bool)

/-- SRC (R141). -/
def srcOf : Nat → Src
  | 0 => .float fp32
  | 1 => .float bf16
  | 2 => .float fp16
  | 3 => .float e4m3
  | 4 => .float e5m2
  | 5 => .float e2m1
  | 6 => .int 8 true
  | 7 => .int 16 true
  | 8 => .int 32 true
  | 9 => .int 64 true
  | 10 => .int 4 true
  | 11 => .int 8 false
  | 12 => .int 16 false
  | 13 => .int 32 false
  | _ => .int 64 false

def Src.width : Src → Nat
  | .float f => f.w
  | .int w _ => w

def Src.value : Src → Nat → FVal
  | .float f, v => f.decode v
  | .int _ false, v => .fin false v 0
  | .int w true, v => .fin (decide (toSigned w v < 0)) (toSigned w v).natAbs 0

end Sys2Proof.Machine
namespace Sys2Proof
open Machine
/-- SRC of an operator: FP32 without an extension word. -/
def SlotOp.src (o : SlotOp) : Src := srcOf (if o.m.getLsbD 3 then extSrc o.ext else 0)
end Sys2Proof
namespace Sys2Proof.Machine
open Sys2Proof

/-- Slices of a width in bits. -/
def sliceBits (n : Nat) : Nat := max 1 (n / 8)

/-- A conversion to elements of `dw` bits: two elements when either side is a pair (R146, R174). -/
def State.convert (s : State) (opc : Nat) (o : SlotOp) (dw : Nat) (f : FVal → FRes) : Out :=
  let sw := o.src.width
  let one (v j : Nat) : FRes := f (o.src.value (bits v (sw * j) sw))
  s.pureOp opc o (2 * max (slices o.w.toNat) (sliceBits sw)) (fun a _ _ =>
    if sw = 4 ∨ dw = 4 then ((one a 0).bits + (one a 1).bits * 2 ^ dw, (one a 0).fl ||| (one a 1).fl) else (one a 0).pair)

/-- CVTF (R172). -/
def execCvtf (o : SlotOp) (s : State) : Out := s.convert 0x35 o o.fmt.w (o.fmt.roundVal o.mode)

/-- CVTI (R173). -/
def execCvti (o : SlotOp) (s : State) : Out :=
  let n := elemWidth o.w.toNat
  s.convert 0x36 o n (cvtInt o.mode n (o.m.getLsbD 0))

/-- CVTIF (R172). -/
def execCvtif (o : SlotOp) (s : State) : Out := s.convert 0x37 o o.fmt.w (o.fmt.roundVal o.mode)

end Sys2Proof.Machine
end

