-- ==== Sys2Proof/Machine/SlotConvert.lean ====
section
/-!
DEFINITION. The convert and quantise operators of a slot (R175 to R181) and the draws of stochastic rounding (R119).
-/
namespace Sys2Proof.Machine
open Sys2Proof

/-! ### Draws (R119) -/

/-- The generator state of slot `i` of tile `t` at the start of an invocation. -/
def rngStart (seed : BitVec 32) (t i : Nat) : BitVec 32 :=
  let v := seed ^^^ BitVec.ofNat 32 (0x9E3779B9 * (64 * t + i + 1))
  if v = 0 then 1 else v

/-- One xorshift step. -/
def rngStep (x : BitVec 32) : BitVec 32 :=
  let x1 := x ^^^ (x <<< 13)
  let x2 := x1 ^^^ (x1 >>> 17)
  x2 ^^^ (x2 <<< 5)

/-- The running slot's generator state. -/
def State.rng (s : State) : BitVec 32 := s.slotSt.rng.getD (rngStart s.curT.seed s.curTile s.curSlot)

/-! ### Packing -/

/-- The elements of a list of results, element `j` in bits `j·d` up, with the OR of their flags. -/
def packElems (d : Nat) : List FRes → Nat × Flags
  | [] => (0, 0)
  | r :: rs => let p := packElems d rs; (r.bits + p.1 * 2 ^ d, r.fl ||| p.2)

/-- BF16 element `j` of a token (R175). -/
def bfElem (v j : Nat) : Nat := bits v (16 * j) 16

/-- Both targets get the same token. -/
def sameToken (base : Nat) (k : Token) (fl : Flags) : Firing := { base := base, run := fun s => (s.orFlags fl, [k], [k]) }

/-- `|x|` as a value. -/
def FVal.abs : FVal → FVal
  | .nan => .nan
  | .inf _ => .inf false
  | .fin _ m e => .fin false m e

/-- A BF16 element is an outlier against threshold `t` (R175). -/
def outlier (t : FVal) (x : Nat) : Bool :=
  let v := bf16.decode x
  v.isNan || (!t.isNan && t.lt v.abs)

/-- QCVT: the converted elements to T0 and the outlier mask to T1 (R175). -/
def execQcvt (o : SlotOp) (s : State) : Out :=
  s.fireRule 0x58 o (fun a b _ =>
    let x := a.data.toNat
    let t := fp32.decode (bits b.data.toNat 0 32)
    let v := packElems o.fmt.w ((List.range 4).map (fun j => o.fmt.roundVal o.mode (bf16.decode (bfElem x j))))
    let mask := (List.range 4).foldl (fun m j => m + (outlier t (bfElem x j)).toNat * 2 ^ j) 0
    let psn := a.psn || ((slotPorts 0x58 o).contains 1 && b.psn)
    { base := 2 * slices o.w.toNat,
      run := fun s => (s.orFlags v.2, [Token.mk' (word v.1) psn], [Token.mk' (word mask) psn]) })

/-- TAG of a side entry (R176). -/
def sideTag (w : Nat) (alt : Bool) : Nat :=
  match w with
  | 0 => if alt then 2 else 1
  | 4 => 3
  | _ => 4

/-- QSIDE's fold over the elements of a firing: outliers counted, entries appended and whether one was dropped (R176). -/
def sideStep (limit p tag x mask : Nat) (a : Nat × List (BitVec 32) × Bool) (j : Nat) : Nat × List (BitVec 32) × Bool :=
  if bits mask j 1 = 0 then a
  else
    let c := (a.1 + 1) % 2 ^ 32
    if limit = 0 ∨ c ≤ limit then
      (c, a.2.1 ++ [BitVec.ofNat 32 (bfElem x j * 2 ^ 16 + (p + j) % 1024 * 2 ^ 6 + tag)], a.2.2)
    else (c, a.2.1, true)

/-- Two side entries in one token, each with its poison. -/
def sidePair (x y : BitVec 32 × Bool) : Token := Token.mk' (y.1 ++ x.1) (x.2 || y.2)

/-- Completed pairs of entries, and the odd one that stays pending. -/
def sidePairs : List (BitVec 32 × Bool) → List Token × Option (BitVec 32 × Bool)
  | [] => ([], none)
  | [x] => ([], some x)
  | x :: y :: r => let p := sidePairs r; (sidePair x y :: p.1, p.2)

/-- QSIDE: the side list to T0 and, at its end, the count to T1 (R176). IMM is the limit unless IMMP makes it replace a port; the
limit is then 0 (DESIGN CHOICE, log 57). -/
def execQside (o : SlotOp) (s : State) : Out :=
  let st := s.slotSt
  let limit := if extImmp o.ext = 0 ∧ o.m.getLsbD 3 then (extImm o.ext).toNat else 0
  let tail : List Token := match st.pending with
    | none => []
    | some x => [sidePair x (0xFFFFFFFF, false)]
  s.fireRule 0x59 o (fun a b _ =>
    let psn := a.psn || ((slotPorts 0x59 o).contains 1 && b.psn)
    let r := (List.range 4).foldl
      (sideStep limit st.count (sideTag o.w.toNat (o.m.getLsbD 0)) a.data.toNat b.data.toNat) (st.aux, [], false)
    let p := sidePairs (st.pending.toList ++ r.2.1.map (fun x => (x, psn)))
    let lost := (psn && r.2.1.isEmpty) || (o.t0 == 0x1FF && p.1.any Token.psn)
    { base := 2 * slices o.w.toNat, room0 := 2, room1 := 0, counts := true,
      run := fun s1 =>
        let v := { s1.slotSt with count := (st.count + 4) % 1024, aux := r.1, pending := p.2 }
        ((s1.setSlotSt v).orFlags (flIf r.2.2 flOLOV ||| flIf lost flPSEEN), p.1, []) })
    { k0 := tail, k1 := [Token.mk' (word st.aux) false],
      fl := flIf (o.t0 == 0x1FF && tail.any Token.psn) flPSEEN }

/-- PACK: both ports are read as FP32, an immediate too (R155, R177, DEDUCED, log 24). -/
def execPack (o : SlotOp) (s : State) : Out :=
  s.fireRule 0x5A o (fun a b _ =>
    let one (v : Token) : FRes := o.fmt.roundVal o.mode (fp32.decode (bits v.data.toNat 0 32))
    oneResult (2 * slices o.w.toNat) a b a (slotPorts 0x5A o) (packElems o.fmt.w [one a, one b]))

/-- UNPK: element 0 to T0 and element 1 to T1, each as FP32 (R178). -/
def execUnpk (o : SlotOp) (s : State) : Out :=
  s.fireRule 0x5B o (fun a _ _ =>
    let one (j : Nat) : FRes := fp32.roundVal .rne (o.fmt.decode (bits a.data.toNat (o.fmt.w * j) o.fmt.w))
    { base := 2 * slices o.w.toNat,
      run := fun s => (s, [Token.mk' (word (one 0).bits) a.psn], [Token.mk' (word (one 1).bits) a.psn]) })

/-- A value times a power of two. -/
def FVal.scale (k : Int) : FVal → FVal
  | .nan => .nan
  | .inf n => .inf n
  | .fin n m e => .fin n m (e + k)

/-- MXQ: two FP32 values scaled and rounded; the scale 0xFF makes both results NaNs and poisons the token (R179). -/
def execMxq (o : SlotOp) (s : State) : Out :=
  s.fireRule 0x5C o (fun a b _ =>
    let x := bits b.data.toNat 0 8
    let one (j : Nat) : FRes :=
      if x = 0xFF then o.fmt.nanRes
      else o.fmt.roundVal o.mode ((fp32.decode (bits a.data.toNat (32 * j) 32)).scale (127 - (x : Int)))
    oneResult (2 * slices o.w.toNat) a b a (slotPorts 0x5C o) (packElems o.fmt.w [one 0, one 1]) (x == 0xFF))

/-- DEQ: two elements times their scale as FP32 under RNE (R180). -/
def execDeq (o : SlotOp) (s : State) : Out :=
  s.fireRule 0x5D o (fun a b _ =>
    let x := bits b.data.toNat 0 8
    let one (j : Nat) : FRes :=
      if x = 0xFF then fp32.nanRes
      else fp32.roundVal .rne ((o.fmt.decode (bits a.data.toNat (o.fmt.w * j) o.fmt.w)).scale ((x : Int) - 127))
    oneResult (2 * slices o.w.toNat) a b a (slotPorts 0x5D o) (packElems 32 [one 0, one 1]) (x == 0xFF))

/-- SRND: one draw for each element, in ascending order (R119, R120, R181; DEDUCED, log 45). -/
def execSrnd (o : SlotOp) (s : State) : Out :=
  let d0 := rngStep s.rng
  let d1 := rngStep d0
  s.fireRule 0x5E o (fun a _ _ =>
    let one (j : Nat) (d : BitVec 32) : FRes := o.fmt.roundVal (.draw d.toNat) (fp32.decode (bits a.data.toNat (32 * j) 32))
    let r := packElems o.fmt.w (if o.w = 4 then [one 0 d0, one 1 d1] else [one 0 d0])
    { base := 2 * slices o.w.toNat,
      run := fun s1 =>
        let k := Token.mk' (word r.1) a.psn
        ((s1.setSlotSt { s1.slotSt with rng := some (if o.w = 4 then d1 else d0) }).orFlags r.2, [k], [k]) })

end Sys2Proof.Machine
end

