-- ==== Sys2Proof/Machine/SlotMem.lean ====
section
/-!
DEFINITION. The local memory operators of a slot and the requests that the tile's memory interface performs (R98, R102,
R204 to R210).
-/
namespace Sys2Proof.Machine
open Sys2Proof

/-! ### Firing (R205, R209) -/

def State.slotReqs (s : State) : List MemReq := tabGet s.curT.reqs s.curSlot []

/-- One firing of a local memory operator: it appends a request, for which it has reserved room; a poisoned input faults
with `poison`, or is carried by the request where there is none. -/
def State.memOp (s : State) (opc : Nat) (o : SlotOp) (poison : Option Cause) : Out :=
  let ports := slotPorts opc o
  let q := s.slotReqs
  let n := q.length + 1
  if !s.slotLive then .next s
  else if s.allData ports then
    if 4 ≤ q.length || !s.slotRoom o n n || !s.canPay 4 then .next s
    else
      let bad := ports.find? (fun p => (s.operand opc o p).psn)
      match bad, poison with
      | some p, some c => s.slotFault c p
      | _, _ =>
        let r : MemReq := { a := s.operand opc o 0, b := s.operand opc o 1, psn := bad.isSome }
        let s1 := ports.foldl (fun st p => st.take p) (s.pay 4)
        let t := s1.curT
        .next (s1.setTile s1.curTile { t with reqs := tabPut t.reqs s.curSlot (q ++ [r]) })
  else if s.allEos ports then (if q.isEmpty then s.endAction o ports {} else .next s)
  else match s.eosMismatch ports with
    | some p => s.slotFault .flowEosMismatch p
    | none => .next s

/-- LD (R204). -/
def execLd (o : SlotOp) (s : State) : Out := s.memOp 0x40 o none

/-- ST (R204). -/
def execSt (o : SlotOp) (s : State) : Out := s.memOp 0x41 o (some .psnStore)

/-- LDFE (R204). -/
def execLdfe (o : SlotOp) (s : State) : Out := s.memOp 0x42 o none

/-- STFE (R204). -/
def execStfe (o : SlotOp) (s : State) : Out := s.memOp 0x43 o (some .psnStore)

/-- ATADD (R204). -/
def execAtadd (o : SlotOp) (s : State) : Out := s.memOp 0x44 o (some .psnAtomic)

/-- ATMIN (R204). -/
def execAtmin (o : SlotOp) (s : State) : Out := s.memOp 0x45 o (some .psnAtomic)

/-- ATMAX (R204). -/
def execAtmax (o : SlotOp) (s : State) : Out := s.memOp 0x46 o (some .psnAtomic)

/-- ATCAS (R204). -/
def execAtcas (o : SlotOp) (s : State) : Out := s.memOp 0x47 o (some .psnAtomic)

/-- ATXCH (R204). -/
def execAtxch (o : SlotOp) (s : State) : Out := s.memOp 0x48 o (some .psnAtomic)

/-- EMPTY (R204). -/
def execEmpty (o : SlotOp) (s : State) : Out := s.memOp 0x49 o (some .psnStore)

/-! ### Performing (R98, R206 to R208) -/

/-- What an atomic leaves in its bytes, from the old value and the operands, all of `n` bits (R206). -/
def atomicNew (opc n : Nat) (unsigned : Bool) (old a b : Nat) : Nat :=
  let below : Bool := if unsigned then decide (a < old) else decide (toSigned n a < toSigned n old)
  match opc with
  | 0x44 => (old + a) % 2 ^ n
  | 0x45 => if below then a else old
  | 0x46 => if below then old else a
  | 0x47 => if old = a then b else old
  | _ => a

/-- A request performs: the state and the results for T0 and T1; none while it waits on a full-empty bit. -/
def State.perform (s : State) (t opc : Nat) (o : SlotOp) (r : MemReq) : Option (State × Nat × Nat) :=
  let off := extOff o.ext
  let w := 2 ^ o.w.toNat
  let n := 8 * w
  let loc := scratchLoc t off
  let g := off / 16
  let a := bits r.a.data.toNat 0 n
  let b := bits r.b.data.toNat 0 n
  let ext (v : Nat) : Nat := if o.m.getLsbD 0 then wrapNat 64 (toSigned n v) else v
  let clear : Bool := extFe o.ext == 2
  match opc with
  | 0x40 => let v := ext (memNat s.mem loc w); some (s, v, v)
  | 0x41 => some (s.storeNat loc w a, 0, 0)
  | 0x42 =>
    if !s.isFull t g then none
    else
      let v0 := ext (memNat s.mem loc w)
      let v1 := ext (memNat s.mem (loc + 8) w)
      some (if clear then s.setFull t g false else s, v0, v1)
  | 0x43 =>
    if clear && s.isFull t g then none
    else some ((s.storeBytes loc (leBytes 8 a ++ leBytes 8 b)).setFull t g true, 0, 0)
  | 0x49 => some (s.setFull t g false, 0, 0)
  | _ =>
    let old := memNat s.mem loc w
    some (s.storeNat loc w (atomicNew opc n (o.m.getLsbD 0) old a b), old, old)

/-- A request may perform after the last one performed (R102). -/
def eligible (last : Option (Nat × Nat)) (e : Word32) : Bool :=
  match last with
  | none => extPred e == 62
  | some (succ, own) => succ == extOwn e || extPred e == own

/-- The eligible request of a tile: its slot, operator and fields, and itself with the rest of its queue. -/
def Tile.nextReq (v : Tile) : Option (Nat × Nat × SlotOp × MemReq × List MemReq) :=
  v.reqs.findSome? (fun q =>
    match q.2, v.plane.slot q.1 with
    | r :: rest, some (opc, o) => if eligible v.last o.ext then some (q.1, opc, o, r, rest) else none
    | _, _ => none)

/-- LOCAL_MEMORY_REQUEST_PERFORM: the eligible request performs and its results take the reserved room (R102, R205). -/
def execLocalMemoryRequestPerform (tile : Nat) (s : State) : Out :=
  let v := s.tile tile
  if (s.tileLaunch tile).isNone then .next s
  else match v.nextReq with
    | none => .next s
    | some (slot, opc, o, r, rest) =>
      match { s with curTile := tile, curSlot := slot }.perform tile opc o r with
      | none => .next s
      | some (s1, v0, v1) =>
        let last := if extSucc o.ext = 62 then none else some (extSucc o.ext, extOwn o.ext)
        let s2 := s1.setTile tile { v with reqs := tabPut v.reqs slot rest, last := last }
        let s3 := if r.psn && o.mute then s2.orFlags flPSEEN else s2
        .next (s3.put o [Token.mk' (word v0) r.psn] [Token.mk' (word v1) r.psn])

end Sys2Proof.Machine
end

