-- ==== Sys2Proof/Machine/SlotStream.lean ====
section
/-!
DEFINITION. The stream-join and lane operators of a slot (R182 to R190).
-/
namespace Sys2Proof.Machine
open Sys2Proof

/-! ### JOIN (R183) -/

/-- A step of JOIN: the tokens it takes from a and from b, the DATA that it emits and its flags. -/
structure JoinStep where
  fromA : Bool
  fromB : Bool
  out : Option Word
  fl : Flags := 0

/-- What JOIN does with two heads that are not both an end of stream; the mode is isect 0, union 1, merge 2, diff 3. -/
def joinStep (mode : Nat) (sum : Bool) (ha hb : Token) : JoinStep :=
  let ka := bits ha.data.toNat 32 32
  let kb := bits hb.data.toNat 32 32
  let keep (b : Bool) (v : Word) : Option Word := if b then some v else none
  if ha.isEos || (!hb.isEos && kb < ka) then { fromA := false, fromB := true, out := keep (mode == 1 || mode == 2) hb.data }
  else if hb.isEos || ka < kb || mode == 2 then { fromA := true, fromB := false, out := keep (mode != 0) ha.data }
  else
    let r := fp32.add .rne (fp32.decode (bits ha.data.toNat 0 32)) (fp32.decode (bits hb.data.toNat 0 32))
    let put : Bool := mode ≤ 1
    { fromA := true, fromB := true,
      out := keep put (if sum then word (ka * 2 ^ 32 + r.bits) else ha.data), fl := flIf (put && sum) r.fl }

/-- JOIN (R183). -/
def execJoin (o : SlotOp) (s : State) : Out :=
  if !s.slotLive then .next s
  else match s.head 0, s.head 1 with
    | some ha, some hb =>
      if ha.isEos && hb.isEos then s.endAction o [0, 1] { fl := flIf s.slotSt.psn flPSEEN }
      else
        let j := joinStep (bits o.m.toNat 1 2) (o.m.getLsbD 0) ha hb
        let cost := slices o.w.toNat
        if !s.slotRoom o 1 1 || !s.canPay cost then .next s
        else
          let s1 := s.pay cost
          let s2 := if j.fromA then s1.take 0 else s1
          let s3 := if j.fromB then s2.take 1 else s2
          let psn := (j.fromA && ha.psn) || (j.fromB && hb.psn) || s.slotSt.psn
          match j.out with
          | none => .next (s3.setSlotSt { s3.slotSt with psn := psn })
          | some v =>
            let k := [Token.mk' v psn]
            let s4 := (s3.setSlotSt { s3.slotSt with psn := false }).orFlags (j.fl ||| flIf (psn && o.mute) flPSEEN)
            .next (s4.put o k k)
    | _, _ => .next s

/-! ### Accumulators (R184 to R188) -/

/-- Power for each firing: an integer operator costs 1 for each slice and a float one 2 (R413). -/
def laneCost (o : SlotOp) : Nat := (if o.m.getLsbD 0 then 2 else 1) * slices o.w.toNat

/-- The accumulator after one more element of ACC or SCAN (R184). -/
def accStep (o : SlotOp) (acc : Option Word) (x : Nat) : Nat × Flags :=
  let n := elemWidth o.w.toNat
  if o.m.getLsbD 0 then
    match acc with
    | none => (fp32.roundVal .rne (fp32.decode x)).pair
    | some a => (fp32.add o.mode (fp32.decode a.toNat) (fp32.decode x)).pair
  else match acc with
    | none => (x, 0)
    | some a => fitInt n (o.m.getLsbD 1) (toSigned n a.toNat + toSigned n x)

/-- A lane operator that takes a token and emits nothing until its end. -/
def State.laneOp (s : State) (opc : Nat) (o : SlotOp) (cost : Nat) (f : SlotState → Nat → SlotState × Flags) (e : Ending) : Out :=
  s.fireRule opc o (fun a _ _ =>
    let r := f s.slotSt (elem o.w.toNat 0 a.data.toNat)
    { base := cost, counts := true,
      run := fun s1 => ((s1.setSlotSt { r.1 with psn := r.1.psn || a.psn }).orFlags r.2, [], []) }) e

/-- The ending of a lane operator: its final tokens count as one firing (R182), and poison that no target takes sets
PSEEN. -/
def laneEnd (o : SlotOp) (cost : Nat) (psn : Bool) (v0 v1 : Nat) : Ending :=
  { base := some cost, k0 := [Token.mk' (word v0) psn], k1 := [Token.mk' (word v1) psn], fl := flIf (psn && o.mute) flPSEEN }

/-- ACC (R184). -/
def execAcc (o : SlotOp) (s : State) : Out :=
  let v := (s.slotSt.acc.getD 0).toNat
  s.laneOp 0x39 o (laneCost o)
    (fun st x => let r := accStep o st.acc x; ({ st with acc := some (word r.1) }, r.2))
    (laneEnd o (laneCost o) s.slotSt.psn v v)

/-- SCAN: the accumulator after each token (R185). -/
def execScan (o : SlotOp) (s : State) : Out :=
  s.fireRule 0x3E o (fun a _ _ =>
    let r := accStep o s.slotSt.acc (elem o.w.toNat 0 a.data.toNat)
    let psn := s.slotSt.psn || a.psn
    { base := laneCost o,
      run := fun s1 =>
        let k := [Token.mk' (word r.1) psn]
        ((s1.setSlotSt { s1.slotSt with acc := some (word r.1), psn := psn }).orFlags r.2, k, k) })

/-- The float format of AMAX and ARGM (R161). -/
def laneFmt (o : SlotOp) : Fmt := slotFmt o.w.toNat (o.m.getLsbD 1)

/-- A magnitude as AMAX keeps it: `|s(x)|`, or `|x|` with a NaN made canonical (R186). -/
def magnitude (o : SlotOp) (x : Nat) : Nat :=
  if o.m.getLsbD 0 then ((laneFmt o).withSign false x).bits else (toSigned (elemWidth o.w.toNat) x).natAbs

/-- AMAX: magnitudes compare as unsigned patterns, and the canonical NaN lies above every other magnitude (R186). -/
def execAmax (o : SlotOp) (s : State) : Out :=
  let v := (s.slotSt.acc.getD 0).toNat
  s.laneOp 0x3A o (laneCost o)
    (fun st x => ({ st with acc := some (word (max (st.acc.getD 0).toNat (magnitude o x))) }, 0))
    (laneEnd o (laneCost o) s.slotSt.psn v v)

/-- Element `x` beats the best one so far (R187). -/
def beats (o : SlotOp) (x best : Nat) : Bool :=
  let n := elemWidth o.w.toNat
  let less (a b : Nat) : Bool :=
    if o.m.getLsbD 0 then (laneFmt o).below a b
    else if o.m.getLsbD 1 then decide (a < b)
    else decide (toSigned n a < toSigned n b)
  if o.m.getLsbD 2 then less x best else less best x

/-- ARGM: the first position of the extreme element, and the element (R187). -/
def execArgm (o : SlotOp) (s : State) : Out :=
  let st0 := s.slotSt
  let (pos, v) : Nat × Nat := match st0.acc with
    | some best => (st0.aux, best.toNat)
    | none => if st0.count = 0 then (0xFFFFFFFF, 0) else (0, (laneFmt o).nanRes.bits)
  s.laneOp 0x3B o (laneCost o)
    (fun st x =>
      let skip : Bool := o.m.getLsbD 0 && ((laneFmt o).decode x).isNan
      let better : Bool := !skip && (match st.acc with | none => true | some best => beats o x best.toNat)
      let st1 := if better then { st with acc := some (word x), aux := st.count } else st
      ({ st1 with count := st.count + 1 }, 0))
    (laneEnd o (laneCost o) st0.psn (pos % 2 ^ 32) v)

/-- CNT (R188). -/
def execCnt (o : SlotOp) (s : State) : Out :=
  let cost := slices o.w.toNat
  let n := elemWidth o.w.toNat
  let v := s.slotSt.count % 2 ^ n
  s.laneOp 0x3D o cost
    (fun st x => ({ st with count := if o.m.getLsbD 0 && x == 0 then st.count else (st.count + 1) % 2 ^ n }, 0))
    (laneEnd o cost s.slotSt.psn v v)

/-- IOTA: the next token of a running sequence, or the start of one (R189). The heads are looked at, for a mismatch too, once the
sequence has ended (DESIGN CHOICE, log 57). -/
def execIota (o : SlotOp) (s : State) : Out :=
  let cost := slices o.w.toNat
  let n := elemWidth o.w.toNat
  let rest (v left : Nat) (psn : Bool) : Option (Word × Nat × Bool) :=
    if left = 0 then none else some (word ((v + 1) % 2 ^ n), left, psn)
  match s.slotSt.iota with
  | some (v, left, psn) =>
    if !s.slotLive || !s.slotRoom o 1 1 || !s.canPay cost then .next s
    else
      let s1 := s.pay cost
      let k := [Token.mk' v psn]
      let s2 := s1.setSlotSt { s1.slotSt with iota := rest v.toNat (left - 1) psn }
      .next ((if psn && o.mute then s2.orFlags flPSEEN else s2).put o k k)
  | none =>
    s.fireRule 0x3C o (fun a b _ =>
      let count := elem o.w.toNat 0 a.data.toNat
      let v := elem o.w.toNat 0 b.data.toNat
      let psn := a.psn || ((slotPorts 0x3C o).contains 1 && b.psn)
      { base := cost,
        run := fun s1 =>
          let k := if count = 0 then [] else [Token.mk' (word v) psn]
          (s1.setSlotSt { s1.slotSt with iota := rest v (count - 1) psn }, k, k) })

/-- HALT takes every data token and emits none (R190). -/
def execHalt (o : SlotOp) (s : State) : Out :=
  s.fireRule 0x3F o (fun _ _ _ => { base := 1, room0 := 0, room1 := 0, run := fun s1 => (s1, [], []) })

end Sys2Proof.Machine
end

