-- ==== Sys2Proof/Machine/Elements.lean ====
section
/-!
DEFINITION. The elements of a tile: the instruction that a slot or record holds, its step, and whether anything of a region can
still move (R437 step 5).
-/
namespace Sys2Proof.Machine
open Sys2Proof

/-- The instruction in slot `i` of a tile's resident configuration; none in an empty or an extension slot. -/
def State.slotInstr (s : State) (t i : Nat) : Option Instr :=
  let p := (s.tile t).plane
  let w := p.slotWord i
  if w = 0 ∨ p.isExt i then none
  else match decodeSlot w (if w.getLsbD 21 then p.slotWord (i + 1) else 0) with
    | .ok ins => some ins
    | .error _ => none

/-- The instruction in route record `q` of a tile's resident configuration. -/
def State.recInstr (s : State) (t q : Nat) : Option Instr :=
  match (s.tile t).plane.recs[q]? with
  | none => none
  | some v => match decodeRec v with
    | .ok ins => some ins
    | .error _ => none

/-- The running element becomes slot or record `i` of tile `t`. -/
def State.atElement (s : State) (t i : Nat) : State := { s with curTile := t, curSlot := i }

/-- The step of the element that the state stands at, for an instruction of a slot or a record. -/
def elementStep (i : Instr) (s : State) : Out :=
  match i with
  | .addOperator o => execAddOperator o s
  | .subOperator o => execSubOperator o s
  | .adds o => execAdds o s
  | .subs o => execSubs o s
  | .mulOperator o => execMulOperator o s
  | .mulhOperator o => execMulhOperator o s
  | .mad o => execMad o s
  | .abs o => execAbs o s
  | .neg o => execNeg o s
  | .minOperator o => execMinOperator o s
  | .maxOperator o => execMaxOperator o s
  | .minu o => execMinu o s
  | .maxu o => execMaxu o s
  | .andOperator o => execAndOperator o s
  | .orOperator o => execOrOperator o s
  | .xorOperator o => execXorOperator o s
  | .andn o => execAndn o s
  | .not o => execNot o s
  | .shl o => execShl o s
  | .shr o => execShr o s
  | .sar o => execSar o s
  | .rol o => execRol o s
  | .clz o => execClz o s
  | .popc o => execPopc o s
  | .cmpeq o => execCmpeq o s
  | .cmpne o => execCmpne o s
  | .cmplt o => execCmplt o s
  | .cmple o => execCmple o s
  | .cmpltu o => execCmpltu o s
  | .cmpleu o => execCmpleu o s
  | .sel o => execSel o s
  | .fadd o => execFadd o s
  | .fsub o => execFsub o s
  | .fmul o => execFmul o s
  | .fma o => execFma o s
  | .fmin o => execFmin o s
  | .fmax o => execFmax o s
  | .fabs o => execFabs o s
  | .fneg o => execFneg o s
  | .fcmpeq o => execFcmpeq o s
  | .fcmplt o => execFcmplt o s
  | .fcmple o => execFcmple o s
  | .fcmpun o => execFcmpun o s
  | .rcp o => execRcp o s
  | .rsq o => execRsq o s
  | .sqrt o => execSqrt o s
  | .exp2 o => execExp2 o s
  | .log2 o => execLog2 o s
  | .tanh o => execTanh o s
  | .sigm o => execSigm o s
  | .frnd o => execFrnd o s
  | .fclass o => execFclass o s
  | .cvtf o => execCvtf o s
  | .cvti o => execCvti o s
  | .cvtif o => execCvtif o s
  | .join o => execJoin o s
  | .acc o => execAcc o s
  | .amax o => execAmax o s
  | .argm o => execArgm o s
  | .iota o => execIota o s
  | .cnt o => execCnt o s
  | .scan o => execScan o s
  | .halt o => execHalt o s
  | .ld o => execLd o s
  | .st o => execSt o s
  | .ldfe o => execLdfe o s
  | .stfe o => execStfe o s
  | .atadd o => execAtadd o s
  | .atmin o => execAtmin o s
  | .atmax o => execAtmax o s
  | .atcas o => execAtcas o s
  | .atxch o => execAtxch o s
  | .empty o => execEmpty o s
  | .mrow o => execMrow o s
  | .mrows o => execMrows o s
  | .mwld o => execMwld o s
  | .mwrd o => execMwrd o s
  | .mscl o => execMscl o s
  | .mstat o => execMstat o s
  | .mclr o => execMclr o s
  | .qcvt o => execQcvt o s
  | .qside o => execQside o s
  | .pack o => execPack o s
  | .unpk o => execUnpk o s
  | .mxq o => execMxq o s
  | .deq o => execDeq o s
  | .srnd o => execSrnd o s
  | .evin o => execEvin o s
  | .evlk o => execEvlk o s
  | .evfr o => execEvfr o s
  | .evst o => execEvst o s
  | .evwr o => execEvwr o s
  | .evq o => execEvq o s
  | .eosg o => execEosg o s
  | .trapOperator o => execTrapOperator o s
  | .brk o => execBrk o s
  | .timeOperator o => execTimeOperator o s
  | .pcnt o => execPcnt o s
  | .seed o => execSeed o s
  | .pass r => execPass r s
  | .fork r => execFork r s
  | .steer r => execSteer r s
  | .merge r => execMerge r s
  | .carry r => execCarry r s
  | .invar r => execInvar r s
  | .delay r => execDelay r s
  | .edgeAgn r => execEdgeAgn r s
  | .edgeBarrier r => execEdgeBarrier r s
  | .edgeIndigo r => execEdgeIndigo r s
  | _ => .next s

/-! ### Quiescence (R437) -/

/-- A step leaves everything as it is, the element that it stands at aside. -/
def State.still (s : State) (o : Out) : Bool :=
  match o with
  | .next t => decide ({ t with curTile := s.curTile, curSlot := s.curSlot } = s)
  | _ => false

/-- Nothing of a tile can move, whatever its pool holds: no slot or record fires, and no step of its memory, matrix macro, event unit, links or
invocation is eligible. -/
def State.tileStill (s : State) (t : Nat) : Bool :=
  let rich := s.setTile t { s.tile t with pool := 2 ^ 40 }
  let p := (s.tile t).plane
  (List.range 64).all (fun i => match s.slotInstr t i with
    | none => true
    | some ins => let u := rich.atElement t i; u.still (elementStep ins u)) &&
  (List.range p.recs.length).all (fun q => match s.recInstr t q with
    | none => true
    | some ins => let u := s.atElement t q; u.still (elementStep ins u)) &&
  s.still (execLocalMemoryRequestPerform t s) && s.still (execRowArrival t s) && s.still (execRowForward t s) &&
  rich.still (execEventDelivery t rich) && s.still (execMarkEmit t s) && s.still (execInvocationStart t s) &&
  s.arcs.all (fun a => a.1 / 512 != t || (a.2.transit.isEmpty && (a.2.stopped || a.2.spilled == 0 || 64 ≤ a.2.queue.length)))

/-- Nothing that a port context can do is left: a read stream stands at a boundary, and a write stream has taken what there
is. -/
def State.pctxStill (s : State) (pc : Nat) (p : PCtx) : Bool :=
  p.st == .bound || p.st == .saved ||
  (p.tag.isNone && p.stopped.isNone && p.spill.isEmpty && p.part.isEmpty &&
    (if p.st == .draining then
       s.still (execStatusOr pc s) && s.still (execEndOfStream pc s) && s.still (execStreamCompletion pc s)
     else if spKind p.spec.toNat = 1 then
       p.inA.isEmpty && (!spAtt p.spec.toNat || (s.tile (spDtile p.spec.toNat)).matrix.south.isEmpty)
     else p.pos % spOuter p.spec.toNat == 0))

/-- The region of a launch is quiescent. -/
def State.quiescent (s : State) (k : Nat) (l : Launch) : Bool :=
  l.tiles.all s.tileStill && (s.pctxsOf k).all (fun p => p.2.cfg != l.cfg || s.pctxStill p.1 p.2) &&
    s.copies.all (fun j => !j.2.bound k l) && s.net.colls.all (fun c => !c.2.bound k)

end Sys2Proof.Machine
end

