-- ==== Sys2Proof/Machine/Preempt.lean ====
section
/-!
DEFINITION. The end of a launch by cancellation (R397, R431), pre-emption (R407, R422, R437), save areas (R438 to R440) and
resumption (R446 to R448). The bytes of a save area besides its header are free values (DESIGN CHOICE, log 14).
-/
namespace Sys2Proof.Machine
open Sys2Proof

/-! ### Cancelling (R86, R397, R431) -/

/-- Copies of a launch's sequencer. -/
def State.copiesOf (s : State) (k : Nat) : List (Nat × CopyJob) :=
  s.copies.filter (fun j => j.2.launch == some k && j.2.item.isNone)
def State.collsOf (s : State) (k : Nat) : List (Nat × Coll) := s.net.colls.filter (fun c => c.2.launch == some k)

/-- Every copy and collective of a launch's sequencer is cancelled. -/
def State.cancelEngines (s : State) (k : Nat) : State :=
  let s1 := (s.copiesOf k).foldl (fun st j => st.cancelCopy j.1) s
  (s1.collsOf k).foldl (fun st c => st.cancelColl c.1) s1

/-- What RETIRE with CANCEL cancels first (R397). -/
def State.cancelWork (s : State) (k : Nat) : State :=
  ((s.pctxsOf k).foldl (fun st p => st.cancelStream p.1) s).cancelEngines k

/-- What a queue reset cancels: streams without a status OR or an end of stream (R411). -/
def State.dropWork (s : State) (k : Nat) : State :=
  ((s.pctxsOf k).foldl (fun st p => st.haltStream p.1) s).cancelEngines k

/-- The engines of a cancelled launch have drained, so that the discard of R431 may follow without the tile conditions of R342:
a read stream has performed its status OR, and its end of stream goes with the tokens (R86, R431; DEDUCED, log 40). -/
def State.endable (s : State) (k : Nat) (l : Launch) : Bool :=
  (s.pctxsOf k).all (fun p => (!spReads p.2.spec.toNat || p.2.statusDone) && p.2.tag.isNone) && (s.copiesOf k).isEmpty &&
    (s.collsOf k).isEmpty && (s.seq l.seqn).waiting.isNone

/-- The sequencer runs no task and holds no message. -/
def State.seqIdle (s : State) (n : Nat) : Bool :=
  let q := s.seq n
  !q.running && q.queues.all (fun m => m.2.isEmpty) && q.arriving.isEmpty && q.held.isEmpty

/-- A launch may be released: the conditions of R342, at which an armed watch posts first, or for a frozen one only that its
engines have drained, and its sequencer runs no task and holds no message (R397, R431). -/
def State.retirable (s : State) (k : Nat) (l : Launch) : Bool :=
  (if l.frozen then s.endable k l else s.drained k l && (s.seq l.seqn).drainWatch.isNone) && s.seqIdle l.seqn

/-- Tokens, resident state and planes are discarded, and the launch is over (R431). -/
def State.discardLaunch (s : State) (k : Nat) (phase : LaunchPhase) (c : Option Cause) : State :=
  ((s.pctxsOf k).foldl (fun st p => st.dropStream p.1) s).overLaunch k phase c

/-- The complex cancels a launch as R431 states, with a record of why. -/
def State.cancelLaunch (s : State) (k : Nat) (c : Cause) : State :=
  match s.launch k with
  | none => s
  | some l =>
    let pos := (s.item l.item).elim 0xFFF (fun i => complexPos i.queue i.seqNo)
    let s1 := (s.complexRaise (some l.ctx) c pos).cancelWork k
    match s1.launch k with
    | none => s1
    | some v =>
      let s2 := s1.setLaunch k { v with endCause := some c, saved := none }
      if l.runs then s2.setLaunch k { v with endCause := some c, saved := none, phase := .stopping }
      else s2.overLaunch k .ended (some c)

/-! ### Pre-emption (R437) -/

/-- A launch that comes before another in dispatch order. -/
def State.launchBefore (s : State) (a b : Launch) : Bool :=
  match s.item a.item, s.item b.item with
  | some x, some y => x.before y
  | _, _ => false

/-- The complex requests the pre-emption of a launch: for one that comes earlier and needs its place, for an overrun, or in the
emergency save, one region at a time in dispatch order (R407, R408, R422). -/
def State.mustStop (s : State) (k : Nat) (l : Launch) : Bool :=
  l.asked || s.plan.any (fun p => p.2.victims.contains k) ||
    (s.saving && s.launches.all (fun j => j.1 == k || !j.2.live || (j.2.phase != .stopping && !s.launchBefore j.2 l)))

/-- A collective of the launch with SRCF = 1 whose EDGE has not taken its end of stream (R437 step 1). -/
def State.openColl (s : State) (k : Nat) : Bool := s.net.colls.any (fun c => c.2.bound k && !(c.2.input 0).ended)

/-- A LAUNCH that has begun and has not posted its start message returns to waiting (R407). -/
def State.unbegin (s : State) (k : Nat) (l : Launch) : State :=
  let s1 := (s.freeRegion l).setLaunch k { l with phase := .waiting, loadHeld := false, asked := false }
  match s1.item l.item with
  | none => s1
  | some i => s1.setItem l.item { i with phase := .admitted, background := i.behind }

/-- The request takes effect: read streams go on to their boundary, and a shadow plane is discarded whole with what R446
records of it. -/
def State.stopLaunch (s : State) (k : Nat) (l : Launch) : State :=
  let halt (p : PCtx) : PCtx := if p.launch = some k ∧ p.st = .running then { p with st := .stopping } else p
  let s1 := State.dropShadows { s with pctxs := s.pctxs.map (fun p => (p.1, halt p.2)) } l
  let kept : Saved :=
    { seq := Seq.reset, tiles := [], arcs := [], pctxs := [], bytes := [], poison := [], full := [],
      load := if l.shadow = .none then none else l.shPost, posted := l.shPosted, img := l.shImage, rcp := l.reconf }
  s1.setLaunch k { l with phase := .stopping, asked := false, shadow := .none, shPost := none, shPosted := false, reconf := none,
                          loadHeld := false, saved := some kept }

/-- A cancelled launch is over: one that an overrun has aborted ends as a RETIRE with CANCEL does, and any other once its engines
have drained (R397, R408, R431). -/
def State.mayEnd (s : State) (k : Nat) (l : Launch) : Bool :=
  l.runs && (if l.phase = .running then s.retirable k l else s.endable k l)

/-- The pre-emption of a frozen launch cancels it, and its entry ends with STATE 3, whatever else the cancelling fails (R437). -/
def State.cancelFrozen (s : State) (k : Nat) (l : Launch) : State :=
  (s.abortEntry l.item .schPreemptFrozen).cancelLaunch k .schPreemptFrozen

/-- No pre-emption takes effect between the packets of a linked pair, or while one of the launch's own entry runs (R400). -/
def State.pairHolds (s : State) (l : Launch) : Bool := (s.item l.item).any Item.inPair || s.items.any (fun i => i.2.midPair)

/-- PRE_EMPTION: a launch that must stop is stopped, not inside a linked pair; a frozen one is cancelled, and a cancelled one
ends (R400, R407, R431, R437). -/
def execPreEmption (launch : Nat) (s : State) : Out :=
  match s.launch launch with
  | none => .next s
  | some l =>
    if l.endCause.isSome then
      if s.mayEnd launch l then .next (s.discardLaunch launch .ended l.endCause) else .next s
    else if s.pairHolds l then .next s
    else match l.phase with
      | .loading => if s.mustStop launch l then .next (s.unbegin launch l).settleSaving else .next s
      | .running =>
        if !s.mustStop launch l then .next s
        else if l.frozen then .next (s.cancelFrozen launch l)
        else if s.openColl launch then .next s
        else .next (s.stopLaunch launch l)
      | .stopping => if l.frozen then .next (s.cancelFrozen launch l) else .next s
      | _ => .next s

/-! ### Save areas (R439, R440) -/

/-- Z of R439. -/
def Launch.saveZ (l : Launch) : Nat :=
  let n := 81920 + 16 * l.pg + 98304 * l.wsp.toNat + 53248 * l.evp.toNat
  ceilDiv n 4096 * 4096

/-- LEN of R439. -/
def Launch.saveLen (l : Launch) : Nat := 0x90000 + l.saveZ * l.area

/-- REGION of R301. -/
def Launch.regionBits (l : Launch) : Nat :=
  l.x0 + l.y0 * 2 ^ 5 + l.lw * 2 ^ 11 + l.lh * 2 ^ 14 + l.whole.toNat * 2 ^ 17

def saveMagic : Nat := 0x0045564153564E52

/-- The header of a save (R439), as a number. -/
def saveHeader (l : Launch) (sv : Saved) (time nsave crc : Nat) : Nat :=
  let ldp := sv.load.isSome && !sv.posted
  let shp := sv.load.isSome && sv.posted
  saveMagic + 2 ^ 64 + l.ctx * 2 ^ 72 + l.ltag * 2 ^ 84 + l.seqn * 2 ^ 99 + l.regionBits * 2 ^ 104 + l.saveLen * 2 ^ 128 +
    time * 2 ^ 192 + nsave % 2 ^ 32 * 2 ^ 256 + crc * 2 ^ 320 + ldp.toNat * 2 ^ 384 + sv.rcp.isSome.toNat * 2 ^ 385 +
    sv.load.elim 0 (fun p => p.1.toNat) * 2 ^ 386 + sv.rcp.elim 0 (fun p => p.1.toNat) * 2 ^ 392 + shp.toNat * 2 ^ 398 +
    (if sv.load.isSome then sv.img.toNat else 0) * 2 ^ 448

/-- The byte at offset `off` of a save area besides its header. -/
def savedByte (choice off : Nat) : Byte := Config.saveByte choice off

/-- Writes `n` words from offset `off` of an area at `a`; at a fault, the state with the words below it written. -/
def State.saveWords (s : State) (ctx a : Nat) (f : Nat → Nat) : Nat → Nat → Except State State
  | 0, _ => .ok s
  | n + 1, off =>
    match (s.check { ctx := some ctx } 0 [] .write (word (a + off)) 8).1 with
    | .ok (.mem l) => State.saveWords (s.storeNat l 8 (f off)) ctx a f n (off + 8)
    | _ => .error s

/-- The area is written in the three steps of R440; what a fault leaves written stays so. -/
def State.saveArea (s : State) (l : Launch) (sv : Saved) : Except State State :=
  let a := l.savea.toNat
  let c := s.choice
  let body (off : Nat) : Nat := leNat ((List.range 8).map (fun i => savedByte c (off + i)))
  let crc := crc64 ((List.range (l.saveLen - 256)).map (fun i => savedByte c (256 + i)))
  match s.bump.saveWords l.ctx a (fun _ => 0) 32 0 with
  | .error e => .error e
  | .ok s1 => match s1.saveWords l.ctx a body ((l.saveLen - 256) / 8) 256 with
    | .error e => .error e
    | .ok s2 =>
      let (t, s3) := s2.readTime s2.coreClock
      let h := saveHeader l sv t.toNat (l.nsave + 1) crc
      s3.saveWords l.ctx a (fun off => bits h (8 * off) 64) 32 0

/-! ### What a save keeps (R438) -/

/-- A location of a launch's tile or sequencer that the save keeps. -/
def State.savesLoc (s : State) (l : Launch) (loc : Nat) : Bool :=
  let inside (lo n : Nat) : Bool := decide (lo ≤ loc) && decide (loc < lo + n)
  inside (localLoc l.seqn 0) 262144 ||
    l.tiles.any (fun t =>
      inside (scratchLoc t 0) (16 * (s.tile t).plane.fsize.toNat) || inside (scratchLoc t (16 * (1536 - l.pg))) (16 * l.pg) ||
        (l.wsp && inside (weightLoc t 0) 98304) ||
        (l.evp && (inside (scratchLoc t 8192) 16384 || inside (weightLoc t 65536) 32768)))

/-- A full granule of a launch's tile that the save keeps. -/
def State.savesFull (s : State) (l : Launch) (g : Nat) : Bool :=
  l.covers (g / 1536) && g / 1536 < 1536 &&
    (decide (g % 1536 < (s.tile (g / 1536)).plane.fsize.toNat) || decide (1536 - l.pg ≤ g % 1536))

/-- The state of a launch as its save keeps it: each port context with its translation entry (R84), and local memory with the
poison of its granules (R309, R471). -/
def State.keepLaunch (s : State) (k : Nat) (l : Launch) (sv : Saved) : Saved :=
  let hold (p : PCtx) : PCtx := { p with st := if p.st = .running ∨ p.st = .stopping then .saved else p.st }
  { sv with
    seq := { s.seq l.seqn with utlb := [] }
    tiles := (s.tiles.filter (fun t => l.covers t.1)).map
      (fun t => (t.1, { t.2 with shadow := none, passed := false, strayed := false }))
    poison := s.poison.filter (fun g => s.savesLoc l (16 * g))
    arcs := s.arcs.filter (fun a => l.covers (a.1 / 512))
    pctxs := (s.pctxsOf k).map (fun p => (p.1, hold p.2))
    bytes := s.mem.filter (fun c => s.savesLoc l c.1)
    full := s.full.filter (s.savesFull l) }

/-- SAVE_COMMIT: once the sequencer stands at an instruction boundary and the region is quiescent, the area is written and
committed and the launch's place is free; a fault cancels the launch (R437, R440). -/
def execSaveCommit (launch : Nat) (s : State) : Out :=
  match s.launch launch with
  | none => .next s
  | some l =>
    if l.phase ≠ .stopping ∨ l.frozen ∨ l.endCause.isSome ∨ (s.seq l.seqn).waiting.isSome ∨ !s.quiescent launch l then .next s
    else match l.saved with
      | none => .next s
      | some sv0 =>
        let sv := s.keepLaunch launch l sv0
        match s.saveArea l sv with
        | .error s1 => .next (s1.cancelLaunch launch .schSaveFault)
        | .ok s1 =>
          let s2 : State := { s1 with pctxs := s1.pctxs.filter (fun p => p.2.launch != some launch) }
          let s3 := s2.freeRegion l
          .next (s3.setLaunch launch { l with phase := .saved, saved := some sv, nsave := l.nsave + 1, whold := false }).settleSaving

/-! ### Resumption (R446 to R448) -/

/-- Reads `n` bytes of a save area from offset `off`, eight at a time; none at a fault. -/
def State.savedBytes (s : State) (ctx a : Nat) : Nat → Nat → Option (List Byte)
  | 0, _ => some []
  | n + 1, off =>
    match (s.check { ctx := some ctx } 0 [] .read (word (a + off)) 8).1 with
    | .ok (.mem l) =>
      if (s.dataError l 8).isSome then none
      else (s.savedBytes ctx a n (off + 8)).map (fun r => memBytes s.mem l 8 ++ r)
    | _ => none

/-- Reading a save area of `n` bytes meets its first uncorrectable error, of which the island writes a record (R32, R471). -/
def State.noteSaved (s : State) (ctx a n : Nat) : State :=
  let bad (i : Nat) : Bool := (s.savedBytes ctx a 1 (8 * i)).isNone
  match (List.range (n / 8)).find? bad with
  | some i => s.noteError ctx (word (a + 8 * i)) 8
  | none => s

/-- The header of a launch's save area, when it and the CRC stand (R447 step 1). -/
def State.savedHeader (s : State) (l : Launch) : Option Nat :=
  let a := l.savea.toNat
  match s.savedBytes l.ctx a 32 0, s.savedBytes l.ctx a ((l.saveLen - 256) / 8) 256 with
  | some hb, some body =>
    let h := leNat hb
    if bits h 0 64 == saveMagic && bits h 64 8 == 1 && bits h 72 12 == l.ctx && bits h 84 15 == l.ltag &&
      bits h 104 18 == l.regionBits && bits h 320 64 == crc64 body then some h else none
  | _, _ => none

/-- The island blocks of a launch belong to no other context. -/
def State.blocksFree (s : State) (l : Launch) : Bool :=
  l.blocks.all (fun b =>
    let own := tabGet (s.island (b / 16)).own (b % 16) 0
    !own.getLsbD 12 || bits own.toNat 0 12 == l.ctx)

/-- The complex writes ISLOWN for a launch's blocks (R68). -/
def State.takeBlocks (s : State) (l : Launch) : State :=
  l.blocks.foldl (fun st b =>
    let i := st.island (b / 16)
    st.setIsland (b / 16) { i with own := tabPut i.own (b % 16) (BitVec.ofNat 13 (4096 + l.ctx)) }) s

/-- Tiles, port contexts and the sequencer are restored (R447 steps 2 to 4). -/
def State.restoreLaunch (s : State) (k : Nat) (l : Launch) (sv : Saved) : State :=
  let s1 := l.tiles.foldl (fun st t => st.prepareTile k l t) (s.takeBlocks l)
  let s2 := sv.tiles.foldl (fun st t => st.setTile t.1 { t.2 with launch := some k, pool := 0 }) s1
  let z := s2.zeroRange (localLoc l.seqn 0) 262144
  let s3 : State := { z with
    mem := sv.bytes.foldl (fun m c => memWrite m c.1 c.2) z.mem
    poison := sv.poison ++ z.poison
    full := sv.full ++ z.full
    arcs := sv.arcs.foldl (fun t a => tabPut t a.1 a.2) z.arcs }
  let wake (p : PCtx) : PCtx := if p.st = .saved then { p with st := .running } else p
  let s4 := sv.pctxs.foldl (fun st p => st.setPctx p.1 (wake p.2)) s3
  s4.setSeq l.seqn { sv.seq with launch := some k }

/-- The weight hold of a resumed launch, with its message (R448). -/
def State.holdWeights (s : State) (k : Nat) (l : Launch) : State :=
  let matrix : Bool := l.tiles.any (fun t => (s.tile t).plane.mode == 1 || (s.tile t).plane.mode == 2)
  if l.wsp || !matrix then s
  else
    let (t, s1) := s.readTime (seqClock l.seqn)
    (s1.setLaunch k { l with whold := true }).hardPost l.seqn
      (hardMsg 0 (entryGen (s1.handler l.seqn 0)) 1 (BitVec.allOnes 64) (word l.nsave) t 0)

/-- A launch as it runs again: the load and the token that its header records are taken up, under the generations that the rest
of the save keeps (R446, R447 step 5). -/
def Launch.resumed (l : Launch) (sv : Saved) (h now : Nat) : Launch :=
  let ldp : Bool := bits h 384 1 == 1
  let rcp : Bool := bits h 385 1 == 1
  let shp : Bool := bits h 398 1 == 1
  let ch (lo : Nat) (g : Option (BitVec 6 × BitVec 8)) : BitVec 6 × BitVec 8 := (BitVec.ofNat 6 (bits h lo 6), g.elim 0 (fun x => x.2))
  { l with
    phase := .running, saved := none, joined := now, asked := false
    reconf := if rcp then some (ch 392 sv.rcp) else none
    shadow := if ldp || shp then .loading else .none
    shImage := word (bits h 448 64)
    shPost := if ldp || shp then some (ch 386 sv.load) else none
    shPosted := shp }

/-- A resumed launch is background work after an overrun without ABORT, and is cancelled when one with ABORT has come meanwhile
(R397, R408). -/
def State.resumeEnds (s : State) (k : Nat) (l : Launch) : State :=
  let s1 := match s.item l.item with
    | some i => s.setItem l.item { i with background := i.behind }
    | none => s
  if l.endCause.isSome then s1.cancelWork k else s1

/-- LAUNCH_RESUME: a saved launch whose turn it is, on the same origin and sequencer, is checked and restored (R407, R447). -/
def execLaunchResume (launch : Nat) (s : State) : Out :=
  match s.launch launch with
  | none => .next s
  | some l => match l.saved, s.clearPick launch with
    | some sv, some _ =>
      if l.phase ≠ .saved then .next s
      else if !s.biasReady l then .next (s.wakeClusters l)
      else if !s.blocksFree l || sv.pctxs.any (fun p => (s.pctx p.1).st != .free) then .next s
      else match s.savedHeader l with
        | none => .next ((s.noteSaved l.ctx l.savea.toNat l.saveLen).cancelLaunch launch .schSaveCorrupt)
        | some h =>
          let l1 := l.resumed sv h s.now
          .next ((((s.restoreLaunch launch l sv).setLaunch launch l1).holdWeights launch l1).resumeEnds launch l1)
    | _, _ => .next s

end Sys2Proof.Machine
end

