-- ==== Sys2Proof/Machine/Packets.lean ====
section
/-!
DEFINITION. The packets of an entry (R389 to R400), completion records (R401), overruns and missed deadlines (R408, R409),
and queue resets (R411, R470).
-/
namespace Sys2Proof
open Machine

/-- Semaphore and operand of SIGNAL and WAIT_GE. -/
def Pkt.semNo (p : Pkt) : Nat := p.field 0 13
def Pkt.operand (p : Pkt) : Word := word (p.field 32 64)

/-- A translation that an INVALIDATE covers. -/
def Pkt.scope (p : Pkt) (e : TlbEntry) : Bool :=
  let va := p.field 32 64 % 2 ^ 52
  match p.flags.toNat % 4 with
  | 0 => e.ctx == p.field 0 12 && decide (e.va < va + p.field 96 64) && decide (va < e.va + 2 ^ e.log2)
  | 1 => e.ctx == p.field 0 12
  | _ => true

end Sys2Proof

namespace Sys2Proof.Machine
open Sys2Proof

/-! ### How a packet begins (R388) -/

/-- Packet `p` may begin: its entry has been dispatched to it. -/
def State.begins (s : State) (p : Pkt) (f : Item → Queue → Out) : Out :=
  match s.item p.item with
  | none => .next s
  | some i => if i.phase = .dispatched then f i (s.queue i.queue) else .next s

/-- Packet `p` has begun and waits. -/
def State.waitsOn (s : State) (k : Nat) (i : Item) : State := s.setItem k { i with phase := .running }

/-- NOP (R389). -/
def execNop (p : Pkt) (s : State) : Out := s.begins p (fun _ _ => .next (s.packetDone p.item))

/-! ### WRITE and TIMESTAMP (R389, R398) -/

/-- What a run of writes comes to; what stands below a fault has been written. -/
inductive Wrote where
  | done (s : State)
  | bad (s : State) (c : Cause)
  | wait

/-- One unit of a packet's data, of 4 bytes, or of 8 at a register of the control path. -/
def State.writeUnit (s : State) (ctx : Nat) (a : Word) (n v : Nat) : Wrote :=
  match (s.check { ctx := some ctx } 0 [] .write a n).1 with
  | .wait => .wait
  | .bad c => .bad s c
  | .ok (.reg off) => .done (s.writeReg .pf off (word v))
  | .ok (.mem l) => .done (s.storeNat l n v)
  | .ok (.host b) => .done (s.storeNat (hostLoc b) n v)
  | .ok (.peer _ _) => .bad s .memBadPath

/-- Units of `n` bytes from address `a` up. -/
def State.writeUnits (s : State) (ctx n : Nat) (a : Word) : List Nat → Wrote
  | [] => .done s
  | v :: r => match s.writeUnit ctx a n v with
    | .done s1 => s1.writeUnits ctx n (a + word n) r
    | w => w

/-- Dwords in pairs. -/
def dwordPairs : List (BitVec 32) → List Nat
  | a :: b :: r => (a.toNat + b.toNat * 2 ^ 32) :: dwordPairs r
  | [a] => [a.toNat]
  | [] => []

/-- The packet completes, or fails with what stopped its writes. -/
def State.afterWrites (s : State) (k : Nat) : Wrote → Out
  | .done s1 => .next (s1.packetDone k)
  | .bad s1 c => .next (s1.packetFails k c)
  | .wait => .next s

/-- WRITE: ascending dwords, or pairs of them on path 0x5 (R389). -/
def execWrite (p : Pkt) (s : State) : Out :=
  s.begins p (fun _ g =>
    let a := word (p.field 0 64)
    let data := p.body.drop 2
    s.afterWrites p.item
      (if pathOf a = 5 then s.writeUnits g.ctx 8 a (dwordPairs data)
       else s.writeUnits g.ctx 4 a (data.map BitVec.toNat)))

/-- TIMESTAMP (R398). -/
def execTimestamp (p : Pkt) (s : State) : Out :=
  s.begins p (fun _ g =>
    let (t, s1) := s.readTime s.coreClock
    match s1.writeUnit g.ctx (word (p.field 0 64)) 8 t.toNat with
    | .wait => .next s
    | w => s1.afterWrites p.item w)

/-! ### Semaphores (R390, R391) -/

/-- A SIGNAL writes the semaphore when its queue's context owns it, and completes once every replica has counted to its tick, so that
no timestamp taken after it lies before it (R20, R455). -/
def State.signal (s : State) (p : Pkt) (f : Word → Word) : Out :=
  s.begins p (fun _ g =>
    let n := p.semNo
    .next ((if s.ownsSem n g.ctx then s.putSem n (f (s.sem n)) else s).hold.packetDone p.item))

/-- SIGNAL with flag 0 clear; one of a semaphore that another context owns writes nothing (R391; DEDUCED, log 42). -/
def execSignalSet (p : Pkt) (s : State) : Out := s.signal p (fun _ => p.operand)
/-- SIGNAL with flag 0 set (R391). -/
def execSignalAdd (p : Pkt) (s : State) : Out := s.signal p (fun v => v + p.operand)

/-- WAIT_GE (R391). -/
def execWaitGe (p : Pkt) (s : State) : Out :=
  s.begins p (fun i _ =>
    if p.operand.toNat ≤ (s.sem p.semNo).toNat then .next (s.packetDone p.item)
    else .next (s.setItem p.item { i with phase := .running, met := false }))

/-- WAIT_GE_COMPLETE: VALUE has stood at or above the operand (R391). -/
def execWaitGeComplete (item : Nat) (s : State) : Out :=
  match s.item item with
  | none => .next s
  | some i => if i.waits.isSome && i.met then .next (s.packetDone item) else .next s

/-! ### LAUNCH (R393, R440) -/

/-- The save area of a launch may be written whole (R440). -/
def State.saveAreaOk (s : State) (l : Launch) : Bool :=
  l.savea.toNat % 4096 == 0 && s.mappedRW l.ctx l.savea.toNat l.saveLen

/-- A launch takes its place: its blocks, tiles and sequencer, and the recorder's mode; LOST, which FRFLAG shows, is clear at a
launch (R294, R299, R393 steps 1 and 2, R466). -/
def State.placeLaunch (s : State) (k : Nat) (l : Launch) : State :=
  let s0 := s.setRing l.ctx { s.ring l.ctx with lost := false }
  let s1 := (s0.takeBlocks l).wakeClusters l
  let s2 := l.tiles.foldl (fun st t => st.prepareTile k l t) s1
  let q := { Seq.reset with
    ctxid := BitVec.ofNat 12 l.ctx, region := BitVec.ofNat 18 l.regionBits, nb := BitVec.ofNat 7 l.nb,
    nch := BitVec.ofNat 7 l.nch, launch := some k }
  let on : Bool := bits s.ctl.rpctl.toNat 0 12 == l.ctx
  (s2.setSeq l.seqn q).setLaunch k
    { l with
      recMode := if on then BitVec.ofNat 2 (bits s.ctl.rpctl.toNat 12 2) else 0
      recRing := s.ctl.rpring
      recSession := s.sec.session }

/-- LAUNCH: the launch that its dispatch has given a region and a sequencer begins to load (R393). -/
def execLaunch (p : Pkt) (s : State) : Out :=
  s.begins p (fun i g =>
    match i.launch with
    | none => .next s
    | some k => match s.launch k with
      | none => .next s
      | some l =>
        if l.phase ≠ .loading then .next s
        else if !s.saveAreaOk l then
          .next ((s.complexRaise (some g.ctx) .schSaveFault (complexPos i.queue i.seqNo)).launchFails k .schSaveFault)
        else if !s.blocksFree l then .next s
        else .next ((s.waitsOn p.item i).placeLaunch k l))

/-! ### BIND (R395) -/

/-- Some port context, of a running or a saved launch, holds the stream of a BIND packet. -/
def State.streamOf (s : State) (item : Nat) : Bool :=
  s.pctxs.any (fun c => c.2.st != .free && c.2.item == some item) ||
    s.launches.any (fun l => l.2.saved.any (fun v => v.pctxs.any (fun c => c.2.item == some item)))

/-- Binds the stream of a BIND packet once its launch runs. -/
def State.tryBind (s : State) (p : Pkt) (g : Queue) : State :=
  let k := p.item
  let b := p.field 0 64
  let pc := operandPctx b
  let ch : BitVec 6 := BitVec.ofNat 6 (bits b 11 6)
  let post : Bool := bits b 17 1 == 1
  match s.findLaunch g.ctx (bits b 18 15) with
  | none => s.packetFault k .schNoLaunch
  | some (n, l) =>
    if l.phase = .ended ∨ l.endCause.isSome then s.packetFault k .schNoLaunch
    else if l.phase ≠ .running then s
    else if post && l.nch ≤ ch.toNat then s.packetFault k .schBindChannel
    else if (s.pctx pc).st ≠ .free then s.packetFault k .schBindBusy
    else
      let msg := if post then some (ch, entryGen (s.handler l.seqn ch.toNat)) else none
      match s.bindStream n pc (BitVec.ofNat 512 (p.field 64 512)) false true msg (some k) with
      | .error c => s.packetFault k c
      | .ok s1 => s1

/-- BIND (R395). -/
def execBind (p : Pkt) (s : State) : Out := s.begins p (fun i g => .next ((s.waitsOn p.item i).tryBind p g))

/-- DEFERRED_BIND: a BIND that waits for its launch tries again. -/
def execDeferredBind (item : Nat) (s : State) : Out :=
  match s.item item with
  | none => .next s
  | some i => match i.packets[i.idx]? with
    | some (.bind p) =>
      if i.phase = .running ∧ p.item = item ∧ !s.streamOf item then .next (s.tryBind p (s.queue i.queue)) else .next s
    | _ => .next s

/-! ### COPY (R396) -/

/-- COPY: the descriptor in the body is checked and run as the instruction runs it. -/
def execCopyPacket (p : Pkt) (s : State) : Out :=
  s.begins p (fun i g =>
    match s.copyPlan g.ctx p.v with
    | .wait => .next s
    | .bad c a =>
      if c = .memCopyDesc ∨ c = .memStorageDesc then .next (s.packetFault p.item c a)
      else
        let r : Report := { origin := .copy, ctx := some g.ctx, pos := 32 + i.queue * 2 ^ 38, stop := true, addr := a }
        .next ((s.raise c r).packetFails p.item c)
    | .ok v => .next ((s.waitsOn p.item i).startCopy g.ctx p.v v none 0 (some p.item) none 0))

/-! ### RETIRE (R397, R431) -/

/-- What a launch has been charged since its own entry's record is reported by the entry that retires it (R402, R408,
R409). -/
def State.reportRest (s : State) (k from_ : Nat) : State :=
  match s.item k, s.item from_ with
  | some i, some j =>
    if k = from_ ∨ j.phase ≠ .recorded then s
    else
      let i1 := { i with moreReg := i.moreReg + (j.chreg - j.saidReg), moreEng := i.moreEng + (j.cheng - j.saidEng),
                         miss := i.miss || (j.miss && !j.saidMiss), ovr := i.ovr || (j.ovr && !j.saidOvr) }
      let j1 := { j with saidReg := j.chreg, saidEng := j.cheng, saidMiss := j.miss, saidOvr := j.ovr }
      (s.setItem from_ j1).setItem k i1
  | _, _ => s

/-- A RETIRE is tried: it cancels when it begins with CANCEL, or finds its launch frozen. -/
def State.retireTurn (s : State) (p : Pkt) (cancel : Bool) : Out :=
  match s.item p.item with
  | none => .next s
  | some i =>
    if !i.busy then .next s
    else match s.findLaunch (s.queue i.queue).ctx (p.field 0 15) with
      | none => .next (s.packetFault p.item .schNoLaunch)
      | some (k, l) =>
        if l.phase = .ended then
          let s1 := (s.setLaunch k { l with phase := .retired }).reportRest p.item l.item
          .next (s1.packetFails p.item (l.endCause.getD .schNoLaunch))
        else if l.phase ≠ .running ∨ l.endCause.isSome then .next s
        else
          let first : Bool := i.phase == .dispatched
          let s1 := s.waitsOn p.item i
          let s2 := if (cancel && first) || l.frozen then s1.cancelWork k else s1
          match s2.launch k with
          | none => .next s2
          | some v =>
            if !s2.retirable k v || (s2.item l.item).any s2.actionDue then .next s2
            else
              let s3 := (s2.discardLaunch k .retired none).reportRest p.item l.item
              .next (if l.frozen && !cancel then s3.packetFails p.item (l.lcause.getD .schNoLaunch) else s3.packetDone p.item)

/-- RETIRE (R397). -/
def execRetire (p : Pkt) (s : State) : Out := s.retireTurn p false
/-- RETIRE with CANCEL (R397). -/
def execRetireCancel (p : Pkt) (s : State) : Out := s.retireTurn p true

/-! ### FENCE (R398) -/

/-- FENCE: every earlier entry of the queue has its record. -/
def execFencePacket (p : Pkt) (s : State) : Out :=
  match s.item p.item with
  | none => .next s
  | some i =>
    if !i.busy then .next s
    else if s.items.all (fun j => !(decide (j.1 < p.item) && j.2.queue == i.queue) || j.2.phase == .recorded) then
      .next (s.packetDone p.item)
    else .next (s.waitsOn p.item i)

/-! ### Completion records (R401) -/

/-- The four words of an entry's record. -/
def State.recordWords (s : State) (i : Item) : List Nat :=
  [i.seqNo % 2 ^ 32 + i.rcode * 2 ^ 32 + (i.cause.elim 0 Cause.code) * 2 ^ 40 + i.state * 2 ^ 49 + i.miss.toNat * 2 ^ 52 +
     i.ovr.toNat * 2 ^ 53,
   i.endTime, s.regCharge i + i.moreReg, i.cheng + i.moreEng]

/-- Writes the record of entry `k`: words 1 to 3, then word 0; one whose write faults is lost. -/
def State.writeRecord (s : State) (k : Nat) : State :=
  match s.item k with
  | none => s
  | some i =>
    let g := s.queue i.queue
    let a := g.cbase + word (32 * (i.seqNo % 2 ^ g.clog2))
    let ws := s.recordWords i
    let s1 := s.setItem k { i with phase := .recorded, saidReg := s.regCharge i, saidEng := i.cheng, saidMiss := i.miss,
                                   saidOvr := i.ovr }
    let lost (c : Cause) : State := s1.complexRaise (some g.ctx) c (complexPos i.queue i.seqNo) a
    match s1.writeWords g.ctx (a + 8) (ws.drop 1) with
    | .error c => lost c
    | .ok s2 => match s2.writeWords g.ctx a (ws.take 1) with
      | .error c => lost c
      | .ok s3 => s3

/-- COMPLETION_RECORD: a finished entry whose accesses have performed is recorded, with any overrun or miss of its own
(R401, R408, R409). -/
def execCompletionRecord (item : Nat) (s : State) : Out :=
  match s.item item with
  | none => .next s
  | some i =>
    if i.phase = .finished ∧ s.copies.all (fun j => j.2.item != some item) ∧ !s.streamOf item ∧ !s.actionDue i then
      .next (s.writeRecord item)
    else .next s

/-- INTERRUPT; with AFTERREC the entry's record is written first (R398). -/
def execInterrupt (p : Pkt) (s : State) : Out :=
  s.begins p (fun _ g =>
    let s1 := s.packetDone p.item
    let s2 := if p.flags.getLsbD 0 then s1.writeRecord p.item else s1
    .next (s2.msix g.func (p.field 0 11)))

/-! ### INVALIDATE (R42, R399) -/

/-- A context's entry is written in the context table: words 1 to 3, then word 0 (R34, R399). -/
def State.setCtx (s : State) (ctx v : Nat) : State :=
  [1, 2, 3, 0].foldl (fun st w => st.storeNat (s.ctxLoc ctx + 8 * w) 8 (bits v (64 * w) 64)) s

/-- INVALIDATE begins; SETCTX writes the context's entry. -/
def execInvalidate (p : Pkt) (s : State) : Out :=
  s.begins p (fun i _ =>
    let s1 := if p.flags.getLsbD 2 then s.setCtx (p.field 0 12) (p.field 160 256) else s
    .next (s1.waitsOn p.item i))

/-- Every copy of the translations in scope is discarded, those of saved port contexts too. -/
def State.flushTlbs (s : State) (p : Pkt) : State :=
  let keep (l : List TlbEntry) : List TlbEntry := l.filter (fun e => !p.scope e)
  let pctxs (t : Tab PCtx) : Tab PCtx := t.map (fun x => (x.1, { x.2 with tlb := keep x.2.tlb }))
  let saved (v : Saved) : Saved := { v with pctxs := pctxs v.pctxs }
  { s with
    edgeTlb := s.edgeTlb.map (fun x => (x.1, keep x.2))
    pctxs := pctxs s.pctxs
    launches := s.launches.map (fun x => (x.1, { x.2 with saved := x.2.saved.map saved }))
    seqs := s.seqs.map (fun x => (x.1, { x.2 with utlb := keep x.2.utlb })) }

/-- An access of a sequencer is under way to the host with an address that a translation of a context in scope gave (R42). -/
def State.oldAccess (s : State) (p : Pkt) : Bool :=
  s.seqs.any (fun q => q.2.waiting.any (fun w => pathOf w.addr == 7 && w.tag.isNone) &&
    (p.flags.toNat % 4 == 2 || q.2.ctxid.toNat == p.field 0 12))

/-- Contexts with work that a retry could reach and that an INVALIDATE covers (R435; DEDUCED, log 42). -/
def State.retried (s : State) (p : Pkt) : List Nat :=
  if p.flags.toNat % 4 = 2 then (s.launches.map (fun l => l.2.ctx) ++ s.copies.map (fun j => j.2.ctx)).eraseDups
  else [p.field 0 12]

/-- INVALIDATE_COMPLETE (R42). -/
def execInvalidateComplete (item : Nat) (s : State) : Out :=
  match s.item item with
  | none => .next s
  | some i => match i.packets[i.idx]? with
    | some (.invalidate p) =>
      if i.phase = .running ∧ !s.oldAccess p then
        let s1 := s.flushTlbs p
        .next (((s1.retried p).foldl State.retry s1).packetDone item)
      else .next s
    | _ => .next s

/-! ### Overruns and deadlines (R408, R409) -/

/-- The running packet of an entry is cancelled with its engines. -/
def State.cancelPacket (s : State) (k : Nat) : State :=
  let s1 := (s.copies.filter (fun j => j.2.item == some k)).foldl (fun st j => st.cancelCopy j.1) s
  (s1.pctxs.filter (fun c => c.2.st != .free && c.2.item == some k)).foldl (fun st c => st.cancelStream c.1) s1

/-- The launch of an aborted entry is cancelled as by RETIRE with CANCEL: its streams and engines at once, or those of a saved one
when it has been resumed (R397, R408). -/
def State.abortLaunch (s : State) (k : Nat) (l : Launch) : State :=
  if l.phase = .retired ∨ l.phase = .ended ∨ l.endCause.isSome then s
  else if l.phase = .saved then s.setLaunch k { l with endCause := some .schBudgetOverrun }
  else if l.runs then
    let s1 := s.cancelWork k
    match s1.launch k with
    | none => s1
    | some v => s1.setLaunch k { v with endCause := some .schBudgetOverrun, phase := .running, saved := none }
  else
    let s1 := (s.pctxsOf k).foldl (fun st c => st.dropStream c.1) s
    s1.overLaunch k .ended (some .schBudgetOverrun)

/-- BUDGET_OVERRUN: charges exceed the budget for the first time (R408). -/
def execBudgetOverrun (item : Nat) (s : State) : Out :=
  match s.item item with
  | none => .next s
  | some i =>
    if !s.overrunDue i then .next s
    else
      let s1 := s.complexRaise (some (s.queue i.queue).ctx) .schBudgetOverrun (complexPos i.queue i.seqNo)
      let launch := i.launch.bind (fun k => (s.launch k).map (fun l => (k, l)))
      if i.abort then
        let s2 := (s1.setItem item { i with ovr := true }).cancelPacket item
        let s3 := match launch with
          | some (k, l) => s2.abortLaunch k l
          | none => s2
        .next (s3.abortEntry item .schBudgetOverrun)
      else
        let o := { i with ovr := true }
        let s2 := s1.setItem item (if i.phase = .admitted then s1.atBoundary o else o)
        .next (match launch with
          | some (k, l) => if l.phase = .running ∨ l.phase = .loading then s2.setLaunch k { l with asked := true } else s2
          | none => s2)

/-- DEADLINE_MISS: the timebase reaches the deadline of an item of S (R409). -/
def execDeadlineMiss (item : Nat) (s : State) : Out :=
  match s.item item with
  | none => .next s
  | some i =>
    if s.missDue i then
      let s1 := s.complexRaise (some (s.queue i.queue).ctx) .schDeadlineMiss (complexPos i.queue i.seqNo)
      .next (s1.setItem item { i with miss := true, background := true })
    else .next s

/-! ### Queue resets (R411, R470) -/

/-- An item belongs to queue `q`. -/
def State.ofQueue (s : State) (q : Nat) (item : Option Nat) : Bool := (item.bind s.item).any (fun i => i.queue == q)

/-- Entries of the queue are discarded without a record, and their engines are cancelled, with the messages of the queue's work
that have not reached a channel (R411 steps 1 to 3). -/
def State.dropItems (s : State) (q : Nat) : State :=
  let s1 := (s.copies.filter (fun j => s.ofQueue q j.2.item)).foldl (fun st j => st.cancelCopy j.1) s
  let s2 := (s1.pctxs.filter (fun c => c.2.st != .free && s.ofQueue q c.2.item)).foldl (fun st c => st.haltStream c.1) s1
  let other (m : Msg) : Bool := m.work != some q
  let clear (n : Seq) : Seq := { n with held := n.held.filter other, arriving := n.arriving.filter other }
  let trim (v : Saved) : Saved := { v with pctxs := v.pctxs.filter (fun c => !s.ofQueue q c.2.item), seq := clear v.seq }
  { s2 with
    seqs := s2.seqs.map (fun n => (n.1, clear n.2))
    launches := s2.launches.map (fun l => (l.1, { l.2 with saved := l.2.saved.map trim }))
    items := s2.items.map (fun i => (i.1, if i.2.queue = q then { i.2 with phase := .recorded } else i.2)) }

/-- A launch of a queue that is being reset: it ends once its engines have drained. -/
def State.resetLaunch (s : State) (k : Nat) : State :=
  match s.launch k with
  | none => s
  | some l =>
    if !l.runs then ((s.pctxsOf k).foldl (fun st p => st.dropStream p.1) s).overLaunch k .retired none
    else
      let s1 := s.dropWork k
      let s2 := match s1.launch k with
        | none => s1
        | some v => s1.setLaunch k { v with phase := .stopping, saved := none,
                                            endCause := if v.endCause.isSome then v.endCause else some .schNoLaunch }
      if (s2.copiesOf k).isEmpty && (s2.collsOf k).isEmpty && (s2.pctxsOf k).isEmpty && (s2.seq l.seqn).waiting.isNone then
        s2.discardLaunch k .retired none
      else s2

/-- The queue takes its table entry (R383, R411 steps 4 and 5). -/
def State.takeEntry (s : State) (q : Nat) : State :=
  let loc := dpaLoc (bits s.ctl.qtbase.toNat 18 21 * 2 ^ 18 + 64 * q)
  let e := memNat s.mem loc 64
  let rlog2 := bits e 64 5
  let clog2 := bits e 192 5
  let ok : Bool := bits e 90 1 == 1 && decide (12 ≤ rlog2) && decide (rlog2 ≤ 24) && decide (4 ≤ clog2) && decide (clog2 ≤ 16) &&
    (s.dataError loc 64).isNone
  s.setQueue q { Queue.reset with
    v := ok, rbase := word (bits e 0 64), rlog2 := rlog2, ctx := bits e 72 12, func := bits e 84 5, priv := bits e 89 1 == 1,
    gen := BitVec.ofNat 16 (bits e 96 16), page := bits e 112 12, cbase := word (bits e 128 64), clog2 := clog2 }

/-- QUEUE_RESET: the queue's work is cancelled, and once its engines have drained the queue begins anew; a linked pair puts that
off (R400, R411). -/
def execQueueReset (q : Nat) (s : State) : Out :=
  if !(s.queue q).rbusy then .next s
  else if s.pairRuns q then .next (s.setQueue q { s.queue q with putOff := true })
  else
    let s1 := s.dropItems q
    let mine (st : State) : List (Nat × Launch) := st.unretired.filter (fun l => st.ofQueue q (some l.2.item))
    let s2 := (mine s1).foldl (fun st l => st.resetLaunch l.1) s1
    if (mine s2).isEmpty && s2.copies.all (fun j => !s2.ofQueue q j.2.item) &&
        s2.pctxs.all (fun c => !s2.ofQueue q c.2.item) then .next (s2.takeEntry q)
    else .next s2

/-- FUNCTION_LEVEL_RESET of virtual function `vf`: a reset of every queue with its FUNC (R470). -/
def execFunctionLevelReset (vf : Nat) (s : State) : Out :=
  .next ((s.queues.filter (fun g => g.2.func == vf + 1)).foldl (fun st g => st.requestReset g.1) s)

end Sys2Proof.Machine
end

