-- ==== Sys2Proof/Machine/Peer.lean ====
section
/-!
DEFINITION. Answers to this package's peer requests (R275, R277, R278).
-/
namespace Sys2Proof.Machine
open Sys2Proof

/-- The answer reaches whoever sent the request. -/
def State.answered (s : State) (r : PeerReq) (f : Flit) : State :=
  match r.who with
  | .seq n => s.seqResponse n f
  | .agn pc => s.agnResponse pc f r.addr
  | .copy k => s.copyResponse k f

/-- Whoever sent the request has had no answer. -/
def State.unanswered (s : State) (r : PeerReq) (tag : Nat) : State :=
  match r.who with
  | .seq n => s.seqNoResponse n tag
  | .agn pc => s.agnNoResponse pc tag r.addr
  | .copy k => s.copyNoResponse k tag r.addr

/-- RESPONSE: a response completes the request of its tag; one without a request, or 100,000 ticks after it or later, is
discarded (R275, R278). -/
def execResponse : Arrival → State → Out
  | ⟨port, flit⟩, s =>
    if !s.takes port flit 4 then .next s
    else
      let s1 := s.acceptOn port flit
      match tabFind s1.net.reqs flit.tag with
      | none => .next s1
      | some r => if r.dst = flit.srcp ∧ s.now < r.since + 100000 then .next ((s1.dropRequest flit.tag).answered r flit) else .next s1

/-- NET_TIMEOUT: a request that has had no response for 100,000 ticks (R278; DEDUCED, log 48). -/
def execNetTimeout (tag : Nat) (s : State) : Out :=
  match tabFind s.net.reqs tag with
  | none => .next s
  | some r => if r.since + 100000 ≤ s.now then .next ((s.dropRequest tag).unanswered r tag) else .next s

end Sys2Proof.Machine
end

