-- ==== Sys2Proof/Machine/SeqAlu.lean ====
section
/-!
DEFINITION. The integer instructions of a sequencer (R326, R327) and the illegal instruction (R316).
-/
namespace Sys2Proof.Machine
open Sys2Proof

/-- Format A: both sources are read before the destination is written (R322). -/
def State.alu (s : State) (rd rs1 rs2 : Reg) (f : Word → Word → Word) : Out :=
  .next (s.result rd (f (s.cur.rd rs1) (s.cur.rd rs2)))

/-- Format I with the 16-bit immediate in 64 bits (R327). -/
def State.aluImm (s : State) (rd rs1 : Reg) (f : Word → Word) : Out := .next (s.result rd (f (s.cur.rd rs1)))

/-- IDZ of the status register, which instructions only set (R300). -/
def srIDZ : BitVec 6 := 0x20

/-- The quotient and the remainder of R326, and whether the divisor is zero. -/
def divRem (a b : Word) : Word × Word × Bool :=
  if b = 0 then (BitVec.allOnes 64, a, true)
  else (BitVec.ofInt 64 (a.toInt.tdiv b.toInt), BitVec.ofInt 64 (a.toInt.tmod b.toInt), false)

/-- DIV and REM write one of the two results and set IDZ for a zero divisor (R326). -/
def State.divide (s : State) (rd rs1 rs2 : Reg) (pick : Word × Word × Bool → Word) : Out :=
  let r := divRem (s.cur.rd rs1) (s.cur.rd rs2)
  let q := s.cur.wr rd (pick r)
  .next (s.retire { q with sr := if r.2.2 then q.sr ||| srIDZ else q.sr })

/-- ADD (R326). -/
def execAdd (rd rs1 rs2 : Reg) (s : State) : Out := s.alu rd rs1 rs2 (fun a b => a + b)

/-- SUB (R326). -/
def execSub (rd rs1 rs2 : Reg) (s : State) : Out := s.alu rd rs1 rs2 (fun a b => a - b)

/-- AND (R326). -/
def execAnd (rd rs1 rs2 : Reg) (s : State) : Out := s.alu rd rs1 rs2 (fun a b => a &&& b)

/-- OR (R326). -/
def execOr (rd rs1 rs2 : Reg) (s : State) : Out := s.alu rd rs1 rs2 (fun a b => a ||| b)

/-- XOR (R326). -/
def execXor (rd rs1 rs2 : Reg) (s : State) : Out := s.alu rd rs1 rs2 (fun a b => a ^^^ b)

/-- SLL (R326). -/
def execSll (rd rs1 rs2 : Reg) (s : State) : Out := s.alu rd rs1 rs2 (fun a b => a <<< (b.toNat % 64))

/-- SRL (R326). -/
def execSrl (rd rs1 rs2 : Reg) (s : State) : Out := s.alu rd rs1 rs2 (fun a b => a >>> (b.toNat % 64))

/-- SRA (R326). -/
def execSra (rd rs1 rs2 : Reg) (s : State) : Out := s.alu rd rs1 rs2 (fun a b => a.sshiftRight (b.toNat % 64))

/-- MUL (R326). -/
def execMul (rd rs1 rs2 : Reg) (s : State) : Out := s.alu rd rs1 rs2 (fun a b => BitVec.ofInt 64 (a.toInt * b.toInt))

/-- MULH (R326). -/
def execMulh (rd rs1 rs2 : Reg) (s : State) : Out := s.alu rd rs1 rs2 (fun a b => BitVec.ofInt 64 (a.toInt * b.toInt / 2 ^ 64))

/-- MIN (R326). -/
def execMin (rd rs1 rs2 : Reg) (s : State) : Out := s.alu rd rs1 rs2 (fun a b => if a.toInt ≤ b.toInt then a else b)

/-- MAX (R326). -/
def execMax (rd rs1 rs2 : Reg) (s : State) : Out := s.alu rd rs1 rs2 (fun a b => if a.toInt ≤ b.toInt then b else a)

/-- SLT (R326). -/
def execSlt (rd rs1 rs2 : Reg) (s : State) : Out := s.alu rd rs1 rs2 (fun a b => if a.toInt < b.toInt then 1 else 0)

/-- SLTU (R326). -/
def execSltu (rd rs1 rs2 : Reg) (s : State) : Out := s.alu rd rs1 rs2 (fun a b => if a.toNat < b.toNat then 1 else 0)

/-- DIV (R326). -/
def execDiv (rd rs1 rs2 : Reg) (s : State) : Out := s.divide rd rs1 rs2 (fun r => r.1)

/-- REM (R326). -/
def execRem (rd rs1 rs2 : Reg) (s : State) : Out := s.divide rd rs1 rs2 (fun r => r.2.1)

/-- ADDI (R327). -/
def execAddi (rd rs1 : Reg) (imm : BitVec 16) (s : State) : Out := s.aluImm rd rs1 (fun a => a + imm.signExtend 64)

/-- ANDI (R327). -/
def execAndi (rd rs1 : Reg) (imm : BitVec 16) (s : State) : Out := s.aluImm rd rs1 (fun a => a &&& imm.setWidth 64)

/-- ORI (R327). -/
def execOri (rd rs1 : Reg) (imm : BitVec 16) (s : State) : Out := s.aluImm rd rs1 (fun a => a ||| imm.setWidth 64)

/-- XORI (R327). -/
def execXori (rd rs1 : Reg) (imm : BitVec 16) (s : State) : Out := s.aluImm rd rs1 (fun a => a ^^^ imm.setWidth 64)

/-- SLLI (R327). -/
def execSlli (rd rs1 : Reg) (sh : BitVec 6) (s : State) : Out := s.aluImm rd rs1 (fun a => a <<< sh.toNat)

/-- SRLI (R327). -/
def execSrli (rd rs1 : Reg) (sh : BitVec 6) (s : State) : Out := s.aluImm rd rs1 (fun a => a >>> sh.toNat)

/-- SRAI (R327). -/
def execSrai (rd rs1 : Reg) (sh : BitVec 6) (s : State) : Out := s.aluImm rd rs1 (fun a => a.sshiftRight sh.toNat)

/-- LIH (R327). -/
def execLih (rd rs1 : Reg) (imm : BitVec 16) (s : State) : Out :=
  s.aluImm rd rs1 (fun a => (a <<< 16) ||| imm.setWidth 64)

/-- ILLEGAL_INSTRUCTION raises SEQ_ILLEGAL (R316). -/
def execIllegalInstruction (_w : BitVec 32) (s : State) : Out := s.fault .seqIllegal

end Sys2Proof.Machine
end

