-- ==== Sys2Proof/Machine/SeqFp.lean ====
section
/-!
DEFINITION. The FP32 instructions of a sequencer (R328), under RNE, with their flags ORed into SR.
-/
namespace Sys2Proof.Machine
open Sys2Proof

/-- The FP32 value in bits 31:0 of a register. -/
def fpArg (a : Word) : FVal := fp32.decode (bits a.toNat 0 32)

/-- The flags NV, DZ, OF, UF and NX as SR holds them (R300). -/
def srFlags (f : Flags) : BitVec 6 := (f.extractLsb' 0 5).setWidth 6

/-- Writes a result and ORs its flags into SR[4:0] (R328). -/
def State.fpResult (s : State) (rd : Reg) (r : FRes) : State :=
  let q := s.cur.wr rd (word r.bits)
  s.retire { q with sr := q.sr ||| srFlags r.fl }

def State.fpBinary (s : State) (rd rs1 rs2 : Reg) (f : FVal → FVal → FRes) : Out :=
  .next (s.fpResult rd (f (fpArg (s.cur.rd rs1)) (fpArg (s.cur.rd rs2))))

def State.fpUnary (s : State) (rd rs1 : Reg) (f : Word → FRes) : Out := .next (s.fpResult rd (f (s.cur.rd rs1)))

/-- A compare writes 1 or 0; an ordered one sets NV for a NaN operand (R168). -/
def fpCompare (ordered : Bool) (test : FVal → FVal → Bool) (a b : FVal) : FRes :=
  if a.isNan || b.isNan then { bits := 0, fl := flIf ordered flNV } else { bits := if test a b then 1 else 0, fl := 0 }

/-- FADDS (R328). -/
def execFadds (rd rs1 rs2 : Reg) (s : State) : Out := s.fpBinary rd rs1 rs2 (fp32.add .rne)

/-- FSUBS (R328). -/
def execFsubs (rd rs1 rs2 : Reg) (s : State) : Out := s.fpBinary rd rs1 rs2 (fun a b => fp32.add .rne a b.neg)

/-- FMULS (R328). -/
def execFmuls (rd rs1 rs2 : Reg) (s : State) : Out := s.fpBinary rd rs1 rs2 (fp32.mul .rne)

/-- FDIVS (R328). -/
def execFdivs (rd rs1 rs2 : Reg) (s : State) : Out := s.fpBinary rd rs1 rs2 (fp32.div .rne)

/-- FSQRTS (R328). -/
def execFsqrts (rd rs1 : Reg) (s : State) : Out := s.fpUnary rd rs1 (fun a => fp32.sqrt .rne (fpArg a))

/-- FEQS (R168, R328). -/
def execFeqs (rd rs1 rs2 : Reg) (s : State) : Out := s.fpBinary rd rs1 rs2 (fpCompare false FVal.eqv)

/-- FLTS (R168, R328). -/
def execFlts (rd rs1 rs2 : Reg) (s : State) : Out := s.fpBinary rd rs1 rs2 (fpCompare true FVal.lt)

/-- FLES (R168, R328). -/
def execFles (rd rs1 rs2 : Reg) (s : State) : Out := s.fpBinary rd rs1 rs2 (fpCompare true (fun a b => !b.lt a))

/-- FCVTIS: the signed 64-bit integer rounded to FP32 (R328). -/
def execFcvtis (rd rs1 : Reg) (s : State) : Out :=
  s.fpUnary rd rs1 (fun a => fp32.round .rne (decide (a.toInt < 0)) a.toInt.natAbs 0)

/-- FCVTSI: FP32 rounded to a signed 64-bit integer under R117 (R328). -/
def execFcvtsi (rd rs1 : Reg) (s : State) : Out := s.fpUnary rd rs1 (fun a => cvtInt .rne 64 false (fpArg a))

end Sys2Proof.Machine
end

