-- ==== Sys2Proof/Machine/SeqSys.lean ====
section
/-!
DEFINITION. The sequencer instructions that read or write a control and status register, and TIME (R357, R358).
-/
namespace Sys2Proof.Machine
open Sys2Proof

/-- A read of the timebase by the running sequencer: held until its replica has counted on (R21), and captured by the
recorder; none while the recorder makes it wait (R467). -/
def State.seqTime (s : State) : Option (Word × State) :=
  let n := s.curSeq
  let (v, s1) := s.readTime (seqClock n)
  s1.captured (s1.seqLaunch n) 1 .seq n noSlot v 0 (seqClock n)

/-- The value of a register and the state after its read; a wait leaves the instruction where it is. -/
def State.csrRead (s : State) (c : Nat) : Option (Option (Word × State)) :=
  match s.csr s.curSeq c with
  | none => none
  | some v => if c = 1 then some s.seqTime else some (some (v, s))

/-- CSRR (R357). -/
def execCsrr (rd : Reg) (csr : BitVec 8) (s : State) : Out :=
  match s.csrRead csr.toNat with
  | none => s.fault .seqIllegal
  | some none => .next s
  | some (some (v, s1)) => .next (s1.result rd v)

/-- CSRW: the old value goes to rd, and then the register takes the old value of rs1 (R357). -/
def execCsrw (rd rs1 : Reg) (csr : BitVec 8) (s : State) : Out :=
  match s.csrRead csr.toNat with
  | none => s.fault .seqIllegal
  | some none => .next s
  | some (some (v, s1)) => .next ((s1.result rd v).csrWrite s.curSeq csr.toNat (s.cur.rd rs1))

/-- TIME (R358). -/
def execTime (rd : Reg) (s : State) : Out :=
  match s.seqTime with
  | none => .next s
  | some (v, s1) => .next (s1.result rd v)

end Sys2Proof.Machine
end

