-- ==== Sys2Proof/Machine/Storage.lean ====
section
/-!
DEFINITION. Storage: the pages of storage copies and their commands (R54, R56, R57), Wifen cache images and their tags (R58 to
R63), and the turn of a copy engine. How drives hold their namespaces is the model's (DESIGN CHOICE, log 17).
-/
namespace Sys2Proof.Machine
open Sys2Proof

/-! ### Places -/

/-- Byte `off` of page `p` of an extent on its drive (R56). -/
def State.drivePage (s : State) (v p : Nat) : Nat :=
  let lba := ((s.namespace? v).map Prod.fst).getD 512
  driveLoc (exPort v) (exNsid v) (exBase v * lba + p * pageSize)

/-- The memory side of a storage copy. -/
def CopyJob.memSide (j : CopyJob) : Nat := if exOut j.sdesc.toNat then j.srca.toNat else j.dsta.toNat

/-- The memory address of the page that comes next. -/
def CopyJob.pageAddr (j : CopyJob) : Word := word (j.memSide + j.page * pageSize)

/-- The number of that page in the extent. -/
def CopyJob.pageNo (j : CopyJob) : Nat := exFirst j.sdesc.toNat + j.page

/-- The location of a place in this package's memory. -/
def memPlace : Res Place → Res Nat
  | .ok (.mem l) => .ok l
  | .ok _ => .bad .memBadPath
  | .bad c => .bad c
  | .wait => .wait

/-- Where that page lies in memory. -/
def State.pagePlace (s : State) (j : CopyJob) : Res Nat :=
  memPlace (s.check { ctx := some j.ctx } 0 [] (if exOut j.sdesc.toNat then .read else .write) j.pageAddr 16).1

/-! ### Tags (R61) -/

/-- The tag of page `p` with the given bytes. -/
def pageTag (key : List Byte) (imgid p : Nat) (page : List Byte) : List Byte :=
  kmac128 key (leBytes 16 imgid ++ leBytes 8 p ++ page) 16 (ascii "WCI1")

/-- A header page with its tag field zero. -/
def untagged (page : List Byte) : List Byte := page.take 240 ++ List.replicate 16 0 ++ page.drop 256

/-- Where the tag of data page `p` stands on the drive. -/
def State.tagLoc (s : State) (v p : Nat) : Nat :=
  s.drivePage v (exDpages v + 1 + (p - 1) / 8192) + 16 * ((p - 1) % 8192)

/-- Writes the tag of data page `p`; the first of a tag page clears the whole tag page (R63). -/
def State.putTag (s : State) (v p : Nat) (tag : List Byte) : State :=
  let s1 : State := if (p - 1) % 8192 = 0 then { s with mem := memClear s.mem (s.tagLoc v p) pageSize } else s
  s1.storeBytes (s1.tagLoc v p) tag

/-! ### The header (R58 to R60, R62) -/

/-- Bytes of a token of E elements in format F, rounded up to 16. -/
def tokenStride (e f : Nat) : Nat :=
  let elems := if f ≤ 1 then 2 * e else if f = 6 then e / 2 else e
  ceilDiv (elems + (if 4 ≤ f then e / 32 else 0)) 16 * 16

/-- The first header check that fails: the version, then the other fields, for a page and its extent. -/
def headerCheck (v : Nat) (page : List Byte) : Option Cause :=
  let h := leNat (page.take 256)
  let e := bits h 544 16
  let f := bits h 560 8
  let t := if tokenStride e f = 0 then 0 else pageSize / tokenStride e f
  let pages := if t = 0 then 0 else ceilDiv (bits h 576 32) t
  let reserved := bits h 96 32 != 0 || bits h 572 4 != 0 || bits h 624 16 != 0 || bits h 704 1216 != 0
  if bits h 0 64 ≠ 0x0049434E45464957 then some .memWciHeader
  else if bits h 72 8 ≠ 1 then some .memWciVersion
  else if bits h 80 16 ≠ 256 ∨ 7 ≤ f ∨ e % 32 ≠ 0 ∨ e < 32 ∨ 512 < e ∨ bits h 608 16 ≠ t ∨
      bits h 640 64 ≠ 2 * bits h 512 16 * bits h 528 16 * pages ∨ (bits h 64 8 = 0 ∧ reserved) ∨
      (page.drop 256).any (fun b => b != 0) ∨ bits h 568 4 ≠ exKey v ∨ bits h 128 128 ≠ exImgid v ∨
      bits h 640 64 ≠ exDpages v then some .memWciHeader
  else none

/-! ### The end of a page -/

/-- A page is over: the next one follows, and the engine ticks of its storage side are charged, and of its memory side if the page
has moved (R402; DEDUCED, log 37). -/
def State.pageOver (s : State) (k : Nat) (moved : Bool := true) : State :=
  match s.copyJob k with
  | none => s
  | some j =>
    let s1 : State := { s with storage := s.storage.filter (fun c => c.2.copy != k) }
    (s1.setCopy k { j with page := j.page + 1, stopped := none }).chargeCopy j
      (1024 + if moved then unitsReached 256 0 pageSize else 0)

/-- A page that has failed is counted with its cause, and the copy goes on. -/
def State.pageFails (s : State) (k : Nat) (c : Cause) (moved : Bool := false) : State :=
  match s.copyJob k with
  | none => s
  | some j => State.pageOver (s.setCopy k { j.because c with count := j.count + 1 }) k moved

/-- A command fails: its frames fail, and the port writes one record with the page number (R54). A page of a cache image that has
not been written gets a zero tag, as a poisoned one does (R63; DESIGN CHOICE, log 37). -/
def State.commandFails (s : State) (k : Nat) (c : Cause) : State :=
  match s.copyJob k with
  | none => s
  | some j =>
    let v := j.sdesc.toNat
    let s1 := s.raise c { origin := .storage, ctx := some j.ctx, pos := exPort v + exNsid v * 2, stop := false,
                          addr := word j.pageNo }
    let s2 := if exOut v then (if exWci v && 0 < j.pageNo then s1.putTag v j.pageNo (List.replicate 16 0) else s1)
      else match s1.pagePlace j with
        | .ok l => s1.failFrame (l / pageSize) 2
        | _ => s1
    s2.pageFails k c

/-- A page without the key of its tag is not transferred (R61, R464); the record holds the page number in both directions
(DESIGN CHOICE, log 37). -/
def State.pageNoKey (s : State) (k : Nat) (j : CopyJob) : State :=
  (s.copyRecord j .memNoKey (word j.pageNo) false).pageFails k .memNoKey

/-- A page from a drive reaches memory (R57, R62). A header page that fails is not written to memory, and the record of either
failure has STOP set, since the copy reads no further page (DESIGN CHOICE, log 37). -/
def State.pageIn (s : State) (k : Nat) (j : CopyJob) (l : Nat) : State :=
  let v := j.sdesc.toNat
  let p := j.pageNo
  let f := l / pageSize
  let page := memBytes s.mem (s.drivePage v p) pageSize
  let good : State := (State.setCopy (s.storeBytes l page) k { j with clean := f :: j.clean }).pageOver k
  let stop (c : Cause) : State :=
    let s1 := ((s.failFrame f 1).copyRecord j c (word p) true).pageFails k c
    match s1.copyJob k with
    | some n => s1.setCopy k { n with failed := true }
    | none => s1
  if !exWci v ∨ exDpages v < p then good
  else if p = 0 then
    match headerCheck v page with
    | some c => stop c
    | none => match s.dataKey (exKey v) with
      | none => s.pageNoKey k j
      | some key => if pageTag key (exImgid v) 0 (untagged page) = (page.drop 240).take 16 then good else stop .memTagMismatch
  else match s.dataKey (exKey v) with
    | none => s.pageNoKey k j
    | some key =>
      if pageTag key (exImgid v) p page = memBytes s.mem (s.tagLoc v p) 16 then good
      else (((s.storeBytes l page).failFrame f 1).copyRecord j .memTagMismatch (word p) false).pageFails k .memTagMismatch true

/-- Index of the first 16-byte granule of the page at a location that arrives poisoned. -/
def State.badGranule (s : State) (l : Nat) : Option Nat :=
  (List.range (pageSize / 16)).find? (fun i => (s.dataError (l + 16 * i) 16).isSome)

/-- The islands' records of the poisoned granules of a page that a copy reads (R32, R471). -/
def State.pageRecords (s : State) (j : CopyJob) (l : Nat) : State :=
  (s.poison.filter (fun g => decide (l ≤ 16 * g) && decide (16 * g < l + pageSize))).foldl
    (fun st g => st.islandRecord j.ctx (16 * g) (j.pageAddr + word (16 * g - l))) s

/-- The header page as the part writes it, its tag field zero: MINOR 0 and MAJOR 1 (R60). -/
def headerOut (page : List Byte) : List Byte := untagged (page.take 8 ++ [0, 1] ++ page.drop 10)

/-- A page from memory reaches a drive; one that holds a poisoned granule does not, and its tag is zero (R63, R345). -/
def State.pageOut (s : State) (k : Nat) (j : CopyJob) (l : Nat) : State :=
  let v := j.sdesc.toNat
  let p := j.pageNo
  let page := memBytes s.mem l pageSize
  let tag (st : State) (t : List Byte) : State := if exWci v && 0 < p then st.putTag v p t else st
  match s.badGranule l with
  | some i =>
    let s0 := s.pageRecords j l
    let s1 := if j.firstPsn then s0 else s0.copyRecord j .psnEgress (j.pageAddr + word (16 * i)) false
    (tag (s1.setCopy k { j with firstPsn := true }) (List.replicate 16 0)).pageFails k .psnEgress
  | none =>
    if !exWci v then (s.storeBytes (s.drivePage v p) page).pageOver k
    else match s.dataKey (exKey v) with
      | none => s.pageNoKey k j
      | some key =>
        let x := if p = 0 then headerOut page else page
        let t := pageTag key (exImgid v) p x
        let bs := if p = 0 then x.take 240 ++ t ++ x.drop 256 else x
        (tag (s.storeBytes (s.drivePage v p) bs) t).pageOver k

/-! ### Commands (R54) -/

/-- The command of the next page of a storage copy is issued; a port whose controller is being reset completes it at once. -/
def State.issueCommand (s : State) (k : Nat) (j : CopyJob) : State :=
  let v := j.sdesc.toNat
  match s.pagePlace j with
  | .wait => s
  | .bad c => s.copyBad k c j.pageAddr
  | .ok _ =>
    if s.resetting.contains (exPort v) then s.commandFails k .memStorageTimeout
    else
      let c : StorageCmd :=
        { port := exPort v, copy := k, nsid := exNsid v, page := j.pageNo, write := exOut v, reissued := false,
          since := s.now }
      let s1 := s.setCopy k { j with stopped := none }
      { s1 with storage := tabPut s1.storage (tabFresh s1.storage) c }

/-- One step of a copy engine: a granule, or the command of a page (R345). -/
def State.copyStep (s : State) (k : Nat) : State :=
  match s.copyJob k with
  | none => s
  | some j =>
    if !s.copyLive j then s
    else if j.stor then
      if exCount j.sdesc.toNat ≤ j.page || s.storage.any (fun c => c.2.copy == k) then s else s.issueCommand k j
    else if j.len ≤ j.done then s
    else s.copyGranule k j

/-- The copy engine moves the next `n` granules or pages of a copy. -/
def State.copyTurn (s : State) (k n : Nat) : Out := .next ((List.range n).foldl (fun st _ => st.copyStep k) s)

/-- A command has timed out, or its controller is being reset: firmware resets the controller, and every command to the port
completes at once (R54). -/
def State.portTimesOut (s : State) (port : Nat) : State :=
  let s1 : State := { s with resetting := if s.resetting.contains port then s.resetting else port :: s.resetting }
  (s.storage.filter (fun c => c.2.port == port)).foldl (fun st c => st.commandFails c.2.copy .memStorageTimeout) s1

/-- A command that has had no completion for 2 × 10^9 ticks, or whose controller is being reset (R54). -/
def State.timedOut (s : State) (c : StorageCmd) : Bool :=
  s.resetting.contains c.port || decide (c.since + 2000000000 ≤ s.now)

/-- NVME_COMPLETION: the page moves, or the command is issued again once, or it fails; its time counts anew from the second issue
(R54; DESIGN CHOICE, log 37). -/
def execNvmeCompletion (cmd : Nat) (ok dnr : Bool) (s : State) : Out :=
  match tabFind s.storage cmd with
  | none => .next s
  | some c => match s.copyJob c.copy with
    | none => .next { s with storage := tabDel s.storage cmd }
    | some j =>
      if s.timedOut c then .next (s.portTimesOut c.port)
      else if !ok then
        if dnr || c.reissued then .next (s.commandFails c.copy .memStorageError)
        else .next { s with storage := tabPut s.storage cmd { c with reissued := true, since := s.now } }
      else match s.pagePlace j with
        | .wait => .next s
        | .bad x => .next (State.copyBad { s with storage := tabDel s.storage cmd } c.copy x j.pageAddr)
        | .ok l => .next (if c.write then s.pageOut c.copy j l else s.pageIn c.copy j l)

/-- STORAGE_COMMAND_TIMEOUT: after 2 × 10^9 ticks, or at once while the controller is being reset, the command fails, and
firmware resets the controller (R54). -/
def execStorageCommandTimeout (cmd : Nat) (s : State) : Out :=
  match tabFind s.storage cmd with
  | none => .next s
  | some c => .next (if s.timedOut c then s.portTimesOut c.port else s)

/-- STORAGE_CONTROLLER_RESET_DONE: commands to the port run again (R54). -/
def execStorageControllerResetDone (port : Nat) (s : State) : Out :=
  .next { s with resetting := s.resetting.filter (· != port) }

end Sys2Proof.Machine
end

