-- ==== Sys2Proof/Machine/Dispatch.lean ====
section
/-! DEFINITION. The meaning of each instruction: one arm for each constructor, each a direct call. -/
namespace Sys2Proof.Machine

open Sys2Proof

def exec (i : Instr) (s : State) : Host.Outcome State Fault Refusal :=
  match i with
  | .add rd rs1 rs2 => Sys2Proof.Machine.execAdd rd rs1 rs2 s
  | .sub rd rs1 rs2 => Sys2Proof.Machine.execSub rd rs1 rs2 s
  | .and rd rs1 rs2 => Sys2Proof.Machine.execAnd rd rs1 rs2 s
  | .or rd rs1 rs2 => Sys2Proof.Machine.execOr rd rs1 rs2 s
  | .xor rd rs1 rs2 => Sys2Proof.Machine.execXor rd rs1 rs2 s
  | .sll rd rs1 rs2 => Sys2Proof.Machine.execSll rd rs1 rs2 s
  | .srl rd rs1 rs2 => Sys2Proof.Machine.execSrl rd rs1 rs2 s
  | .sra rd rs1 rs2 => Sys2Proof.Machine.execSra rd rs1 rs2 s
  | .mul rd rs1 rs2 => Sys2Proof.Machine.execMul rd rs1 rs2 s
  | .mulh rd rs1 rs2 => Sys2Proof.Machine.execMulh rd rs1 rs2 s
  | .div rd rs1 rs2 => Sys2Proof.Machine.execDiv rd rs1 rs2 s
  | .rem rd rs1 rs2 => Sys2Proof.Machine.execRem rd rs1 rs2 s
  | .min rd rs1 rs2 => Sys2Proof.Machine.execMin rd rs1 rs2 s
  | .max rd rs1 rs2 => Sys2Proof.Machine.execMax rd rs1 rs2 s
  | .slt rd rs1 rs2 => Sys2Proof.Machine.execSlt rd rs1 rs2 s
  | .sltu rd rs1 rs2 => Sys2Proof.Machine.execSltu rd rs1 rs2 s
  | .fadds rd rs1 rs2 => Sys2Proof.Machine.execFadds rd rs1 rs2 s
  | .fsubs rd rs1 rs2 => Sys2Proof.Machine.execFsubs rd rs1 rs2 s
  | .fmuls rd rs1 rs2 => Sys2Proof.Machine.execFmuls rd rs1 rs2 s
  | .fdivs rd rs1 rs2 => Sys2Proof.Machine.execFdivs rd rs1 rs2 s
  | .fsqrts rd rs1 => Sys2Proof.Machine.execFsqrts rd rs1 s
  | .feqs rd rs1 rs2 => Sys2Proof.Machine.execFeqs rd rs1 rs2 s
  | .flts rd rs1 rs2 => Sys2Proof.Machine.execFlts rd rs1 rs2 s
  | .fles rd rs1 rs2 => Sys2Proof.Machine.execFles rd rs1 rs2 s
  | .fcvtis rd rs1 => Sys2Proof.Machine.execFcvtis rd rs1 s
  | .fcvtsi rd rs1 => Sys2Proof.Machine.execFcvtsi rd rs1 s
  | .amoadd rd rs1 rs2 f => Sys2Proof.Machine.execAmoadd rd rs1 rs2 f s
  | .amoand rd rs1 rs2 f => Sys2Proof.Machine.execAmoand rd rs1 rs2 f s
  | .amoor rd rs1 rs2 f => Sys2Proof.Machine.execAmoor rd rs1 rs2 f s
  | .amoxor rd rs1 rs2 f => Sys2Proof.Machine.execAmoxor rd rs1 rs2 f s
  | .amomin rd rs1 rs2 f => Sys2Proof.Machine.execAmomin rd rs1 rs2 f s
  | .amomax rd rs1 rs2 f => Sys2Proof.Machine.execAmomax rd rs1 rs2 f s
  | .amoswp rd rs1 rs2 f => Sys2Proof.Machine.execAmoswp rd rs1 rs2 f s
  | .amocas rd rs1 rs2 f => Sys2Proof.Machine.execAmocas rd rs1 rs2 f s
  | .addi rd rs1 imm => Sys2Proof.Machine.execAddi rd rs1 imm s
  | .andi rd rs1 imm => Sys2Proof.Machine.execAndi rd rs1 imm s
  | .ori rd rs1 imm => Sys2Proof.Machine.execOri rd rs1 imm s
  | .xori rd rs1 imm => Sys2Proof.Machine.execXori rd rs1 imm s
  | .slli rd rs1 sh => Sys2Proof.Machine.execSlli rd rs1 sh s
  | .srli rd rs1 sh => Sys2Proof.Machine.execSrli rd rs1 sh s
  | .srai rd rs1 sh => Sys2Proof.Machine.execSrai rd rs1 sh s
  | .lih rd rs1 imm => Sys2Proof.Machine.execLih rd rs1 imm s
  | .beq rs1 rs2 off => Sys2Proof.Machine.execBeq rs1 rs2 off s
  | .bne rs1 rs2 off => Sys2Proof.Machine.execBne rs1 rs2 off s
  | .blt rs1 rs2 off => Sys2Proof.Machine.execBlt rs1 rs2 off s
  | .bge rs1 rs2 off => Sys2Proof.Machine.execBge rs1 rs2 off s
  | .bltu rs1 rs2 off => Sys2Proof.Machine.execBltu rs1 rs2 off s
  | .bgeu rs1 rs2 off => Sys2Proof.Machine.execBgeu rs1 rs2 off s
  | .bstat rs1 rs2 off => Sys2Proof.Machine.execBstat rs1 rs2 off s
  | .jalr rd rs1 imm => Sys2Proof.Machine.execJalr rd rs1 imm s
  | .jal rd off => Sys2Proof.Machine.execJal rd off s
  | .ldb data base m => Sys2Proof.Machine.execLdb data base m s
  | .ldh data base m => Sys2Proof.Machine.execLdh data base m s
  | .ldw data base m => Sys2Proof.Machine.execLdw data base m s
  | .ldd data base m => Sys2Proof.Machine.execLdd data base m s
  | .stb data base m => Sys2Proof.Machine.execStb data base m s
  | .sth data base m => Sys2Proof.Machine.execSth data base m s
  | .stw data base m => Sys2Proof.Machine.execStw data base m s
  | .std data base m => Sys2Proof.Machine.execStd data base m s
  | .fence scope => Sys2Proof.Machine.execFence scope s
  | .fenceio scope => Sys2Proof.Machine.execFenceio scope s
  | .sdset sd rs1 word => Sys2Proof.Machine.execSdset sd rs1 word s
  | .sbind rd rs1 shadow sd => Sys2Proof.Machine.execSbind rd rs1 shadow sd s
  | .scancel rd rs1 => Sys2Proof.Machine.execScancel rd rs1 s
  | .cfgld rd rs1 ch => Sys2Proof.Machine.execCfgld rd rs1 ch s
  | .reconf rd ch => Sys2Proof.Machine.execReconf rd ch s
  | .drain rd ch => Sys2Proof.Machine.execDrain rd ch s
  | .copy rd rs1 ch => Sys2Proof.Machine.execCopy rd rs1 ch s
  | .coll rd rs1 ch => Sys2Proof.Machine.execColl rd rs1 ch s
  | .barinit rs1 bar => Sys2Proof.Machine.execBarinit rs1 bar s
  | .barrive rs1 bar => Sys2Proof.Machine.execBarrive rs1 bar s
  | .barbind rs1 bar => Sys2Proof.Machine.execBarbind rs1 bar s
  | .chpost rd rs1 self ch => Sys2Proof.Machine.execChpost rd rs1 self ch s
  | .chbind rd rs1 ch => Sys2Proof.Machine.execChbind rd rs1 ch s
  | .tend => Sys2Proof.Machine.execTend s
  | .evsend rd rs1 => Sys2Proof.Machine.execEvsend rd rs1 s
  | .evhz rs1 => Sys2Proof.Machine.execEvhz rs1 s
  | .trap code => Sys2Proof.Machine.execTrap code s
  | .eret => Sys2Proof.Machine.execEret s
  | .csrr rd csr => Sys2Proof.Machine.execCsrr rd csr s
  | .csrw rd rs1 csr => Sys2Proof.Machine.execCsrw rd rs1 csr s
  | .time rd => Sys2Proof.Machine.execTime rd s
  | .wdog rs1 => Sys2Proof.Machine.execWdog rs1 s
  | .illegalInstruction w => Sys2Proof.Machine.execIllegalInstruction w s
  | .addOperator o => Sys2Proof.Machine.execAddOperator o s
  | .subOperator o => Sys2Proof.Machine.execSubOperator o s
  | .adds o => Sys2Proof.Machine.execAdds o s
  | .subs o => Sys2Proof.Machine.execSubs o s
  | .mulOperator o => Sys2Proof.Machine.execMulOperator o s
  | .mulhOperator o => Sys2Proof.Machine.execMulhOperator o s
  | .mad o => Sys2Proof.Machine.execMad o s
  | .abs o => Sys2Proof.Machine.execAbs o s
  | .neg o => Sys2Proof.Machine.execNeg o s
  | .minOperator o => Sys2Proof.Machine.execMinOperator o s
  | .maxOperator o => Sys2Proof.Machine.execMaxOperator o s
  | .minu o => Sys2Proof.Machine.execMinu o s
  | .maxu o => Sys2Proof.Machine.execMaxu o s
  | .andOperator o => Sys2Proof.Machine.execAndOperator o s
  | .orOperator o => Sys2Proof.Machine.execOrOperator o s
  | .xorOperator o => Sys2Proof.Machine.execXorOperator o s
  | .andn o => Sys2Proof.Machine.execAndn o s
  | .not o => Sys2Proof.Machine.execNot o s
  | .shl o => Sys2Proof.Machine.execShl o s
  | .shr o => Sys2Proof.Machine.execShr o s
  | .sar o => Sys2Proof.Machine.execSar o s
  | .rol o => Sys2Proof.Machine.execRol o s
  | .clz o => Sys2Proof.Machine.execClz o s
  | .popc o => Sys2Proof.Machine.execPopc o s
  | .cmpeq o => Sys2Proof.Machine.execCmpeq o s
  | .cmpne o => Sys2Proof.Machine.execCmpne o s
  | .cmplt o => Sys2Proof.Machine.execCmplt o s
  | .cmple o => Sys2Proof.Machine.execCmple o s
  | .cmpltu o => Sys2Proof.Machine.execCmpltu o s
  | .cmpleu o => Sys2Proof.Machine.execCmpleu o s
  | .sel o => Sys2Proof.Machine.execSel o s
  | .fadd o => Sys2Proof.Machine.execFadd o s
  | .fsub o => Sys2Proof.Machine.execFsub o s
  | .fmul o => Sys2Proof.Machine.execFmul o s
  | .fma o => Sys2Proof.Machine.execFma o s
  | .fmin o => Sys2Proof.Machine.execFmin o s
  | .fmax o => Sys2Proof.Machine.execFmax o s
  | .fabs o => Sys2Proof.Machine.execFabs o s
  | .fneg o => Sys2Proof.Machine.execFneg o s
  | .fcmpeq o => Sys2Proof.Machine.execFcmpeq o s
  | .fcmplt o => Sys2Proof.Machine.execFcmplt o s
  | .fcmple o => Sys2Proof.Machine.execFcmple o s
  | .fcmpun o => Sys2Proof.Machine.execFcmpun o s
  | .rcp o => Sys2Proof.Machine.execRcp o s
  | .rsq o => Sys2Proof.Machine.execRsq o s
  | .sqrt o => Sys2Proof.Machine.execSqrt o s
  | .exp2 o => Sys2Proof.Machine.execExp2 o s
  | .log2 o => Sys2Proof.Machine.execLog2 o s
  | .tanh o => Sys2Proof.Machine.execTanh o s
  | .sigm o => Sys2Proof.Machine.execSigm o s
  | .frnd o => Sys2Proof.Machine.execFrnd o s
  | .fclass o => Sys2Proof.Machine.execFclass o s
  | .cvtf o => Sys2Proof.Machine.execCvtf o s
  | .cvti o => Sys2Proof.Machine.execCvti o s
  | .cvtif o => Sys2Proof.Machine.execCvtif o s
  | .join o => Sys2Proof.Machine.execJoin o s
  | .acc o => Sys2Proof.Machine.execAcc o s
  | .amax o => Sys2Proof.Machine.execAmax o s
  | .argm o => Sys2Proof.Machine.execArgm o s
  | .iota o => Sys2Proof.Machine.execIota o s
  | .cnt o => Sys2Proof.Machine.execCnt o s
  | .scan o => Sys2Proof.Machine.execScan o s
  | .halt o => Sys2Proof.Machine.execHalt o s
  | .ld o => Sys2Proof.Machine.execLd o s
  | .st o => Sys2Proof.Machine.execSt o s
  | .ldfe o => Sys2Proof.Machine.execLdfe o s
  | .stfe o => Sys2Proof.Machine.execStfe o s
  | .atadd o => Sys2Proof.Machine.execAtadd o s
  | .atmin o => Sys2Proof.Machine.execAtmin o s
  | .atmax o => Sys2Proof.Machine.execAtmax o s
  | .atcas o => Sys2Proof.Machine.execAtcas o s
  | .atxch o => Sys2Proof.Machine.execAtxch o s
  | .empty o => Sys2Proof.Machine.execEmpty o s
  | .mrow o => Sys2Proof.Machine.execMrow o s
  | .mrows o => Sys2Proof.Machine.execMrows o s
  | .mwld o => Sys2Proof.Machine.execMwld o s
  | .mwrd o => Sys2Proof.Machine.execMwrd o s
  | .mscl o => Sys2Proof.Machine.execMscl o s
  | .mstat o => Sys2Proof.Machine.execMstat o s
  | .mclr o => Sys2Proof.Machine.execMclr o s
  | .qcvt o => Sys2Proof.Machine.execQcvt o s
  | .qside o => Sys2Proof.Machine.execQside o s
  | .pack o => Sys2Proof.Machine.execPack o s
  | .unpk o => Sys2Proof.Machine.execUnpk o s
  | .mxq o => Sys2Proof.Machine.execMxq o s
  | .deq o => Sys2Proof.Machine.execDeq o s
  | .srnd o => Sys2Proof.Machine.execSrnd o s
  | .evin o => Sys2Proof.Machine.execEvin o s
  | .evlk o => Sys2Proof.Machine.execEvlk o s
  | .evfr o => Sys2Proof.Machine.execEvfr o s
  | .evst o => Sys2Proof.Machine.execEvst o s
  | .evwr o => Sys2Proof.Machine.execEvwr o s
  | .evq o => Sys2Proof.Machine.execEvq o s
  | .eosg o => Sys2Proof.Machine.execEosg o s
  | .trapOperator o => Sys2Proof.Machine.execTrapOperator o s
  | .brk o => Sys2Proof.Machine.execBrk o s
  | .timeOperator o => Sys2Proof.Machine.execTimeOperator o s
  | .pcnt o => Sys2Proof.Machine.execPcnt o s
  | .seed o => Sys2Proof.Machine.execSeed o s
  | .pass r => Sys2Proof.Machine.execPass r s
  | .fork r => Sys2Proof.Machine.execFork r s
  | .steer r => Sys2Proof.Machine.execSteer r s
  | .merge r => Sys2Proof.Machine.execMerge r s
  | .carry r => Sys2Proof.Machine.execCarry r s
  | .invar r => Sys2Proof.Machine.execInvar r s
  | .delay r => Sys2Proof.Machine.execDelay r s
  | .edgeAgn r => Sys2Proof.Machine.execEdgeAgn r s
  | .edgeBarrier r => Sys2Proof.Machine.execEdgeBarrier r s
  | .edgeIndigo r => Sys2Proof.Machine.execEdgeIndigo r s
  | .nop p => Sys2Proof.Machine.execNop p s
  | .write p => Sys2Proof.Machine.execWrite p s
  | .signalSet p => Sys2Proof.Machine.execSignalSet p s
  | .signalAdd p => Sys2Proof.Machine.execSignalAdd p s
  | .waitGe p => Sys2Proof.Machine.execWaitGe p s
  | .launch p => Sys2Proof.Machine.execLaunch p s
  | .bind p => Sys2Proof.Machine.execBind p s
  | .copyPacket p => Sys2Proof.Machine.execCopyPacket p s
  | .retire p => Sys2Proof.Machine.execRetire p s
  | .retireCancel p => Sys2Proof.Machine.execRetireCancel p s
  | .fencePacket p => Sys2Proof.Machine.execFencePacket p s
  | .interrupt p => Sys2Proof.Machine.execInterrupt p s
  | .timestamp p => Sys2Proof.Machine.execTimestamp p s
  | .invalidate p => Sys2Proof.Machine.execInvalidate p s
  | .localMemoryRequestPerform tile => Sys2Proof.Machine.execLocalMemoryRequestPerform tile s
  | .rowArrival tile => Sys2Proof.Machine.execRowArrival tile s
  | .rowForward tile => Sys2Proof.Machine.execRowForward tile s
  | .eventDelivery tile => Sys2Proof.Machine.execEventDelivery tile s
  | .markEmit tile => Sys2Proof.Machine.execMarkEmit tile s
  | .routerLinkTransfer tile dir => Sys2Proof.Machine.execRouterLinkTransfer tile dir s
  | .spillRingRefill tile target => Sys2Proof.Machine.execSpillRingRefill tile target s
  | .invocationStart tile => Sys2Proof.Machine.execInvocationStart tile s
  | .streamElementIssue pc => Sys2Proof.Machine.execStreamElementIssue pc s
  | .writeStreamElement pc => Sys2Proof.Machine.execWriteStreamElement pc s
  | .indirectGather pc => Sys2Proof.Machine.execIndirectGather pc s
  | .indirectScatter pc => Sys2Proof.Machine.execIndirectScatter pc s
  | .bitmapSparseElement pc => Sys2Proof.Machine.execBitmapSparseElement pc s
  | .statusOr pc => Sys2Proof.Machine.execStatusOr pc s
  | .endOfStream pc => Sys2Proof.Machine.execEndOfStream pc s
  | .agnRetry pc => Sys2Proof.Machine.execAgnRetry pc s
  | .islandRepartition isl scr => Sys2Proof.Machine.execIslandRepartition isl scr s
  | .repartitionComplete isl => Sys2Proof.Machine.execRepartitionComplete isl s
  | .nvmeCompletion cmd ok dnr => Sys2Proof.Machine.execNvmeCompletion cmd ok dnr s
  | .storageCommandTimeout cmd => Sys2Proof.Machine.execStorageCommandTimeout cmd s
  | .copyCompletion copy => Sys2Proof.Machine.execCopyCompletion copy s
  | .streamCompletion pc => Sys2Proof.Machine.execStreamCompletion pc s
  | .imageLoadComplete launch => Sys2Proof.Machine.execImageLoadComplete launch s
  | .tokenPass tile => Sys2Proof.Machine.execTokenPass tile s
  | .planeSwap launch => Sys2Proof.Machine.execPlaneSwap launch s
  | .swapRefused launch => Sys2Proof.Machine.execSwapRefused launch s
  | .drainWatchPost seq => Sys2Proof.Machine.execDrainWatchPost seq s
  | .messageArrival seq msg => Sys2Proof.Machine.execMessageArrival seq msg s
  | .hardwarePost seq => Sys2Proof.Machine.execHardwarePost seq s
  | .taskStart seq => Sys2Proof.Machine.execTaskStart seq s
  | .spanPhaseComplete span => Sys2Proof.Machine.execSpanPhaseComplete span s
  | .watchdogExpiry seq => Sys2Proof.Machine.execWatchdogExpiry seq s
  | .hostTimeout seq => Sys2Proof.Machine.execHostTimeout seq s
  | .flitCrcMismatch port flit => Sys2Proof.Machine.execFlitCrcMismatch port flit s
  | .flitReplay port => Sys2Proof.Machine.execFlitReplay port s
  | .badflit port flit => Sys2Proof.Machine.execBadflit port flit s
  | .flitForward port flit => Sys2Proof.Machine.execFlitForward port flit s
  | .readRequest arr => Sys2Proof.Machine.execReadRequest arr s
  | .writeRequest arr => Sys2Proof.Machine.execWriteRequest arr s
  | .atomicRequest arr => Sys2Proof.Machine.execAtomicRequest arr s
  | .response arr => Sys2Proof.Machine.execResponse arr s
  | .netTimeout tag => Sys2Proof.Machine.execNetTimeout tag s
  | .collectiveData arr => Sys2Proof.Machine.execCollectiveData arr s
  | .collectiveControl arr => Sys2Proof.Machine.execCollectiveControl arr s
  | .collectiveWindowMerge eng collid => Sys2Proof.Machine.execCollectiveWindowMerge eng collid s
  | .collectiveTimeout eng collid => Sys2Proof.Machine.execCollectiveTimeout eng collid s
  | .collectiveCompletion eng collid => Sys2Proof.Machine.execCollectiveCompletion eng collid s
  | .waitGeComplete item => Sys2Proof.Machine.execWaitGeComplete item s
  | .deferredBind item => Sys2Proof.Machine.execDeferredBind item s
  | .invalidateComplete item => Sys2Proof.Machine.execInvalidateComplete item s
  | .kick q value => Sys2Proof.Machine.execKick q value s
  | .queueReset q => Sys2Proof.Machine.execQueueReset q s
  | .entryAdmission q => Sys2Proof.Machine.execEntryAdmission q s
  | .dispatch item => Sys2Proof.Machine.execDispatch item s
  | .completionRecord item => Sys2Proof.Machine.execCompletionRecord item s
  | .budgetOverrun item => Sys2Proof.Machine.execBudgetOverrun item s
  | .deadlineMiss item => Sys2Proof.Machine.execDeadlineMiss item s
  | .preEmption launch => Sys2Proof.Machine.execPreEmption launch s
  | .saveCommit launch => Sys2Proof.Machine.execSaveCommit launch s
  | .launchResume launch => Sys2Proof.Machine.execLaunchResume launch s
  | .resume seq => Sys2Proof.Machine.execResume seq s
  | .release seq => Sys2Proof.Machine.execRelease seq s
  | .wgo seq => Sys2Proof.Machine.execWgo seq s
  | .dholdWrite seq k value => Sys2Proof.Machine.execDholdWrite seq k value s
  | .fretry agent value => Sys2Proof.Machine.execFretry agent value s
  | .consumerIndexWrite ctx value => Sys2Proof.Machine.execConsumerIndexWrite ctx value s
  | .lostClear ctx => Sys2Proof.Machine.execLostClear ctx s
  | .ringReset ctx => Sys2Proof.Machine.execRingReset ctx s
  | .faultRecordWrite idx => Sys2Proof.Machine.execFaultRecordWrite idx s
  | .installDataKey addr => Sys2Proof.Machine.execInstallDataKey addr s
  | .eraseDataKey addr => Sys2Proof.Machine.execEraseDataKey addr s
  | .installImageKey addr => Sys2Proof.Machine.execInstallImageKey addr s
  | .eraseImageKey addr => Sys2Proof.Machine.execEraseImageKey addr s
  | .attest addr => Sys2Proof.Machine.execAttest addr s
  | .readIdentityCertificate addr => Sys2Proof.Machine.execReadIdentityCertificate addr s
  | .takeOwnership addr => Sys2Proof.Machine.execTakeOwnership addr s
  | .recoveryVerify => Sys2Proof.Machine.execRecoveryVerify s
  | .adapt die => Sys2Proof.Machine.execAdapt die s
  | .registerWrite agent offset value => Sys2Proof.Machine.execRegisterWrite agent offset value s
  | .coldReset => Sys2Proof.Machine.execColdReset s
  | .functionLevelReset vf => Sys2Proof.Machine.execFunctionLevelReset vf s
  | .powerGrant => Sys2Proof.Machine.execPowerGrant s
  | .supplyAdjust die => Sys2Proof.Machine.execSupplyAdjust die s
  | .bodyBiasChange cluster => Sys2Proof.Machine.execBodyBiasChange cluster s
  | .thermalWarn sensor celsius => Sys2Proof.Machine.execThermalWarn sensor celsius s
  | .thermalTrip => Sys2Proof.Machine.execThermalTrip s
  | .serviceMark unit => Sys2Proof.Machine.execServiceMark unit s
  | .thermalWarnClear => Sys2Proof.Machine.execThermalWarnClear s
  | .storageControllerResetDone port => Sys2Proof.Machine.execStorageControllerResetDone port s
  | .linkRetrained port peer => Sys2Proof.Machine.execLinkRetrained port peer s
  | .hostCompletion seq data => Sys2Proof.Machine.execHostCompletion seq data s
  | .bodyBiasSettled cluster => Sys2Proof.Machine.execBodyBiasSettled cluster s
  | .powerGoodLoss => Sys2Proof.Machine.execPowerGoodLoss s

end Sys2Proof.Machine
end

