-- ==== Sys2Proof/Machine/Fetch.lean ====
section
/-!
DEFINITION. The turns of the agents: what each one fetches and executes (R93, R96, R192, R297, R298), the passing of time,
and the inputs from outside (DESIGN CHOICE, log 2).
-/
namespace Sys2Proof.Machine
open Sys2Proof

/-! ### Sequencers (R297, R298) -/

/-- The little-endian word at a byte offset of a sequencer's code as its task found it. -/
def Seq.oldWord (q : Seq) (n off : Nat) : Word32 := BitVec.ofNat 32 (memNat q.code (localLoc n off) 4)

/-- The fetch of the word at PC: a cause, or the word and whether its choice used a free value; a word stored to since the
task started returns its old bits or its new ones (R298, DEDUCED, log 21). -/
def State.fetch (s : State) (n : Nat) : Except Cause (Word32 × Bool) :=
  let q := s.seq n
  let pc := q.pc.toNat
  if pc < 512 ∨ q.codelim.toNat ≤ pc ∨ pc % 4 ≠ 0 then .error .seqFetchRange
  else if (s.dataError (localLoc n pc) 4).isSome then .error .memDataError
  else
    let old := q.oldWord n pc
    let new := s.fetched n
    if old = new then .ok (new, false) else .ok (if Config.staleFetch s.choice then old else new, true)

/-- A fetch that faults: the record names PC and holds no instruction word (R297, R426; DEDUCED, log 49). -/
def State.fetchFault (s : State) (n : Nat) (c : Cause) : State :=
  let q := s.seq n
  let addr : Word := if c = .memDataError then word (4 * 2 ^ 60 + n * 2 ^ 18 + q.pc.toNat) else 0
  let s1 := s.raise c { s.seqReport n addr with cfgw := 0 }
  s1.setSeq n { q with stop := some { cause := c, resume := q.pc } }

/-- A sequencer that may execute its next instruction. -/
def State.seqReady (s : State) (n : Nat) : Bool := s.part.seqOk n && (s.seq n).running && s.seqFree n

/-- One instruction of a sequencer; an expired watchdog comes first (R322, R359). -/
def State.seqTurn (s : State) (n : Nat) : Out :=
  if !s.seqReady n then .next s
  else if (s.seq n).wdogDue then execWatchdogExpiry n s
  else match s.fetch n with
    | .error c => .next (s.fetchFault n c)
    | .ok (w, used) =>
      let s1 : State := { s with curSeq := n, choice := if used then s.choice + 1 else s.choice }
      exec (decodeSeq w) s1

/-! ### Slots and route records (R93, R96, R192) -/

/-- What a step would take from the pool of a tile that can pay for everything; 0 when it is not ready. -/
def State.costOf (s : State) (t : Nat) (f : State → Out) : Nat :=
  let big := 2 ^ 40
  match f (s.setTile t { s.tile t with pool := big }) with
  | .next s1 => big - (s1.tile t).pool
  | _ => 0

/-- The slot of a tile's EVIN. -/
def State.evinSlot (s : State) (t : Nat) : Option Nat := (s.tile t).plane.evin.map (fun x => x.1)

/-- What slot `j` would take, EVIN's slot for its firing or for the entry that it delivers (R96, R259; DEDUCED, log 33). -/
def State.readyCost (s : State) (t j : Nat) : Nat :=
  match s.slotInstr t j with
  | none => 0
  | some ins =>
    let own := s.costOf t (fun u => exec ins (u.atElement t j))
    if own = 0 ∧ s.evinSlot t = some j then s.costOf t (execEventDelivery t) else own

/-- Slots in the round-robin order of R96. -/
def grantOrder (last : Nat) : List Nat := (List.range 64).map (fun k => (last + 1 + k) % 64)

/-- Slot `i` may fire: the pool pays for every ready slot, or it comes first among them (R96). -/
def State.granted (s : State) (t i : Nat) : Bool :=
  let v := s.tile t
  let ready := (grantOrder v.lastGrant).filter (fun j => s.readyCost t j != 0)
  let total := ready.foldl (fun a j => a + s.readyCost t j) 0
  s.readyCost t i == 0 || decide (total ≤ v.pool) || ready.head? == some i

/-- A slot is evaluated for firing. -/
def State.slotTurn (s : State) (t i : Nat) : Out :=
  match s.slotInstr t i with
  | none => .next s
  | some ins => if s.granted t i then exec ins (s.atElement t i) else .next s

/-- A route record is evaluated for firing. -/
def State.recordTurn (s : State) (t q : Nat) : Out :=
  match s.recInstr t q with
  | none => .next s
  | some ins => exec ins (s.atElement t q)

/-! ### Packets (R388) -/

/-- The packet of a work item that may begin or that has begun and waits; an overrun or a missed deadline that is due comes first,
and so does a reset that a pair has put off (R400, R408, R409; DEDUCED, logs 42 and 46). -/
def State.packetTurn (s : State) (k : Nat) : Out :=
  match s.item k with
  | none => .next s
  | some i => match i.packets[i.idx]? with
    | some ins => if i.busy && !s.actionDue i && !s.resetDue i.queue then exec ins s else .next s
    | none => .next s

/-! ### The cores of the command complex (R381, R382; DESIGN CHOICE, log 51) -/

/-- The work item whose packet or launch a step of an engine serves. -/
def State.engineItem (s : State) (i : Instr) : Option Nat :=
  match i with
  | .copyCompletion c => (s.copyJob c).bind (fun j => j.item)
  | .streamCompletion pc => (s.pctx pc).item
  | .imageLoadComplete k => ((s.launch k).filter (fun l => l.phase == .loading)).map (fun l => l.item)
  | .saveCommit k => (s.launch k).map (fun l => l.item)
  | .invalidateComplete k => some k
  | _ => none

/-- The complex event that a step stands for: none for one that its own unit takes. -/
def State.causeOf (s : State) (i : Instr) : Option Event :=
  match i with
  | .kick q v => some (.kick q v s.kicks)
  | .queueReset q => some (.reset q)
  | .waitGeComplete k => some (.semaphore k)
  | .deadlineMiss k => some (.deadline k)
  | .budgetOverrun k => some (.budget k)
  | _ => (s.engineItem i).map (fun _ => .engine i)

/-- The queue whose ordering lock the handling of an event takes (R382). -/
def State.eventQueue (s : State) (e : Event) : Option Nat :=
  match e with
  | .kick q _ _ | .reset q => some q
  | .semaphore k | .deadline k | .budget k => (s.item k).map Item.queue
  | .engine i => ((s.engineItem i).bind s.item).map Item.queue

/-- A core handles an event to completion. -/
def State.handle (s : State) (e : Event) : Out :=
  match e with
  | .kick q v n => execKick q v { s with kick := n }
  | .reset q => execQueueReset q s
  | .semaphore k => execWaitGeComplete k s
  | .deadline k => execDeadlineMiss k s
  | .budget k => execBudgetOverrun k s
  | .engine i => exec i s

/-- A core handles the event that it has taken, or takes the head event, unless another core holds the lock of its queue. -/
def State.coreTurn (s : State) (c : Nat) : Out :=
  if 12 ≤ c then .next s
  else match tabFind s.cores c with
    | some e => State.handle { s with cores := tabDel s.cores c } e
    | none => match s.events with
      | [] => .next s
      | e :: r =>
        let q := s.eventQueue e
        if q.isSome && s.cores.any (fun x => s.eventQueue x.2 == q) then .next s
        else .next { s with events := r, cores := tabPut s.cores c e }

/-! ### Steps that no word encodes -/

/-- The instruction has no encoding, so that it is a step of some unit. -/
def isEvent (i : Instr) : Bool :=
  (encodeSeq i).isNone && (slotParts i).isNone && (recParts i).isNone && (packetParts i).isNone

/-! ### Time -/

/-- A watchdog counts the ticks during which its context runs (R359). -/
def State.tickSeq (s : State) (n k : Nat) : State :=
  let q := s.seq n
  match q.wdog with
  | none => s
  | some v =>
    if (s.seqLaunch n).isNone then s
    else if v ≤ k then s.setSeq n { q with wdog := none, wdogDue := true }
    else s.setSeq n { q with wdog := some (v - k) }

/-- Some ready slot of a tile waits for the pool (R415). -/
def State.starved (s : State) (t : Nat) : Bool :=
  decide ((s.tile t).pool < (List.range 64).foldl (fun a j => a + s.readyCost t j) 0)

/-- Counter 3 of PCNT counts the ticks during which a ready slot waits for the pool (R216, R415). -/
def State.tickTile (s : State) (t k : Nat) : State := if s.starved t then s.bumpCounter t 3 k else s

/-- What counts ticks counts `k` of them: the watchdogs and the counters of the tiles. -/
def State.elapse (s : State) (k : Nat) : State :=
  (s.tiles.map (fun p => p.1)).foldl (fun st t => st.tickTile t k) ((List.range 32).foldl (fun st n => st.tickSeq n k) s)

/-- The ticks from `a` to `b` are counted, and the grants whose 50 ticks end on the way reach every tile (R412): the first `fuel`
of them part the count, since a later one leaves every pool as it is. -/
def State.lapse : Nat → State → Nat → Nat → State
  | 0, s, a, b => (s.elapse (b - a)).grantAll ((b + 1950) / 2000 - 1)
  | fuel + 1, s, a, b =>
    let n := (a + 1950) / 2000
    let e := 2000 * n + 50
    if b < e then s.elapse (b - a) else State.lapse fuel ((s.elapse (e - a)).grantAll n) e b

/-- Items in dispatch order. -/
def insertItem (x : Nat × Item) : List (Nat × Item) → List (Nat × Item)
  | [] => [x]
  | y :: r => if x.2.before y.2 then x :: y :: r else y :: insertItem x r

/-- Deadlines that the timebase has reached, the earliest first, and exhausted budgets are causes of work (R381, R408, R409). -/
def State.notice (s : State) : State :=
  let miss := (s.items.filter (fun i => s.missDue i.2)).foldl (fun l i => insertItem i l) []
  let spent := s.items.filter (fun i => s.overrunDue i.2)
  spent.foldl (fun st i => st.ariseOnce (.budget i.1)) (miss.foldl (fun st i => st.ariseOnce (.deadline i.1)) s)

/-- What the ticks since `a` bring, whichever step has taken them (R20, R216, R359, R412). -/
def State.since (s : State) (a : Nat) : State := if s.now ≤ a then s else (State.lapse 2 s a s.now).notice

/-- `k` ticks pass. -/
def State.passTime (s : State) (k : Nat) : State := { s with now := s.now + k }

/-! ### Inputs from outside -/

/-- An uncorrectable error poisons the granule that holds it, in main memory, island scratch or a local memory: no other store
holds poison (R32, R69, R222, R471). -/
def State.upsetAt (s : State) (loc : Nat) : State :=
  if [0, 1, 4].contains (loc / 2 ^ 64) then { s with poison := loc / 16 :: s.poison.filter (· != loc / 16) } else s

/-- As the boot enumerates the storage ports in STAGE 2, a drive shows a namespace of `count` blocks of 512 or 4096 bytes, within
2^64 bytes and as one of 16 of its port; a controller that is left unused shows none (R51, R52, R458; DESIGN CHOICE, log 17). -/
def State.attach (s : State) (key size count : Nat) : State :=
  let others := s.namespaces.filter (fun n => n.1 != key && n.1 % 2 == key % 2)
  if s.stage = 2 ∧ (size = 512 ∨ size = 4096) ∧ size * count ≤ 2 ^ 64 ∧ others.length < 16 then
    { s with namespaces := tabPut s.namespaces key (size, count) }
  else s

/-- Maliz firmware or the physical function stores 1, 2, 4 or 8 aligned bytes at an address, in one step: on path 0x5 a register,
and elsewhere under the checks of an agent without a context; a store that they refuse has no effect, and only a COPY reaches a
weight store (R33, R225, R296, R472). -/
def State.trustedStore (s : State) (agent : Agent) (a : Word) (bs : List Byte) : State :=
  let n := bs.length
  if !agent.trusted || !([1, 2, 4, 8].contains n) || a.toNat % n != 0 || pathOf a == 3 then s
  else match (s.check { ctx := none } 0 [] .write a n).1 with
    | .ok (.mem l) => s.storeBytes l bs
    | .ok (.host b) => s.storeBytes (hostLoc b) bs
    | .ok (.reg off) => if n = 8 then s.writeReg agent off (word (leNat bs)) else s
    | _ => s

/-- A replay of an adaptive die's tile whose region runs is counted (R216, R418). -/
def State.replayAt (s : State) (t : Nat) : State :=
  if (s.tileCtx t).isSome && s.ctl.adapt.getLsbD (tileDie t) then s.bumpCounter t 2 1 else s

/-- A step that no word encodes: a cause of work of the command complex waits in its event queue, and any other is taken by its
own unit, an entry that EVIN delivers only as the pool of its tile grants it (R96, R381). -/
def State.eventTurn (s : State) (i : Instr) : Out :=
  if !isEvent i then .next s
  else match s.causeOf i with
    | some (.kick q v _) => .next (s.ariseKick q v)
    | some e => if s.still (exec i s) then .next s else .next (s.ariseOnce e)
    | none => match i with
      | .eventDelivery t => if (s.evinSlot t).all (s.granted t) then exec i s else .next s
      | _ => exec i s

/-- One turn. -/
def State.turn (s : State) (t : Turn) : Out :=
  match t with
  | .seq n => s.seqTurn n
  | .slot t i => s.slotTurn t i
  | .record t q => s.recordTurn t q
  | .packet k => s.packetTurn k
  | .event i => s.eventTurn i
  | .core c => s.coreTurn c
  | .pass n => .next (s.passTime n)
  | .copyMove k n => s.copyTurn k n
  | .upset loc => .next (s.upsetAt loc)
  | .upsetTile t i => if i < 64 then (s.atElement t i).slotFault .mchInternal else (s.atElement t (i - 64)).recFault .mchInternal
  | .upsetSeq n => .next (s.seqFault n .mchInternal 0)
  | .corrected u => .next (s.countCorrected u)
  | .replay t => .next (s.replayAt t)
  | .boot ok => .next (s.bootTurn ok)
  | .configRequest => .next s.configTurn
  | .linkFlit port f => .next (s.linkTurn port f)
  | .hostWrite a b => .next (s.storeBytes (hostLoc a.toNat) [b])
  | .trustedStore agent a bs => .next (s.trustedStore agent a bs)
  | .attach key size count => .next (s.attach key size count)

/-- One turn, with what the ticks that it takes bring. -/
def State.act (s : State) (t : Turn) : Out :=
  match s.turn t with
  | .next u => .next (u.since s.now)
  | o => o

/-! ### Placing an instruction to be run next -/

/-- A launch that holds the whole mesh and runs, for an instruction that is placed by hand. -/
def Launch.placed : Launch :=
  { ctx := 0, ltag := 0, seqn := 0, x0 := 0, y0 := 0, lw := 0, lh := 0, whole := true, place := false, pclass := 15,
    image := 0, savea := 0, isla := 0, isln := 0, seed := 0, nb := 96, nch := 64, pg := 0, wsp := false, evp := false,
    debug := false, nrx := false, payload := [], blocks := [], iter := 0, item := 0, phase := .running, frozen := false,
    lcause := none, endCause := none, shadow := .none, shImage := 0, shPost := none, shPosted := false, reconf := none, cfg := 0,
    tasklen := 0, spillPages := [], spills := [], saved := none, nsave := 0, whold := false, asked := false,
    loadHeld := false, recMode := 0, recRing := 0, recSession := 0, joined := 0 }

/-- A state in which sequencer 0 runs a task of launch 0 and fetches `w` at offset 512 (DESIGN CHOICE, log 6). -/
def State.placeSeq (s : State) (w : Nat) : State :=
  let mem := memPutNat s.mem (localLoc 0 512) 4 w
  let code := mem.filter (fun c => decide (localLoc 0 512 ≤ c.1) && decide (c.1 < localLoc 0 516))
  let q := { s.seq 0 with
    pc := 512, codelim := 516, nb := 96, nch := 64, running := true, stop := none, wdogDue := false, waiting := none,
    launch := some 0, code := code }
  let s1 : State := { s with mem := mem, turns := [.seq 0] }
  (s1.setSeq 0 q).setLaunch 0 Launch.placed

/-- A state in which tile 0 of a running launch holds `w` and `ext` in slots 0 and 1 and evaluates slot 0 (DESIGN CHOICE, log 6). -/
def State.placeSlot (s : State) (w ext : Word32) : State :=
  let t := s.tile 0
  let s1 : State := { s with turns := [.slot 0 0] }
  (s1.setTile 0 { t with plane := { t.plane with slots := [w, ext] }, slots := [], active := true, pool := rate 15,
                         launch := some 0 }).setLaunch 0 Launch.placed

end Sys2Proof.Machine
end

