-- ==== Sys2Proof/Machine/Step.lean ====
section
/-!
DEFINITION. One step of the machine, and the placing of an instruction where the next step fetches it.
-/
namespace Sys2Proof.Machine
open Sys2Proof

/-- The turn that moves next: the head of the list, or a free choice when the list is empty (DESIGN CHOICE, log 2). -/
def State.nextTurn (s : State) : Turn × State :=
  match s.turns with
  | t :: rest => (t, { s with turns := rest })
  | [] => (Config.arbiter s.choice, s.bump)

/-- A package without power takes no turn but a cold reset (R423, R458). -/
def isColdReset : Turn → Bool
  | .event .coldReset => true
  | _ => false

/-- One step: one turn of one agent, or one input; but a trip that is due removes power first (R423). -/
def step (s : State) : Host.Outcome State Fault Refusal :=
  if !s.powered && !isColdReset s.nextTurn.1 then .fault .noPower
  else if s.powered && s.tripDue then .next s.off
  else s.nextTurn.2.act s.nextTurn.1

/-- The state in which the next step fetches the word and runs it: a word that a sequencer decodes is fetched by sequencer
0, any other that a slot decodes stands in slot 0 of tile 0, and the rest goes to the sequencer (DESIGN CHOICE, log 5, DESIGN CHOICE, log 6). -/
def State.withFetchWord (s : State) (nbits w : Nat) : State :=
  let v := w % 2 ^ nbits
  let x : Word32 := BitVec.ofNat 32 v
  match decodeSeqWord x with
  | some _ => s.placeSeq (v % 2 ^ 32)
  | none => match decodeSlot x (tableExt v) with
    | .ok _ => s.placeSlot x (tableExt v)
    | .error _ => s.placeSeq (v % 2 ^ 32)

end Sys2Proof.Machine
end

