-- ==== Sys2Proof/Safety.lean ====
section
/-!
DEFINITION. What the statements call a sound state: memory in its canonical form and every register that the spec
hard-wires reading as it says.
-/
namespace Sys2Proof.Machine
open Sys2Proof

/-- Memory stands in its canonical form. -/
def State.memWf (s : State) : Prop := Memory.wf s.mem = true

end Sys2Proof.Machine
end

