-- ==== Sys2Proof/WellFormed.lean ====
section
/-!
DEFINITION. Which instructions their encodings can express: the operand values that R314 to R318, R336, R134 to R145
and R387 allow. A step that no word encodes takes any argument.
-/
namespace Sys2Proof

/-- An atomic's scope code is at most 4, and U stands only on AMOMIN and AMOMAX (R315, R318). -/
def AmoFn.wf (f : AmoFn) (minMax : Bool) : Bool := f.sco.toNat ≤ 4 && (minMax || !f.u)

/-- A load's or store's scope code is at most 4 (R315). -/
def MemFn.wf (m : MemFn) : Bool := m.sco.toNat ≤ 4

/-- A slot's fields pass the checks of R149 for their opcode, and there is no extension word without M[3]. -/
def SlotOp.wf (opc : Nat) (o : SlotOp) : Bool :=
  (match slotCheck opc o with | .ok () => true | .error _ => false) && (o.m.getLsbD 3 || o.ext == 0)

/-- The flags that choose between two packets of one code agree with the constructor, and R387 holds. -/
def Pkt.wf (code : Nat) (bit0 : Option Bool) (p : Pkt) : Bool :=
  packetOk code p.flags.toNat p.body.length && (match bit0 with | some b => p.flags.getLsbD 0 == b | none => true) &&
  p.body.length < 256

/-- Well-formed instructions. -/
def Instr.wf (i : Instr) : Bool :=
  match i with
  | .amomin _ _ _ f | .amomax _ _ _ f => f.wf true
  | .amoadd _ _ _ f | .amoand _ _ _ f | .amoor _ _ _ f | .amoxor _ _ _ f | .amoswp _ _ _ f | .amocas _ _ _ f => f.wf false
  | .ldb _ _ m | .ldh _ _ m | .ldw _ _ m | .ldd _ _ m | .stb _ _ m | .sth _ _ m | .stw _ _ m | .std _ _ m => m.wf
  | .fence sc | .fenceio sc => sc.toNat ≤ 4
  | .sdset sd a word => sd.toNat < 16 && (word.toNat < 8 || (word.toNat == 8 && a == 0))
  | .illegalInstruction w => (decodeSeqWord w).isNone
  | _ =>
    match slotParts i, recParts i, packetParts i with
    | some (opc, o), _, _ => o.wf opc.toNat
    | none, some (op, r), _ => recOk op.toNat r && (recCtor op.toNat r == some i)
    | none, none, some (code, p) =>
      p.wf code.toNat (match i with
        | .signalSet _ | .retire _ => some false
        | .signalAdd _ | .retireCancel _ => some true
        | _ => none)
    | none, none, none => true

end Sys2Proof
end

