-- ==== Sys2Proof/Certificates/Slice0/Obligations.lean ====
section
/-!
DEFINITION. The statements for the provers, and the vocabulary that they share.
-/
namespace Sys2Proof.Claims
open Sys2Proof Sys2Proof.Machine

/-! ### Vocabulary of the statements -/

/-- Of the machine, only the running sequencer has changed: every byte of every store, every other sequencer, every tile,
table, queue and record is as before. -/
def OnlyCur (s t : State) : Prop := (∀ n, n ≠ s.curSeq → t.seq n = s.seq n) ∧ { t with seqs := s.seqs } = s

/-- Of the machine, only the running sequencer and memory (with its poison and full-empty bits) have changed. -/
def OnlyCurAndMemory (s t : State) : Prop :=
  (∀ n, n ≠ s.curSeq → t.seq n = s.seq n) ∧
    { t with seqs := s.seqs, mem := s.mem, poison := s.poison, full := s.full } = s

/-- The general registers read as before, but for `d`, which reads `v`; `g0` still reads zero (R295). -/
def Writes (q r : Seq) (d : Reg) (v : Word) : Prop := ∀ x, r.rd x = if x = d ∧ d ≠ 0 then v else q.rd x

/-! ### Results of the integer instructions (R326, R327) -/

/-- The destination and the value of an integer instruction, from the registers. -/
def intResult (i : Instr) (r : Reg → Word) : Option (Reg × Word) :=
  match i with
  | .add d a b => some (d, r a + r b)
  | .sub d a b => some (d, r a - r b)
  | .and d a b => some (d, r a &&& r b)
  | .or d a b => some (d, r a ||| r b)
  | .xor d a b => some (d, r a ^^^ r b)
  | .sll d a b => some (d, r a <<< ((r b).toNat % 64))
  | .srl d a b => some (d, r a >>> ((r b).toNat % 64))
  | .sra d a b => some (d, (r a).sshiftRight ((r b).toNat % 64))
  | .mul d a b => some (d, r a * r b)
  | .mulh d a b => some (d, BitVec.ofInt 64 ((r a).toInt * (r b).toInt / 2 ^ 64))
  | .div d a b => some (d, if r b = 0 then BitVec.allOnes 64 else (r a).sdiv (r b))
  | .rem d a b => some (d, if r b = 0 then r a else (r a).srem (r b))
  | .min d a b => some (d, if (r b).slt (r a) then r b else r a)
  | .max d a b => some (d, if (r a).slt (r b) then r b else r a)
  | .slt d a b => some (d, if (r a).slt (r b) then 1 else 0)
  | .sltu d a b => some (d, if (r a).ult (r b) then 1 else 0)
  | .addi d a i => some (d, r a + i.signExtend 64)
  | .andi d a i => some (d, r a &&& i.setWidth 64)
  | .ori d a i => some (d, r a ||| i.setWidth 64)
  | .xori d a i => some (d, r a ^^^ i.setWidth 64)
  | .slli d a n => some (d, r a <<< n.toNat)
  | .srli d a n => some (d, r a >>> n.toNat)
  | .srai d a n => some (d, (r a).sshiftRight n.toNat)
  | .lih d a i => some (d, (r a <<< 16) ||| i.setWidth 64)
  | _ => none

/-- SR after an integer instruction: a division by zero sets IDZ, bit 5, and nothing else sets a bit (R326). -/
def intSr (i : Instr) (q : Seq) : BitVec 6 :=
  match i with
  | .div _ _ b | .rem _ _ b => if q.rd b = 0 then q.sr ||| 0x20 else q.sr
  | _ => q.sr

/-! ### FP32 results (R328) -/

/-- The FP32 operand in the low half of a register. -/
def fp (v : Word) : FVal := fp32.decode (v.toNat % 2 ^ 32)

/-- Destination, value and flags NV, DZ, OF, UF, NX of an FP32 instruction. -/
def fpResultOf (i : Instr) (r : Reg → Word) : Option (Reg × FRes) :=
  let truth (b : Bool) : Nat := if b then 1 else 0
  let nan (a b : Reg) : Bool := (fp (r a)).isNan || (fp (r b)).isNan
  match i with
  | .fadds d a b => some (d, fp32.add .rne (fp (r a)) (fp (r b)))
  | .fsubs d a b => some (d, fp32.add .rne (fp (r a)) (fp (r b)).neg)
  | .fmuls d a b => some (d, fp32.mul .rne (fp (r a)) (fp (r b)))
  | .fdivs d a b => some (d, fp32.div .rne (fp (r a)) (fp (r b)))
  | .fsqrts d a => some (d, fp32.sqrt .rne (fp (r a)))
  | .feqs d a b => some (d, { bits := truth (!nan a b && (fp (r a)).eqv (fp (r b))), fl := 0 })
  | .flts d a b => some (d, { bits := truth (!nan a b && (fp (r a)).lt (fp (r b))), fl := if nan a b then flNV else 0 })
  | .fles d a b => some (d, { bits := truth (!nan a b && !(fp (r b)).lt (fp (r a))), fl := if nan a b then flNV else 0 })
  | .fcvtis d a => some (d, fp32.round .rne (decide ((r a).toInt < 0)) (r a).toInt.natAbs 0)
  | .fcvtsi d a => some (d, cvtInt .rne 64 false (fp (r a)))
  | _ => none

/-! ### Branches and jumps (R329, R331) -/

/-- Where control goes, and the register that takes the address of the next instruction. -/
def goesTo (i : Instr) (q : Seq) : Option (Word × Option Reg) :=
  let near (off : BitVec 16) (taken : Bool) : Word := if taken then q.pc + 4 * off.signExtend 64 else q.pc + 4
  match i with
  | .beq a b off => some (near off (q.rd a == q.rd b), none)
  | .bne a b off => some (near off (q.rd a != q.rd b), none)
  | .blt a b off => some (near off ((q.rd a).slt (q.rd b)), none)
  | .bge a b off => some (near off (!(q.rd a).slt (q.rd b)), none)
  | .bltu a b off => some (near off ((q.rd a).ult (q.rd b)), none)
  | .bgeu a b off => some (near off (!(q.rd a).ult (q.rd b)), none)
  | .jal d off => some (q.pc + 4 * off.signExtend 64, some d)
  | .jalr d a imm => some (q.rd a + imm.signExtend 64, some d)
  | _ => none

/-! ### Loads, stores and atomics (R330, R332, R334) -/

/-- A load's destination, base, offset and size. -/
def loadForm : Instr → Option (Reg × Reg × MemFn × Nat)
  | .ldb d b m => some (d, b, m, 1)
  | .ldh d b m => some (d, b, m, 2)
  | .ldw d b m => some (d, b, m, 4)
  | .ldd d b m => some (d, b, m, 8)
  | _ => none

/-- A store's data register, base, offset and size. -/
def storeForm : Instr → Option (Reg × Reg × MemFn × Nat)
  | .stb d b m => some (d, b, m, 1)
  | .sth d b m => some (d, b, m, 2)
  | .stw d b m => some (d, b, m, 4)
  | .std d b m => some (d, b, m, 8)
  | _ => none

/-- An atomic's registers and fields, and what it leaves in memory, from the old value, x and the low bits of the old
`g[rd]` (R334). -/
def amoForm (i : Instr) : Option (Reg × Reg × Reg × AmoFn × (Nat → Nat → Nat → Nat → Nat)) :=
  let pick (f : AmoFn) (least : Bool) (n old x : Nat) : Nat :=
    let below : Bool := if f.u then decide (x < old) else decide (toSigned n x < toSigned n old)
    if below = least then x else old
  match i with
  | .amoadd d a b f => some (d, a, b, f, fun n old x _ => (old + x) % 2 ^ n)
  | .amoand d a b f => some (d, a, b, f, fun _ old x _ => Nat.land old x)
  | .amoor d a b f => some (d, a, b, f, fun _ old x _ => Nat.lor old x)
  | .amoxor d a b f => some (d, a, b, f, fun _ old x _ => Nat.xor old x)
  | .amomin d a b f => some (d, a, b, f, fun n old x _ => pick f true n old x)
  | .amomax d a b f => some (d, a, b, f, fun n old x _ => pick f false n old x)
  | .amoswp d a b f => some (d, a, b, f, fun _ _ x _ => x)
  | .amocas d a b f => some (d, a, b, f, fun _ old x e => if old = e then x else old)
  | _ => none

/-- The access of `n` bytes at `a` by the running sequencer passes every check and falls on location `loc`, with `tlb` the
micro-TLB it leaves (R33, R44, R472). -/
def Reaches (s : State) (k : AccKind) (a : Word) (n loc : Nat) (tlb : List TlbEntry) : Prop :=
  s.check { ctx := some s.cur.ctxid.toNat, core := true } 32 s.cur.utlb k a n = (.ok (.mem loc), tlb)

/-! ### Function codes (R326, R328) -/

/-- R326: the ALU major and its function codes, for every register field, and the two words that the rule writes out. -/
def IntegerWords : Prop :=
  (∀ d a b : Reg,
    let alu (fn : BitVec 11) : Instr := decodeSeq (0x01#6 ++ d ++ a ++ b ++ fn)
    alu 0 = .add d a b ∧ alu 1 = .sub d a b ∧ alu 2 = .and d a b ∧ alu 3 = .or d a b ∧ alu 4 = .xor d a b ∧
    alu 5 = .sll d a b ∧ alu 6 = .srl d a b ∧ alu 7 = .sra d a b ∧ alu 8 = .mul d a b ∧ alu 9 = .mulh d a b ∧
    alu 10 = .div d a b ∧ alu 11 = .rem d a b ∧ alu 12 = .min d a b ∧ alu 13 = .max d a b ∧ alu 14 = .slt d a b ∧
    alu 15 = .sltu d a b) ∧
  decodeSeq 0x04A11000 = .add 5 1 2 ∧ decodeSeq 0x04C6000A = .div 6 6 0

/-- R328: the FPU major and its function codes, with rs2 = 0 for FSQRTS, FCVTIS and FCVTSI, and the word that the rule writes out. -/
def FloatWords : Prop :=
  (∀ d a b : Reg,
    let fpu (b : Reg) (fn : BitVec 11) : Instr := decodeSeq (0x02#6 ++ d ++ a ++ b ++ fn)
    fpu b 0 = .fadds d a b ∧ fpu b 1 = .fsubs d a b ∧ fpu b 2 = .fmuls d a b ∧ fpu b 3 = .fdivs d a b ∧
    fpu 0 4 = .fsqrts d a ∧ fpu b 5 = .feqs d a b ∧ fpu b 6 = .flts d a b ∧ fpu b 7 = .fles d a b ∧
    fpu 0 8 = .fcvtis d a ∧ fpu 0 9 = .fcvtsi d a ∧
    (b ≠ 0 → ∀ fn : BitVec 11, fn = 4 ∨ fn = 8 ∨ fn = 9 →
      fpu b fn = .illegalInstruction (0x02#6 ++ d ++ a ++ b ++ fn))) ∧
  decodeSeq 0x08E84803 = .fdivs 7 8 9

/-- R326, R327: an integer instruction completes with its result in rd and PC advanced by 4; only DIV and REM by zero set a
bit of SR; nothing else of the machine changes. -/
def IntegerInstructionResults : Prop :=
  ∀ (i : Instr) (s : State) (d : Reg) (v : Word), intResult i s.cur.rd = some (d, v) →
    ∃ t, exec i s = .next t ∧ Writes s.cur t.cur d v ∧ t.cur.pc = s.cur.pc + 4 ∧ t.cur.sr = intSr i s.cur ∧
      { t.cur with g := s.cur.g, pc := s.cur.pc, sr := s.cur.sr } = s.cur ∧ OnlyCur s t

/-- R328: an FP32 instruction completes with its result in bits 31:0 of rd, bits 63:32 zero, and its flags ORed into
SR[4:0]; IDZ and everything else stay. -/
def FloatInstructionResults : Prop :=
  ∀ (i : Instr) (s : State) (d : Reg) (r : FRes), fpResultOf i s.cur.rd = some (d, r) →
    ∃ t, exec i s = .next t ∧ Writes s.cur t.cur d (BitVec.ofNat 64 r.bits) ∧ t.cur.pc = s.cur.pc + 4 ∧
      (∀ k, k < 5 → t.cur.sr.getLsbD k = (s.cur.sr.getLsbD k || r.fl.getLsbD k)) ∧
      t.cur.sr.getLsbD 5 = s.cur.sr.getLsbD 5 ∧
      { t.cur with g := s.cur.g, pc := s.cur.pc, sr := s.cur.sr } = s.cur ∧ OnlyCur s t

/-- R329, R331: a branch or jump completes with PC at its target, or at the next instruction when a branch's test fails; a
jump's link register takes PC + 4; nothing else changes. -/
def BranchAndJumpTargets : Prop :=
  ∀ (i : Instr) (s : State) (pc : Word) (link : Option Reg), goesTo i s.cur = some (pc, link) →
    ∃ t, exec i s = .next t ∧ t.cur.pc = pc ∧
      (match link with
       | some d => Writes s.cur t.cur d (s.cur.pc + 4)
       | none => t.cur.g = s.cur.g) ∧
      { t.cur with g := s.cur.g, pc := s.cur.pc } = s.cur ∧ OnlyCur s t

/-- R332: a load that reaches a location of the package completes with the little-endian bytes there, zero-extended, in its
data register; no byte of memory changes. -/
def LoadResults : Prop :=
  ∀ (i : Instr) (s : State) (d b : Reg) (m : MemFn) (n loc : Nat) (tlb : List TlbEntry), loadForm i = some (d, b, m, n) →
    Reaches s .read (s.cur.rd b + m.off.signExtend 64) n loc tlb → s.dataError loc n = none →
    ∃ t, exec i s = .next t ∧ Writes s.cur t.cur d (BitVec.ofNat 64 (leNat (memBytes s.mem loc n))) ∧
      t.cur.pc = s.cur.pc + 4 ∧
      { t.cur with g := s.cur.g, pc := s.cur.pc, utlb := s.cur.utlb, waiting := s.cur.waiting } = s.cur ∧
      t.cur.utlb = tlb ∧ t.cur.waiting = none ∧ OnlyCur s t

/-- R330: BSTAT branches when the loaded word AND the mask is not zero, and writes no register. -/
def StatusBranch : Prop :=
  ∀ (s : State) (a b : Reg) (off : BitVec 16) (loc : Nat) (tlb : List TlbEntry),
    Reaches s .read (s.cur.rd a) 8 loc tlb → s.dataError loc 8 = none →
    ∃ t, exec (.bstat a b off) s = .next t ∧ t.cur.g = s.cur.g ∧
      t.cur.pc = (if BitVec.ofNat 64 (leNat (memBytes s.mem loc 8)) &&& s.cur.rd b = 0 then s.cur.pc + 4
        else s.cur.pc + 4 * off.signExtend 64) ∧
      { t.cur with pc := s.cur.pc, utlb := s.cur.utlb, waiting := s.cur.waiting } = s.cur ∧ OnlyCur s t

/-- R332: a store that reaches location `loc` of the package completes; the low bytes of its data register stand there in
little-endian order, every byte outside them reads as before, and no register but PC changes. -/
def StoreResults : Prop :=
  ∀ (i : Instr) (s : State) (d b : Reg) (m : MemFn) (n loc : Nat) (tlb : List TlbEntry), storeForm i = some (d, b, m, n) →
    Memory.wf s.mem = true → Reaches s .write (s.cur.rd b + m.off.signExtend 64) n loc tlb →
    ∃ t, exec i s = .next t ∧ leNat (memBytes t.mem loc n) = (s.cur.rd d).toNat % 256 ^ n ∧
      (∀ x, x < loc ∨ loc + n ≤ x → memRead t.mem x = memRead s.mem x) ∧ t.cur.pc = s.cur.pc + 4 ∧
      { t.cur with pc := s.cur.pc, utlb := s.cur.utlb, waiting := s.cur.waiting } = s.cur ∧ OnlyCurAndMemory s t

/-- R334: an atomic that reaches location `loc` of the package reads the old value into rd, zero-extended, and leaves the
new value in its bytes, in one step; every other byte reads as before. -/
def AtomicResults : Prop :=
  ∀ (i : Instr) (s : State) (d a b : Reg) (f : AmoFn) (new : Nat → Nat → Nat → Nat → Nat) (loc : Nat)
      (tlb : List TlbEntry), amoForm i = some (d, a, b, f, new) → Memory.wf s.mem = true →
    let n := if f.sz then 8 else 4
    let w := 8 * n
    let old := leNat (memBytes s.mem loc n)
    Reaches s .atomic (s.cur.rd a) n loc tlb → s.dataError loc n = none →
    ∃ t, exec i s = .next t ∧ Writes s.cur t.cur d (BitVec.ofNat 64 old) ∧ t.cur.pc = s.cur.pc + 4 ∧
      leNat (memBytes t.mem loc n) = new w old ((s.cur.rd b).toNat % 2 ^ w) ((s.cur.rd d).toNat % 2 ^ w) ∧
      (∀ x, x < loc ∨ loc + n ≤ x → memRead t.mem x = memRead s.mem x) ∧
      { t.cur with g := s.cur.g, pc := s.cur.pc, utlb := s.cur.utlb, waiting := s.cur.waiting } = s.cur ∧
      OnlyCurAndMemory s t

/-- R33, R332, R334, R472: a load, store, atomic or BSTAT whose path is good and whose address is not aligned to its size
raises MEM_MISALIGNED: one record, the sequencer stops at the instruction, and no register and no byte of memory changes. -/
def MisalignedAccessStops : Prop :=
  ∀ (i : Instr) (s : State) (a : Word) (n : Nat),
    ((∃ d b m, (loadForm i = some (d, b, m, n) ∨ storeForm i = some (d, b, m, n)) ∧ a = s.cur.rd b + m.off.signExtend 64) ∨
      (∃ d x b f new, amoForm i = some (d, x, b, f, new) ∧ a = s.cur.rd x ∧ n = if f.sz then 8 else 4) ∨
      (∃ x b off, i = .bstat x b off ∧ a = s.cur.rd x ∧ n = 8)) →
    s.checkPath a = none → a.toNat % n ≠ 0 →
    ∃ t, exec i s = .next t ∧ t.cur.stop = some { cause := .memMisaligned, resume := s.cur.pc } ∧
      (∃ r, t.records = s.records ++ [r] ∧ r.cause = .memMisaligned ∧ r.origin = .seq ∧ r.addr = a ∧ r.stop = true) ∧
      t.cur.g = s.cur.g ∧ t.cur.pc = s.cur.pc ∧ t.mem = s.mem

/-- R335: a fence completes, and changes nothing but PC: every earlier access has performed, since each performs in its own
step (the model's choice, log 4). -/
def FencesComplete : Prop :=
  ∀ (s : State) (sc : BitVec 3),
    ∃ t, exec (.fence sc) s = .next t ∧ exec (.fenceio sc) s = .next t ∧ t.cur.pc = s.cur.pc + 4 ∧
      { t.cur with pc := s.cur.pc } = s.cur ∧ OnlyCur s t

/-! ### Stops of a sequencer (R322, R430) -/

/-- What ADDR of a record of cause `c` holds where the fault has the address, code or event word `a`: an address for XLT_, MEM_ and
PSN_ causes, the event word for EVT_, the code for a trap, the index for FLOW_BREAK and FLOW_STRAY_TOKEN, and zero for any other
cause (R426). -/
def addrOf (c : Cause) (a : Word) : Word := if c.addressed = true then a else 0

/-- The running sequencer has stopped at its instruction: one record of cause `c` with address `a`, the resumption address, and
nothing else of the machine changed, so that no register and no byte of memory is written (R322). -/
def Stops (s t : State) (c : Cause) (resume a : Word) : Prop :=
  t.cur.stop = some { cause := c, resume := resume } ∧
    (∃ r, t.records = s.records ++ [r] ∧ r.cause = c ∧ r.origin = .seq ∧ r.addr = addrOf c a ∧ r.stop = true ∧
      r.pos = s.seqPos s.curSeq) ∧
    { t.cur with stop := s.cur.stop, waiting := s.cur.waiting } = s.cur ∧ (∀ n, n ≠ s.curSeq → t.seq n = s.seq n) ∧
    { t with seqs := s.seqs, records := s.records, rings := s.rings } = s

/-- A reserved bit that is set, a channel at or above the launch's count, an address that is not on a path the instruction
takes, or a field out of its range: what SEQ_BAD_OPERAND forbids (R325, R340, R344, R346 to R350, R359). -/
def badOperand (s : State) (i : Instr) : Prop :=
  let v (r : Reg) : Nat := (s.cur.rd r).toNat
  let noCh (c : Nat) : Prop := s.cur.nch.toNat ≤ c
  match i with
  | .wdog r => 2 ^ 40 ≤ v r
  | .sbind _ r _ _ => 2 ^ 18 ≤ v r ∨ noCh (v r / 2 ^ 11 % 64)
  | .scancel _ r => 2 ^ 18 ≤ v r
  | .cfgld _ r ch => noCh ch.toNat ∨ v r / 2 ^ 60 ≠ 0 ∨ v r % 64 ≠ 0
  | .reconf _ ch | .drain _ ch | .chbind _ _ ch => noCh ch.toNat
  | .copy _ r ch => noCh ch.toNat ∨ ¬ (v r / 2 ^ 60 = 0 ∨ v r / 2 ^ 60 = 1 ∨ v r / 2 ^ 60 = 4) ∨ v r % 32 ≠ 0
  | .coll _ r ch => noCh ch.toNat ∨ ¬ (v r / 2 ^ 60 = 0 ∨ v r / 2 ^ 60 = 1 ∨ v r / 2 ^ 60 = 4) ∨ v r % 64 ≠ 0
  | .barinit r bar => bar.toNat < s.cur.nb.toNat ∧ (2 ^ 38 ≤ v r ∨ v r % 2 ^ 32 = 0 ∨ noCh (v r / 2 ^ 32 % 64))
  | .barrive r bar => bar.toNat < s.cur.nb.toNat ∧ r ≠ 0 ∧ (2 ^ 32 ≤ v r ∨ v r = 0)
  | .barbind r bar =>
    bar.toNat < s.cur.nb.toNat ∧
      (2 ^ 14 ≤ v r ∨ ((s.cur.barrier bar.toNat).init = true ∧ ¬ (2 ≤ v r / 2 ^ 8 % 64 ∧ v r / 2 ^ 8 % 64 ≤ 32)))
  | .chpost d p self _ => 29 ≤ p.toNat ∨ (self = false ∧ 32 ≤ v d)
  | _ => False

/-! ### Control and status registers (R299 to R303) -/

/-- The registers of R299. -/
def csrListed (c : Nat) : Prop := c ≤ 0x0A ∨ c = 0x10 ∨ c = 0x11 ∨ (0x18 ≤ c ∧ c ≤ 0x1A)

/-- What a control and status register other than TIME reads as. -/
def CsrHolds (s : State) (c : Nat) (v : Word) : Prop :=
  let q := s.cur
  let b := q.barrier q.barsel.toNat
  let ring := s.ring q.ctxid.toNat
  match c with
  | 0x00 => v = q.sr.setWidth 64
  | 0x02 => v = q.ctxid.setWidth 64
  | 0x03 => v.toNat = s.curSeq % 32
  | 0x04 => v = q.region.setWidth 64
  | 0x05 => ∀ k l i, q.launch = some k → s.launch k = some l → s.item l.item = some i →
      v = BitVec.ofInt 64 ((i.budget : Int) - (s.regCharge i : Int) - (i.cheng : Int))
  | 0x06 => v = q.msginfo.setWidth 64
  | 0x07 => v = q.defch.setWidth 64
  | 0x08 => v = q.codelim.setWidth 64
  | 0x09 => ∀ k, k < 64 → v.getLsbD k = !(tabGet q.queues k []).isEmpty
  | 0x0A => v = q.drops
  | 0x10 => v = q.barsel.setWidth 64
  | 0x11 => v.toNat % 2 ^ 32 = b.rem.toNat ∧ v.toNat / 2 ^ 32 % 64 = b.ch.toNat ∧ v.toNat / 2 ^ 38 % 256 = b.phase.toNat ∧
      v.getLsbD 46 = b.init ∧ v.getLsbD 47 = b.span ∧ (b.span = true → v.toNat / 2 ^ 48 % 256 = b.spid.toNat) ∧
      v.toNat < 2 ^ 56
  | 0x18 => v = ring.pi.setWidth 64
  | 0x19 => v = ring.ci.setWidth 64
  | 0x1A => v = if ring.lost then 1 else 0
  | _ => False

/-- No recorder captures what the running sequencer reads: the record mode of its launch is 0 (R466). -/
def NotRecorded (s : State) : Prop := ∀ k l, s.cur.launch = some k → s.launch k = some l → l.recMode = 0

/-- The general registers, the PC and what `f` keeps: a completion that writes `v` to rd and changes no other register. -/
def Results (s t : State) (d : Reg) (v : Word) : Prop :=
  Writes s.cur t.cur d v ∧ t.cur.pc = s.cur.pc + 4 ∧ { t.cur with g := s.cur.g, pc := s.cur.pc } = s.cur ∧
    (∀ n, n ≠ s.curSeq → t.seq n = s.seq n)

/-- The launch that the running sequencer steers. -/
def Steers (s : State) (k : Nat) (l : Launch) : Prop := s.cur.launch = some k ∧ s.launch k = some l

/-! ### Descriptors -/

/-- The bit field of `n` bits at bit `at_`. -/
def fieldOf (v at_ n : Nat) : Nat := v / 2 ^ at_ % 2 ^ n

/-- R325 and the rules of the instructions it names: an operand that the instruction does not allow stops the sequencer at
the instruction with SEQ_BAD_OPERAND, and nothing else of the machine changes. -/
def BadOperandsStop : Prop :=
  ∀ (i : Instr) (s : State), badOperand s i → ∃ t, exec i s = .next t ∧ Stops s t .seqBadOperand s.cur.pc 0

/-- R355, R316, R299: TRAP records its code and resumes behind itself; an illegal instruction, and CSRR or CSRW of a number
that is not listed, stop with SEQ_ILLEGAL at the instruction. -/
def TrapAndIllegalStops : Prop :=
  (∀ (s : State) (code : BitVec 8),
    ∃ t, exec (.trap code) s = .next t ∧ Stops s t .seqTrap (s.cur.pc + 4) (code.setWidth 64)) ∧
  (∀ (s : State) (w : BitVec 32),
    ∃ t, exec (.illegalInstruction w) s = .next t ∧ Stops s t .seqIllegal s.cur.pc 0) ∧
  (∀ (s : State) (rd rs1 : Reg) (csr : BitVec 8), ¬ csrListed csr.toNat →
    (∃ t, exec (.csrr rd csr) s = .next t ∧ Stops s t .seqIllegal s.cur.pc 0) ∧
    (∃ t, exec (.csrw rd rs1 csr) s = .next t ∧ Stops s t .seqIllegal s.cur.pc 0))

/-- R299, R357: CSRR of a listed register other than TIME completes with the register in rd, and changes nothing else. -/
def ControlRegisterReads : Prop :=
  ∀ (s : State) (rd : Reg) (csr : BitVec 8), csrListed csr.toNat → csr.toNat ≠ 1 →
    ∃ v t, CsrHolds s csr.toNat v ∧ exec (.csrr rd csr) s = .next t ∧ Results s t rd v ∧ { t with seqs := s.seqs } = s

/-- R299, R300, R357, R428: CSRW of a listed register other than TIME completes with the old value in rd and then writes the
old g[rs1]: SR, DEFCH, BARSEL below 96, FRCONS up to the producer, and LOST when bit 0 is one; a read-only register keeps
its value. -/
def ControlRegisterWrites : Prop :=
  ∀ (s : State) (rd rs1 : Reg) (csr : BitVec 8), csrListed csr.toNat → csr.toNat ≠ 1 →
    ∃ v t, CsrHolds s csr.toNat v ∧ exec (.csrw rd rs1 csr) s = .next t ∧ Writes s.cur t.cur rd v ∧
      t.cur.pc = s.cur.pc + 4 ∧
      (let x := s.cur.rd rs1
       let c := s.cur.ctxid.toNat
       t.cur.sr = (if csr.toNat = 0 then x.setWidth 6 else s.cur.sr) ∧
       t.cur.defch = (if csr.toNat = 7 then x.setWidth 6 else s.cur.defch) ∧
       t.cur.barsel = (if csr.toNat = 0x10 ∧ x.toNat % 128 < 96 then x.setWidth 7 else s.cur.barsel) ∧
       (t.ring c).ci = (if csr.toNat = 0x19 ∧
          (x.setWidth 32 - (s.ring c).ci).toNat ≤ ((s.ring c).pi - (s.ring c).ci).toNat then x.setWidth 32
          else (s.ring c).ci) ∧
       (t.ring c).lost = (if csr.toNat = 0x1A ∧ x.getLsbD 0 = true then false else (s.ring c).lost) ∧
       { t.ring c with ci := (s.ring c).ci, lost := (s.ring c).lost } = s.ring c ∧
       (∀ y, y ≠ c → t.ring y = s.ring y)) ∧
      { t.cur with g := s.cur.g, pc := s.cur.pc, sr := s.cur.sr, defch := s.cur.defch, barsel := s.cur.barsel } = s.cur ∧
      (∀ n, n ≠ s.curSeq → t.seq n = s.seq n) ∧ { t with seqs := s.seqs, rings := s.rings } = s

/-- R20, R21, R358: TIME, CSRR of TIME and CSRW of TIME complete, in a launch that no recorder watches, with the timebase of
the sequencer's own replica in rd; after it no replica reads less than that value (the model's hold, log 3). -/
def TimebaseReads : Prop :=
  ∀ (s : State) (rd rs1 : Reg) (i : Instr), i = .time rd ∨ i = .csrr rd 1 ∨ i = .csrw rd rs1 1 → NotRecorded s →
    ∃ t, exec i s = .next t ∧ Results s t rd (BitVec.ofNat 64 (s.replica (seqClock s.curSeq))) ∧
      (∀ c, s.replica (seqClock s.curSeq) ≤ t.replica c) ∧ { t with seqs := s.seqs, now := s.now } = s

/-- R352, R359: WDOG arms the watchdog for the ticks of g[rs1], or disarms it for 0; TEND ends the task and disarms it. -/
def WatchdogAndTaskEnd : Prop :=
  (∀ (s : State) (r : Reg), (s.cur.rd r).toNat < 2 ^ 40 →
    ∃ t, exec (.wdog r) s = .next t ∧ t.cur.pc = s.cur.pc + 4 ∧ t.cur.wdogDue = false ∧
      t.cur.wdog = (if (s.cur.rd r).toNat = 0 then none else some (s.cur.rd r).toNat) ∧
      { t.cur with pc := s.cur.pc, wdog := s.cur.wdog, wdogDue := s.cur.wdogDue } = s.cur ∧ OnlyCur s t) ∧
  (∀ (s : State), ∃ t, exec .tend s = .next t ∧ t.cur.running = false ∧ t.cur.wdog = none ∧ t.cur.wdogDue = false ∧
    { t.cur with running := s.cur.running, wdog := s.cur.wdog, wdogDue := s.cur.wdogDue } = s.cur ∧ OnlyCur s t)

/-- R308, R356: in a task whose MSGINFO.CAUSE is SEQ_NO_HANDLER, ERET ends the task and posts one message for channel
MSGINFO.CH with g1 to g4, that channel's present generation and SRC 0, which is held while the channel is full or an earlier
message is held for it; in any other task it stops with SEQ_ILLEGAL. -/
def ErrorReturn : Prop :=
  (∀ (s : State), s.cur.msginfo.toNat / 2 ^ 14 % 512 = Cause.seqNoHandler.code →
    ∃ t, exec .eret s = .next t ∧ t.cur.running = false ∧ t.cur.wdog = none ∧ t.cur.wdogDue = false ∧
      (∃ m : Msg,
        (if (s.cur.onChannel (s.cur.msginfo.toNat % 64) < 16 ∧ ∀ h, h ∈ s.cur.held → h.ch.toNat ≠ s.cur.msginfo.toNat % 64)
          then t.cur.arriving = s.cur.arriving ++ [m] ∧ t.cur.held = s.cur.held
          else t.cur.held = s.cur.held ++ [m] ∧ t.cur.arriving = s.cur.arriving) ∧
        m.ch.toNat = s.cur.msginfo.toNat % 64 ∧ m.gen = entryGen (s.handler s.curSeq m.ch.toNat) ∧ m.src = 0 ∧ m.cause = 0 ∧ m.w0 = s.cur.rd 1 ∧ m.w1 = s.cur.rd 2 ∧
        m.w2 = s.cur.rd 3 ∧ m.w3 = s.cur.rd 4) ∧
      { t.cur with running := s.cur.running, wdog := s.cur.wdog, wdogDue := s.cur.wdogDue,
                   held := s.cur.held, arriving := s.cur.arriving } = s.cur ∧
      OnlyCur s t) ∧
  (∀ (s : State), s.cur.msginfo.toNat / 2 ^ 14 % 512 ≠ Cause.seqNoHandler.code →
    ∃ t, exec .eret s = .next t ∧ Stops s t .seqIllegal s.cur.pc 0)

/-- R337: SDSET writes g[rs1] to one word of the descriptor register, or zeroes all of it with word 8; no other bit of a
descriptor register changes. -/
def DescriptorRegisterWrites : Prop :=
  ∀ (s : State) (sd rs1 : Reg) (w : BitVec 8) (h : sd.toNat < 16), w.toNat ≤ 8 →
    ∃ t, exec (.sdset sd rs1 w) s = .next t ∧
      (∀ k, k < 512 → (t.cur.sd[sd.toNat]).getLsbD k =
        if w.toNat = 8 then false
        else if k / 64 = w.toNat then (s.cur.rd rs1).getLsbD (k % 64) else (s.cur.sd[sd.toNat]).getLsbD k) ∧
      (∀ (x : Nat) (hx : x < 16), x ≠ sd.toNat → t.cur.sd[x] = s.cur.sd[x]) ∧ t.cur.pc = s.cur.pc + 4 ∧
      { t.cur with pc := s.cur.pc, sd := s.cur.sd } = s.cur ∧ OnlyCur s t

/-- R338: SBIND returns 2 for a port context that is not Free and 3 for a shadow binding with no loaded plane, binding
nothing; it raises CFG_BAD_STREAM or CFG_FANIN when a check forbids the specification; and it binds otherwise: the port
context enters Running with result 0, or Bound with result 1, holding the specification, the launch and the completion
channel with its present generation. -/
def StreamBinding : Prop :=
  ∀ (s : State) (rd rs1 : Reg) (shadow : Bool) (sd : BitVec 4) (k : Nat) (l : Launch), Steers s k l →
    ¬ badOperand s (.sbind rd rs1 shadow sd) →
    let v := (s.cur.rd rs1).toNat
    let pc := 512 * fieldOf v 9 2 + fieldOf v 0 9
    let ch : BitVec 6 := BitVec.ofNat 6 (fieldOf v 11 6)
    let spec := s.cur.sd[sd.toNat]
    let cfg := if shadow then l.cfg + 1 else l.cfg
    let i := Instr.sbind rd rs1 shadow sd
    ((s.pctx pc).st ≠ .free → ∃ t, exec i s = .next t ∧ Results s t rd 2 ∧ { t with seqs := s.seqs } = s) ∧
    ((s.pctx pc).st = .free → shadow = true → l.shadow ≠ .loaded →
      ∃ t, exec i s = .next t ∧ Results s t rd 3 ∧ { t with seqs := s.seqs } = s) ∧
    ((s.pctx pc).st = .free → (shadow = true → l.shadow = .loaded) →
      (s.specBad l shadow (fieldOf v 9 2) (fieldOf v 0 9) spec.toNat = true →
        ∃ t, exec i s = .next t ∧ Stops s t .cfgBadStream s.cur.pc 0) ∧
      (s.specBad l shadow (fieldOf v 9 2) (fieldOf v 0 9) spec.toNat = false →
        s.faninBad k l shadow cfg (fieldOf v 0 9) spec.toNat = true →
        ∃ t, exec i s = .next t ∧ Stops s t .cfgFanin s.cur.pc 0) ∧
      (s.specBad l shadow (fieldOf v 9 2) (fieldOf v 0 9) spec.toNat = false →
        s.faninBad k l shadow cfg (fieldOf v 0 9) spec.toNat = false →
        ∃ t, exec i s = .next t ∧ Results s t rd (if shadow then 1 else 0) ∧
          (t.pctx pc).st = (if shadow then .bound else .running) ∧ (t.pctx pc).spec = spec ∧
          (t.pctx pc).launch = some k ∧ (t.pctx pc).cfg = cfg ∧ (t.pctx pc).pos = 0 ∧ (t.pctx pc).acc = 0 ∧
          (t.pctx pc).post = (if v.testBit 17 then some (ch, entryGen (s.handler s.curSeq ch.toNat)) else none) ∧
          (∀ x, x ≠ pc → t.pctx x = s.pctx x) ∧ (shadow = true → t.arcs = s.arcs) ∧
          { t with seqs := s.seqs, pctxs := s.pctxs, arcs := s.arcs } = s))

/-- R86, R339: SCANCEL begins the cancel of a stream of its own launch: a Running or Stopped stream drains with TRUNC set,
and the result is 0; for a port context that no stream of the launch holds the result is 1 and nothing else changes. -/
def StreamCancel : Prop :=
  ∀ (s : State) (rd rs1 : Reg), ¬ badOperand s (.scancel rd rs1) →
    let v := (s.cur.rd rs1).toNat
    let pc := 512 * fieldOf v 9 2 + fieldOf v 0 9
    let p := s.pctx pc
    (¬ (p.st ≠ .free ∧ p.launch.isSome ∧ p.launch = s.cur.launch) →
      ∃ t, exec (.scancel rd rs1) s = .next t ∧ Results s t rd 1 ∧ { t with seqs := s.seqs } = s) ∧
    (p.st = .running ∨ p.st = .stopping → p.launch.isSome → p.launch = s.cur.launch → p.cancelled = false →
      ∃ t, exec (.scancel rd rs1) s = .next t ∧ Results s t rd 0 ∧ (t.pctx pc).st = .draining ∧
        (t.pctx pc).cancelled = true ∧ (t.pctx pc).acc = p.acc ||| 0x4000 ∧ (t.pctx pc).spill = [] ∧
        (t.pctx pc).spec = p.spec ∧ (t.pctx pc).post = p.post ∧ (t.pctx pc).count = p.count ∧
        (∀ x, x ≠ pc → t.pctx x = s.pctx x) ∧ { t with seqs := s.seqs, pctxs := s.pctxs } = s)

/-- R340, R341, R342: CFGLD begins a load into a free shadow plane (result 0) or returns 1; RECONF injects the token when a
loaded plane waits (0), returns 1 without one and 2 while a token passes; DRAIN arms the watch (0) or returns 1. -/
def ConfigurationInstructions : Prop :=
  ∀ (s : State) (rd rs1 : Reg) (ch : BitVec 6) (k : Nat) (l : Launch), Steers s k l →
    let post := some (ch, entryGen (s.handler s.curSeq ch.toNat))
    (¬ badOperand s (.cfgld rd rs1 ch) → l.shadow = .none →
      ∃ t, exec (.cfgld rd rs1 ch) s = .next t ∧ Results s t rd 0 ∧
        t.launch k = some { l with shadow := .loading, shImage := s.cur.rd rs1, shPost := post, shPosted := false, loadHeld := false } ∧
        (∀ x, x ≠ k → t.launch x = s.launch x) ∧ { t with seqs := s.seqs, launches := s.launches } = s) ∧
    (¬ badOperand s (.cfgld rd rs1 ch) → l.shadow ≠ .none →
      ∃ t, exec (.cfgld rd rs1 ch) s = .next t ∧ Results s t rd 1 ∧ { t with seqs := s.seqs } = s) ∧
    (¬ badOperand s (.reconf rd ch) → l.reconf.isSome = true →
      ∃ t, exec (.reconf rd ch) s = .next t ∧ Results s t rd 2 ∧ { t with seqs := s.seqs } = s) ∧
    (¬ badOperand s (.reconf rd ch) → l.reconf = none → l.shadow = .none ∨ (l.shadow = .loading ∧ l.shPosted = false) →
      ∃ t, exec (.reconf rd ch) s = .next t ∧ Results s t rd 1 ∧ { t with seqs := s.seqs } = s) ∧
    (¬ badOperand s (.reconf rd ch) → l.reconf = none → l.shadow = .loaded →
      ∃ t, exec (.reconf rd ch) s = .next t ∧ Results s t rd 0 ∧ t.launch k = some { l with reconf := post } ∧
        (∀ x, x ≠ k → t.launch x = s.launch x) ∧
        (∀ x, t.tile x = if (s.tile x).launch = some k then { s.tile x with passed := false, strayed := false } else s.tile x) ∧
        { t with seqs := s.seqs, launches := s.launches, tiles := s.tiles } = s) ∧
    (¬ badOperand s (.drain rd ch) → s.cur.drainWatch.isSome = true →
      ∃ t, exec (.drain rd ch) s = .next t ∧ Results s t rd 1 ∧ { t with seqs := s.seqs } = s) ∧
    (¬ badOperand s (.drain rd ch) → s.cur.drainWatch = none →
      ∃ t, exec (.drain rd ch) s = .next t ∧ Writes s.cur t.cur rd 0 ∧ t.cur.pc = s.cur.pc + 4 ∧ t.cur.drainWatch = post ∧
        { t.cur with g := s.cur.g, pc := s.cur.pc, drainWatch := none } = s.cur ∧ OnlyCur s t)

/-- R344: with fewer than eight COPYs of its launch in flight and a good descriptor, COPY starts one more copy with the
descriptor's addresses and length and returns 0; with eight it returns 1 and does nothing. -/
def CopyAccepted : Prop :=
  ∀ (s : State) (rd rs1 : Reg) (ch : BitVec 6), ¬ badOperand s (.copy rd rs1 ch) →
    let flying := (s.copies.filter (fun j => j.2.item.isNone && j.2.launch == s.cur.launch)).length
    (8 ≤ flying → ∃ t, exec (.copy rd rs1 ch) s = .next t ∧ Results s t rd 1 ∧ { t with seqs := s.seqs } = s) ∧
    (∀ (bs : List Byte) (x : Nat), flying < 8 → s.readDesc s.cur.ctxid.toNat (s.cur.rd rs1) 4 = .bytes bs →
      s.copyPlan s.cur.ctxid.toNat (leNat bs) = .ok x →
      ∃ t k j, exec (.copy rd rs1 ch) s = .next t ∧ Results s t rd 0 ∧ tabFind s.copies k = none ∧ t.copyJob k = some j ∧
        j.srca.toNat = fieldOf (leNat bs) 0 64 ∧ j.dsta.toNat = fieldOf (leNat bs) 64 64 ∧ j.len = fieldOf (leNat bs) 128 32 ∧
        j.stor = (leNat bs).testBit 160 ∧ j.ctx = s.cur.ctxid.toNat ∧ j.launch = s.cur.launch ∧ j.done = 0 ∧
        j.post = some (ch, entryGen (s.handler s.curSeq ch.toNat)) ∧ j.desc = s.cur.rd rs1 ∧
        (∀ y, y ≠ k → t.copyJob y = s.copyJob y) ∧ { t with seqs := s.seqs, copies := s.copies } = s)

/-- R346: with fewer than four COLLs of its launch in flight and a good descriptor whose members can be reached, COLL starts
the collective and returns 0; with four it returns 1; a descriptor that R346 forbids raises NET_COLL_DESC, and a package
outside a configured domain or a member that no route leads to NET_NO_ROUTE (R273, R274, R280). -/
def CollectiveAccepted : Prop :=
  ∀ (s : State) (rd rs1 : Reg) (ch : BitVec 6) (k : Nat) (l : Launch), Steers s k l → ¬ badOperand s (.coll rd rs1 ch) →
    let flying := (s.net.colls.filter (fun c => c.2.launch == some k && !c.2.cancelled)).length
    (4 ≤ flying → ∃ t, exec (.coll rd rs1 ch) s = .next t ∧ Results s t rd 1 ∧ { t with seqs := s.seqs } = s) ∧
    (∀ (bs : List Byte), flying < 4 → s.readDesc s.cur.ctxid.toNat (s.cur.rd rs1) 8 = .bytes bs →
      (s.collBad l (leNat bs) = true → ∃ t, exec (.coll rd rs1 ch) s = .next t ∧ Stops s t .netCollDesc s.cur.pc 0) ∧
      (s.collBad l (leNat bs) = false →
        s.domain = false ∨ (∃ p, p ∈ clMembers (leNat bs) ∧ p ≠ s.pkg ∧ s.routeTo p = none) →
        ∃ t, exec (.coll rd rs1 ch) s = .next t ∧ Stops s t .netNoRoute s.cur.pc 0) ∧
      (s.collBad l (leNat bs) = false → s.collUnreachable (leNat bs) = false →
        ∃ t c, exec (.coll rd rs1 ch) s = .next t ∧ Results s t rd 0 ∧
          t.coll (collKey (clEng (leNat bs)) (clId (leNat bs))) = some c ∧ c.desc = BitVec.ofNat 512 (leNat bs) ∧
          c.launch = some k ∧ c.ctx = s.cur.ctxid.toNat ∧ c.complete = false ∧ c.status = 0 ∧
          c.post = (ch, entryGen (s.handler s.curSeq ch.toNat)) ∧
          (∀ y, y ≠ collKey (clEng (leNat bs)) (clId (leNat bs)) → t.coll y = s.coll y) ∧
          { t with seqs := s.seqs, net := { t.net with colls := s.net.colls } } = s))

/-- R310, R336, R347: BARINIT sets the barrier's count, channel and generation, PHASE 0 and INIT 1; a barrier at or above the
launch's count raises SEQ_BARRIER_RANGE, and one that is bound to a span SEQ_BARRIER_SPAN. -/
def BarrierSetup : Prop :=
  ∀ (s : State) (rs1 : Reg) (bar : BitVec 8),
    let v := (s.cur.rd rs1).toNat
    (s.cur.nb.toNat ≤ bar.toNat → ∃ t, exec (.barinit rs1 bar) s = .next t ∧ Stops s t .seqBarrierRange s.cur.pc 0) ∧
    (bar.toNat < s.cur.nb.toNat → ¬ badOperand s (.barinit rs1 bar) → (s.cur.barrier bar.toNat).span = true →
      ∃ t, exec (.barinit rs1 bar) s = .next t ∧ Stops s t .seqBarrierSpan s.cur.pc 0) ∧
    (bar.toNat < s.cur.nb.toNat → ¬ badOperand s (.barinit rs1 bar) → (s.cur.barrier bar.toNat).span = false →
      ∃ t, exec (.barinit rs1 bar) s = .next t ∧ t.cur.pc = s.cur.pc + 4 ∧
        (let b := t.cur.barrier bar.toNat
         b.rem.toNat = v % 2 ^ 32 ∧ b.count = b.rem ∧ b.ch.toNat = v / 2 ^ 32 ∧ b.phase = 0 ∧ b.init = true ∧
         b.span = false ∧ b.gen = entryGen (s.handler s.curSeq (v / 2 ^ 32))) ∧
        (∀ x, x ≠ bar.toNat → t.cur.barrier x = s.cur.barrier x) ∧
        { t.cur with pc := s.cur.pc, barriers := s.cur.barriers } = s.cur ∧ OnlyCur s t)

/-- R310, R311, R312, R348: BARRIVE subtracts its weight from REM; while REM is at or below zero a phase completes and a
fresh count is added, and an unspanned barrier holds one message for each phase, numbered from PHASE, for its channel. -/
def BarrierArrival : Prop :=
  ∀ (s : State) (rs1 : Reg) (bar : BitVec 8), bar.toNat < s.cur.nb.toNat → ¬ badOperand s (.barrive rs1 bar) →
    let b := s.cur.barrier bar.toNat
    let n := if rs1 = 0 then 1 else (s.cur.rd rs1).toNat
    (b.init = false → ∃ t, exec (.barrive rs1 bar) s = .next t ∧ Stops s t .seqBarrierState s.cur.pc 0) ∧
    (b.init = true → b.span = false → 0 < b.rem.toNat → b.rem.toNat ≤ b.count.toNat →
      ∃ t ms, exec (.barrive rs1 bar) s = .next t ∧ t.cur.pc = s.cur.pc + 4 ∧ t.cur.held = s.cur.held ++ ms ∧
        ((t.cur.barrier bar.toNat).rem.toNat : Int) = b.rem.toNat - n + ms.length * b.count.toNat ∧
        0 < (t.cur.barrier bar.toNat).rem.toNat ∧ (t.cur.barrier bar.toNat).rem.toNat ≤ b.count.toNat ∧
        (t.cur.barrier bar.toNat).phase = b.phase + BitVec.ofNat 8 ms.length ∧
        { t.cur.barrier bar.toNat with rem := b.rem, phase := b.phase } = b ∧
        (∀ (k : Nat) (m : Msg), ms[k]? = some m →
          m.ch = b.ch ∧ m.gen = b.gen ∧ m.src = 4 ∧ m.w0.toNat = bar.toNat % 128 + (b.phase.toNat + k) % 256 * 2 ^ 8 ∧
          m.w1 = BitVec.ofNat 64 (s.replica (seqClock s.curSeq)) ∧ m.w2 = BitVec.allOnes 64 ∧ m.w3 = 0) ∧
        (∀ x, x ≠ bar.toNat → t.cur.barrier x = s.cur.barrier x) ∧
        { t.cur with pc := s.cur.pc, barriers := s.cur.barriers, held := s.cur.held } = s.cur ∧
        (∀ m, m ≠ s.curSeq → t.seq m = s.seq m) ∧ { t with seqs := s.seqs, now := s.now } = s)

/-- R313, R349: BARBIND joins an initialised, unbound barrier to a span that its context holds, or claims a free one; another
context's span, another member count, a full span or a bound barrier raises SEQ_BARRIER_SPAN, and a barrier that BARINIT has
not set SEQ_BARRIER_STATE, binding nothing. -/
def SpanBinding : Prop :=
  ∀ (s : State) (rs1 : Reg) (bar : BitVec 8), bar.toNat < s.cur.nb.toNat → ¬ badOperand s (.barbind rs1 bar) →
    let v := (s.cur.rd rs1).toNat
    let sp := v % 256
    let b := s.cur.barrier bar.toNat
    let good : Prop := match tabFind s.spans sp with
      | none => True
      | some x => x.ctx = s.cur.ctxid.toNat ∧ x.m = v / 2 ^ 8 ∧ x.members.length < x.m
    (b.init = false → ∃ t, exec (.barbind rs1 bar) s = .next t ∧ Stops s t .seqBarrierState s.cur.pc 0) ∧
    (b.init = true → b.span = true ∨ ¬ good →
      ∃ t, exec (.barbind rs1 bar) s = .next t ∧ Stops s t .seqBarrierSpan s.cur.pc 0) ∧
    (b.init = true → b.span = false → good →
      ∃ t x m, exec (.barbind rs1 bar) s = .next t ∧ t.cur.pc = s.cur.pc + 4 ∧ tabFind t.spans sp = some x ∧
        x.ctx = s.cur.ctxid.toNat ∧ x.m = v / 2 ^ 8 ∧
        x.members = (match tabFind s.spans sp with | none => [] | some y => y.members) ++ [m] ∧ m.bar = bar.toNat ∧
        m.ch = b.ch ∧ m.gen = entryGen (s.handler s.curSeq b.ch.toNat) ∧ (t.cur.barrier bar.toNat).span = true ∧
        (t.cur.barrier bar.toNat).spid.toNat = sp ∧ (t.cur.barrier bar.toNat).rem = b.rem ∧
        (∀ y, y ≠ bar.toNat → t.cur.barrier y = s.cur.barrier y) ∧ (∀ y, y ≠ sp → tabFind t.spans y = tabFind s.spans y) ∧
        { t.cur with pc := s.cur.pc, barriers := s.cur.barriers } = s.cur ∧
        (∀ n, n ≠ s.curSeq → t.seq n = s.seq n) ∧ { t with seqs := s.seqs, spans := s.spans } = s)

/-- R305, R350: CHPOST posts g[p] to g[p+3] (zero for `g0`) with the target entry's generation, SRC 0 and its own number, and
returns 0; it returns 2 when the target steers no running launch of the context or has no such channel, and 1 when the
queue is full, posting nothing; messages that this sequencer has posted by ERET to the channel and that are still held set
out before it (R308). -/
def ChannelPost : Prop :=
  ∀ (s : State) (rd rs1 : Reg) (self : Bool) (ch : BitVec 6), ¬ badOperand s (.chpost rd rs1 self ch) →
    let n := if self then s.curSeq else (s.cur.rd rd).toNat
    let away : Prop := (self = false ∧ s.seqCtx n ≠ some s.cur.ctxid.toNat) ∨ (s.seq n).nch.toNat ≤ ch.toNat
    let mine := (s.seq n).held.filter (fun h => postedBy h s.curSeq && h.ch.toNat == ch.toNat)
    (away → ∃ t, exec (.chpost rd rs1 self ch) s = .next t ∧ Results s t rd 2 ∧ { t with seqs := s.seqs } = s) ∧
    (¬ away → 16 ≤ (s.seq n).onChannel ch.toNat →
      ∃ t, exec (.chpost rd rs1 self ch) s = .next t ∧ Results s t rd 1 ∧ { t with seqs := s.seqs } = s) ∧
    (¬ away → (s.seq n).onChannel ch.toNat < 16 → mine = [] →
      ∃ t m, exec (.chpost rd rs1 self ch) s = .next t ∧ Writes s.cur t.cur rd 0 ∧ t.cur.pc = s.cur.pc + 4 ∧
        (t.seq n).arriving = (s.seq n).arriving ++ [m] ∧ m.ch = ch ∧ m.gen = entryGen (s.handler n ch.toNat) ∧ m.src = 0 ∧
        m.cause = 0 ∧ m.sseq.toNat = s.curSeq % 32 ∧
        m.w0 = (if rs1 = 0 then 0 else s.cur.rd rs1) ∧ m.w1 = (if rs1 = 0 then 0 else s.cur.rd (rs1 + 1)) ∧
        m.w2 = (if rs1 = 0 then 0 else s.cur.rd (rs1 + 2)) ∧ m.w3 = (if rs1 = 0 then 0 else s.cur.rd (rs1 + 3)) ∧
        { t.cur with g := s.cur.g, pc := s.cur.pc, arriving := s.cur.arriving } = s.cur ∧
        (∀ x, x ≠ s.curSeq → { t.seq x with arriving := (s.seq x).arriving } = s.seq x) ∧
        (∀ x, x ≠ n → (t.seq x).arriving = (s.seq x).arriving) ∧ { t with seqs := s.seqs } = s) ∧
    (¬ away → (s.seq n).onChannel ch.toNat < 16 → mine ≠ [] →
      ∃ t ms, exec (.chpost rd rs1 self ch) s = .next t ∧ t.cur.pc = s.cur.pc + 4 ∧
        Writes s.cur t.cur rd (if (s.seq n).onChannel ch.toNat + mine.length < 16 then 0 else 1) ∧
        (t.seq n).arriving = (s.seq n).arriving ++ mine.take (16 - (s.seq n).onChannel ch.toNat) ++ ms ∧
        ms.length = (if (s.seq n).onChannel ch.toNat + mine.length < 16 then 1 else 0) ∧
        (∀ m : Msg, m ∈ ms → m.ch = ch ∧ m.gen = entryGen (s.handler n ch.toNat) ∧ m.src = 0 ∧ m.cause = 0) ∧
        (s.seq n).held.Perm (mine.take (16 - (s.seq n).onChannel ch.toNat) ++ (t.seq n).held) ∧
        { t.cur with g := s.cur.g, pc := s.cur.pc, arriving := s.cur.arriving, held := s.cur.held } = s.cur ∧
        (∀ x, x ≠ s.curSeq → { t.seq x with arriving := (s.seq x).arriving, held := (s.seq x).held } = s.seq x) ∧
        (∀ x, x ≠ n → (t.seq x).arriving = (s.seq x).arriving ∧ (t.seq x).held = (s.seq x).held) ∧
        { t with seqs := s.seqs } = s)

/-- R304, R351: CHBIND puts g[rs1] into the handler entry of its channel and the old entry into rd; no other byte changes. -/
def HandlerExchange : Prop :=
  ∀ (s : State) (rd rs1 : Reg) (ch : BitVec 6), ¬ badOperand s (.chbind rd rs1 ch) → Memory.wf s.mem = true →
    ∃ t, exec (.chbind rd rs1 ch) s = .next t ∧ Writes s.cur t.cur rd (BitVec.ofNat 64 (s.handler s.curSeq ch.toNat)) ∧
      t.handler s.curSeq ch.toNat = (s.cur.rd rs1).toNat ∧ t.cur.pc = s.cur.pc + 4 ∧
      (∀ x, x < localLoc s.curSeq (8 * ch.toNat) ∨ localLoc s.curSeq (8 * ch.toNat) + 8 ≤ x →
        memRead t.mem x = memRead s.mem x) ∧
      { t.cur with g := s.cur.g, pc := s.cur.pc } = s.cur ∧ OnlyCurAndMemory s t

/-- R252 to R255, R353: EVSEND returns 2 for a tile that is no event bank of the region and 1 for a full queue; a mark or a
bad event raises EVT_BAD_KIND and a stamp below H EVT_LATE_EVENT; otherwise, in a launch that no recorder watches, it inserts
the event behind every event of an equal or earlier stamp and returns 0. -/
def EventSend : Prop :=
  ∀ (s : State) (rd rs1 : Reg) (k : Nat) (l : Launch), Steers s k l →
    let e := s.cur.rd rs1
    let x := evTile e
    let bad : Prop := evKind e = 3 ∨ (evKind e ≠ 0 ∧ evGroup e ≠ 0)
    let i := Instr.evsend rd rs1
    (s.eventBank l x = false → ∃ t, exec i s = .next t ∧ Results s t rd 2 ∧ { t with seqs := s.seqs } = s) ∧
    (s.eventBank l x = true →
      (bad → ∃ t, exec i s = .next t ∧ Stops s t .evtBadKind s.cur.pc e) ∧
      (¬ bad → evStamp e < (s.bank x).h.toNat → ∃ t, exec i s = .next t ∧ Stops s t .evtLateEvent s.cur.pc e) ∧
      (¬ bad → (s.bank x).h.toNat ≤ evStamp e → 512 ≤ (s.bank x).queue.length →
        ∃ t, exec i s = .next t ∧ Results s t rd 1 ∧ { t with seqs := s.seqs } = s) ∧
      (¬ bad → (s.bank x).h.toNat ≤ evStamp e → (s.bank x).queue.length < 512 → NotRecorded s →
        ∃ t, exec i s = .next t ∧ Results s t rd 0 ∧
          (∃ before after, (s.bank x).queue = before ++ after ∧ (t.bank x).queue = before ++ e :: after ∧
            (∀ y, y ∈ before → evStamp y ≤ evStamp e) ∧ (∀ y, after.head? = some y → evStamp e < evStamp y)) ∧
          { t.bank x with queue := (s.bank x).queue } = s.bank x ∧ (∀ y, y ≠ x → t.tile y = s.tile y) ∧
          { t.tile x with events := (s.tile x).events } = s.tile x ∧ { t with seqs := s.seqs, tiles := s.tiles } = s))

/-- R23, R254, R354: EVHZ raises the horizon of every event bank of the subgroup to bits 31:0 of its operand where that is
not below the present one; a bank outside the subgroup keeps its own, and a level or index that names no subgroup raises
SEQ_BAD_OPERAND. While a COPY of the sequencer still writes into a tile of such a bank, EVHZ waits. -/
def HorizonWrite : Prop :=
  ∀ (s : State) (rs1 : Reg) (k : Nat) (l : Launch), Steers s k l →
    let v := (s.cur.rd rs1).toNat
    let n := fieldOf v 32 4
    let g := fieldOf v 36 11
    (2 ^ 47 ≤ v ∨ l.topLevel < n ∨ 2 ^ n ≤ g → ∃ t, exec (.evhz rs1) s = .next t ∧ Stops s t .seqBadOperand s.cur.pc 0) ∧
    (v < 2 ^ 47 → n ≤ l.topLevel → g < 2 ^ n →
      (∃ x, x ∈ l.subgroup n g ∧ s.eventBank l x = true ∧ s.copiesInto x = true) → exec (.evhz rs1) s = .next s) ∧
    (v < 2 ^ 47 → n ≤ l.topLevel → g < 2 ^ n →
      (∀ x, x ∈ l.subgroup n g → s.eventBank l x = true → s.copiesInto x = false) →
      ∃ t, exec (.evhz rs1) s = .next t ∧ t.cur.pc = s.cur.pc + 4 ∧
        (∀ x, (t.bank x).h.toNat = if x ∈ l.subgroup n g ∧ s.eventBank l x = true ∧ (s.bank x).h.toNat ≤ v % 2 ^ 32
          then v % 2 ^ 32 else (s.bank x).h.toNat) ∧
        (∀ x, { t.bank x with h := (s.bank x).h } = s.bank x ∧ { t.tile x with events := (s.tile x).events } = s.tile x) ∧
        { t.cur with pc := s.cur.pc } = s.cur ∧ (∀ m, m ≠ s.curSeq → t.seq m = s.seq m) ∧
        { t with seqs := s.seqs, tiles := s.tiles, records := s.records, rings := s.rings } = s)

/-! ### Firings of a slot (R93 to R96, R138, R158) -/

/-- The running slot may fire `i`'s operator with one token on each target: its tile runs, every used port holds data, both
targets have room, and the pool holds the cost (R93, R96). -/
def CanFire (s : State) (opc : Nat) (o : SlotOp) (base : Nat) : Prop :=
  s.slotLive = true ∧ s.allData (slotPorts opc o) = true ∧ s.slotRoom o 1 1 = true ∧ s.canPay base = true

/-- The cost is paid and every used port has given its token (R93, R94, R412). -/
def taken (s : State) (opc : Nat) (o : SlotOp) (base : Nat) : State :=
  (slotPorts opc o).foldl (fun st p => st.takePort opc o p) (s.pay base)

/-- Some used port's token carries poison. -/
def anyPoison (s : State) (opc : Nat) (o : SlotOp) : Bool := (slotPorts opc o).any (fun p => (s.operand opc o p).psn)

/-- Poison that no target takes sets PSEEN (R158, R159). -/
def notesLost (s : State) (opc : Nat) (o : SlotOp) (u : State) : State :=
  if anyPoison s opc o && o.t0 == 0x1FF && o.t1 == 0x1FF then u.orFlags 0x40 else u

/-- The state in which a firing's tokens are placed: the flags have joined the tile's (R115, R159). -/
def firedState (s : State) (opc : Nat) (o : SlotOp) (base : Nat) (fl : Flags) : State :=
  notesLost s opc o ((taken s opc o base).orFlags fl)

/-- The token of a result: DATA with the OR of the inputs' poison (R138). -/
def resultToken (s : State) (opc : Nat) (o : SlotOp) (v : Nat) : Token :=
  { data := BitVec.ofNat 64 v, kind := .data, psn := anyPoison s opc o }

/-- One firing with one result, which both targets take (R93). -/
def firesWith (s : State) (opc : Nat) (o : SlotOp) (base : Nat) (r : Nat × Flags) : State :=
  (firedState s opc o base r.2).put o [resultToken s opc o r.1] [resultToken s opc o r.1]

/-- The DATA of the operands. -/
def dataOf (s : State) (opc : Nat) (o : SlotOp) (p : Nat) : Nat := (s.operand opc o p).data.toNat

/-- Bits of an element. -/
def widthOf (o : SlotOp) : Nat := if o.w = 4 then 4 else 8 * 2 ^ o.w.toNat

/-- Slices of a width (R135). -/
def sliceCount (o : SlotOp) : Nat := match o.w.toNat with | 1 => 2 | 2 => 4 | 3 => 8 | _ => 1

/-- A function of elements applied to each element of a width (R107, R156): W = 100 has two of four bits. -/
def perElement (o : SlotOp) (f : Nat → Nat → Nat → Nat × Flags) (a b c : Nat) : Nat × Flags :=
  if o.w = 4 then
    let lo := f (a % 16) (b % 16) (c % 16)
    let hi := f (a / 16 % 16) (b / 16 % 16) (c / 16 % 16)
    (lo.1 + 16 * hi.1, lo.2 ||| hi.2)
  else let n := widthOf o; f (a % 2 ^ n) (b % 2 ^ n) (c % 2 ^ n)

/-- The exact value of an integer or logic operator (R163): opcode, fields, whether it saturates always, and v from S, the
width and the elements. -/
def intForm (i : Instr) : Option (Nat × SlotOp × Bool × (Bool → Nat → Nat → Nat → Nat → Int)) :=
  let S := toSigned
  match i with
  | .addOperator o => some (0x01, o, false, fun _ n a b _ => S n a + S n b)
  | .subOperator o => some (0x02, o, false, fun _ n a b _ => S n a - S n b)
  | .adds o => some (0x03, o, true, fun _ n a b _ => S n a + S n b)
  | .subs o => some (0x04, o, true, fun _ n a b _ => S n a - S n b)
  | .mulOperator o => some (0x05, o, false, fun _ n a b _ => S n a * S n b)
  | .mulhOperator o => some (0x06, o, false, fun _ n a b _ => S n a * S n b / 2 ^ n)
  | .mad o => some (0x07, o, false, fun _ n a b c => S n a * S n b + S n c)
  | .abs o => some (0x08, o, false, fun _ n a _ _ => max (S n a) (-S n a))
  | .neg o => some (0x09, o, false, fun _ n a _ _ => -S n a)
  | .minOperator o => some (0x0A, o, false, fun _ n a b _ => min (S n a) (S n b))
  | .maxOperator o => some (0x0B, o, false, fun _ n a b _ => max (S n a) (S n b))
  | .minu o => some (0x0C, o, false, fun _ _ a b _ => min (a : Int) b)
  | .maxu o => some (0x0D, o, false, fun _ _ a b _ => max (a : Int) b)
  | .andOperator o => some (0x0E, o, false, fun _ n a b _ => (BitVec.ofNat n a &&& BitVec.ofNat n b).toNat)
  | .orOperator o => some (0x0F, o, false, fun _ n a b _ => (BitVec.ofNat n a ||| BitVec.ofNat n b).toNat)
  | .xorOperator o => some (0x10, o, false, fun _ n a b _ => (BitVec.ofNat n a ^^^ BitVec.ofNat n b).toNat)
  | .andn o => some (0x11, o, false, fun _ n a b _ => (BitVec.ofNat n a &&& ~~~BitVec.ofNat n b).toNat)
  | .not o => some (0x12, o, false, fun _ n a _ _ => (~~~BitVec.ofNat n a).toNat)
  | .shl o => some (0x13, o, false, fun sat n a b _ => if sat then S n a * 2 ^ b else a * 2 ^ b)
  | .shr o => some (0x14, o, false, fun _ _ a b _ => (a / 2 ^ b : Nat))
  | .sar o => some (0x15, o, false, fun _ n a b _ => S n a / 2 ^ b)
  | .rol o => some (0x16, o, false, fun _ n a b _ => ((BitVec.ofNat n a).rotateLeft (b % n)).toNat)
  | .clz o => some (0x17, o, false, fun _ n a _ _ => (List.range n).countP (fun k => decide (a < 2 ^ k)))
  | .popc o => some (0x18, o, false, fun _ n a _ _ => (List.range n).countP (fun k => a.testBit k))
  | _ => none

/-- The result that R163 forms from the exact value: clamped with SAT, or wrapped. -/
def formed (sat : Bool) (n : Nat) (v : Int) : Nat × Flags :=
  if sat = true ∧ v < -(2 ^ (n - 1) : Int) then (2 ^ (n - 1), 0x20)
  else if sat = true ∧ (2 ^ (n - 1) : Int) - 1 < v then (2 ^ (n - 1) - 1, 0x20)
  else ((v % 2 ^ n).toNat, 0)

/-- Compares and SEL (R164, R165): the opcode, fields, and each element's result. -/
def compareForm (i : Instr) : Option (Nat × SlotOp × (Nat → Nat → Nat → Nat → Nat)) :=
  let S := toSigned
  let one (b : Bool) : Nat := if b then 1 else 0
  match i with
  | .cmpeq o => some (0x19, o, fun _ a b _ => one (decide (a = b)))
  | .cmpne o => some (0x1A, o, fun _ a b _ => one (decide (a ≠ b)))
  | .cmplt o => some (0x1B, o, fun n a b _ => one (decide (S n a < S n b)))
  | .cmple o => some (0x1C, o, fun n a b _ => one (decide (S n a ≤ S n b)))
  | .cmpltu o => some (0x1D, o, fun _ a b _ => one (decide (a < b)))
  | .cmpleu o => some (0x1E, o, fun _ a b _ => one (decide (a ≤ b)))
  | .sel o => some (0x1F, o, fun _ a b c => if c.testBit 0 then a else b)
  | _ => none

/-- An integer, compare or select operator: opcode, fields, and DATA and flags of the result from DATA of the ports. -/
def integerSlot (i : Instr) : Option (Nat × SlotOp × (Nat → Nat → Nat → Nat × Flags)) :=
  match intForm i, compareForm i with
  | some (opc, o, always, v), _ =>
    let sat := always || o.m.getLsbD 0
    some (opc, o, perElement o (fun a b c => formed sat (widthOf o) (v sat (widthOf o) a b c)))
  | none, some (opc, o, f) => some (opc, o, perElement o (fun a b c => (f (widthOf o) a b c, 0)))
  | none, none => none

/-- The float operators on values (R166, R168, R171): opcode, fields, tokens of power for each slice, and the result in the
format, under the mode of M[2:1] where it rounds by it. -/
def floatForm (i : Instr) : Option (Nat × SlotOp × Nat × (Fmt → Round → FVal → FVal → FVal → FRes)) :=
  let truth (b : Bool) (nv : Bool) : FRes := { bits := if b then 1 else 0, fl := if nv then flNV else 0 }
  let nan (a b : FVal) : Bool := a.isNan || b.isNan
  match i with
  | .fadd o => some (0x20, o, 2, fun f r a b _ => f.add r a b)
  | .fsub o => some (0x21, o, 2, fun f r a b _ => f.add r a b.neg)
  | .fmul o => some (0x22, o, 2, fun f r a b _ => f.mul r a b)
  | .fma o => some (0x23, o, 2, fun f r a b c => f.fma r a b c)
  | .fcmpeq o => some (0x28, o, 2, fun _ _ a b _ => truth (!nan a b && a.eqv b) false)
  | .fcmplt o => some (0x29, o, 2, fun _ _ a b _ => truth (!nan a b && a.lt b) (nan a b))
  | .fcmple o => some (0x2A, o, 2, fun _ _ a b _ => truth (!nan a b && !b.lt a) (nan a b))
  | .fcmpun o => some (0x2B, o, 2, fun _ _ a b _ => truth (nan a b) false)
  | .rcp o => some (0x2C, o, 4, fun f _ a _ _ => f.div .rne (.fin false 1 0) a)
  | .rsq o => some (0x2D, o, 4, fun f _ a _ _ => f.rsq a)
  | .sqrt o => some (0x2E, o, 4, fun f r a _ _ => f.sqrt r a)
  | .exp2 o => some (0x2F, o, 4, fun f _ a _ _ => f.exp2 a)
  | .log2 o => some (0x30, o, 4, fun f _ a _ _ => f.log2 a)
  | .tanh o => some (0x31, o, 4, fun f _ a _ _ => f.tanh a)
  | .sigm o => some (0x32, o, 4, fun f _ a _ _ => f.sigm a)
  | _ => none

/-- The float operators on patterns (R167, R169): none rounds to a neighbour with a flag. -/
def patternForm (i : Instr) : Option (Nat × SlotOp × (Fmt → Round → Nat → Nat → Nat)) :=
  let nan (f : Fmt) (a : Nat) : Bool := (f.decode a).isNan
  let neg (f : Fmt) (a : Nat) : Bool := a.testBit (f.w - 1)
  let less (f : Fmt) (a b : Nat) : Bool :=
    (f.decode a).lt (f.decode b) || ((f.decode a).eqv (f.decode b) && neg f a && !neg f b)
  match i with
  | .fmin o => some (0x24, o, fun f _ a b =>
      if nan f a && nan f b then f.nanRes.bits else if nan f a then b else if nan f b then a else if less f b a then b else a)
  | .fmax o => some (0x25, o, fun f _ a b =>
      if nan f a && nan f b then f.nanRes.bits else if nan f a then b else if nan f b then a else if less f a b then b else a)
  | .fabs o => some (0x26, o, fun f _ a _ => if nan f a then f.nanRes.bits else f.signBit false + a % 2 ^ (f.w - 1))
  | .fneg o => some (0x27, o, fun f _ a _ => if nan f a then f.nanRes.bits else f.signBit (!neg f a) + a % 2 ^ (f.w - 1))
  | .frnd o => some (0x33, o, fun f r a _ => f.integral r a)
  | _ => none

/-- FCLASS and the conversions (R170 to R174): opcode, fields, power, and DATA and flags of the result from DATA of port a. -/
def convertForm (i : Instr) : Option (Nat × SlotOp × Nat × (Nat → Nat × Flags)) :=
  let two (o : SlotOp) (dw : Nat) (f : FVal → FRes) (v : Nat) : Nat × Flags :=
    let sw := o.src.width
    let r (j : Nat) : FRes := f (o.src.value (v / 2 ^ (sw * j) % 2 ^ sw))
    if sw = 4 ∨ dw = 4 then ((r 0).bits + 2 ^ dw * (r 1).bits, (r 0).fl ||| (r 1).fl) else ((r 0).bits, (r 0).fl)
  let power (o : SlotOp) : Nat := 2 * max (sliceCount o) (max 1 (o.src.width / 8))
  match i with
  | .fclass o => some (0x34, o, 2 * sliceCount o, fun v =>
      if o.w = 4 then (2 ^ o.fmt.classBit (v % 16) + 2 ^ 16 * 2 ^ o.fmt.classBit (v / 16 % 16), 0)
      else (2 ^ o.fmt.classBit (v % 2 ^ widthOf o), 0))
  | .cvtf o => some (0x35, o, power o, two o o.fmt.w (o.fmt.roundVal o.mode))
  | .cvti o => some (0x36, o, power o, two o (widthOf o) (cvtInt o.mode (widthOf o) (o.m.getLsbD 0)))
  | .cvtif o => some (0x37, o, power o, two o o.fmt.w (o.fmt.roundVal o.mode))
  | _ => none

/-- A float operator or conversion: opcode, fields, power, and DATA and flags of the result from DATA of the ports. -/
def floatSlot (i : Instr) : Option (Nat × SlotOp × Nat × (Nat → Nat → Nat → Nat × Flags)) :=
  match floatForm i, patternForm i, convertForm i with
  | some (opc, o, k, f), _, _ =>
    some (opc, o, k * sliceCount o, perElement o (fun a b c =>
      let r := f o.fmt o.mode (o.fmt.decode a) (o.fmt.decode b) (o.fmt.decode c)
      (r.bits, r.fl)))
  | _, some (opc, o, f), _ => some (opc, o, 2 * sliceCount o, perElement o (fun a b _ => (f o.fmt o.mode a b, 0)))
  | _, _, some (opc, o, k, f) => some (opc, o, k, fun a _ _ => f a)
  | _, _, _ => none

/-- Where the next token for a target goes in its spill ring: the ring's next slot, when the FIFO before it is full (R103). -/
def ringSlot (s : State) (t g : Nat) : Option Nat :=
  if g = 0x1FF then none
  else match (s.arcAt t g).ring with
    | none => none
    | some r => s.ringPlace t r r.wr .write

/-- What the firing of a slot may change: its own tile, the producer's counter of a tile whose arc spills, the arcs of its
ports and targets, and the ring slots that its tokens take; `u` is the state whose tokens are placed. -/
def SlotFrame (s u t : State) (o : SlotOp) (k : Token) : Prop :=
  (∀ x, x ≠ s.curTile → { t.tile x with counters := (s.tile x).counters } = s.tile x) ∧
  (∀ y g, g < 512 → y ≠ s.curTile ∨ (g ≠ o.t0.toNat ∧ g ≠ o.t1.toNat ∧ g / 4 ≠ s.curSlot) → t.arcAt y g = s.arcAt y g) ∧
  (∀ x, (∀ l, ringSlot u u.curTile o.t0.toNat = some l → x < l ∨ l + 16 ≤ x) →
    (∀ l, ringSlot (u.send u.curTile u.curTile o.t0.toNat k) u.curTile o.t1.toNat = some l → x < l ∨ l + 16 ≤ x) →
    memRead t.mem x = memRead s.mem x) ∧
  { t with tiles := s.tiles, arcs := s.arcs, mem := s.mem, poison := s.poison, records := s.records, rings := s.rings,
           launches := s.launches } = s

/-- R93, R161 to R165: an integer, logic, compare or select operator that can fire completes: it pays one token for each
slice, takes its inputs, and puts its result with the inputs' poison on both targets, with SAT where it clamped. -/
def SlotIntegerResults : Prop :=
  ∀ (i : Instr) (s : State) (opc : Nat) (o : SlotOp) (f : Nat → Nat → Nat → Nat × Flags),
    integerSlot i = some (opc, o, f) → CanFire s opc o (sliceCount o) →
    exec i s = .next (firesWith s opc o (sliceCount o) (f (dataOf s opc o 0) (dataOf s opc o 1) (dataOf s opc o 2)))

/-- R93, R166 to R174: a float operator or conversion that can fire completes in the same way, with its result rounded once
into its format and its flags ORed into the tile's. -/
def SlotFloatResults : Prop :=
  ∀ (i : Instr) (s : State) (opc : Nat) (o : SlotOp) (base : Nat) (f : Nat → Nat → Nat → Nat × Flags),
    floatSlot i = some (opc, o, base, f) → CanFire s opc o base →
    exec i s = .next (firesWith s opc o base (f (dataOf s opc o 0) (dataOf s opc o 1) (dataOf s opc o 2)))

/-- The frame of those operators: a firing changes its own tile, the arcs of its ports and targets, and in memory only the
ring slots that its tokens take; no register of a sequencer, no other arc and no other tile but a producer's counter. -/
def SlotFiringFrame : Prop :=
  ∀ (s : State) (opc : Nat) (o : SlotOp) (base : Nat) (r : Nat × Flags), Memory.wf s.mem = true → CanFire s opc o base →
    s.curSlot < 64 →
    let t := firesWith s opc o base r
    let x := s.tile s.curTile
    SlotFrame s (firedState s opc o base r.2) t o (resultToken s opc o r.1) ∧ (t.tile s.curTile).plane = x.plane ∧
      (t.tile s.curTile).pool = x.pool - x.plane.cost base ∧
      (t.tile s.curTile).flags = (x.flags ||| r.2 |||
        (if anyPoison s opc o && o.t0 == 0x1FF && o.t1 == 0x1FF then 0x40 else 0)) ∧
      { t.tile s.curTile with pool := x.pool, flags := x.flags, slots := x.slots, counters := x.counters,
                              lastGrant := x.lastGrant } = x

/-! ### Convert and quantise operators (R175 to R181) -/

/-- Elements of `d` bits, the first lowest, with the OR of their flags. -/
def packed (d : Nat) : List FRes → Nat × Flags
  | [] => (0, 0)
  | r :: rs => (r.bits + 2 ^ d * (packed d rs).1, r.fl ||| (packed d rs).2)

/-- FP32 element `j` of a token. -/
def fp32At (v j : Nat) : FVal := fp32.decode (v / 2 ^ (32 * j) % 2 ^ 32)

/-- BF16 element `j` of a token. -/
def bf16At (v j : Nat) : FVal := bf16.decode (v / 2 ^ (16 * j) % 2 ^ 16)

/-- A value times `2 ^ k`. -/
def scaled (k : Int) : FVal → FVal
  | .fin n m e => .fin n m (e + k)
  | v => v

/-- `|x|` lies above the threshold, or `x` is a NaN (R175). -/
def isOutlier (t x : FVal) : Bool :=
  match x with
  | .nan => true
  | .inf _ => !t.isNan && t.lt (.inf false)
  | .fin _ m e => !t.isNan && t.lt (.fin false m e)

/-- PACK, MXQ and DEQ: opcode, fields, the elements, and whether the scale 0xFF poisons the result (R177, R179, R180). -/
def packForm (i : Instr) : Option (Nat × SlotOp × (Nat → Nat → (Nat × Flags) × Bool)) :=
  match i with
  | .pack o => some (0x5A, o, fun a b =>
      (packed o.fmt.w [o.fmt.roundVal o.mode (fp32At a 0), o.fmt.roundVal o.mode (fp32At b 0)], false))
  | .mxq o => some (0x5C, o, fun a b =>
      let x := b % 256
      let r (j : Nat) : FRes := if x = 255 then o.fmt.nanRes else o.fmt.roundVal o.mode (scaled (127 - (x : Int)) (fp32At a j))
      (packed o.fmt.w [r 0, r 1], x == 255))
  | .deq o => some (0x5D, o, fun a b =>
      let x := b % 256
      let e (j : Nat) : FVal := o.fmt.decode (a / 2 ^ (o.fmt.w * j) % 2 ^ o.fmt.w)
      let r (j : Nat) : FRes := if x = 255 then fp32.nanRes else fp32.roundVal .rne (scaled ((x : Int) - 127) (e j))
      (packed 32 [r 0, r 1], x == 255))
  | _ => none

/-! ### Lane operators (R184 to R190) -/

/-- The accumulator of ACC and SCAN after an element (R184). -/
def accumulated (o : SlotOp) (acc : Option Word) (x : Nat) : Nat × Flags :=
  let n := widthOf o
  if o.m.getLsbD 0 then
    let r := match acc with
      | none => fp32.roundVal .rne (fp32.decode x)
      | some a => fp32.add o.mode (fp32.decode a.toNat) (fp32.decode x)
    (r.bits, r.fl)
  else match acc with
    | none => (x, 0)
    | some a => formed (o.m.getLsbD 1) n (toSigned n a.toNat + toSigned n x)

/-- A lane operator that emits only at its end: opcode, fields, cost of a firing, its state and flags after an element, and
the two values of its final tokens. -/
def laneForm (i : Instr) : Option (Nat × SlotOp × Nat × (SlotState → Nat → SlotState × Flags) × (SlotState → Nat × Nat)) :=
  let cost (o : SlotOp) : Nat := (if o.m.getLsbD 0 then 2 else 1) * sliceCount o
  let same (v : SlotState) : Nat × Nat := ((v.acc.getD 0).toNat, (v.acc.getD 0).toNat)
  match i with
  | .acc o => some (0x39, o, cost o, fun v x =>
      ({ v with acc := some (BitVec.ofNat 64 (accumulated o v.acc x).1) }, (accumulated o v.acc x).2), same)
  | .amax o => some (0x3A, o, cost o, fun v x =>
      let f := slotFmt o.w.toNat (o.m.getLsbD 1)
      let g := if o.m.getLsbD 0 then (if (f.decode x).isNan then f.nanRes.bits else f.signBit false + x % 2 ^ (f.w - 1))
        else (toSigned (widthOf o) x).natAbs
      ({ v with acc := some (BitVec.ofNat 64 (max (v.acc.getD 0).toNat g)) }, 0), same)
  | .argm o => some (0x3B, o, cost o, fun v x =>
      let f := slotFmt o.w.toNat (o.m.getLsbD 1)
      let n := widthOf o
      let less (a b : Nat) : Bool :=
        if o.m.getLsbD 0 then
          (f.decode a).lt (f.decode b) || ((f.decode a).eqv (f.decode b) && a.testBit (f.w - 1) && !b.testBit (f.w - 1))
        else if o.m.getLsbD 1 then decide (a < b) else decide (toSigned n a < toSigned n b)
      let nan : Bool := o.m.getLsbD 0 && (f.decode x).isNan
      let wins : Bool := !nan && (match v.acc with
        | none => true
        | some b => if o.m.getLsbD 2 then less x b.toNat else less b.toNat x)
      (if wins then { v with acc := some (BitVec.ofNat 64 x), aux := v.count, count := v.count + 1 }
        else { v with count := v.count + 1 }, 0),
      fun v => match v.acc with
        | some b => (v.aux % 2 ^ 32, b.toNat)
        | none => if v.count = 0 then (0xFFFFFFFF, 0) else (0, (slotFmt o.w.toNat (o.m.getLsbD 1)).nanRes.bits))
  | .cnt o => some (0x3D, o, sliceCount o, fun v x =>
      ({ v with count := if o.m.getLsbD 0 && x == 0 then v.count else (v.count + 1) % 2 ^ widthOf o }, 0),
      fun v => (v.count % 2 ^ widthOf o, v.count % 2 ^ widthOf o))
  | _ => none

/-- The first element of port a. -/
def elementA (s : State) (opc : Nat) (o : SlotOp) : Nat := dataOf s opc o 0 % 2 ^ widthOf o

/-- The running slot's operator state changes. -/
def withSlot (u : State) (f : SlotState → SlotState) : State := u.setSlotSt (f u.slotSt)

/-! ### End of stream (R93, R95) -/

/-- The end action may run: every used port holds an end of stream and no data token is left to it, both targets have room,
and, where an emission counts as a firing, the pool holds its cost. -/
def CanEnd (s : State) (opc : Nat) (o : SlotOp) (n0 n1 : Nat) (base : Option Nat) : Prop :=
  s.slotLive = true ∧ s.allData (slotPorts opc o) = false ∧ s.allEos (slotPorts opc o) = true ∧
    s.slotRoom o (n0 + 1) (n1 + 1) = true ∧ (∀ b, base = some b → s.canPay b = true)

/-- The end action: the cost of an emission, the ends of stream taken, resident tokens discarded, the operator ended, and the
last tokens and one EOS on each target. -/
def ended (s : State) (opc : Nat) (o : SlotOp) (base : Option Nat) (fl : Flags) (k0 k1 : List Token) : State :=
  let s0 := match base with | none => s | some b => s.pay b
  let u := (slotPorts opc o).foldl (fun st p => st.take p) s0
  ((withSlot u (fun v => { v with resA := none, resB := none, ended := true })).orFlags fl).put o (k0 ++ [Token.eos]) (k1 ++ [Token.eos])

/-- The operators whose end action is R95's alone, by opcode and fields: every element-wise operator, conversion and
quantiser but QSIDE, and SCAN, HALT, MCLR, MWRD, SEED, TIME, PCNT, MSTAT, TRAP and BRK. -/
def plainEnd (i : Instr) : Option (Nat × SlotOp) :=
  match i with
  | .qcvt o => some (0x58, o) | .pack o => some (0x5A, o) | .unpk o => some (0x5B, o) | .mxq o => some (0x5C, o)
  | .deq o => some (0x5D, o) | .srnd o => some (0x5E, o) | .scan o => some (0x3E, o) | .halt o => some (0x3F, o)
  | .mclr o => some (0x56, o) | .mwrd o => some (0x53, o) | .seed o => some (0x6D, o)
  | .timeOperator o => some (0x6B, o) | .pcnt o => some (0x6C, o) | .mstat o => some (0x55, o)
  | .trapOperator o => some (0x69, o) | .brk o => some (0x6A, o)
  | _ => match integerSlot i, floatSlot i with
    | some (opc, o, _), _ => some (opc, o)
    | _, some (opc, o, _, _) => some (opc, o)
    | _, _ => none

/-- R175, R177 to R181, R119: QCVT puts its converted elements on T0 and its outlier mask on T1; PACK, MXQ and DEQ put their
two elements on both targets, poisoned by the scale 0xFF; UNPK puts its elements as FP32 on T0 and T1; SRND rounds by one
xorshift draw for each element, which the slot keeps. -/
def SlotQuantiseResults : Prop :=
  (∀ (s : State) (o : SlotOp), CanFire s 0x58 o (2 * sliceCount o) →
    let x := dataOf s 0x58 o 0
    let t := fp32At (dataOf s 0x58 o 1) 0
    let v := packed o.fmt.w ((List.range 4).map (fun j => o.fmt.roundVal o.mode (bf16At x j)))
    let mask := (List.range 4).foldl (fun m j => if isOutlier t (bf16At x j) then m + 2 ^ j else m) 0
    exec (.qcvt o) s = .next ((firedState s 0x58 o (2 * sliceCount o) v.2).put o [resultToken s 0x58 o v.1]
      [resultToken s 0x58 o mask])) ∧
  (∀ (i : Instr) (s : State) (opc : Nat) (o : SlotOp) (f : Nat → Nat → (Nat × Flags) × Bool),
    packForm i = some (opc, o, f) → CanFire s opc o (2 * sliceCount o) →
    let r := f (dataOf s opc o 0) (dataOf s opc o 1)
    let k : Token := { data := BitVec.ofNat 64 r.1.1, kind := .data, psn := anyPoison s opc o || r.2 }
    let u := (taken s opc o (2 * sliceCount o)).orFlags r.1.2
    exec i s = .next ((if k.psn && o.t0 == 0x1FF && o.t1 == 0x1FF then u.orFlags 0x40 else u).put o [k] [k])) ∧
  (∀ (s : State) (o : SlotOp), CanFire s 0x5B o (2 * sliceCount o) →
    let one (j : Nat) : Nat :=
      (fp32.roundVal .rne (o.fmt.decode (dataOf s 0x5B o 0 / 2 ^ (o.fmt.w * j) % 2 ^ o.fmt.w))).bits
    exec (.unpk o) s = .next ((notesLost s 0x5B o (taken s 0x5B o (2 * sliceCount o))).put o [resultToken s 0x5B o (one 0)]
      [resultToken s 0x5B o (one 1)])) ∧
  (∀ (s : State) (o : SlotOp), CanFire s 0x5E o (2 * sliceCount o) →
    let d0 := rngStep s.rng
    let d1 := rngStep d0
    let x := dataOf s 0x5E o 0
    let r0 := o.fmt.roundVal (.draw d0.toNat) (fp32At x 0)
    let r1 := o.fmt.roundVal (.draw d1.toNat) (fp32At x 1)
    let r := packed o.fmt.w (if o.w = 4 then [r0, r1] else [r0])
    let u := withSlot (taken s 0x5E o (2 * sliceCount o)) (fun v => { v with rng := some (if o.w = 4 then d1 else d0) })
    exec (.srnd o) s = .next ((notesLost s 0x5E o (u.orFlags r.2)).put o [resultToken s 0x5E o r.1] [resultToken s 0x5E o r.1]))

/-- R176: a firing of QSIDE counts the outliers of its mask, appends a side entry for each within the limit, puts each
completed pair on T0 and keeps the odd one, and moves its position on by four; at its end it pairs an odd entry with all ones on
T0, puts the count of outliers on T1, and ends. That no limit applies where IMMP is 01 is the model's choice (log 57). -/
def SlotSideEntries : Prop :=
  (∀ (s : State) (o : SlotOp), s.slotLive = true → s.allData (slotPorts 0x59 o) = true → s.slotRoom o 2 0 = true →
    s.canPay (2 * sliceCount o) = true →
    let v := s.slotSt
    let mask := dataOf s 0x59 o 1
    let x := dataOf s 0x59 o 0
    let limit := if extImmp o.ext = 0 ∧ o.m.getLsbD 3 = true then (extImm o.ext).toNat else 0
    let r := (List.range 4).foldl (sideStep limit v.count (sideTag o.w.toNat (o.m.getLsbD 0)) x mask) (v.aux, [], false)
    let p := sidePairs (v.pending.toList ++ r.2.1.map (fun e => (e, anyPoison s 0x59 o)))
    ∃ t, exec (.qside o) s = .next t ∧
      (∃ u fl, t = u.put o p.1 [] ∧ u = (withSlot (taken s 0x59 o (2 * sliceCount o)) (fun v1 =>
          { v1 with count := (v.count + 4) % 1024, aux := r.1, pending := p.2 })).orFlags fl ∧
        (fl.getLsbD 7 = true ↔ r.2.2 = true)) ∧
      r.1 % 2 ^ 32 = (v.aux + (List.range 4).countP (fun j => mask.testBit j)) % 2 ^ 32 ∧
      (∀ (k : Nat) (e : BitVec 32), r.2.1[k]? = some e → ∃ j, j < 4 ∧ mask.testBit j = true ∧
        e.toNat / 2 ^ 16 = x / 2 ^ (16 * j) % 2 ^ 16 ∧ e.toNat / 2 ^ 6 % 1024 = (v.count + j) % 1024)) ∧
  (∀ (s : State) (o : SlotOp),
    let tail : List Token := match s.slotSt.pending with
      | none => []
      | some x => [{ data := 0xFFFFFFFF#32 ++ x.1, kind := .data, psn := x.2 }]
    CanEnd s 0x59 o tail.length 1 none →
    exec (.qside o) s = .next (ended s 0x59 o none (if o.t0 == 0x1FF && tail.any Token.psn then 0x40 else 0) tail
      [{ data := BitVec.ofNat 64 s.slotSt.aux, kind := .data, psn := false }]))

/-- R183: JOIN takes the record with the smaller key, or both where the keys are equal outside merge, emits as its mode
allows with the pending poison ORed in, and keeps the poison of a record that it does not emit; once both inputs have ended it ends,
and poison that is still pending sets PSEEN. -/
def SlotJoin : Prop :=
  (∀ (s : State) (o : SlotOp) (ha hb : Token), s.slotLive = true → s.head 0 = some ha → s.head 1 = some hb →
    ¬ (ha.isEos = true ∧ hb.isEos = true) → s.slotRoom o 1 1 = true → s.canPay (sliceCount o) = true →
    let mode := o.m.toNat / 2 % 4
    let ka := ha.data.toNat / 2 ^ 32
    let kb := hb.data.toNat / 2 ^ 32
    let onlyB : Prop := ha.isEos = true ∨ (hb.isEos = false ∧ kb < ka)
    let onlyA : Prop := ¬ onlyB ∧ (hb.isEos = true ∨ ka < kb ∨ mode = 2)
    let sum := fp32.add .rne (fp32At ha.data.toNat 0) (fp32At hb.data.toNat 0)
    let emit (u : State) (v : Word) (psn : Bool) (fl : Flags) : State :=
      ((withSlot u (fun w => { w with psn := false })).orFlags
        (fl ||| if psn && o.t0 == 0x1FF && o.t1 == 0x1FF then 0x40 else 0)).put o
        [{ data := v, kind := .data, psn := psn }] [{ data := v, kind := .data, psn := psn }]
    let keep (u : State) (psn : Bool) : State := withSlot u (fun w => { w with psn := psn })
    let pend := s.slotSt.psn
    (onlyB → mode = 1 ∨ mode = 2 → exec (.join o) s = .next (emit ((s.pay (sliceCount o)).take 1) hb.data (hb.psn || pend) 0)) ∧
    (onlyB → mode = 0 ∨ mode = 3 → exec (.join o) s = .next (keep ((s.pay (sliceCount o)).take 1) (hb.psn || pend))) ∧
    (onlyA → mode ≠ 0 → exec (.join o) s = .next (emit ((s.pay (sliceCount o)).take 0) ha.data (ha.psn || pend) 0)) ∧
    (onlyA → mode = 0 → exec (.join o) s = .next (keep ((s.pay (sliceCount o)).take 0) (ha.psn || pend))) ∧
    (¬ onlyB → ¬ onlyA → mode ≤ 1 → o.m.getLsbD 0 = true → exec (.join o) s =
      .next (emit (((s.pay (sliceCount o)).take 0).take 1) (BitVec.ofNat 64 (ka * 2 ^ 32 + sum.bits)) (ha.psn || hb.psn || pend) sum.fl)) ∧
    (¬ onlyB → ¬ onlyA → mode ≤ 1 → o.m.getLsbD 0 = false →
      exec (.join o) s = .next (emit (((s.pay (sliceCount o)).take 0).take 1) ha.data (ha.psn || hb.psn || pend) 0)) ∧
    (¬ onlyB → ¬ onlyA → mode = 3 →
      exec (.join o) s = .next (keep (((s.pay (sliceCount o)).take 0).take 1) (ha.psn || hb.psn || pend)))) ∧
  (∀ (s : State) (o : SlotOp) (ha hb : Token), s.slotLive = true → s.head 0 = some ha → s.head 1 = some hb → ha.isEos = true →
    hb.isEos = true → s.slotRoom o 1 1 = true →
    exec (.join o) s = .next (((withSlot ((s.take 0).take 1) (fun v => { v with resA := none, resB := none, ended := true })).orFlags
      (if s.slotSt.psn then 0x40 else 0)).put o [.eos] [.eos]))

/-- R184, R186, R187, R188: ACC, AMAX, ARGM and CNT take an element into their operator state and OR its poison, emitting
nothing; at the end of stream they put their result with that poison, as one firing, and then end. -/
def SlotLaneAccumulation : Prop :=
  ∀ (i : Instr) (s : State) (opc : Nat) (o : SlotOp) (cost : Nat) (f : SlotState → Nat → SlotState × Flags)
      (out : SlotState → Nat × Nat), laneForm i = some (opc, o, cost, f, out) →
    (CanFire s opc o cost →
      let r := f s.slotSt (elementA s opc o)
      exec i s = .next (((taken s opc o cost).setSlotSt { r.1 with psn := r.1.psn || (s.operand opc o 0).psn }).orFlags r.2)) ∧
    (CanEnd s opc o 1 1 (some cost) →
      let v := s.slotSt
      let k (x : Nat) : Token := { data := BitVec.ofNat 64 x, kind := .data, psn := v.psn }
      exec i s = .next (ended s opc o (some cost) (if v.psn && o.t0 == 0x1FF && o.t1 == 0x1FF then 0x40 else 0) [k (out v).1]
        [k (out v).2]))

/-- R185, R189, R190: SCAN emits its accumulator after each element with the poison taken so far; IOTA starts a sequence,
puts the next value of a running one, emits nothing for a count of 0, and ends with its inputs when none runs; HALT takes a token
and emits none. -/
def SlotSequences : Prop :=
  (∀ (s : State) (o : SlotOp),
    let cost := (if o.m.getLsbD 0 then 2 else 1) * sliceCount o
    CanFire s 0x3E o cost →
    let r := accumulated o s.slotSt.acc (elementA s 0x3E o)
    let psn := s.slotSt.psn || (s.operand 0x3E o 0).psn
    let k : Token := { data := BitVec.ofNat 64 r.1, kind := .data, psn := psn }
    let u := (withSlot (taken s 0x3E o cost) (fun v => { v with acc := some (BitVec.ofNat 64 r.1), psn := psn })).orFlags r.2
    exec (.scan o) s = .next ((if psn && o.t0 == 0x1FF && o.t1 == 0x1FF then u.orFlags 0x40 else u).put o [k] [k])) ∧
  (∀ (s : State) (o : SlotOp) (v : Word) (left : Nat) (psn : Bool), s.slotSt.iota = some (v, left, psn) →
    s.slotLive = true → s.slotRoom o 1 1 = true → s.canPay (sliceCount o) = true →
    let next : Option (Word × Nat × Bool) :=
      if left - 1 = 0 then none else some (BitVec.ofNat 64 ((v.toNat + 1) % 2 ^ widthOf o), left - 1, psn)
    let k : Token := { data := v, kind := .data, psn := psn }
    let u := withSlot (s.pay (sliceCount o)) (fun w => { w with iota := next })
    exec (.iota o) s = .next ((if psn && o.t0 == 0x1FF && o.t1 == 0x1FF then u.orFlags 0x40 else u).put o [k] [k])) ∧
  (∀ (s : State) (o : SlotOp), s.slotSt.iota = none → CanFire s 0x3C o (sliceCount o) →
    let n := elementA s 0x3C o
    let v := dataOf s 0x3C o 1 % 2 ^ widthOf o
    let psn := anyPoison s 0x3C o
    let next : Option (Word × Nat × Bool) :=
      if n - 1 = 0 then none else some (BitVec.ofNat 64 ((v + 1) % 2 ^ widthOf o), n - 1, psn)
    let u := withSlot (taken s 0x3C o (sliceCount o)) (fun w => { w with iota := next })
    (n ≠ 0 → exec (.iota o) s = .next ((notesLost s 0x3C o u).put o [resultToken s 0x3C o v] [resultToken s 0x3C o v])) ∧
    (n = 0 → exec (.iota o) s = .next (if psn then u.orFlags 0x40 else u))) ∧
  (∀ (s : State) (o : SlotOp), s.slotSt.iota = none → CanEnd s 0x3C o 0 0 none →
    exec (.iota o) s = .next (ended s 0x3C o none 0 [] [])) ∧
  (∀ (s : State) (o : SlotOp), s.slotLive = true → s.allData (slotPorts 0x3F o) = true → s.canPay 1 = true →
    exec (.halt o) s = .next (if anyPoison s 0x3F o then (taken s 0x3F o 1).orFlags 0x40 else taken s 0x3F o 1))

/-- R93, R95: when every used port of a plain operator holds its end of stream, the operator takes them, discards its resident
tokens, puts one EOS on each target, and ends. -/
def SlotEndAction : Prop :=
  ∀ (i : Instr) (s : State) (opc : Nat) (o : SlotOp), plainEnd i = some (opc, o) → CanEnd s opc o 0 0 none →
    exec i s = .next (ended s opc o none 0 [] [])

/-! ### Local memory operators (R102, R204 to R209) -/

/-- A local memory operator: opcode, fields, and the cause that a poisoned input raises. -/
def memoryForm (i : Instr) : Option (Nat × SlotOp × Option Cause) :=
  match i with
  | .ld o => some (0x40, o, none)
  | .st o => some (0x41, o, some .psnStore)
  | .ldfe o => some (0x42, o, none)
  | .stfe o => some (0x43, o, some .psnStore)
  | .atadd o => some (0x44, o, some .psnAtomic)
  | .atmin o => some (0x45, o, some .psnAtomic)
  | .atmax o => some (0x46, o, some .psnAtomic)
  | .atcas o => some (0x47, o, some .psnAtomic)
  | .atxch o => some (0x48, o, some .psnAtomic)
  | .empty o => some (0x49, o, some .psnStore)
  | _ => none

/-- The operator may follow the last request performed: it is first in a wave, or names its neighbour or is named by it
(R102). -/
def FollowsLast (last : Option (Nat × Nat)) (o : SlotOp) : Prop :=
  let own := o.ext.toNat / 2 ^ 26
  let pred := o.ext.toNat / 2 ^ 20 % 64
  match last with
  | none => pred = 62
  | some (succ, before) => succ = own ∨ pred = before

/-- The fields of the extension word of a local memory operator (R101, R142): its offset, and the granule there. -/
def offsetOf (o : SlotOp) : Nat := o.ext.toNat % 4096

/-- The FE qualifier is 10, which waits on a write and empties on a read (R98). -/
def feTwo (o : SlotOp) : Bool := o.ext.toNat / 4096 % 4 == 2

/-- The bytes of tile scratch that a request writes, and what an atomic leaves there (R206). -/
def atomicLeaves (opc n : Nat) (unsigned : Bool) (old a b : Nat) : Nat :=
  let less (x y : Nat) : Bool := if unsigned then decide (x < y) else decide (toSigned n x < toSigned n y)
  match opc with
  | 0x44 => (old + a) % 2 ^ n
  | 0x45 => if less a old then a else old
  | 0x46 => if less a old then old else a
  | 0x47 => if old = a then b else old
  | _ => a

/-- An input has ended at every used port and no request is left: R205's end. -/
def memoryEnds (s : State) (opc : Nat) (o : SlotOp) : Prop :=
  s.slotLive = true ∧ s.allData (slotPorts opc o) = false ∧ s.allEos (slotPorts opc o) = true ∧
    s.slotRoom o 1 1 = true

/-! ### Control operators (R212 to R217) -/

/-- TIME, PCNT and MSTAT in a launch that no recorder watches: opcode, fields, the value, and the state after its read
(R216, R239). -/
def readForm (i : Instr) : Option (Nat × SlotOp) :=
  match i with
  | .timeOperator o => some (0x6B, o)
  | .pcnt o => some (0x6C, o)
  | .mstat o => some (0x55, o)
  | _ => none

/-- No recorder captures what the running slot reads: the record mode of its tile's launch is 0 (R466). -/
def SlotNotRecorded (s : State) : Prop := ∀ k l, s.curT.launch = some k → s.launch k = some l → l.recMode = 0

/-- The running slot has stopped for good with a record of cause `c` (R430). -/
def SlotStops (s t : State) (c : Cause) (input : Nat) (addr : Word) : Prop :=
  (∃ r, t.records = s.records ++ [r] ∧ r.cause = c ∧ r.origin = .tile ∧ r.stop = true ∧ r.addr = addrOf c addr ∧
    r.pos = s.curTile + s.curSlot * 2 ^ 11 + input * 2 ^ 18) ∧
  t.slotSt = { s.slotSt with stopped := true } ∧
  (∀ k l, s.curT.launch = some k → s.launch k = some l → ∃ l', t.launch k = some l' ∧ l'.frozen = true) ∧
  { t with records := s.records, rings := s.rings, tiles := s.tiles, launches := s.launches } = s

/-- The running slot holds: a record that stops nothing else, and it takes and puts nothing (R430, R434). -/
def SlotHolds (s t : State) (c : Cause) (input : Nat) (addr : Word) : Prop :=
  (∃ r, t.records = s.records ++ [r] ∧ r.cause = c ∧ r.origin = .tile ∧ r.stop = false ∧ r.addr = addrOf c addr ∧
    r.pos = s.curTile + s.curSlot * 2 ^ 11 + input * 2 ^ 18) ∧
  t.slotSt = { s.slotSt with held := true } ∧ { t with records := s.records, rings := s.rings, tiles := s.tiles } = s

/-- The operators that R93 stops where one port has ended and another holds data: those of `plainEnd`, the local memory operators,
QSIDE and IOTA, by opcode and fields. -/
def portedEnd (i : Instr) : Option (Nat × SlotOp) :=
  match plainEnd i, memoryForm i with
  | some x, _ => some x
  | none, some (opc, o, _) => some (opc, o)
  | none, none =>
    match i with
    | .qside o => some (0x59, o)
    | .iota o => some (0x3C, o)
    | _ => none

/-- R93, R189, R430, R431: when one used port of a plain operator, of a local memory operator, of QSIDE or of IOTA without a
sequence holds an end of stream and another a data token, the operator stops with FLOW_EOS_MISMATCH: one record with STOP, its
slot stopped, its launch frozen, and nothing taken or put. Which input POS names
(log 29), and that a running IOTA sequence comes first (log 57), are the model's choices. -/
def SlotEosMismatch : Prop :=
  ∀ (i : Instr) (s : State) (opc : Nat) (o : SlotOp) (p : Nat), portedEnd i = some (opc, o) →
    (opc = 0x3C → s.slotSt.iota = none) → s.slotLive = true →
    s.allData (slotPorts opc o) = false → s.allEos (slotPorts opc o) = false → s.eosMismatch (slotPorts opc o) = some p →
    ∃ t r, exec i s = .next t ∧ t.records = s.records ++ [r] ∧ r.cause = .flowEosMismatch ∧ r.origin = .tile ∧
      r.stop = true ∧ r.pos = s.curTile + s.curSlot * 2 ^ 11 + p * 2 ^ 18 ∧ t.slotSt = { s.slotSt with stopped := true } ∧
      (∀ k l, s.curT.launch = some k → s.launch k = some l → ∃ l', t.launch k = some l' ∧ l'.frozen = true) ∧
      t.arcs = s.arcs ∧ t.mem = s.mem ∧ t.seqs = s.seqs

/-- R205, R209: a local memory operator that can fire pays 4, takes its inputs and appends one request to its queue; a
poisoned input of a store, EMPTY or atomic raises its cause instead and appends nothing, and a poisoned trigger of LD or LDFE
is carried by the request. That the record of a slot's PSN_STORE has ADDR zero is the model's choice (log 31). -/
def MemoryOperatorFirings : Prop :=
  ∀ (i : Instr) (s : State) (opc : Nat) (o : SlotOp) (c : Option Cause), memoryForm i = some (opc, o, c) →
    s.slotLive = true → s.allData (slotPorts opc o) = true → s.canPay 4 = true →
    let q := tabGet s.curT.reqs s.curSlot []
    q.length < 4 → s.slotRoom o (q.length + 1) (q.length + 1) = true →
    ((anyPoison s opc o = false ∨ c = none) →
      ∃ t u : State, exec i s = .next t ∧ u = (slotPorts opc o).foldl (fun st p => st.take p) (s.pay 4) ∧
        tabGet t.curT.reqs s.curSlot [] =
          q ++ [{ a := s.operand opc o 0, b := s.operand opc o 1, psn := anyPoison s opc o }] ∧
        t = u.setTile s.curTile { u.curT with reqs := t.curT.reqs } ∧
        (∀ x, x ≠ s.curSlot → tabGet t.curT.reqs x [] = tabGet s.curT.reqs x [])) ∧
    (∀ cause p, c = some cause → (slotPorts opc o).find? (fun p => (s.operand opc o p).psn) = some p →
      ∃ t, exec i s = .next t ∧ SlotStops s t cause p 0 ∧ t.arcs = s.arcs)

/-- R205, R95: a local memory operator ends once every used port holds an end of stream and its queue is empty, and only
waits while a request is left in it. -/
def MemoryOperatorEnd : Prop :=
  ∀ (i : Instr) (s : State) (opc : Nat) (o : SlotOp) (c : Option Cause), memoryForm i = some (opc, o, c) →
    memoryEnds s opc o →
    (tabGet s.curT.reqs s.curSlot [] = [] → exec i s = .next (ended s opc o none 0 [] [])) ∧
    (tabGet s.curT.reqs s.curSlot [] ≠ [] → exec i s = .next s)

/-- R98, R102, R204 to R208: the eligible request performs. LD and LDFE put the bytes at its offset, sign-extended with
M[0]; ST writes its low bytes; STFE writes both halves with zeros above them and sets its granule full; an atomic puts the
old value and leaves the new one; EMPTY empties its granule. A full-empty form waits for its granule. The request leaves its
queue and becomes the last one performed, unless its SUCC is 62. -/
def MemoryRequestsPerform : Prop :=
  ∀ (s : State) (tile slot opc : Nat) (o : SlotOp) (r : MemReq) (rest : List MemReq),
    (s.tileLaunch tile).isSome = true → (s.tile tile).nextReq = some (slot, opc, o, r, rest) → 0x40 ≤ opc → opc ≤ 0x49 →
    Memory.wf s.mem = true →
    let w := 2 ^ o.w.toNat
    let n := 8 * w
    let loc := scratchLoc tile (offsetOf o)
    let g := offsetOf o / 16
    let a := r.a.data.toNat % 2 ^ n
    let b := r.b.data.toNat % 2 ^ n
    let ext (v : Nat) : Word := if o.m.getLsbD 0 then BitVec.ofInt 64 (toSigned n v) else BitVec.ofNat 64 v
    let old := leNat (memBytes s.mem loc w)
    let waits : Prop := (opc = 0x42 ∧ s.isFull tile g = false) ∨ (opc = 0x43 ∧ feTwo o = true ∧ s.isFull tile g = true)
    FollowsLast (s.tile tile).last o ∧ (waits → exec (.localMemoryRequestPerform tile) s = .next s) ∧
    (¬ waits →
      ∃ (u : State) (v0 v1 : Word), exec (.localMemoryRequestPerform tile) s =
          .next (u.put o [{ data := v0, kind := .data, psn := r.psn }] [{ data := v1, kind := .data, psn := r.psn }]) ∧
        (opc = 0x40 ∨ opc = 0x42 → v0 = ext old) ∧ (opc = 0x40 → v1 = v0) ∧
        (opc = 0x42 → v1 = ext (leNat (memBytes s.mem (loc + 8) w))) ∧
        (opc = 0x41 ∨ opc = 0x43 ∨ opc = 0x49 → v0 = 0 ∧ v1 = 0) ∧
        (0x44 ≤ opc → opc ≤ 0x48 → v0 = BitVec.ofNat 64 old ∧ v1 = v0) ∧
        (opc = 0x41 → leNat (memBytes u.mem loc w) = a) ∧
        (opc = 0x43 → leNat (memBytes u.mem loc 8) = a ∧ leNat (memBytes u.mem (loc + 8) 8) = b) ∧
        (0x44 ≤ opc → opc ≤ 0x48 → leNat (memBytes u.mem loc w) = atomicLeaves opc n (o.m.getLsbD 0) old a b) ∧
        (∀ x, x < loc ∨ loc + (if opc = 0x43 then 16 else w) ≤ x → memRead u.mem x = memRead s.mem x) ∧
        (opc = 0x40 ∨ opc = 0x42 ∨ opc = 0x49 → u.mem = s.mem) ∧
        u.isFull tile g = (if opc = 0x43 then true else if opc = 0x49 then false
          else if opc = 0x42 ∧ feTwo o = true then false else s.isFull tile g) ∧
        (∀ k, k ≠ tile * 1536 + g → (k ∈ u.full ↔ k ∈ s.full)) ∧
        (u.tile tile).reqs = tabPut (s.tile tile).reqs slot rest ∧
        (u.tile tile).last = (if o.ext.toNat / 2 ^ 14 % 64 = 62 then none
          else some (o.ext.toNat / 2 ^ 14 % 64, o.ext.toNat / 2 ^ 26)) ∧
        u.seqs = s.seqs ∧ u.arcs = s.arcs ∧ u.curTile = tile ∧ u.curSlot = slot)

/-- R213: EOSG passes its data token; a true close predicate puts one EOS behind it and closes the operator, which then
discards its inputs, setting PSEEN for poison, until both have ended, when it ends with nothing more on its targets; a poisoned predicate raises FLOW_CONTROL_POISON, and one end of stream beside
data FLOW_EOS_MISMATCH, whose input in POS is the model's choice (log 29). -/
def EndOfStreamGate : Prop :=
  (∀ (s : State) (o : SlotOp) (a c : Token), s.slotLive = true → s.slotSt.closed = false → s.head 0 = some a →
    s.head 2 = some c →
    (a.isEos = false → c.isEos = false → c.psn = false → s.canPay 4 = true →
      let n := if c.data.getLsbD 0 then 2 else 1
      s.slotRoom o n n = true →
      let ks := if c.data.getLsbD 0 then [a, Token.eos] else [a]
      let u := withSlot (((s.pay 4).take 2).take 0) (fun v => { v with closed := c.data.getLsbD 0 })
      exec (.eosg o) s = .next ((if a.psn && o.t0 == 0x1FF && o.t1 == 0x1FF then u.orFlags 0x40 else u).put o ks ks)) ∧
    (a.isEos = false → c.isEos = false → c.psn = true → ∃ t, exec (.eosg o) s = .next t ∧ SlotStops s t .flowControlPoison 2 0) ∧
    (a.isEos = true → c.isEos = false → ∃ t, exec (.eosg o) s = .next t ∧ SlotStops s t .flowEosMismatch 0 0) ∧
    (a.isEos = false → c.isEos = true → ∃ t, exec (.eosg o) s = .next t ∧ SlotStops s t .flowEosMismatch 2 0) ∧
    (a.isEos = true → c.isEos = true → s.slotRoom o 1 1 = true →
      exec (.eosg o) s = .next ((withSlot ((s.take 0).take 2) (fun v => { v with resA := none, resB := none, ended := true })
        |>.orFlags 0).put o [.eos] [.eos]))) ∧
  (∀ (s : State) (o : SlotOp), s.slotLive = true → s.slotSt.closed = true →
    let discard (u : State) (p k : Nat) : State :=
      match s.head p with
      | none => u
      | some h =>
        if s.slotSt.seen.getLsbD k then u
        else if h.isEos then withSlot (u.take p) (fun v => { v with seen := v.seen ||| 1 <<< k })
        else if h.psn then (u.take p).orFlags 0x40 else u.take p
    let u := discard (discard s 0 0) 2 1
    exec (.eosg o) s = .next (if u.slotSt.seen.getLsbD 0 && u.slotSt.seen.getLsbD 1 then withSlot u (fun v => { v with ended := true })
      else u)) ∧
  (∀ (s : State) (o : SlotOp) (a c : Token), s.slotLive = true → s.slotSt.closed = true → s.slotSt.seen = 0 →
    s.head 0 = some a → s.head 2 = some c →
    (a.isEos = true → c.isEos = true → ∃ t, exec (.eosg o) s = .next t ∧ t.slotSt.ended = true) ∧
    (a.isEos = false ∨ c.isEos = false → ∃ t, exec (.eosg o) s = .next t ∧ t.slotSt.ended = s.slotSt.ended ∧
      t.slotSt.closed = true))

/-- R214, R215, R430, R434: TRAP with a true predicate, and BRK at its firing in a launch that is debugged, hold: one record
with STOP clear and the code or index, and nothing taken; released, or where nothing holds it, the operator passes its token
of port a to both targets. -/
def TrapAndBreakSlots : Prop :=
  ∀ (s : State) (o : SlotOp),
    let tcode : Word := BitVec.ofNat 64 (o.ext.toNat % 256)
    let index := o.ext.toNat % 65536
    let due : Prop := (s.tileLaunch s.curTile).any Launch.debug = true ∧ (index = 0xFFFF ∨ s.slotSt.count = index)
    let passes (opc : Nat) : State := (notesLost s opc o (withSlot (taken s opc o 4) (fun v =>
      { v with held := false, released := false, count := v.count + 1 }))).put o [s.operand opc o 0] [s.operand opc o 0]
    (CanFire s 0x69 o 4 → ∀ c, s.head 2 = some c → s.operand 0x69 o 2 = c →
      (c.psn = true → ∃ t, exec (.trapOperator o) s = .next t ∧ SlotStops s t .flowControlPoison 2 0) ∧
      (c.psn = false → c.data.getLsbD 0 = true → s.slotSt.held = false →
        ∃ t, exec (.trapOperator o) s = .next t ∧ SlotHolds s t .flowTrap 2 tcode) ∧
      (c.psn = false → c.data.getLsbD 0 = true → s.slotSt.held = true → s.slotSt.released = true →
        s.tileRecordWaits s.curTile s.curSlot false = false → exec (.trapOperator o) s = .next (passes 0x69)) ∧
      (c.psn = false → c.data.getLsbD 0 = false → exec (.trapOperator o) s = .next (passes 0x69))) ∧
    (CanFire s 0x6A o 4 →
      (due → s.slotSt.held = false → ∃ t, exec (.brk o) s = .next t ∧ SlotHolds s t .flowBreak 0 (BitVec.ofNat 64 index)) ∧
      (due → s.slotSt.held = true → s.slotSt.released = true → s.tileRecordWaits s.curTile s.curSlot false = false →
        exec (.brk o) s = .next (passes 0x6A)) ∧
      (¬ due → exec (.brk o) s = .next (passes 0x6A)))

/-- R216, R217, R239: TIME puts the tile's replica of the timebase, PCNT a counter of the tile and MSTAT the flags and the row firings, each with its trigger's poison, in a launch that no recorder
watches; SEED keeps the last value of the lowest-numbered SEED slot for the next invocation and raises PSN_STORE for poison, with ADDR zero (the model's
choice, log 31). -/
def ReadAndSeedSlots : Prop :=
  (∀ (s : State) (i : Instr) (opc : Nat) (o : SlotOp), readForm i = some (opc, o) → CanFire s opc o 4 →
    SlotNotRecorded s →
    ∃ (u : State) (v : Nat), exec i s = .next ((notesLost s opc o u).put o [resultToken s opc o v] [resultToken s opc o v]) ∧
      (opc = 0x6B → v = s.replica (tileCluster s.curTile) ∧ { u with now := s.now } = taken s opc o 4) ∧
      (opc = 0x6C → v % 2 ^ 64 = tabGet s.curT.counters (o.ext.toNat % 16) 0 % 2 ^ 64 ∧
        u = taken s opc o 4) ∧
      (opc = 0x55 → v = s.curT.flags.toNat + s.curT.matrix.rows % 2 ^ 32 * 2 ^ 32 ∧ u = taken s opc o 4) ∧
      { u with now := s.now } = taken s opc o 4) ∧
  (∀ (s : State) (o : SlotOp), CanFire s 0x6D o 4 → (s.operand 0x6D o 0).psn = false →
    ∃ u : State, exec (.seed o) s = .next (u.put o [{ data := 0, kind := .data, psn := false }] [{ data := 0, kind := .data, psn := false }]) ∧
      u.curT.nextSeed = (if s.curT.nextSeed.any (fun p => p.2 < s.curSlot) then s.curT.nextSeed
        else some ((s.operand 0x6D o 0).data.setWidth 32, s.curSlot)) ∧
      { u.curT with nextSeed := s.curT.nextSeed } = (taken s 0x6D o 4).curT ∧
      (∀ x, x ≠ s.curTile → u.tile x = (taken s 0x6D o 4).tile x) ∧
      { u with tiles := s.tiles } = { taken s 0x6D o 4 with tiles := s.tiles }) ∧
  (∀ (s : State) (o : SlotOp), CanFire s 0x6D o 4 → (s.operand 0x6D o 0).psn = true →
    ∃ t, exec (.seed o) s = .next t ∧ SlotStops s t .psnStore 0 0)

/-! ### Route records (R192 to R203) -/

/-- The running record's state changes. -/
def withRec (u : State) (f : RecState → RecState) : State := u.setRecSt (f u.recSt)

/-- The running record has stopped for good with a record of cause `c` at input `p`, and nothing was taken or put (R195,
R430). -/
def RecStops (s t : State) (c : Cause) (p : Nat) : Prop :=
  (∃ r, t.records = s.records ++ [r] ∧ r.cause = c ∧ r.origin = .tile ∧ r.stop = true ∧
    r.pos = s.curTile + s.curSlot * 2 ^ 11 + 2 ^ 17 + p * 2 ^ 18) ∧
  t.recSt = { s.recSt with stopped := true } ∧
  (∀ k l, s.curT.launch = some k → s.launch k = some l → ∃ l', t.launch k = some l' ∧ l'.frozen = true) ∧
  { t with records := s.records, rings := s.rings, tiles := s.tiles, launches := s.launches } = s

/-- The repeat input of INVAR (R200). -/
def repeatInput (r : RecOp) : Nat := if r.param = 1 then 1 else 2

/-- A predicate of a control input is a data token without poison; its value is bit 0. -/
def isPredicate (c : Token) (b : Bool) : Prop := c.isEos = false ∧ c.psn = false ∧ c.data.getLsbD 0 = b

/-- R16, R90, R103: placing a token on a target of its own tile appends it to the arc's queue, or to its spill ring once the
FIFO before the ring is full, where it takes the ring's next 16 bytes; a token for another tile enters the arc's way at its
producer; 0x1FF discards it. No other arc and no other byte changes. -/
def TokenPlacement : Prop :=
  ∀ (s : State) (src t g : Nat) (k : Token), Memory.wf s.mem = true →
    let u := s.send src t g k
    let a := s.arcAt t g
    (g = 0x1FF → u = s) ∧
    (g ≠ 0x1FF → src ≠ t → u.arcAt t g = { a with transit := a.transit ++ [(src, k)] } ∧ { u with arcs := s.arcs } = s) ∧
    (g ≠ 0x1FF → src = t → (a.ring = none ∨ ∃ r, a.ring = some r ∧ r.wr = r.rd ∧ a.queue.length < 64) →
      u.arcAt t g = { a with queue := a.queue ++ [k] } ∧ { u with arcs := s.arcs } = s) ∧
    (∀ r l, g ≠ 0x1FF → src = t → a.ring = some r → ¬ (r.wr = r.rd ∧ a.queue.length < 64) →
      s.ringPlace t r r.wr .write = some l →
      u.arcAt t g = { a with ring := some { r with wr := r.wr + 1 } } ∧ leNat (memBytes u.mem l 8) = k.data.toNat ∧
        leNat (memBytes u.mem (l + 8) 8) = k.kindBits ∧
        (∀ x, x < l ∨ l + 16 ≤ x → memRead u.mem x = memRead s.mem x) ∧
        { u with arcs := s.arcs, mem := s.mem, poison := s.poison, tiles := s.tiles } = s) ∧
    (∀ r, g ≠ 0x1FF → src = t → a.ring = some r → ¬ (r.wr = r.rd ∧ a.queue.length < 64) →
      s.ringPlace t r r.wr .write = none →
      u.arcAt t g = { a with stopped := true } ∧ (∃ x, u.records = s.records ++ [x] ∧ x.cause = .memSpillFault ∧ x.tok0 = some k ∧
        x.addr = addrOf .memSpillFault (r.base + BitVec.ofNat 64 (16 * (r.wr % r.slots)))) ∧
        u.mem = s.mem) ∧
    (∀ y, y ≠ 512 * t + g → u.arc y = s.arc y)

/-- R196 to R198: PASS and FORK hand a token on and end with an end of stream; STEER sends its token by the predicate, and
MERGE takes the token of the side that the predicate selects; both end when all their inputs have. -/
def RouteForwarding : Prop :=
  ∀ (s : State) (r : RecOp), s.recLive = true →
    (∀ t, s.recHead 0 = some t → s.recRoom r r.dst = true →
      let u := ((s.recTake 0).recPut r r.dst t).recFired
      exec (.pass r) s = .next (if t.isEos then u.recEnd else u)) ∧
    (∀ t, s.recHead 0 = some t → s.recRoom r r.dst = true → s.recRoom r r.dst2 = true →
      let u := (((s.recTake 0).recPut r r.dst t).recPut r r.dst2 t).recFired
      exec (.fork r) s = .next (if t.isEos then u.recEnd else u)) ∧
    (∀ a c b, s.recHead 0 = some a → s.recHead 2 = some c → a.isEos = false → isPredicate c b →
      s.recRoom r (if b then r.dst else r.dst2) = true →
      exec (.steer r) s = .next ((((s.recTake 2).recTake 0).recPut r (if b then r.dst else r.dst2) a).recFired)) ∧
    (∀ a c, s.recHead 0 = some a → s.recHead 2 = some c → a.isEos = true → c.isEos = true → s.recRoom r r.dst = true →
      s.recRoom r r.dst2 = true →
      exec (.steer r) s = .next (((((s.recTake 0).recTake 2).recPut r r.dst .eos).recPut r r.dst2 .eos).recFired.recEnd)) ∧
    (∀ c t b, s.recHead 2 = some c → isPredicate c b → s.recHead (if b then 0 else 1) = some t → t.isEos = false →
      s.recRoom r r.dst = true →
      exec (.merge r) s = .next ((((s.recTake 2).recTake (if b then 0 else 1)).recPut r r.dst t).recFired)) ∧
    (∀ a b c, s.recHead 0 = some a → s.recHead 1 = some b → s.recHead 2 = some c → a.isEos = true → b.isEos = true →
      c.isEos = true → s.recRoom r r.dst = true →
      exec (.merge r) s = .next (((((s.recTake 0).recTake 1).recTake 2).recPut r r.dst .eos).recFired.recEnd))

/-- R199, R200: CARRY takes an initial value, then the back edge for each true predicate, and starts again at a false one;
INVAR holds a value and puts it once and again for each true predicate. -/
def RouteLoops : Prop :=
  ∀ (s : State) (r : RecOp), s.recLive = true →
    let go (u : State) (p : RecPhase) : State := withRec u (fun v => { v with phase := p })
    let hold (u : State) (k : Option Token) : State := withRec u (fun v => { v with held := k })
    let p := repeatInput r
    (∀ a, s.recSt.phase = .init → s.recHead 0 = some a → s.recRoom r r.dst = true →
      exec (.carry r) s = .next (go ((s.recTake 0).recPut r r.dst a).recFired (if a.isEos then .ending else .loop))) ∧
    (∀ c, s.recSt.phase = .loop → s.recHead 2 = some c → isPredicate c false →
      exec (.carry r) s = .next (go (s.recTake 2).recFired .init)) ∧
    (∀ b c, s.recSt.phase = .loop → s.recHead 2 = some c → isPredicate c true → s.recHead 1 = some b → b.isEos = false →
      s.recRoom r r.dst = true →
      exec (.carry r) s = .next ((((s.recTake 2).recTake 1).recPut r r.dst b).recFired)) ∧
    (∀ b c, s.recSt.phase = .ending → s.recHead 1 = some b → s.recHead 2 = some c → b.isEos = true → c.isEos = true →
      exec (.carry r) s = .next (((s.recTake 1).recTake 2).recFired.recEnd)) ∧
    (∀ a, s.recSt.held = none → s.recHead 0 = some a → a.isEos = false → s.recRoom r r.dst = true →
      exec (.invar r) s = .next (hold ((s.recTake 0).recPut r r.dst a).recFired (some a))) ∧
    (∀ a k, s.recSt.held = none → s.recHead 0 = some a → a.isEos = true → s.recHead p = some k → k.isEos = true →
      s.recRoom r r.dst = true →
      exec (.invar r) s = .next ((((s.recTake 0).recTake p).recPut r r.dst .eos).recFired.recEnd)) ∧
    (∀ v k, s.recSt.held = some v → s.recHead p = some k → isPredicate k true → s.recRoom r r.dst = true →
      exec (.invar r) s = .next (((s.recTake p).recPut r r.dst v).recFired)) ∧
    (∀ v k, s.recSt.held = some v → s.recHead p = some k → isPredicate k false →
      exec (.invar r) s = .next (hold (s.recTake p).recFired none))

/-- R201 to R203, R78, R286, R287: DELAY starts with its depth of zero tokens, puts its head where DST has room, and otherwise takes
a token into a free entry; an EDGE hands its token to the barrier as one arrival, to the write stream that names it, or to
the collective that its launch's COLL binds to the engine while the merge buffer has room, dropping a record whose index does
not rise, and ends with an end of stream; a data token at an affine write stream that drains and has taken its end of stream raises
FLOW_STREAM_LENGTH. The two tokens of an input (log 30), that others after an end of stream wait (log 34), which of two collectives takes
a token and the buffer's 8192 units (log 16), are the model's choices. -/
def RouteBuffersAndEdges : Prop :=
  ∀ (s : State) (r : RecOp), s.recLive = true →
    let buf := s.recSt.buffer.getD (List.replicate r.param.toNat { data := 0, kind := .data, psn := false })
    let keep (u : State) (b : List Token) : State := withRec u (fun v => { v with buffer := some b })
    (∀ h rest, buf = h :: rest → s.recRoom r r.dst = true →
      let u := (keep (s.recPut r r.dst h) rest).recFired
      exec (.delay r) s = .next (if h.isEos then u.recEnd else u)) ∧
    (∀ t, (buf = [] ∨ s.recRoom r r.dst = false) → s.recHead 0 = some t → buf.length < r.param.toNat →
      (∀ x, buf.getLast? = some x → x.isEos = false) →
      exec (.delay r) s = .next (keep (s.recTake 0).recFired (buf ++ [t]))) ∧
    (∀ t l, s.recHead 0 = some t → s.tileLaunch s.curTile = some l →
      (t.isEos = true → exec (.edgeBarrier r) s = .next ((s.recTake 0).recFired.recEnd)) ∧
      (t.isEos = false → ((s.seq l.seqn).barrier r.dst.toNat).init = true →
        let u := (s.recTake 0).recFired
        exec (.edgeBarrier r) s = .next ((if t.psn then u.orFlags 0x40 else u).arrive l.seqn r.dst.toNat 1)) ∧
      (t.isEos = false → ((s.seq l.seqn).barrier r.dst.toNat).init = false →
        ∃ x, exec (.edgeBarrier r) s = .next x ∧ RecStops s x .flowBarrierState 3)) ∧
    (∀ t i,
      let pc := 512 * tileDie s.curTile + r.dst.toNat
      let p := s.pctx pc
      s.recHead 0 = some t → p.launch = s.curT.launch → p.st = .running ∨ p.st = .draining ∨ p.st = .stopping →
      feedsInput p.spec.toNat s.curTile (256 + 4 * s.curSlot) = some i →
      (if i = 0 then p.inA.length else p.inB.length) < 2 →
      (if i = 0 then p.eosA = false ∧ ∀ k, k ∈ p.inA → k.isEos = false else p.eosB = false ∧ ∀ k, k ∈ p.inB → k.isEos = false) →
      ∃ u : State, exec (.edgeAgn r) s = .next (if t.isEos then u.recEnd else u) ∧
        u.pctx pc = (if i = 0 then { p with inA := p.inA ++ [t] } else { p with inB := p.inB ++ [t] }) ∧
        (∀ y, y ≠ pc → u.pctx y = s.pctx y) ∧ { u with pctxs := s.pctxs } = (s.recTake 0).recFired) ∧
    (∀ t,
      let pc := 512 * tileDie s.curTile + r.dst.toNat
      let p := s.pctx pc
      s.recHead 0 = some t → p.launch = s.curT.launch → feedsInput p.spec.toNat s.curTile (256 + 4 * s.curSlot) = some 0 →
      p.eosA = true →
      (p.st = .draining → p.draining = false → spKind p.spec.toNat = 1 → p.inA = [] → t.isEos = false →
        ∃ u q, exec (.edgeAgn r) s = .next u ∧ u.records = s.records ++ [q] ∧ q.cause = .flowStreamLength ∧ q.origin = .agn ∧
          q.stop = true ∧ (u.pctx pc).st = .frozen ∧ u.arcs = s.arcs) ∧
      (p.st = .running ∨ p.st = .stopping → exec (.edgeAgn r) s = .next s)) ∧
    (∀ t k c, s.recHead 0 = some t → tabFind s.net.colls k = some c →
      (∀ y, y ∈ s.net.colls → y.1 / 65536 = r.dst.toNat → y.2.launch = s.curT.launch → y = (k, c)) → (k, c) ∈ s.net.colls →
      k / 65536 = r.dst.toNat → c.active = true → clSrcf c.v = true → c.launch = s.curT.launch → c.launch.isSome = true →
      (c.input 0).ended = false →
      let idx := t.data.toNat / 2 ^ 32
      let inOrder : Prop := idx ≠ 0xFFFFFFFF ∧ (∀ x, (c.input 0).units.getLast? = some x → x.1.toNat / 2 ^ 32 < idx) ∧
        ((c.input 0).units = [] → ∀ l, (c.input 0).last = some l → l < idx)
      (8192 ≤ (c.input 0).units.length → exec (.edgeIndigo r) s = .next s) ∧
      ((c.input 0).units.length < 8192 →
      let u := (s.recTake 0).recFired
      (t.isEos = true →
        exec (.edgeIndigo r) s = .next (u.setColl k (c.setInput 0 { c.input 0 with ended := true })).recEnd) ∧
      (t.isEos = false → clSparse c.v = true → ¬ inOrder →
        exec (.edgeIndigo r) s = .next (u.setColl k (c.raises 0x10000))) ∧
      (t.isEos = false → clSparse c.v = false ∨ inOrder →
        exec (.edgeIndigo r) s = .next (u.setColl k (c.setInput 0
          { c.input 0 with units := (c.input 0).units ++ [(BitVec.ofNat 64 (clWiden c.v t.data.toNat), t.psn)] })))))

/-- R195 to R200: a poisoned predicate stops STEER, MERGE, CARRY and INVAR with FLOW_CONTROL_POISON, and an end of stream
beside data with FLOW_EOS_MISMATCH, before the record takes anything. Which input POS then names is the model's choice (log 29). -/
def RouteRecordStops : Prop :=
  ∀ (s : State) (r : RecOp), s.recLive = true →
    (∀ a c, s.recHead 0 = some a → s.recHead 2 = some c →
      (a.isEos = false → c.isEos = false → c.psn = true → ∃ t, exec (.steer r) s = .next t ∧ RecStops s t .flowControlPoison 2) ∧
      (a.isEos = true → c.isEos = false → ∃ t, exec (.steer r) s = .next t ∧ RecStops s t .flowEosMismatch 0) ∧
      (a.isEos = false → c.isEos = true → ∃ t, exec (.steer r) s = .next t ∧ RecStops s t .flowEosMismatch 2)) ∧
    (∀ c, s.recHead 2 = some c → c.isEos = false → c.psn = true →
      (∃ t, exec (.merge r) s = .next t ∧ RecStops s t .flowControlPoison 2) ∧
      (s.recSt.phase = .loop → ∃ t, exec (.carry r) s = .next t ∧ RecStops s t .flowControlPoison 2)) ∧
    (∀ c t b, s.recHead 2 = some c → isPredicate c b → s.recHead (if b then 0 else 1) = some t → t.isEos = true →
      ∃ x, exec (.merge r) s = .next x ∧ RecStops s x .flowEosMismatch (if b then 0 else 1)) ∧
    (∀ a b c, s.recHead 0 = some a → s.recHead 1 = some b → s.recHead 2 = some c → c.isEos = true →
      a.isEos = false ∨ b.isEos = false → ∃ t, exec (.merge r) s = .next t ∧ RecStops s t .flowEosMismatch 2) ∧
    (∀ c, s.recHead 2 = some c → c.isEos = true → s.recSt.phase = .loop →
      ∃ t, exec (.carry r) s = .next t ∧ RecStops s t .flowEosMismatch 2) ∧
    (∀ b c, s.recSt.phase = .loop → s.recHead 2 = some c → isPredicate c true → s.recHead 1 = some b → b.isEos = true →
      ∃ t, exec (.carry r) s = .next t ∧ RecStops s t .flowEosMismatch 1) ∧
    (∀ b c, s.recSt.phase = .ending → s.recHead 1 = some b → s.recHead 2 = some c → b.isEos = false ∨ c.isEos = false →
      ∃ t, exec (.carry r) s = .next t ∧ RecStops s t .flowEosMismatch (if b.isEos then 1 else if c.isEos then 2 else 3)) ∧
    (∀ a k, s.recSt.held = none → s.recHead 0 = some a → a.isEos = true → s.recHead (repeatInput r) = some k → k.isEos = false →
      ∃ t, exec (.invar r) s = .next t ∧ RecStops s t .flowEosMismatch 0) ∧
    (∀ v k, s.recSt.held = some v → s.recHead (repeatInput r) = some k → k.isEos = false → k.psn = true →
      ∃ t, exec (.invar r) s = .next t ∧ RecStops s t .flowControlPoison (repeatInput r)) ∧
    (∀ v k, s.recSt.held = some v → s.recHead (repeatInput r) = some k → k.isEos = true →
      ∃ t, exec (.invar r) s = .next t ∧ RecStops s t .flowEosMismatch (repeatInput r))

/-! ### Matrix operators (R226 to R240) -/

/-- MROW and MROWS: opcode and fields. -/
def rowForm : Instr → Option (Nat × SlotOp)
  | .mrow o => some (0x50, o)
  | .mrows o => some (0x51, o)
  | _ => none



/-- The weight store's bytes of unit `q` of the array that an access word names (R236). -/
def weightUnit (t : Nat) (e : Word32) (q : Nat) : Nat := weightLoc t ((if extArr e then 65536 else 0) + 8 * q)

/-- The matrix state of the running tile changes. -/
def withMatrix (u : State) (f : Matrix → Matrix) : State := u.setMatrix u.curTile (f (u.tile u.curTile).matrix)

/-! ### Event operators (R245 to R266) -/

/-- The event bank of the running tile changes. -/
def withBank (u : State) (f : EventBank → EventBank) : State := u.setBank u.curTile (f (u.bank u.curTile))

/-- An event has a kind that the bank takes: 0, or 1 or 2 with GROUP 0 (R252). -/
def goodKind (e : Word) : Prop := evKind e ≠ 3 ∧ (evKind e = 0 ∨ evGroup e = 0)

/-- R229 to R232, R234: MROW and MROWS put a waiting token of their output on both targets; gather a partial-row token or take a
true gate from their ports; and, with a complete row, its partial input, its scale group, room for the result and the power,
fire: the row's columns go south or into the output buffer, the row buffer is freed, or keeps the fired row for its
down-chain neighbour with AFWD, and ROWS counts one more. An end of stream where a complete row still needs data, and, once the row
buffer holds an end-of-stream marker, data at the gate, at port b or to the north, raise FLOW_EOS_MISMATCH (R234; the input in POS: the
model's choice, log 29). Otherwise the operator ends once each of those has ended, with PDST its end of stream on both targets and
without it a marker to the south, and with PSRC 11 once port b has ended too. -/
def MatrixRowFirings : Prop :=
  ∀ (i : Instr) (s : State) (opc : Nat) (o : SlotOp), rowForm i = some (opc, o) → s.slotLive = true →
    let m := s.curT.matrix
    let psrc := extPsrc o.ext
    (∀ k rest, m.outBuf = k :: rest → s.slotRoom o 1 1 = true →
      exec i s = .next ((withMatrix s (fun x => { x with outBuf := rest })).put o [k] [k])) ∧
    (∀ k, m.outBuf = [] → m.ending ≠ 1 → m.row.eos = false ∨ m.row.fired = true → extGate o.ext = true → m.gate = false → s.head 0 = some k → k.isEos = false →
      (k.psn = false → exec i s = .next (withMatrix (s.take 0) (fun x => { x with gate := true }))) ∧
      (k.psn = true → ∃ t, exec i s = .next t ∧ SlotStops s t .flowControlPoison 0 0)) ∧
    (∀ k, m.outBuf = [] → m.ending ≠ 1 → m.row.eos = false ∨ m.row.fired = true →
      (extGate o.ext = false ∨ m.gate = true) → 2 ≤ psrc → m.partBuf.length < rowN o / 2 → s.head 1 = some k → k.isEos = false →
      exec i s = .next (withMatrix (s.take 1) (fun x => { x with partBuf := m.partBuf ++ [k] }))) ∧
    (∀ (pin : List (BitVec 32 × Bool)) (g : ScaleGroup) (rest : List ScaleGroup),
      m.outBuf = [] → m.ending ≠ 1 → (extGate o.ext = false ∨ m.gate = true) → m.row.eos = false → m.row.fired = false →
      m.row.transfers.length = rowNeed opc o → s.rowGroup o = some (g, rest) → s.weightHold = false →
      (psrc = 0 → pin = []) → (psrc = 1 → ∃ l, m.north = some pin :: l) →
      (2 ≤ psrc → m.partBuf.length = rowN o / 2 ∧ pin = tokensRow m.partBuf) →
      s.canPay (if opc = 0x51 then 1100 else match o.w.toNat with | 4 => 1100 | 0 => 2200 | _ => 4400) = true →
      (extPdst o.ext = false → ((s.southLink s.curTile).filter Option.isSome).length < 2) →
      ∃ t u : State, exec i s = .next t ∧
        (let r := s.rowFire s.curTile opc o m.row g pin
         u = (s.pay (if opc = 0x51 then 1100 else match o.w.toNat with | 4 => 1100 | 0 => 2200 | _ => 4400)).orFlags r.2 ∧
         t = (let m1 : Matrix :=
                { m with row := if extAfwd o.ext then { m.row with fired := true, group := some g } else RowBuf.empty,
                         groups := rest, north := if psrc = 1 then m.north.drop 1 else m.north,
                         partBuf := if 2 ≤ psrc then [] else m.partBuf, rows := m.rows + 1 }
              if extPdst o.ext then withMatrix u (fun _ => { m1 with outBuf := rowTokens r.1 })
              else (withMatrix u (fun _ => m1)).putSouth s.curTile (some r.1)))) ∧
    (m.outBuf = [] → m.ending ≠ 1 → m.row.eos = false → m.row.fired = false → m.row.transfers.length = rowNeed opc o →
      (∀ k, psrc ≤ 1 → extGate o.ext = true → m.gate = false → s.head 0 = some k → k.isEos = true →
        ∃ t, exec i s = .next t ∧ SlotStops s t .flowEosMismatch 0 0) ∧
      (∀ k, 2 ≤ psrc → extGate o.ext = false ∨ m.gate = true → m.partBuf.length < rowN o / 2 → s.head 1 = some k → k.isEos = true →
        ∃ t, exec i s = .next t ∧ SlotStops s t .flowEosMismatch 1 0) ∧
      (psrc = 1 → extGate o.ext = false ∨ m.gate = true → m.north.head? = some none →
        ∃ t, exec i s = .next t ∧ SlotStops s t .flowEosMismatch 3 0)) ∧
    (m.outBuf = [] → m.ending ≠ 1 → m.row.eos = true → m.row.fired = false →
      let dataAt (p : Nat) : Prop := ∃ k, s.head p = some k ∧ k.isEos = false
      let eosAt (p : Nat) : Prop := ∃ k, s.head p = some k ∧ k.isEos = true
      let northRow : Prop := m.northWide ≠ [] ∨ ∃ x, m.north.head? = some (some x)
      (psrc = 1 → northRow → ∃ t, exec i s = .next t ∧ SlotStops s t .flowEosMismatch 3 0) ∧
      (psrc = 2 → m.partBuf ≠ [] ∨ dataAt 1 → ∃ t, exec i s = .next t ∧ SlotStops s t .flowEosMismatch 1 0) ∧
      ((psrc = 2 → m.partBuf = [] ∧ ¬ dataAt 1) → (psrc = 1 → ¬ northRow) →
        extGate o.ext = true → dataAt 0 → ∃ t, exec i s = .next t ∧ SlotStops s t .flowEosMismatch 0 0) ∧
      ((psrc = 1 → m.northWide = [] ∧ m.north.head? = some none) → (psrc = 2 → m.partBuf = [] ∧ eosAt 1) →
        (extGate o.ext = true → eosAt 0) → (extPdst o.ext = true → s.slotRoom o 1 1 = true) →
        ∃ t, exec i s = .next t ∧ t.curT.matrix.groups = [] ∧ t.curT.matrix.filling = none ∧ t.curT.matrix.ending = 1 ∧
          (psrc ≠ 3 → t.slotSt.ended = true) ∧
          t.curT.matrix.row = (if extAfwd o.ext then { m.row with fired := true } else RowBuf.empty) ∧ t.seqs = s.seqs ∧
          (extPdst o.ext = false → let u := if psrc = 2 then s.take 1 else s
            t.arcs = (if extGate o.ext then u.take 0 else u).arcs))) ∧
    (∀ k, m.outBuf = [] → m.ending = 1 → m.partBuf = [] → s.head 1 = some k →
      (k.isEos = true → exec i s = .next (withSlot (s.take 1) (fun v => { v with ended := true }))) ∧
      (k.isEos = false → ∃ t, exec i s = .next t ∧ SlotStops s t .flowEosMismatch 1 0))

/-- R122, R124, R125, R223, R228, R231, R232: each column of a row firing starts from its partial input and adds the block sums in
ascending order under RNE; a block takes the products of its elements, for MROWS of its kept ones that no lower one repeats (else
SPCODE is set), exactly, and an MX block rounds the sum under both scales, where a scale that is missing acts as 0xFF; the column
carries the poison of its partial input, the row, the scale group and a NaN scale; SCUND and SCOVR tell of too few and too many scales. -/
def MatrixColumnSums : Prop :=
  (∀ (s : State) (t opc : Nat) (o : SlotOp) (row : RowBuf) (g : ScaleGroup) (pin : List (BitVec 32 × Bool)) (n : Nat),
    n < rowN o →
    let r := (s.rowFire t opc o row g pin).1
    let start := pin.getD n (0, false)
    let nb := (rowK o + 31) / 32
    let q := (rowFmts o).1.qmin + (rowFmts o).2.qmin
    let bank := if opc = 0x50 ∧ o.w = 4 then (extBank o.ext).toNat else 0
    let sa (k : Nat) : Nat := match g.scales[k]? with | none => 0xFF | some x => x.toNat
    let block (k : Nat) : Nat :=
      let ps := (s.blockElems t opc o row.value k n).1
      if rowMx o then (mxBlock q ps (sa k) (s.bScale t bank k n)).1.bits else (wideBlock ps).bits
    let nanScale (k : Nat) : Prop := rowMx o = true ∧ (sa k = 0xFF ∨ s.bScale t bank k n = 0xFF)
    r.length = rowN o ∧
    ((r.getD n (0, false)).2 = true ↔
      row.psn = true ∨ start.2 = true ∨ (rowMx o = true ∧ g.psn = true) ∨ ∃ k, k < nb ∧ nanScale k) ∧
    (r.getD n (0, false)).1.toNat = (List.range nb).foldl (fun p k =>
      (fp32.add .rne (fp32.decode p) (fp32.decode (block k))).bits) start.1.toNat % 2 ^ 32 ∧
    (rowMx o = true → g.scales.length < nb → (s.rowFire t opc o row g pin).2.getLsbD 8 = true) ∧
    (rowMx o = true → nb < g.scales.length → (s.rowFire t opc o row g pin).2.getLsbD 9 = true)) ∧
  (∀ (s : State) (t : Nat) (o : SlotOp) (row k n : Nat),
    let a (i : Nat) : FVal := (rowFmts o).1.decode (row / 2 ^ ((rowFmts o).1.w * i) % 2 ^ (rowFmts o).1.w)
    let b (i : Nat) : FVal := (rowFmts o).2.decode (s.bElem t o.w.toNat (extBank o.ext).toNat i n)
    let code (x : Nat) : Nat := s.posCode t x n
    let kept (x : Nat) : FVal := (rowFmts o).2.decode (s.weightByte t (256 * x + n / 2) / 16 ^ (n % 2) % 16)
    let repeats (g i : Nat) : Bool := (List.range i).any (fun j => code (4 * g + j) == code (4 * g + i))
    (s.blockElems t 0x50 o row k n).1 = ((List.range' (32 * k) 32).filter (· < rowK o)).map (fun i => (a i, b i)) ∧
    (s.blockElems t 0x51 o row k n).1 = (List.range' (4 * k) 4).flatMap (fun g => ((List.range 4).filter (fun i =>
      !repeats g i && decide (8 * g + code (4 * g + i) < rowK o))).map (fun i => (a (8 * g + code (4 * g + i)), kept (4 * g + i)))) ∧
    ((s.blockElems t 0x51 o row k n).2 = true ↔ ∃ g i, 4 * k ≤ g ∧ g < 4 * k + 4 ∧ i < 4 ∧ repeats g i = true)) ∧
  (∀ (q : Int) (ps : List (FVal × FVal)) (sa sb : Nat),
    let finite : Prop := ∀ p, p ∈ ps → ∃ n m e n' m' e', p = (FVal.fin n m e, FVal.fin n' m' e') ∧ q ≤ e + e'
    let product (p : FVal × FVal) : Int := match p with
      | (.fin n m e, .fin n' m' e') => (if n = n' then 1 else -1) * ((m * m' * 2 ^ (e + e' - q).toNat : Nat) : Int)
      | _ => 0
    let sum : Int := (ps.map product).sum
    (sa = 0xFF ∨ sb = 0xFF → mxBlock q ps sa sb = (fp32.nanRes, true)) ∧
    (sa ≠ 0xFF → sb ≠ 0xFF → finite →
      mxBlock q ps sa sb = (fp32.round .rne (decide (sum < 0)) sum.natAbs (q + sa + sb - 254), false)))

/-- R226, R227: the next transfer of a wide read stream enters the tile's row buffer while it has room, an end-of-stream
marker enters an empty one and waits behind another, and a fired row with its scale group moves into the empty buffer of the down-chain neighbour. -/
def MatrixRowMovement : Prop :=
  (∀ (s : State) (tile slot opc : Nat) (o : SlotOp) (rest : List (Option (BitVec 1024 × Bool))),
    let m := (s.tile tile).matrix
    (s.tile tile).plane.matrixSlot = some (slot, opc, o) → (s.tileLaunch tile).isSome = true →
    ¬ (extPsrc o.ext = 1 ∧ rowN o / 32 ≤ m.northWide.length ∧ m.north.length < 2) →
    (∀ x, m.wide = some x :: rest → m.row.eos = false → m.row.fired = false → m.row.transfers.length < rowNeed opc o →
      exec (.rowArrival tile) s = .next (s.setMatrix tile
        { m with row := { m.row with transfers := m.row.transfers ++ [x.1], psn := m.row.psn || x.2 }, wide := rest })) ∧
    (m.wide = none :: rest → m.row.transfers = [] → m.row.eos = false →
      exec (.rowArrival tile) s = .next (s.setMatrix tile { m with row := { m.row with eos := true }, wide := rest })) ∧
    (m.wide ≠ [] → m.row.eos = true → exec (.rowArrival tile) s = .next s)) ∧
  (∀ (s : State) (tile slot opc : Nat) (o : SlotOp),
    let m := (s.tile tile).matrix
    let n := rowN o / 32
    (s.tile tile).plane.matrixSlot = some (slot, opc, o) → (s.tileLaunch tile).isSome = true →
    extPsrc o.ext = 1 → n ≤ m.northWide.length → m.north.length < 2 →
    exec (.rowArrival tile) s = .next (s.setMatrix tile
      { m with north := m.north ++ [some ((m.northWide.take n).flatMap transferRow)], northWide := m.northWide.drop n })) ∧
  (∀ (s : State) (tile u : Nat), s.inRegion tile (downChain tile) = some u → u ≠ tile →
    (s.tileLaunch tile).isSome = true → (s.tile tile).matrix.row.fired = true →
    (s.tile u).matrix.row.transfers = [] → (s.tile u).matrix.row.eos = false →
    ∃ t, exec (.rowForward tile) s = .next t ∧
      (t.tile u).matrix.row = { (s.tile tile).matrix.row with fired := false } ∧
      (t.tile tile).matrix.row = RowBuf.empty ∧ (∀ x, x ≠ tile → x ≠ u → t.tile x = s.tile x) ∧
      { t.tile u with matrix := (s.tile u).matrix } = s.tile u ∧
      { t.tile tile with matrix := (s.tile tile).matrix } = s.tile tile ∧ { t with tiles := s.tiles } = s)

/-- R233, R236, R237: MWLD writes DATA to its next unit of the weight store and MWRD puts its next unit, each up to its
length, past which they raise FLOW_WSTORE_RANGE; MCLR zeroes its units; MSCL appends its scales to the group being filled,
which DATA[7] completes; no other byte of memory changes. That a PSN_STORE of MWLD or MCLR has ADDR zero is the model's choice
(log 31). -/
def WeightStoreOperators : Prop :=
  (∀ (s : State) (o : SlotOp), Memory.wf s.mem = true → s.slotLive = true → s.allData [0] = true → s.canPay 4 = true →
    let n := s.slotSt.aux
    let k := s.operand 0x52 o 0
    let at_ := weightUnit s.curTile o.ext (extStart o.ext + n)
    (k.psn = false → n ≤ extLenm1 o.ext → ∃ t, exec (.mwld o) s = .next t ∧ leNat (memBytes t.mem at_ 8) = k.data.toNat ∧
      (∀ x, x < at_ ∨ at_ + 8 ≤ x → memRead t.mem x = memRead s.mem x) ∧ t.slotSt.aux = n + 1 ∧ t.seqs = s.seqs ∧
      t.arcs = (taken s 0x52 o 4).arcs) ∧
    (k.psn = false → extLenm1 o.ext < n → ∃ t, exec (.mwld o) s = .next t ∧ SlotStops s t .flowWstoreRange 0 0) ∧
    (k.psn = true → ∃ t, exec (.mwld o) s = .next t ∧ SlotStops s t .psnStore 0 0)) ∧
  (∀ (s : State) (o : SlotOp), CanEnd s 0x52 o 1 1 none →
    let k : Token := { data := BitVec.ofNat 64 s.slotSt.aux, kind := .data, psn := false }
    exec (.mwld o) s = .next (ended s 0x52 o none 0 [k] [k])) ∧
  (∀ (s : State) (o : SlotOp), CanFire s 0x53 o 4 →
    let n := s.slotSt.aux
    (n ≤ extLenm1 o.ext →
      let v := leNat (memBytes s.mem (weightUnit s.curTile o.ext (extStart o.ext + n)) 8)
      exec (.mwrd o) s = .next ((notesLost s 0x53 o (withSlot (taken s 0x53 o 4) (fun x => { x with aux := x.aux + 1 }))).put o
        [resultToken s 0x53 o v] [resultToken s 0x53 o v])) ∧
    (extLenm1 o.ext < n → ∃ t, exec (.mwrd o) s = .next t ∧ SlotStops s t .flowWstoreRange 0 0)) ∧
  (∀ (s : State) (o : SlotOp), Memory.wf s.mem = true → CanFire s 0x56 o 1024 →
    let at_ := weightUnit s.curTile o.ext (extStart o.ext)
    let n := 8 * (extLenm1 o.ext + 1)
    ((s.operand 0x56 o 0).psn = false → ∃ u : State,
      exec (.mclr o) s = .next (u.put o [{ data := 0, kind := .data, psn := false }] [{ data := 0, kind := .data, psn := false }]) ∧
      (∀ x, memRead u.mem x = if at_ ≤ x ∧ x < at_ + n then 0 else memRead s.mem x) ∧
      { u with mem := s.mem } = taken s 0x56 o 1024) ∧
    ((s.operand 0x56 o 0).psn = true → ∃ t, exec (.mclr o) s = .next t ∧ SlotStops s t .psnStore 0 0)) ∧
  (∀ (s : State) (o : SlotOp), CanFire s 0x54 o 4 → s.allEos [0] = false → s.curT.matrix.groups.length < 2 →
    let k := s.operand 0x54 o 0
    let m := s.curT.matrix
    let old := m.filling.getD { scales := [], psn := false }
    let n := k.data.toNat % 8
    let new := (List.range n).map (fun j => BitVec.ofNat 8 (k.data.toNat / 2 ^ (8 * j + 8)))
    let g : ScaleGroup := { scales := (old.scales ++ new).take 16, psn := old.psn || k.psn }
    ∃ t, exec (.mscl o) s = .next t ∧
      t.curT.matrix = (if k.data.getLsbD 7 then { m with groups := m.groups ++ [g], filling := none }
        else { m with filling := some g }) ∧
      t.curT.flags = (s.curT.flags ||| if 16 < old.scales.length + n then 0x200 else 0) ∧
      t.arcs = (taken s 0x54 o 4).arcs ∧ t.mem = s.mem ∧ t.seqs = s.seqs)

/-- R253, R256, R258, R260: EVQ takes the token of the port that holds one: a mark goes to both targets, an own event that
R252 and R255 allow enters the queue, another tile's event is dropped; EVIN discards its close tokens, and ends, emptying the
queue, once its close input has ended and nothing is due; it emits one mark for a horizon that it has completed. That EVQ
checks an event before it looks for room is the model's choice (log 57). -/
def EventQueueOperators : Prop :=
  (∀ (s : State) (o : SlotOp) (p : Nat) (k : Token), s.slotLive = true → SlotNotRecorded s →
    (p = 0 ∨ p = 1) → s.slotSt.seen.getLsbD p = false → s.head p = some k →
    (s.slotSt.seen.getLsbD (1 - p) = true ∨ s.head (1 - p) = none) → k.isEos = false → s.canPay 4 = true →
    s.curT.evinEnded = false →
    let u := (s.pay 4).take p
    let e := k.data
    (evKind e = 3 → e.toNat / 2 ^ 9 % 2 ^ 23 = 0 → evGroup e = 0 → s.slotRoom o 1 1 = true →
      exec (.evq o) s = .next ((if k.psn && o.t0 == 0x1FF && o.t1 == 0x1FF then u.orFlags 0x40 else u).put o [k] [k])) ∧
    (evKind e ≠ 3 → evTile e ≠ s.curTile → exec (.evq o) s = .next (if k.psn then u.orFlags 0x40 else u)) ∧
    (goodKind e → evTile e = s.curTile → k.psn = false → (s.bank s.curTile).h.toNat ≤ evStamp e →
      (s.bank s.curTile).queue.length < 512 →
      exec (.evq o) s = .next (withBank u (fun b => { b with queue := insertEvent e b.queue }))) ∧
    (goodKind e → evTile e = s.curTile → k.psn = false → evStamp e < (s.bank s.curTile).h.toNat →
      ∃ t, exec (.evq o) s = .next t ∧ SlotStops s t .evtLateEvent p e)) ∧
  (∀ (s : State) (o : SlotOp) (k : Token), s.slotLive = true → s.slotSt.closed = false → s.head 0 = some k →
    exec (.evin o) s = .next (if k.isEos then withSlot (s.take 0) (fun v => { v with closed := true })
      else if k.psn then (s.take 0).orFlags 0x40 else s.take 0)) ∧
  (∀ (s : State) (o : SlotOp), s.slotLive = true → s.slotSt.closed = true → s.slotRoom o 1 1 = true →
    (s.bank s.curTile).due (s.bank s.curTile).h.toNat = false → (s.bank s.curTile).markDue = false →
    (s.bank s.curTile).busy = none →
    ∃ t, exec (.evin o) s = .next t ∧ t.slotSt.ended = true ∧ (t.bank s.curTile).queue = [] ∧ t.seqs = s.seqs) ∧
  (∀ (s : State) (tile i : Nat) (o : SlotOp), (s.tile tile).plane.evin = some (i, o) →
    let s0 := { s with curTile := tile, curSlot := i }
    let b := s.bank tile
    s0.slotLive = true → s0.weightHold = false → (b.marked.getD 0).toNat < b.h.toNat →
    (∀ e, e ∈ b.queue → b.h.toNat < evStamp e) → b.busy = none → s.room tile o.t0.toNat 1 = true →
    exec (.markEmit tile) s = .next ((s0.setBank tile { b with marked := some b.h }).send tile tile o.t0.toNat
      { data := BitVec.ofNat 64 (b.h.toNat * 2 ^ 32 + 3 * 2 ^ 7), kind := .data, psn := false }))

/-- R249, R261 to R263: EVFR takes a fire token and then puts one event for each unit of its neuron's run, its stamp raised by
the unit's delay, up to the unit marked last; EVST puts a neuron's record and EVWR writes one; EVLK begins to bring every
neuron to its time, which its last step makes the bank's base. -/
def EventRecordOperators : Prop :=
  (∀ (s : State) (o : SlotOp) (k : Token), s.slotLive = true → s.slotSt.iota = none → s.head 0 = some k → k.isEos = false →
    evKind k.data ≠ 3 →
    let ptr := s.fanPointer s.curTile (evNeuron k.data)
    exec (.evfr o) s = .next (if ptr.testBit 15 then withSlot (s.take 0) (fun v =>
        { v with iota := some (k.data, ptr % 2 ^ 13, k.psn) })
      else if k.psn then (s.take 0).orFlags 0x40 else s.take 0)) ∧
  (∀ (s : State) (o : SlotOp) (f : Word) (u : Nat) (psn : Bool), s.slotLive = true → s.slotSt.iota = some (f, u, psn) →
    s.slotRoom o 1 1 = true → s.canPay 4 = true →
    let d := s.fanDescriptor s.curTile u
    let stamp := evStamp f + d / 2 ^ 48 % 2 ^ 16
    let k : Token := { data := BitVec.ofNat 64 (stamp * 2 ^ 32 + d / 2 ^ 37 % 2 ^ 11 * 2 ^ 21 + d / 2 ^ 25 % 2 ^ 12 * 2 ^ 9 +
      d / 2 ^ 16 % 4 * 2 ^ 7 + d / 2 ^ 18 % 2 ^ 7), kind := .data, psn := psn }
    let last := d.testBit 15
    d / 2 ^ 16 % 4 ≠ 3 → stamp < 2 ^ 32 → u ≠ 8191 →
    let v := withSlot (s.pay 4) (fun x => { x with iota := if last then none else some (f, u + 1, psn) })
    exec (.evfr o) s = .next ((if psn && o.t0 == 0x1FF && o.t1 == 0x1FF then v.orFlags 0x40 else v).put o [k] [k])) ∧
  (∀ (s : State) (o : SlotOp), (s.bank s.curTile).busy = none → CanFire s 0x63 o 4 →
    let v := leNat (memBytes s.mem (neuronLoc s.curTile ((s.operand 0x63 o 0).data.toNat % 4096)) 8)
    exec (.evst o) s = .next (firesWith s 0x63 o 4 (v, 0))) ∧
  (∀ (s : State) (o : SlotOp), (s.bank s.curTile).busy = none → CanFire s 0x64 o 4 → anyPoison s 0x64 o = false →
    Memory.wf s.mem = true →
    let at_ := neuronLoc s.curTile ((s.operand 0x64 o 0).data.toNat % 4096)
    ∃ u : State, exec (.evwr o) s = .next (u.put o [{ data := 0, kind := .data, psn := false }] [{ data := 0, kind := .data, psn := false }]) ∧
      leNat (memBytes u.mem at_ 8) = (s.operand 0x64 o 1).data.toNat ∧
      (∀ x, x < at_ ∨ at_ + 8 ≤ x → memRead u.mem x = memRead s.mem x) ∧
      { u with mem := s.mem, poison := s.poison } = { taken s 0x64 o 4 with mem := s.mem, poison := s.poison }) ∧
  (∀ (s : State) (o : SlotOp) (k : Token), s.slotLive = true → (s.bank s.curTile).busy = none → s.head 0 = some k →
    s.allEos [0] = false → k.psn = false → (s.bank s.curTile).b.toNat ≤ k.data.toNat % 2 ^ 32 →
    k.data.toNat % 2 ^ 32 ≤ (s.bank s.curTile).h.toNat → (s.bank s.curTile).due (k.data.toNat % 2 ^ 32) = false →
    s.slotRoom o 1 1 = true →
    exec (.evlk o) s = .next (withBank (s.take 0) (fun b => { b with busy := some (s.curSlot, k.data, 0) }))) ∧
  (∀ (s : State) (o : SlotOp) (x : Word) (m : Nat), s.slotLive = true →
    (s.bank s.curTile).busy = some (s.curSlot, x, m) → s.curT.plane.neurons ≤ m →
    exec (.evlk o) s = .next ((withBank s (fun b => { b with b := BitVec.ofNat 32 (x.toNat % 2 ^ 32), busy := none })).put o
      [{ data := 0, kind := .data, psn := false }] [{ data := 0, kind := .data, psn := false }]))

/-- R254, R259: an event in delivery, or the head event once its stamp is at or below the horizon, acts on its neuron as bring
leaves it: a spike's entry adds its weight outside the refractory time, clamped with SAT, and a potential that reaches the
threshold takes the reset values and puts one fire token on T0; kind 1 restores the neuron, and kind 2 puts its record on T1. -/
def EventDeliveries : Prop :=
  ∀ (s : State) (tile i : Nat) (o : SlotOp) (e : Word) (j r : Nat), (s.tile tile).plane.evin = some (i, o) →
    let s0 := { s with curTile := tile, curSlot := i }
    let b := s.bank tile
    s0.slotLive = true → s0.weightHold = false →
    (b.busy = some (i, e, j) ∨ (b.busy = none ∧ j = 0 ∧ b.queue.head? = some e ∧ evStamp e ≤ b.h.toNat)) →
    let w := s.synapse tile (evGroup e) j
    let m := if evKind e = 0 then (evNeuron e + w / 2 ^ 16 % 2 ^ 12) % 4096 else evNeuron e
    m < (s.tile tile).plane.neurons → s.bring tile (evStamp e) (s.neuron tile m) = some r → s0.canPay 200 = true →
    let th := s.threshold tile (r / 2 ^ 24 % 16)
    let sum := toSigned 24 (r % 2 ^ 24) + toSigned 16 (w % 2 ^ 16)
    let v := max (-2 ^ 23) (min sum (2 ^ 23 - 1))
    let kept := r / 2 ^ 24 % 256 * 2 ^ 24 + r / 2 ^ 40 % 2 ^ 24 * 2 ^ 40
    let refractory : Prop := r / 2 ^ 32 % 256 ≠ 0
    let fires : Prop := ¬ refractory ∧ toSigned 24 th ≤ v
    let q := if j = 0 then b.queue.drop 1 else b.queue
    let goesOn (u : State) (more : Bool) : State :=
      u.setBank tile { u.bank tile with queue := q, busy := if more then some (i, e, j + 1) else none }
    let more := !w.testBit 31 && decide (j < 127)
    (evKind e = 0 → refractory →
      exec (.eventDelivery tile) s = .next (goesOn (((s0.pay 200).setNeuron tile m r).orFlags 0) more)) ∧
    (evKind e = 0 → ¬ refractory → ¬ fires →
      exec (.eventDelivery tile) s = .next (goesOn (((s0.pay 200).setNeuron tile m ((v % 2 ^ 24).toNat + kept)).orFlags
        (if v = sum then 0 else 0x20)) more)) ∧
    (evKind e = 0 → fires → s.room tile o.t0.toNat 1 = true →
      exec (.eventDelivery tile) s = .next (goesOn ((((s0.pay 200).setNeuron tile m
        (th / 2 ^ 24 % 2 ^ 24 + kept + th / 2 ^ 48 % 256 * 2 ^ 32)).orFlags (if v = sum then 0 else 0x20)).send tile tile
          o.t0.toNat { data := BitVec.ofNat 64 (evStamp e * 2 ^ 32 + tile * 2 ^ 21 + m * 2 ^ 9), kind := .data, psn := false })
        more)) ∧
    (evKind e = 1 → exec (.eventDelivery tile) s = .next (goesOn ((s0.pay 200).setNeuron tile m
      (th / 2 ^ 24 % 2 ^ 24 + kept)) false)) ∧
    (evKind e = 2 → s.room tile o.t1.toNat 1 = true → exec (.eventDelivery tile) s = .next (goesOn
      (((s0.pay 200).setNeuron tile m r).send tile tile o.t1.toNat { data := BitVec.ofNat 64 r, kind := .data, psn := false })
      false))

/-! ### Work items and packets (R382 to R411) -/

/-- The packet's entry has been dispatched to it (R388). -/
def Begun (s : State) (p : Pkt) (i : Item) : Prop := s.item p.item = some i ∧ i.phase = .dispatched

/-- The time that a core of the command complex reads (R20). -/
def coreTime (u : State) : Nat := u.replica u.coreClock % 2 ^ 64

/-- What the packet's entry becomes: it stands at its next packet, as background work if an overrun without ABORT has come and
no launch of its own runs or is saved, or, after the last packet, it is finished, with the time of its end (R388, R401, R408). -/
def doneItem (u : State) (i : Item) : Item :=
  if i.idx + 1 < i.packets.length then
    { i with idx := i.idx + 1, phase := .admitted, met := false,
             background := i.background || (i.ovr && !i.abort && !u.hasLaunch i) }
  else { i with idx := i.idx + 1, phase := .finished, endTime := coreTime u }

/-- The packet's entry goes on to its next packet, which waits for its dispatch, or, after the last one, to its record; the core
that reads the time of its end is held until every replica has counted to it (R20, R21, R388, R401). -/
def GoesOn (u t : State) (k : Nat) (i : Item) : Prop :=
  t.item k = some (doneItem u i) ∧ t.now = (if i.idx + 1 < i.packets.length then u.now else u.now + 2) ∧
  (∀ x, x ≠ k → t.item x = u.item x) ∧ { t with items := u.items, now := u.now } = u

/-- The packet's entry waits for its packet, which has begun. -/
def Waits (u t : State) (k : Nat) (i : Item) : Prop :=
  t.item k = some { i with phase := .running } ∧ (∀ x, x ≠ k → t.item x = u.item x) ∧ { t with items := u.items } = u

/-- The packet's entry stops with STATE 2 and its first cause, and gets its record (R388, R401). -/
def Fails (u t : State) (k : Nat) (i : Item) (c : Cause) : Prop :=
  t.item k = some { i with phase := .finished, state := 2, cause := if i.cause.isSome then i.cause else some c,
                           endTime := coreTime u } ∧
  (∀ x, x ≠ k → t.item x = u.item x) ∧ t.now = u.now + 2 ∧ { t with items := u.items, now := u.now } = u

/-- A record of the command complex, which stops nothing (R426, R430). -/
def ComplexRecords (s t : State) (c : Cause) (i : Item) : Prop :=
  ∃ r, t.records = s.records ++ [r] ∧ r.cause = c ∧ r.origin = .complex ∧ r.stop = false ∧
    r.ctx = some (s.queue i.queue).ctx ∧ r.pos = i.queue + i.seqNo % 2 ^ 32 * 2 ^ 12

/-- The launch that a RETIRE or BIND names: one of its queue's context that is not retired, with its LTAG (R392). -/
def Names (s : State) (g : Queue) (tag k : Nat) (l : Launch) : Prop :=
  s.findLaunch g.ctx tag = some (k, l) ∧ s.launch k = some l

/-- Semaphore `n` holds `v`, every WAIT_GE that waits on it at or below `v` has seen it, the change is a cause of work for each
one that watches it, and nothing else has changed but the time (R381, R390, R391). -/
def SemSet (s u : State) (n : Nat) (v : Word) : Prop :=
  u.sem n = v ∧ (∀ x, x ≠ n → u.sem x = s.sem x) ∧ (∀ x, s.item x = none → u.item x = none) ∧
  (∀ x j, s.item x = some j → j.waits = none → u.item x = some j) ∧
  (∀ x j m w, s.item x = some j → j.waits = some (m, w) →
    u.item x = some (if m = n ∧ w ≤ v.toNat then { j with met := true } else j)) ∧
  (∀ x j w, s.item x = some j → j.waits = some (n, w) →
    Event.semaphore x ∈ u.events ∨ ∃ c, c ∈ u.cores ∧ c.2 = Event.semaphore x) ∧
  { u with sems := s.sems, items := s.items, events := s.events, now := s.now } = s

/-- R389 to R391, R398: NOP does nothing; SIGNAL sets or adds to a semaphore that its context owns, and to no other (R390; that it
then completes without a fault is the model's choice, log 42); INTERRUPT sends its vector. Each then goes on, SIGNAL once every replica of the timebase has counted to its tick (R20, R455). -/
def SignalAndInterruptPackets : Prop :=
  ∀ (s : State) (p : Pkt) (i : Item), Begun s p i →
    let n := p.field 0 13
    let v : Word := BitVec.ofNat 64 (p.field 32 64)
    (∃ t, exec (.nop p) s = .next t ∧ GoesOn s t p.item i) ∧
    (s.ownsSem n (s.queue i.queue).ctx = true →
      (∃ t u, exec (.signalSet p) s = .next t ∧ GoesOn u t p.item i ∧ SemSet s u n v ∧ u.now = s.now + 2) ∧
      (∃ t u, exec (.signalAdd p) s = .next t ∧ GoesOn u t p.item i ∧ SemSet s u n (s.sem n + v) ∧ u.now = s.now + 2)) ∧
    (s.ownsSem n (s.queue i.queue).ctx = false →
      (∃ t, exec (.signalSet p) s = .next t ∧ GoesOn { s with now := s.now + 2 } t p.item i) ∧
      (∃ t, exec (.signalAdd p) s = .next t ∧ GoesOn { s with now := s.now + 2 } t p.item i)) ∧
    (p.flags.getLsbD 0 = false → (s.queue i.queue).func < 17 →
      ∃ t u, exec (.interrupt p) s = .next t ∧ GoesOn s u p.item i ∧
        t = { u with sent := .msix (s.queue i.queue).func (p.field 0 11) :: s.sent })

/-- R391, R398: WAIT_GE goes on at once when the semaphore is at or above its operand, and otherwise waits until a write has
made it so; FENCE goes on once every earlier entry of its queue has its record, and otherwise waits. -/
def WaitingPackets : Prop :=
  (∀ (s : State) (p : Pkt) (i : Item), Begun s p i →
    let v : Word := BitVec.ofNat 64 (p.field 32 64)
    (v.toNat ≤ (s.sem (p.field 0 13)).toNat → ∃ t, exec (.waitGe p) s = .next t ∧ GoesOn s t p.item i) ∧
    ((s.sem (p.field 0 13)).toNat < v.toNat → ∃ t, exec (.waitGe p) s = .next t ∧
      t.item p.item = some { i with phase := .running, met := false } ∧ (∀ x, x ≠ p.item → t.item x = s.item x) ∧
      { t with items := s.items } = s)) ∧
  (∀ (s : State) (k : Nat) (i : Item), s.item k = some i → i.waits.isSome = true → i.met = true →
    ∃ t, exec (.waitGeComplete k) s = .next t ∧ GoesOn s t k i) ∧
  (∀ (s : State) (p : Pkt) (i : Item), s.item p.item = some i → i.phase = .dispatched ∨ i.phase = .running →
    let before : Prop := ∀ x, x ∈ s.items → x.1 < p.item → x.2.queue = i.queue → x.2.phase = .recorded
    (before → ∃ t, exec (.fencePacket p) s = .next t ∧ GoesOn s t p.item i) ∧
    (¬ before → ∃ t, exec (.fencePacket p) s = .next t ∧ Waits s t p.item i))

/-- R389, R398: WRITE stores its data at ascending addresses and TIMESTAMP the timebase of the core that runs it, and each then goes on; a
write that a check forbids fails the entry with its cause. One unit that reaches the package's memory changes its bytes alone. -/
def WritingPackets : Prop :=
  (∀ (s : State) (p : Pkt) (i : Item), Begun s p i →
    let a : Word := BitVec.ofNat 64 (p.field 0 64)
    let out := if p.field 0 64 / 2 ^ 60 % 16 = 5 then s.writeUnits (s.queue i.queue).ctx 8 a (dwordPairs (p.body.drop 2))
      else s.writeUnits (s.queue i.queue).ctx 4 a ((p.body.drop 2).map BitVec.toNat)
    (∀ u, out = .done u → u.item p.item = some i → ∃ t, exec (.write p) s = .next t ∧ GoesOn u t p.item i) ∧
    (∀ u c, out = .bad u c → u.item p.item = some i → ∃ t, exec (.write p) s = .next t ∧ Fails u t p.item i c)) ∧
  (∀ (s : State) (ctx n v : Nat) (a : Word) (l : Nat), Memory.wf s.mem = true →
    (s.check { ctx := some ctx } 0 [] .write a n).1 = .ok (.mem l) →
    ∃ u, s.writeUnit ctx a n v = .done u ∧ leNat (memBytes u.mem l n) = v % 256 ^ n ∧
      (∀ x, x < l ∨ l + n ≤ x → memRead u.mem x = memRead s.mem x) ∧ { u with mem := s.mem, poison := s.poison } = s) ∧
  (∀ (s : State) (ctx n v : Nat) (a : Word) (r : List Nat) (u : State), s.writeUnit ctx a n v = .done u →
    s.writeUnits ctx n a (v :: r) = u.writeUnits ctx n (a + BitVec.ofNat 64 n) r) ∧
  (∀ (s : State) (p : Pkt) (i : Item) (l : Nat), Begun s p i → Memory.wf s.mem = true →
    (s.hold.check { ctx := some (s.queue i.queue).ctx } 0 [] .write (BitVec.ofNat 64 (p.field 0 64)) 8).1 = .ok (.mem l) →
    ∃ t u, exec (.timestamp p) s = .next t ∧ GoesOn u t p.item i ∧
      leNat (memBytes u.mem l 8) = coreTime s ∧
      (∀ x, x < l ∨ l + 8 ≤ x → memRead u.mem x = memRead s.mem x) ∧
      { u with mem := s.mem, poison := s.poison, now := s.now } = s)

/-- R396, R344: COPY with a good descriptor starts a copy for its entry, which waits for it; a descriptor that R344 forbids
is recorded and fails the entry. That the complex records it is the model's choice (log 39). -/
def CopyPacketStarts : Prop :=
  ∀ (s : State) (p : Pkt) (i : Item), Begun s p i →
    (∀ v, s.copyPlan (s.queue i.queue).ctx p.v = .ok v →
      ∃ t k j, exec (.copyPacket p) s = .next t ∧ tabFind s.copies k = none ∧ t.copyJob k = some j ∧
        j.item = some p.item ∧ j.launch = none ∧ j.post = none ∧ j.done = 0 ∧ j.srca.toNat = fieldOf p.v 0 64 ∧
        j.dsta.toNat = fieldOf p.v 64 64 ∧ j.len = fieldOf p.v 128 32 ∧ j.ctx = (s.queue i.queue).ctx ∧
        (∀ y, y ≠ k → t.copyJob y = s.copyJob y) ∧ t.item p.item = some { i with phase := .running } ∧
        (∀ x, x ≠ p.item → t.item x = s.item x) ∧ { t with items := s.items, copies := s.copies } = s) ∧
    (∀ a, s.copyPlan (s.queue i.queue).ctx p.v = .bad .memCopyDesc a →
      ∃ t u, exec (.copyPacket p) s = .next t ∧ ComplexRecords s u .memCopyDesc i ∧ u.items = s.items ∧
        Fails u t p.item i .memCopyDesc)

/-- R392, R395: BIND, and a BIND that has waited, binds its specification for its entry once its launch runs and the port
context is Free; it waits for a launch that has not started, and fails with SCH_NO_LAUNCH without one, with a record
of the complex (the model's choice, log 39). -/
def BindPackets : Prop :=
  ∀ (s : State) (p : Pkt) (i : Item) (x : Instr),
    (x = .bind p ∧ Begun s p i) ∨ (x = .deferredBind p.item ∧ s.item p.item = some i ∧ i.phase = .running ∧
      i.packets[i.idx]? = some (.bind p) ∧ s.streamOf p.item = false) →
    let g := s.queue i.queue
    let b := p.field 0 64
    let pc := 512 * fieldOf b 9 2 + fieldOf b 0 9
    let ch : BitVec 6 := BitVec.ofNat 6 (fieldOf b 11 6)
    let s0 := if i.phase = .dispatched then s.setItem p.item { i with phase := .running } else s
    (s.findLaunch g.ctx (fieldOf b 18 15) = none → x = .bind p →
      ∃ t u, exec x s = .next t ∧ ComplexRecords s u .schNoLaunch i ∧
        Fails u t p.item { i with phase := .running } .schNoLaunch) ∧
    (∀ k l, Names s g (fieldOf b 18 15) k l → l.phase = .waiting ∨ l.phase = .loading → l.endCause = none →
      exec x s = .next s0) ∧
    (∀ k l u, Names s g (fieldOf b 18 15) k l → l.phase = .running → l.endCause = none →
      (b.testBit 17 = true → ch.toNat < l.nch) → (s.pctx pc).st = .free →
      s0.bindStream k pc (BitVec.ofNat 512 (p.field 64 512)) false true
        (if b.testBit 17 then some (ch, entryGen (s.handler l.seqn ch.toNat)) else none) (some p.item) = .ok u →
      exec x s = .next u ∧ (u.pctx pc).st = .running ∧ (u.pctx pc).item = some p.item ∧ (u.pctx pc).launch = some k)

/-- R294, R393, R440: LAUNCH places its dispatched launch: its blocks and tiles are the launch's, its sequencer is reset with
the launch's context, region, barrier and channel counts, and LOST of its context's fault ring is clear (R299); a save area that cannot be written fails it with SCH_SAVE_FAULT. -/
def LaunchPacketPlaces : Prop :=
  ∀ (s : State) (p : Pkt) (i : Item) (k : Nat) (l : Launch), Begun s p i → i.launch = some k → s.launch k = some l →
    l.phase = .loading →
    (s.saveAreaOk l = true → s.blocksFree l = true →
      ∃ t, exec (.launch p) s = .next t ∧ t.item p.item = some { i with phase := .running } ∧
        (t.seq l.seqn).launch = some k ∧ (t.seq l.seqn).ctxid = BitVec.ofNat 12 l.ctx ∧
        (t.seq l.seqn).nb = BitVec.ofNat 7 l.nb ∧ (t.seq l.seqn).nch = BitVec.ofNat 7 l.nch ∧
        (t.seq l.seqn).running = false ∧ (t.seq l.seqn).sr = 0 ∧ (t.seq l.seqn).drops = 0 ∧
        (∀ x, x ∈ l.tiles → (t.tile x).launch = some k) ∧ (t.ring l.ctx).lost = false ∧
        (∃ v, t.launch k = some v ∧ { v with recMode := l.recMode, recRing := l.recRing, recSession := l.recSession } = l)) ∧
    (s.saveAreaOk l = false →
      ∃ t r, exec (.launch p) s = .next t ∧ t.records = s.records ++ [r] ∧ r.cause = .schSaveFault ∧ r.stop = false ∧
        (∃ v, t.launch k = some v ∧ v.phase = .retired) ∧
        (l.item = p.item → ∃ j, t.item p.item = some j ∧ j.phase = .finished ∧ j.state = 2))

/-- R342, R397: RETIRE, with CANCEL or without, waits until its launch has drained and then releases it: the launch is retired,
its sequencer, tiles and blocks are free, and the entry goes on; an overrun or a miss of the launch's entry comes first (the model's
choice, log 46), and so does the end of a launch that is being cancelled. RETIRE with CANCEL cancels the launch's engines first. An LTAG
that names no launch fails the entry with SCH_NO_LAUNCH; that the complex also records it is the model's choice (log 39). -/
def RetirePackets : Prop :=
  ∀ (s : State) (p : Pkt) (i : Item) (x : Instr), x = .retire p ∨ x = .retireCancel p → s.item p.item = some i →
    i.phase = .dispatched ∨ i.phase = .running →
    let g := s.queue i.queue
    (s.findLaunch g.ctx (p.field 0 15) = none → ∃ t u, exec x s = .next t ∧ ComplexRecords s u .schNoLaunch i ∧
      u.items = s.items ∧ Fails u t p.item i .schNoLaunch) ∧
    (∀ k l, Names s g (p.field 0 15) k l → l.phase = .running → l.endCause.isSome = true → exec x s = .next s) ∧
    (∀ k l, Names s g (p.field 0 15) k l → l.phase = .running → l.endCause = none → l.frozen = false →
      (x = .retireCancel p → i.phase = .running) →
      let s1 := s.setItem p.item { i with phase := .running }
      (s1.retirable k l = true → (∀ o, s1.item l.item = some o → s1.actionDue o = false) → l.saved = none →
        (∀ c, c ∈ s.pctxs → c.2.item ≠ some p.item) → s.placed l = true →
        ∃ t, exec x s = .next t ∧ (∃ v, t.launch k = some v ∧ v.phase = .retired ∧ v.endCause = none) ∧
          t.seq l.seqn = Seq.reset ∧ (∀ y, l.covers y = true → t.tile y = Tile.reset) ∧
          (∀ b, b ∈ l.blocks → tabGet (t.island (b / 16)).own (b % 16) 0 = 0) ∧
          (∃ j, t.item p.item = some j ∧ j.idx = i.idx + 1 ∧ j.state = i.state ∧ j.cause = i.cause ∧
            j.phase = if i.idx + 1 < i.packets.length then .admitted else .finished) ∧ t.mem = s.mem) ∧
      (s1.retirable k l = false → exec x s = .next s1)) ∧
    (∀ k l, Names s g (p.field 0 15) k l → l.phase = .running → l.endCause = none → i.phase = .dispatched → x = .retireCancel p →
      ∃ u, u = (s.setItem p.item { i with phase := .running }).cancelWork k ∧
        (∀ v, u.launch k = some v → u.retirable k v = false → exec x s = .next u))

/-- R34, R42, R399: INVALIDATE writes the context's 32-byte entry in main memory with SETCTX and waits; while an access of a
sequencer that has used an entry in its scope is under way to the host it waits on; then every copy of the translations in its
scope is discarded from every micro-TLB, edge TLB and port context, a saved one's too, and it goes on. -/
def InvalidatePackets : Prop :=
  (∀ (s : State) (p : Pkt) (i : Item), Begun s p i →
    ∃ t u, exec (.invalidate p) s = .next t ∧ Waits u t p.item i ∧ u.items = s.items ∧
      (p.flags.getLsbD 2 = false → u = s) ∧
      (p.flags.getLsbD 2 = true → Memory.wf s.mem = true →
        let l := s.ctxBase + 32 * p.field 0 12
        leNat (memBytes u.mem l 32) = p.field 160 256 ∧ (∀ x, x < l ∨ l + 32 ≤ x → memRead u.mem x = memRead s.mem x) ∧
        { u with mem := s.mem, poison := s.poison } = s)) ∧
  (∀ (s : State) (p : Pkt) (i : Item) (k : Nat), s.item k = some i → i.phase = .running →
    i.packets[i.idx]? = some (.invalidate p) →
    let under : Prop := ∃ q w, q ∈ s.seqs ∧ q.2.waiting = some w ∧ pathOf w.addr = 7 ∧ w.tag = none ∧
      (p.flags.toNat % 4 = 2 ∨ q.2.ctxid.toNat = p.field 0 12)
    (under → exec (.invalidateComplete k) s = .next s) ∧
    (¬ under → ∃ t, exec (.invalidateComplete k) s = .next t ∧
      (∀ e, (∃ x, x ∈ t.edgeTlb ∧ e ∈ x.2) ∨ (∃ x, x ∈ t.pctxs ∧ e ∈ x.2.tlb) ∨ (∃ x, x ∈ t.seqs ∧ e ∈ x.2.utlb) ∨
          (∃ x v y, x ∈ t.launches ∧ x.2.saved = some v ∧ y ∈ v.pctxs ∧ e ∈ y.2.tlb) →
        p.scope e = false) ∧
      t.item k = some (doneItem s i) ∧ t.mem = s.mem))

/-! ### Queues, admission, dispatch and records (R382 to R411) -/

/-- The queues but `q` are as before, and `q` is `g`. -/
def QueueIs (s t : State) (q : Nat) (g : Queue) : Prop := t.queue q = g ∧ ∀ x, x ≠ q → t.queue x = s.queue x

/-- The entries but `k` are as before, and `k` is `i`. -/
def ItemIs (s t : State) (k : Nat) (i : Item) : Prop := t.item k = some i ∧ ∀ x, x ≠ k → t.item x = s.item x

/-- R384, R385: a kick that its queue does not honour changes nothing; one past the ring stops the queue with one record
SCH_QUEUE_OVERRUN; one that brings no whole entry moves the write index; one that brings one entry reads it with the next
sequence number, from its header's fields, and moves the read index past it. -/
def KickResults : Prop :=
  ∀ (s : State) (q : Nat) (value : Word),
    let g := s.queue q
    let w : BitVec 32 := BitVec.ofNat 32 value.toNat
    let size := 2 ^ g.rlog2 / 4
    let fits : Prop := (w - g.ridx).toNat ≤ size ∧ (w - g.w).toNat ≤ (g.ridx + BitVec.ofNat 32 size - g.w).toNat
    let honours : Prop := g.v = true ∧ g.rbusy = false ∧ g.stop = false ∧ fieldOf value.toNat 32 16 = g.gen.toNat
    (¬ honours → exec (.kick q value) s = .next s) ∧
    (honours → ¬ fits → ∃ t r, exec (.kick q value) s = .next t ∧ QueueIs s t q { g with stop := true } ∧
      t.records = s.records ++ [r] ∧ r.cause = .schQueueOverrun ∧ r.origin = .complex ∧ r.ctx = some g.ctx ∧ r.stop = false ∧
      r.pos = q + g.seqNo % 2 ^ 32 * 2 ^ 12 ∧ { t with queues := s.queues, records := s.records, rings := s.rings } = s) ∧
    (honours → fits → (w - g.ridx).toNat < 8 → ∃ t, exec (.kick q value) s = .next t ∧ QueueIs s t q { g with w := w } ∧
      { t with queues := s.queues } = s) ∧
    (∀ ds body, honours → fits → w ≠ g.w → 8 ≤ (w - g.ridx).toNat →
      let g1 := { g with w := w }
      let s1 := s.setQueue q g1
      s1.readRing g1 g.ridx 8 = .ok ds →
      let h := leNat (ds.flatMap (fun d => leBytes 4 d.toNat))
      s1.readPackets g1 (g.ridx + 8) ((w - g.ridx).toNat - 8) (fieldOf h 176 8) = .ok (some body) →
      w = g.ridx + 8 + BitVec.ofNat 32 body.length →
      ∃ t k i, exec (.kick q value) s = .next t ∧ s.item k = none ∧ ItemIs s t k i ∧ i.queue = q ∧ i.turn = s.kick ∧ i.seqNo = g.seqNo ∧
        i.deadline = fieldOf h 0 64 ∧ i.budget = fieldOf h 64 64 ∧ i.iter = fieldOf h 128 32 ∧ i.pclass = fieldOf h 160 4 ∧
        i.lw = fieldOf h 164 3 ∧ i.lh = fieldOf h 167 3 ∧ i.whole = h.testBit 170 ∧ i.abort = h.testBit 171 ∧
        i.background = decide (fieldOf h 0 64 = 2 ^ 64 - 1) ∧ i.phase = .pending ∧ i.idx = 0 ∧ i.launch = none ∧
        QueueIs s t q { g with w := w, ridx := w, seqNo := g.seqNo + 1 } ∧
        { t with queues := s.queues, items := s.items } = s)

/-- R385: a fault in reading the ring stops the queue with one record of its cause; before it, an uncorrectable error of a granule
leaves the record of the island that holds it (R32). -/
def KickReadFaults : Prop :=
  ∀ (s : State) (q : Nat) (g : Queue) (fuel : Nat) (c : Cause) (a : Word), s.queue q = g → 8 ≤ (g.w - g.ridx).toNat →
    s.readRing g g.ridx 8 = .error (c, a) →
    ∃ pre r, let t := s.readEntries q (fuel + 1)
      QueueIs s t q { g with stop := true } ∧ t.records = s.records ++ pre ++ [r] ∧
      (pre = [] ∨ ∃ e, pre = [e] ∧ c = .memDataError ∧ e.cause = c ∧ e.origin = .island ∧ e.ctx = some g.ctx ∧ e.stop = false ∧ e.addr = a) ∧
      (∀ l x, (s.check { ctx := some g.ctx } 0 [] .read a 4).1 = .ok (.mem l) → x < 4 → s.granulePoison (l + x) = true → pre ≠ []) ∧
      r.cause = c ∧ r.addr = addrOf c a ∧ r.origin = .complex ∧
      r.ctx = some g.ctx ∧ r.stop = false ∧ r.pos = q + g.seqNo % 2 ^ 32 * 2 ^ 12 ∧ t.items = s.items

/-- R382, R404, R405, R406: the oldest entry that waits for admission, in the order in which the complex took the kicks, waits while
a core holds an earlier kick, and then is admitted when no check fails, with a launch of its
own when it holds a LAUNCH packet, and is otherwise rejected with its code and STATE 1; no other entry is touched. -/
def AdmissionResults : Prop :=
  ∀ (s : State) (k : Nat) (i : Item), s.oldestPending = some (k, i) →
    (i.phase = .pending ∧ ∀ x, x ∈ s.items → x.2.phase = .pending → i.turn ≤ x.2.turn) ∧
    ((∃ c q v n, c ∈ s.cores ∧ c.2 = .kick q v n ∧ n < i.turn) → exec (.entryAdmission i.queue) s = .next s) ∧
    ((∀ c q v n, c ∈ s.cores → c.2 = .kick q v n → i.turn ≤ n) →
    let g := s.queue i.queue
    let l := i.launchPkt.map (fun p => newLaunch k i g.ctx p.v ((s.declaredBlocks g.ctx p.v).getD []))
    let bound := s.entryBound i g.ctx
    let code := s.admitCode i l bound
    (code ≠ 0 → ∃ t, exec (.entryAdmission i.queue) s = .next t ∧
      ItemIs s t k { i with phase := .finished, rcode := code, state := 1, endTime := coreTime s } ∧ t.now = s.now + 2 ∧
      { t with items := s.items, now := s.now } = s) ∧
    (code = 0 → i.launchPkt = none → ∃ t, exec (.entryAdmission i.queue) s = .next t ∧
      ItemIs s t k { i with phase := .admitted, bound := bound } ∧ { t with items := s.items } = s) ∧
    (∀ p, code = 0 → i.launchPkt = some p → ∃ t n v, exec (.entryAdmission i.queue) s = .next t ∧ s.launch n = none ∧
      ItemIs s t k { i with phase := .admitted, bound := bound, launch := some n } ∧ t.launch n = some v ∧
      (∀ x, x ≠ n → t.launch x = s.launch x) ∧ v.phase = .waiting ∧ v.item = k ∧ v.ctx = g.ctx ∧
      v.image.toNat = fieldOf p.v 0 64 ∧ v.savea.toNat = fieldOf p.v 64 64 ∧ v.seed.toNat = fieldOf p.v 192 32 ∧
      v.x0 = fieldOf p.v 224 5 ∧ v.y0 = fieldOf p.v 229 6 ∧ v.nb = fieldOf p.v 236 7 ∧ v.nch = fieldOf p.v 243 7 ∧
      v.pg = fieldOf p.v 250 11 ∧ v.ltag = fieldOf p.v 273 15 ∧ v.iter = i.iter ∧ v.pclass = i.pclass ∧
      { t with items := s.items, launches := s.launches } = s))

/-- R405, R406, R410: what the admission code is: the least failing check of structure and resources, then a full admitted set,
then the density, power and pre-emption tests in that order; a background entry takes the power test alone. What has missed
its deadline is not in the admitted set, a context without an entry is rejected with 0x19, and a WRITE or TIMESTAMP to a
disabled island or sequencer with 0x0E (R25). -/
def AdmissionCodes : Prop :=
  ∀ (s : State) (i : Item) (l : Option Launch) (bound : Nat),
    let own := l.map (fun x => (x.pclass, x.area))
    let set := (s.items.filter (fun j => s.inS j.2)).map (fun j => j.2)
    let ts := set.map (fun j => s.taskOf j ((j.launch.bind s.launch).filter (fun l => l.phase != .retired)))
    let me := { s.taskOf i l with p := bound }
    (∀ c, i.shapeCode = some c → s.admitCode i l bound = c) ∧
    (i.shapeCode = none → ∀ c, c ∈ s.entryCodes i → c < 0xFF →
      s.admitCode i l bound ≤ c ∧ s.admitCode i l bound ∈ s.entryCodes i) ∧
    (i.shapeCode = none → s.entryCodes i = [] →
      (i.background = true → s.admitCode i l bound = if s.powerBad own then 7 else 0) ∧
      (i.background = false → 1024 ≤ set.length → s.admitCode i l bound = 0x1A) ∧
      (i.background = false → set.length < 1024 →
        s.admitCode i l bound = if s.denseBad (ts ++ [me]) then 6 else if s.powerBad own then 7
          else if s.slackBad me ts then 8 else 0)) ∧
    (i.background = false → i.deadline ≤ s.now → 9 ∈ s.entryCodes i) ∧
    ((s.queue i.queue).rbusy = true → 0x18 ∈ s.entryCodes i) ∧
    (memNat s.mem (s.ctxBase + 32 * ((s.queue i.queue).ctx % 4096)) 8 % 2 = 0 → 0x19 ∈ s.entryCodes i) ∧
    (∀ p, (1, p) ∈ i.pkts ∨ (10, p) ∈ i.pkts → p.field 60 4 = 1 → s.part.islandOk (p.field 50 8) = false → 0x0E ∈ s.entryCodes i) ∧
    (∀ p, (1, p) ∈ i.pkts ∨ (10, p) ∈ i.pkts → p.field 60 4 = 4 → s.part.seqOk (p.field 18 5) = false → 0x0E ∈ s.entryCodes i) ∧
    (∀ j, j ∈ set → j.background = false ∧ s.now < j.deadline)

/-- R388, R407: an entry is dispatched to its next packet once every earlier entry of its queue has begun; one whose next
packet is its LAUNCH is given its region and its sequencer with it, and waits while it has none. A first packet and a LAUNCH
wait for each one that comes before in dispatch order and could begin. An overrun of its budget or a deadline that has passed is
dealt with first (R408, R409; log 46), and so is a reset of its queue that a linked pair has put off (R400; the model's choice,
log 42). -/
def DispatchResults : Prop :=
  ∀ (s : State) (k : Nat) (i : Item), s.item k = some i → i.phase = .admitted →
    let behind : Prop := (i.started = false ∨ i.atLaunch = true) ∧
      ∃ x, x ∈ s.items ∧ x.2.before i = true ∧ (x.2.started = false ∨ x.2.atLaunch = true) ∧ s.startable x.1 x.2 = true
    let due : Prop := (s.queue i.queue).putOff = true ∧ ∀ x, x ∈ s.items → x.2.queue = i.queue → x.2.inPair = false
    let first : Prop := s.actionDue i = false ∧ ¬ due ∧ ¬ behind ∧ (i.started = true ∨ ∀ x, x ∈ s.items → x.1 < k → x.2.queue = i.queue →
      x.2.started = false → x.2.phase ≠ .pending ∧ x.2.phase ≠ .admitted)
    let j := { i with phase := .dispatched, started := true }
    (¬ first → exec (.dispatch k) s = .next s) ∧
    (first → i.atLaunch = false → ∃ t, exec (.dispatch k) s = .next t ∧ ItemIs s t k j ∧ { t with items := s.items } = s) ∧
    (∀ n l p, first → i.atLaunch = true → i.launch = some n → s.launch n = some l → l.phase = .waiting →
      s.clearPick n = some p →
      ∃ t, exec (.dispatch k) s = .next t ∧ ItemIs s t k j ∧
        t.launch n = some { l with x0 := p.x0, y0 := p.y0, seqn := p.seqn, phase := .loading } ∧
        (∀ x, x ≠ n → t.launch x = s.launch x) ∧ { t with items := s.items, launches := s.launches } = s) ∧
    (∀ n, first → i.atLaunch = true → i.launch = some n → s.clearPick n = none → exec (.dispatch k) s = .next s)

/-- R22, R407: the region that a waiting launch is given holds no disabled tile and meets the region of no launch that holds
one, its sequencer is exposed and steers no such launch, and no launch starts while WARN or SAVING holds (the
model's choice where R422 is silent, log 41). -/
def DispatchedRegionIsFree : Prop :=
  ∀ (s : State) (n : Nat) (l : Launch) (p : Pick), (s.launches.map (fun x => x.1)).Nodup → s.launch n = some l →
    l.phase = .waiting → s.clearPick n = some p →
    s.part.boxOk p.x0 p.y0 l.w l.h = true ∧ s.part.seqOk p.seqn = true ∧ s.warn = false ∧ s.saving = false ∧
    (∀ m j, s.launch m = some j → j.live = true → j.seqn ≠ p.seqn ∧
      (j.x0 + j.w ≤ p.x0 ∨ p.x0 + l.w ≤ j.x0 ∨ j.y0 + j.h ≤ p.y0 ∨ p.y0 + l.h ≤ j.y0)) ∧
    (l.place = false → p.x0 = l.x0 ∧ p.y0 = l.y0)

/-- R401, R402: a finished entry whose accesses have performed gets its record: words 1 to 3 and then word 0 at its slot of the
completion ring; a record whose write faults is lost, with one record of the cause. Until then, and until an overrun or a miss of the entry has been
dealt with (R408, R409; log 46), nothing is written. -/
def CompletionRecords : Prop :=
  ∀ (s : State) (k : Nat) (i : Item), s.item k = some i →
    let g := s.queue i.queue
    let a : Word := g.cbase + BitVec.ofNat 64 (32 * (i.seqNo % 2 ^ g.clog2))
    let w0 := i.seqNo % 2 ^ 32 + i.rcode * 2 ^ 32 + (match i.cause with | none => 0 | some c => c.code) * 2 ^ 40 + i.state * 2 ^ 49 +
      i.miss.toNat * 2 ^ 52 + i.ovr.toNat * 2 ^ 53
    let rest := [i.endTime, s.regCharge i + i.moreReg, i.cheng + i.moreEng]
    let s1 := s.setItem k { i with phase := .recorded, saidReg := s.regCharge i, saidEng := i.cheng, saidMiss := i.miss,
                                   saidOvr := i.ovr }
    let ready : Prop := i.phase = .finished ∧ (∀ j, j ∈ s.copies → j.2.item ≠ some k) ∧ s.streamOf k = false ∧
      s.actionDue i = false
    (¬ ready → exec (.completionRecord k) s = .next s) ∧
    (∀ u v, ready → s1.writeWords g.ctx (a + 8) rest = .ok u → u.writeWords g.ctx a [w0] = .ok v →
      exec (.completionRecord k) s = .next v) ∧
    (∀ c, ready → s1.writeWords g.ctx (a + 8) rest = .error c →
      ∃ t r, exec (.completionRecord k) s = .next t ∧ t.records = s.records ++ [r] ∧ r.cause = c ∧ r.addr = addrOf c a ∧
        r.origin = .complex ∧ r.ctx = some g.ctx ∧ r.stop = false ∧ r.pos = i.queue + i.seqNo % 2 ^ 32 * 2 ^ 12 ∧
        t.mem = s.mem ∧ (∃ j, t.item k = some j ∧ j.phase = .recorded))

/-- R401, R427, R429: words that the command complex writes stand at their addresses, 8 bytes each, and change nothing else. -/
def RingWords : Prop :=
  ∀ (s : State) (ctx w l : Nat) (a : Word) (r : List Nat), Memory.wf s.mem = true →
    (s.check { ctx := some ctx } 0 [] .write a 8).1 = .ok (.mem l) →
    ∃ u : State, s.writeWords ctx a (w :: r) = u.writeWords ctx (a + 8) r ∧ leNat (memBytes u.mem l 8) = w % 2 ^ 64 ∧
      (∀ x, x < l ∨ l + 8 ≤ x → memRead u.mem x = memRead s.mem x) ∧ { u with mem := s.mem, poison := s.poison } = s

/-- R408: an entry whose charges exceed its budget for the first time is recorded with SCH_BUDGET_OVERRUN. Without ABORT the
pre-emption of its launch is asked for, whose resumption makes it background work, and an entry that stands at a packet
boundary without such a launch is background work at once; with ABORT, an entry without a launch or an engine at work is
aborted with STATE 3. An entry within its budget is left alone. -/
def BudgetOverruns : Prop :=
  ∀ (s : State) (k : Nat) (i : Item), s.item k = some i → i.ovr = false → i.phase ≠ .pending →
    let charge := s.regCharge i + i.cheng
    (charge ≤ i.budget → exec (.budgetOverrun k) s = .next s) ∧
    (i.budget < charge → i.abort = false → ∃ t u, exec (.budgetOverrun k) s = .next t ∧
      ComplexRecords s u .schBudgetOverrun i ∧ { u with records := s.records, rings := s.rings } = s ∧
      ItemIs u t k { i with ovr := true, background := i.background || (i.phase == .admitted && !s.hasLaunch i) } ∧
      (∀ n l, i.launch = some n → s.launch n = some l → l.phase = .running ∨ l.phase = .loading →
        t.launch n = some { l with asked := true }) ∧
      { t with items := u.items, launches := u.launches } = u) ∧
    (i.budget < charge → i.abort = true → i.launch = none → i.inPair = false → i.phase ≠ .finished → i.phase ≠ .recorded →
      (∀ j, j ∈ s.copies → j.2.item ≠ some k) → (∀ c, c ∈ s.pctxs → c.2.item ≠ some k) →
      ∃ t u, exec (.budgetOverrun k) s = .next t ∧ ComplexRecords s u .schBudgetOverrun i ∧
        ItemIs u t k { i with ovr := true, phase := .finished, state := 3, endTime := coreTime s,
                              cause := if i.cause.isSome then i.cause else some .schBudgetOverrun } ∧
        t.now = s.now + 2 ∧ { t with items := u.items, now := u.now } = u)

/-- R404, R409: admitted deadline work, an entry that has not completed or a launch that has not retired, whose deadline the
timebase reaches leaves S, is recorded with SCH_DEADLINE_MISS, and is background work from then on, and so is an entry that
finished at its deadline or after; before its deadline nothing happens to it, nor to one that finished before it. -/
def DeadlineMisses : Prop :=
  ∀ (s : State) (k : Nat) (i : Item), s.item k = some i →
    let work : Prop := i.background = false ∧ (i.phase = .admitted ∨ i.phase = .dispatched ∨ i.phase = .running ∨
      ∃ n l, i.launch = some n ∧ s.launch n = some l ∧ l.phase ≠ .retired)
    let late : Prop := i.background = false ∧ i.phase = .finished ∧ i.rcode = 0 ∧ i.deadline ≤ i.endTime
    (s.inS i = true ↔ work ∧ s.now < i.deadline) ∧
    (work ∨ late → i.deadline ≤ s.now → ∃ t u, exec (.deadlineMiss k) s = .next t ∧
      ComplexRecords s u .schDeadlineMiss i ∧ { u with records := s.records, rings := s.rings } = s ∧
      ItemIs u t k { i with miss := true, background := true } ∧ { t with items := u.items } = u) ∧
    (s.now < i.deadline ∨ (¬ work ∧ i.endTime < i.deadline) → exec (.deadlineMiss k) s = .next s)

/-- R383, R411, R470: a reset that nothing asks for changes nothing; one of a queue without work empties the queue, which takes
its table entry, disabled when the entry holds poison (the model's choice, log 42), and is free to be kicked; entries that wait
are discarded without a record, and messages of the queue's work that have reached no channel with them; a linked pair puts the
reset off (R400); a function-level reset asks for the
reset of every queue of its function, and of no other, each a cause of work (R381). -/
def QueueResets : Prop :=
  (∀ (s : State) (q : Nat), (s.queue q).rbusy = false → exec (.queueReset q) s = .next s) ∧
  (∀ (s : State) (q : Nat), (s.queue q).rbusy = true → (∀ x, x ∈ s.items → x.2.queue = q → x.2.inPair = false) →
    (∀ x, x ∈ s.copies → x.2.item = none) → (∀ x, x ∈ s.pctxs → x.2.item = none) →
    (∀ x, x ∈ s.launches → x.2.phase = .retired ∧ x.2.saved = none) →
    let l := fieldOf s.ctl.qtbase.toNat 18 21 * 2 ^ 18 + 64 * q
    let e := memNat s.mem l 64
    ∃ t g, exec (.queueReset q) s = .next t ∧ t.queue q = g ∧ (∀ x, x ≠ q → t.queue x = s.queue x) ∧
      (g.v = true ↔ e.testBit 90 = true ∧ 12 ≤ fieldOf e 64 5 ∧ fieldOf e 64 5 ≤ 24 ∧ 4 ≤ fieldOf e 192 5 ∧
        fieldOf e 192 5 ≤ 16 ∧ s.dataError l 64 = none) ∧
      g.rbase.toNat = fieldOf e 0 64 ∧ g.rlog2 = fieldOf e 64 5 ∧ g.ctx = fieldOf e 72 12 ∧ g.func = fieldOf e 84 5 ∧
      g.priv = e.testBit 89 ∧ g.gen.toNat = fieldOf e 96 16 ∧ g.cbase.toNat = fieldOf e 128 64 ∧ g.clog2 = fieldOf e 192 5 ∧
      g.w = 0 ∧ g.ridx = 0 ∧ g.seqNo = 0 ∧ g.stop = false ∧ g.rbusy = false ∧
      (∀ k i, s.item k = some i → t.item k = some (if i.queue = q then { i with phase := .recorded } else i)) ∧
      (∀ n m, m ∈ (t.seq n).held ∨ m ∈ (t.seq n).arriving → m.work ≠ some q) ∧
      t.records = s.records ∧ t.mem = s.mem) ∧
  (∀ (s : State) (q : Nat) (x : Nat × Item), (s.queue q).rbusy = true → x ∈ s.items → x.2.queue = q → x.2.inPair = true →
    ∃ t, exec (.queueReset q) s = .next t ∧ QueueIs s t q { s.queue q with putOff := true } ∧ { t with queues := s.queues } = s) ∧
  (∀ (s : State) (f : Nat), (s.queues.map (fun x => x.1)).Nodup →
    ∃ t, exec (.functionLevelReset f) s = .next t ∧
      (∀ q, t.queue q = if tabFind s.queues q ≠ none ∧ (s.queue q).func = f + 1 ∧ (s.queue q).rbusy = false then
        { s.queue q with rbusy := true, putOff := s.items.any (fun x => x.2.queue == q && x.2.inPair) } else s.queue q) ∧
      (∃ new, t.events = s.events ++ new ∧
        ∀ q, Event.reset q ∈ new ↔ tabFind s.queues q ≠ none ∧ (s.queue q).func = f + 1 ∧ (s.queue q).rbusy = false) ∧
      { t with queues := s.queues, events := s.events } = s)

/-! ### Streams (R45 to R48, R75 to R86, R243, R343, R402) -/

/-- Port context `pc` holds a stream of running launch `k`, which is `l`, with specification `v`, waits for no peer and has not
stopped at a fault. -/
def StreamRuns (s : State) (pc k : Nat) (l : Launch) (v : Nat) : Prop :=
  (s.pctx pc).launch = some k ∧ s.launch k = some l ∧ l.runs = true ∧ (s.pctx pc).spec.toNat = v ∧
    (s.pctx pc).stopped = none ∧ (s.pctx pc).tag = none ∧ (s.pctx pc).part = []

/-- It issues elements: it runs, or stops for a pre-emption inside an outer iteration (R84, R85). -/
def Issues (s : State) (pc : Nat) : Prop :=
  (s.pctx pc).st = .running ∨
    ((s.pctx pc).st = .stopping ∧ (s.pctx pc).pos % spOuter (s.pctx pc).spec.toNat ≠ 0)

/-- A port context after `n` elements more, delivered or taken; the last element begins the drain (R82, R83, R85). -/
def advanced (v n : Nat) (bad : Bool) (q : PCtx) : PCtx :=
  { q with
    count := q.count + n, acc := if bad then q.acc ||| 0x800 else q.acc, pos := q.pos + n, outer := (q.pos + n) / spOuter v,
    recorded := false,
    st := if spIndirect v = false ∧ spTotal v ≤ q.pos + n ∧ q.st ≠ .frozen then .draining else q.st }

/-- It is the turn of port context `pc` in the round of its AGN: no other context that can issue comes after the one that was
served last and before it (R72). -/
def InTurn (s : State) (pc : Nat) : Prop :=
  let last := tabGet s.agnLast (pc / 512 * 128 + pc % 128) 3
  ∀ i, i < (pc % 512 / 128 + 3 - last) % 4 → s.agnCan (pc / 512 * 512 + (last + 1 + i) % 4 * 128 + pc % 128) = false

/-- The AGN has served port context `pc` (R72). -/
def turned (s : State) (pc : Nat) : State :=
  { s with agnLast := tabPut s.agnLast (pc / 512 * 128 + pc % 128) (pc % 512 / 128) }

/-- No recorder captures the elements of a launch's stream, and none is replayed as late (R467, R468). -/
def ReadsLive (l : Launch) (v : Nat) : Prop := l.recMode ≠ 2 ∧ (spReord v = true → l.recMode ≠ 3)

/-- A write at address `a` stays in this package: its path is not 0x6, or it names this package (R274). -/
def StaysHere (s : State) (v : Nat) (a : Int) : Prop := spPath v = 6 → s.domain = true ∧ a.toNat / 2 ^ 52 % 64 = s.pkg

/-- Every port context but `pc` is as before. -/
def OtherStreams (s t : State) (pc : Nat) : Prop := ∀ x, x ≠ pc → t.pctx x = s.pctx x

/-- Engine ticks of an operation of the launch's streams: one for each 128 bytes reached (R402). -/
def Charged (u t : State) (l : Launch) (q : PCtx) (z n : Nat) : Prop :=
  (q.charged = false → t.items = u.items) ∧
  (∀ i, q.charged = true → u.item l.item = some i →
    t.item l.item = some { i with cheng := i.cheng + ((q.count + n) * z / 128 - q.count * z / 128) }) ∧
  (∀ x, x ≠ l.item → t.item x = u.item x)

/-- Sequencer `n` has message `m` more at its source, where it waits for room (R305), and no other sequencer has changed. -/
def Holds (s t : State) (n : Nat) (m : Msg) : Prop :=
  t.seq n = { s.seq n with held := (s.seq n).held ++ [m] } ∧ ∀ x, x ≠ n → t.seq x = s.seq x

/-- Where a stream's tokens enter the fabric, and the token of a value. -/
def entryOf (pc : Nat) : Nat := entryTile (pc / 512) (agnIsland (pc % 512))
def valueToken (x : Nat) (bad : Bool) : Token := { data := BitVec.ofNat 64 x, kind := .data, psn := bad }

/-- The AGN stops for good with one record of cause `c` and address `a`, and its launch freezes (R85, R430, R431). -/
def AgnStops (s t : State) (pc k : Nat) (c : Cause) (a : Word) : Prop :=
  (∃ r, t.records = s.records ++ [r] ∧ r.cause = c ∧ r.origin = .agn ∧ r.stop = true ∧ r.addr = addrOf c a) ∧
  (t.pctx pc).st = .frozen ∧ OtherStreams s t pc ∧ (∃ v, t.launch k = some v ∧ v.frozen = true) ∧ t.mem = s.mem ∧ t.arcs = s.arcs

/-- R45, R72, R75, R77: an affine read stream whose turn it is delivers its next token, with its elements lowest first and a lone one zero- or
sign-extended, or its next wide transfer; at a translation fault it stops there, or passes the token over with the reorder flag,
with one record either way; any other fault stops the AGN for good. -/
def AffineReads : Prop :=
  ∀ (s : State) (pc k : Nat) (l : Launch) (v : Nat), StreamRuns s pc k l v → Issues s pc → s.agnRecordWaits pc = false → InTurn s pc →
    ReadsLive l v → spKind v = 0 →
    let p := s.pctx pc
    let s1 := turned s pc
    p.pos < spTotal v → s.streamRoom pc v = true → (spReord v = true → s.agnSpill pc < 64) →
    let r := s1.readElems pc (spPath v) (spSize v) l.nrx true (spPf v) (spAddr v p.pos) 0 0 false
    let held : HeldElement := { n := p.pos, addr := 0, due := s.now + 65536 }
    let poisoned : Bool := p.bitmap.any (fun b => b.2.2)
    (∀ x bad u, r = .ok x bad u → spAtt v = false →
      let y := if spPf v = 1 ∧ spSign v = true then (BitVec.ofInt 64 (toSigned (8 * spSize v) x)).toNat else x
      let w := u.send (entryOf pc) (spDtile v) (spDest v) (valueToken y bad)
      ∃ t, exec (.streamElementIssue pc) s = .next t ∧ t.pctx pc = advanced v (spPf v) bad (u.pctx pc) ∧
        OtherStreams u t pc ∧ Charged u t l (u.pctx pc) (spSize v) (spPf v) ∧ t.arcs = w.arcs ∧ t.mem = w.mem) ∧
    (∀ x bad u, r = .ok x bad u → spAtt v = true → spPf v = 1 → spSign v = false →
      let m := (u.tile (spDtile v)).matrix
      ∃ t, exec (.streamElementIssue pc) s = .next t ∧ t.pctx pc = advanced v 1 bad (u.pctx pc) ∧ OtherStreams u t pc ∧
        (t.tile (spDtile v)).matrix = (if wideInput (pc % 512) v = 1 then
            { m with northWide := m.northWide ++ [(BitVec.ofNat 1024 x, bad)] }
          else { m with wide := m.wide ++ [some (BitVec.ofNat 1024 x, bad)] }) ∧ t.arcs = u.arcs ∧ t.mem = u.mem) ∧
    (∀ c a, r = .xlt c a → p.recorded = false → spReord v = false →
      ∃ t f, exec (.streamElementIssue pc) s = .next t ∧ t.records = s.records ++ [f] ∧ f.cause = c ∧ f.origin = .agn ∧
        f.stop = true ∧ f.addr = addrOf c (BitVec.ofInt 64 a) ∧
        t.pctx pc = { p with stopped := some { held with addr := a.toNat }, recorded := true } ∧
        OtherStreams s t pc ∧ { t with records := s.records, rings := s.rings, pctxs := s.pctxs } = s1) ∧
    (∀ c a, r = .xlt c a → p.recorded = false → spReord v = true →
      ∃ t f, exec (.streamElementIssue pc) s = .next t ∧ t.records = s.records ++ [f] ∧ f.cause = c ∧ f.origin = .agn ∧
        f.stop = false ∧ f.addr = addrOf c (BitVec.ofInt 64 a) ∧
        (t.pctx pc).spill = p.spill ++ [{ held with addr := a.toNat, ord := s.agnOrd pc + 1, bad := poisoned }] ∧
        (t.pctx pc).pos = p.pos + spPf v ∧ (t.pctx pc).count = p.count ∧ OtherStreams s t pc ∧
        { t with records := s.records, rings := s.rings, pctxs := s.pctxs } = s1) ∧
    (∀ c a, r = .stop c a →
      ∃ t, exec (.streamElementIssue pc) s = .next t ∧ AgnStops s t pc k c (BitVec.ofInt 64 a))

/-- R32, R49, R75, R76: how the elements of a token are read, lowest first: an element in this package's memory gives its
bytes, poisoned when an error or a frame marks them; one whose address is out of the path of the base gives a poisoned value, and
so does one that does not translate under NRX; without NRX it is a translation fault; any other fault stops the stream. That a read of an island block at or above SCR counts as
such an address is the model's choice (log 34). -/
def ElementReads : Prop :=
  ∀ (s : State) (pc path z : Nat) (nrx loud : Bool) (left : Nat) (a : Int) (sh x : Nat) (bad : Bool),
    let r := s.readElems pc path z nrx loud (left + 1) a sh x bad
    let c := s.agnCheck pc path .read a z
    (∀ l u, c = (.ok (.mem l), u) → u.dataError l z = none →
      r = u.readElems pc path z nrx loud left (a + z) (sh + 8 * z) (x + leNat (memBytes u.mem l z) * 2 ^ sh) bad) ∧
    (∀ l u e, c = (.ok (.mem l), u) → u.dataError l z = some e →
      ∃ w : State, r = w.readElems pc path z nrx loud left (a + z) (sh + 8 * z) (x + leNat (memBytes u.mem l z) * 2 ^ sh) true ∧
        { w with records := u.records, rings := u.rings } = u) ∧
    (a < 0 ∨ a / 2 ^ 60 ≠ (path : Int) → c.1 = .bad .memNoncanonical) ∧
    (c.1 = .bad .memNoncanonical → ∃ (w : State) (f : Nat), f < 2 ^ (8 * z) ∧ w.mem = s.mem ∧
      r = w.readElems pc path z nrx loud left (a + z) (sh + 8 * z) (x + f * 2 ^ sh) true ∧
      (loud = true → ∃ e, w.records = s.records ++ [e] ∧ e.cause = .memNoncanonical ∧ e.origin = .agn ∧ e.stop = false)) ∧
    (∀ e, c.1 = .bad e → e.isXlt = true → nrx = true → ∃ (w : State) (f : Nat), f < 2 ^ (8 * z) ∧ w.mem = s.mem ∧ w.records = s.records ∧
      r = w.readElems pc path z nrx loud left (a + z) (sh + 8 * z) (x + f * 2 ^ sh) true) ∧
    (∀ e, c.1 = .bad e → e.isXlt = true → nrx = false → r = .xlt e a) ∧
    (∀ e, c.1 = .bad e → e.isXlt = false → e ≠ .memNoncanonical → r = .stop e a)

/-- R75, R78: an affine write stream that takes its tokens from an EDGE writes the next element of the token at its address, and
the token is used up with its last element; the end of stream after the last element ends it; an end of stream before that, or a
token after it, raises FLOW_STREAM_LENGTH; a poisoned token that stays in this package raises PSN_STORE, or PSN_EGRESS on path
0x7 (R274). That the poison comes before the checks of the address is the model's choice (log 34). -/
def AffineWrites : Prop :=
  ∀ (s : State) (pc k : Nat) (l : Launch) (v : Nat) (w : Token) (rest : List Token), StreamRuns s pc k l v →
    s.agnRecordWaits pc = false → InTurn s pc → spKind v = 1 → spAtt v = false → Memory.wf s.mem = true →
    let p := s.pctx pc
    (p.st = .running ∨ p.st = .stopping ∨ p.st = .draining) → p.eosA = false → p.draining = false → p.inA = w :: rest →
    let z := spSize v
    let j := p.pos % spPf v
    let x := w.data.toNat / 2 ^ (8 * z * j) % 2 ^ (8 * z)
    (∀ a u, w.isEos = false → w.psn = false → p.pos < spTotal v →
      (turned s pc).agnCheck pc (spPath v) .write (spAddr v p.pos) z = (.ok (.mem a), u) →
      ∃ t, exec (.writeStreamElement pc) s = .next t ∧ leNat (memBytes t.mem a z) = x ∧
        (∀ y, y < a ∨ a + z ≤ y → memRead t.mem y = memRead s.mem y) ∧
        t.pctx pc = { advanced v 1 false (u.pctx pc) with
          inA := if j + 1 = spPf v then rest else w :: rest, written := if a < 2 ^ 39 then a :: p.written else p.written } ∧
        OtherStreams u t pc ∧ Charged u t l (u.pctx pc) z 1 ∧ t.records = s.records ∧ t.arcs = s.arcs) ∧
    (w.isEos = true → spTotal v ≤ p.pos → ∃ t, exec (.writeStreamElement pc) s = .next t ∧
      t.pctx pc = { p with inA := rest, eosA := true, st := .draining } ∧ OtherStreams s t pc ∧
      { t with pctxs := s.pctxs } = turned s pc) ∧
    ((if w.isEos = true then p.pos < spTotal v else spTotal v ≤ p.pos) →
      ∃ t, exec (.writeStreamElement pc) s = .next t ∧ AgnStops s t pc k .flowStreamLength 0) ∧
    (w.isEos = false → w.psn = true → p.pos < spTotal v → StaysHere s v (spAddr v p.pos) →
      ∃ t, exec (.writeStreamElement pc) s = .next t ∧
        AgnStops s t pc k (if spPath v = 7 then .psnEgress else .psnStore) (BitVec.ofInt 64 (spAddr v p.pos)))

/-- R79: a gather reads the element that its next index names and delivers it; a poisoned index, or one out of bounds, delivers
a poisoned element without an access; an end of stream ends it. -/
def Gathers : Prop :=
  ∀ (s : State) (pc k : Nat) (l : Launch) (v : Nat) (w : Token) (rest : List Token), StreamRuns s pc k l v → Issues s pc →
    s.agnRecordWaits pc = false → InTurn s pc → ReadsLive l v → spKind v = 2 → spAtt v = false → spPf v = 1 → spSign v = false →
    let p := s.pctx pc
    p.inA = w :: rest →
    let i := w.data.toInt
    let inside : Prop := 0 ≤ i ∧ i < (spBound v : Int)
    (w.isEos = true → ∃ t, exec (.indirectGather pc) s = .next t ∧
      t.pctx pc = { p with inA := rest, eosA := true, st := .draining } ∧ OtherStreams s t pc ∧
      { t with pctxs := s.pctxs } = turned s pc) ∧
    (∀ x bad u, w.isEos = false → w.psn = false → inside → s.streamRoom pc v = true → spReord v = false →
      (turned s pc).readElems pc (spPath v) (spSize v) l.nrx true 1 ((spBase v : Int) + i * spStr v 0) 0 0 false = .ok x bad u →
      let d := u.send (entryOf pc) (spDtile v) (spDest v) (valueToken x bad)
      ∃ t, exec (.indirectGather pc) s = .next t ∧ t.pctx pc = { advanced v 1 bad (u.pctx pc) with inA := rest } ∧
        OtherStreams u t pc ∧ Charged u t l (u.pctx pc) (spSize v) 1 ∧ t.arcs = d.arcs ∧ t.mem = d.mem) ∧
    (w.isEos = false → w.psn = true ∨ ¬ inside → s.streamRoom pc v = true → (spReord v = true → s.agnSpill pc < 64) →
      ∃ t x, exec (.indirectGather pc) s = .next t ∧ t.pctx pc = { advanced v 1 true p with inA := rest } ∧
        OtherStreams s t pc ∧ t.arcs = (s.send (entryOf pc) (spDtile v) (spDest v) (valueToken x true)).arcs ∧
        t.mem = (s.send (entryOf pc) (spDtile v) (spDest v) (valueToken x true)).mem)

/-- R80: a scatter writes its next value where its next index says; two ends of stream end it; an end of stream against data
raises FLOW_STREAM_LENGTH, a poisoned index or value PSN_STORE, and an index out of bounds MEM_INDEX_BOUNDS. That the poison of a value comes before the
checks of its address is the model's choice (log 34). -/
def Scatters : Prop :=
  ∀ (s : State) (pc k : Nat) (l : Launch) (v : Nat) (w y : Token) (ra rb : List Token), StreamRuns s pc k l v → Issues s pc →
    s.agnRecordWaits pc = false → InTurn s pc → spKind v = 3 → Memory.wf s.mem = true →
    let p := s.pctx pc
    p.eosA = false → p.eosB = false → p.draining = false → p.inA = w :: ra → p.inB = y :: rb →
    let z := spSize v
    let i := w.data.toInt
    let at_ := (spBase v : Int) + i * spStr v 0
    let inside : Prop := 0 ≤ i ∧ i < (spBound v : Int)
    (w.isEos = true → y.isEos = true → ∃ t, exec (.indirectScatter pc) s = .next t ∧
      t.pctx pc = { p with inA := ra, inB := rb, eosA := true, eosB := true, st := .draining } ∧ OtherStreams s t pc ∧
      { t with pctxs := s.pctxs } = turned s pc) ∧
    (w.isEos ≠ y.isEos → ∃ t, exec (.indirectScatter pc) s = .next t ∧ AgnStops s t pc k .flowStreamLength 0) ∧
    (w.isEos = false → y.isEos = false →
      (w.psn = true → ∃ t, exec (.indirectScatter pc) s = .next t ∧ AgnStops s t pc k .psnStore 0) ∧
      (w.psn = false → ¬ inside → ∃ t, exec (.indirectScatter pc) s = .next t ∧ AgnStops s t pc k .memIndexBounds 0) ∧
      (w.psn = false → inside → y.psn = true → StaysHere s v at_ → ∃ t, exec (.indirectScatter pc) s = .next t ∧
        AgnStops s t pc k (if spPath v = 7 then .psnEgress else .psnStore) (BitVec.ofInt 64 at_)) ∧
      (∀ a u, w.psn = false → inside → y.psn = false → (turned s pc).agnCheck pc (spPath v) .write at_ z = (.ok (.mem a), u) →
        ∃ t, exec (.indirectScatter pc) s = .next t ∧ leNat (memBytes t.mem a z) = y.data.toNat % 2 ^ (8 * z) ∧
          (∀ x, x < a ∨ a + z ≤ x → memRead t.mem x = memRead s.mem x) ∧
          t.pctx pc = { advanced v 1 false (u.pctx pc) with
            inA := ra, inB := rb, written := if a < 2 ^ 39 then a :: p.written else p.written } ∧ OtherStreams u t pc ∧
          Charged u t l (u.pctx pc) z 1 ∧ t.records = s.records ∧ t.arcs = s.arcs))

/-- R49, R81: a bitmap stream reads the bitmap byte of its next position, which under the declaration of R49 has open bits and acts
as a poisoned one where it does not translate (the model's choice, log 34), passes a position whose bit is clear, and for the j-th set
bit sends the value of element j, or a poisoned zero when j is not below LEN, and the coordinate of the position. -/
def BitmapElements : Prop :=
  ∀ (s : State) (pc k : Nat) (l : Launch) (v : Nat), StreamRuns s pc k l v → Issues s pc → s.agnRecordWaits pc = false → InTurn s pc →
    ReadsLive l v → spKind v = 4 → spAtt v = false → spPf v = 1 → spSign v = false →
    let p := s.pctx pc
    let n := p.pos
    n < spTotal v →
    (∀ x bad u, (∀ b, p.bitmap = some b → b.1 ≠ n / 8) →
      (turned s pc).readElems pc (spBmap v / 2 ^ 60) 1 false true 1 ((spBmap v : Int) + (n / 8 : Nat)) 0 0 false = .ok x bad u →
      ∃ t, exec (.bitmapSparseElement pc) s = .next t ∧
        t.pctx pc = { u.pctx pc with bitmap := some (n / 8, BitVec.ofNat 8 x, bad), recorded := false } ∧ OtherStreams u t pc ∧
        { t with pctxs := u.pctxs, choice := u.choice } = u) ∧
    (∀ c a, (∀ b, p.bitmap = some b → b.1 ≠ n / 8) → l.nrx = true →
      (turned s pc).readElems pc (spBmap v / 2 ^ 60) 1 false true 1 ((spBmap v : Int) + (n / 8 : Nat)) 0 0 false = .xlt c a →
      ∃ t x, exec (.bitmapSparseElement pc) s = .next t ∧ t.pctx pc = { p with bitmap := some (n / 8, x, true), recorded := false } ∧
        OtherStreams s t pc ∧ { t with pctxs := s.pctxs, choice := s.choice } = turned s pc) ∧
    (∀ b, p.bitmap = some (n / 8, b, false) → b.getLsbD (n % 8) = false →
      ∃ t, exec (.bitmapSparseElement pc) s = .next t ∧ t.pctx pc = { advanced v 1 false p with count := p.count } ∧
        OtherStreams s t pc ∧ { t with pctxs := s.pctxs } = turned s pc) ∧
    (∀ b x bad u, p.bitmap = some (n / 8, b, false) → b.getLsbD (n % 8) = true → s.streamRoom pc v = true → spReord v = false →
      (if p.setBits < spLen v then
          (turned s pc).readElems pc (spPath v) (spSize v) l.nrx true 1 ((spBase v : Int) + (p.setBits * spSize v : Nat)) 0 0
            false = .ok x bad u
        else x = 0 ∧ bad = true ∧ u = turned s pc) →
      let d := (u.send (entryOf pc) (spDtile v) (spDest v) (valueToken x bad)).send (entryOf pc) (spCtile v) (spCdest v)
        (valueToken (n / spCnt v 0 * 2 ^ 32 + n % spCnt v 0) false)
      ∃ t, exec (.bitmapSparseElement pc) s = .next t ∧
        t.pctx pc = { advanced v 1 bad (u.pctx pc) with setBits := p.setBits + 1 } ∧ OtherStreams u t pc ∧
        t.arcs = d.arcs ∧ t.mem = d.mem)

/-- R38, R81, R82, R243: a stream that has issued or taken everything ORs its accumulator, with the flags of the tiles that feed a
write stream and SPLEN for a bitmap of another length, into its status word, and no other byte; a word that crosses the end
of a 128 KiB span, or of a 64 KiB block of an island, is checked part by part, the lower part first, for reading and then for
writing; at a part that may not be written the stream stops, to be tried again (R45); without STW it does so nowhere. -/
def StatusOrs : Prop :=
  ∀ (s : State) (pc k : Nat) (l : Launch) (v : Nat), StreamRuns s pc k l v → s.agnRecordWaits pc = false →
    Memory.wf s.mem = true →
    let p := s.pctx pc
    p.st = .draining → p.spill = [] → p.statusDone = false →
    (spReads v = true ∨ (p.eosA = true ∧ (spKind v ≠ 3 ∨ p.eosB = true))) →
    let acc : Word := p.acc ||| (if spReads v then (if spKind v = 4 ∧ spTotal v ≤ p.pos ∧ p.setBits ≠ spLen v then 0x2000 else 0)
      else BitVec.ofNat 64 (s.feedFlags p))
    let s0 := s.setPctx pc { p with acc := acc }
    let a : Int := (spBase v : Int) + spStoff v
    let m := min 8 (65536 - (a % 65536).toNat)
    (spStw v = false → ∃ t, exec (.statusOr pc) s = .next t ∧ t.pctx pc = { p with acc := acc, statusDone := true } ∧
      OtherStreams s t pc ∧ { t with pctxs := s.pctxs } = s) ∧
    (∀ b b1 u w, spStw v = true → m = 8 → s0.agnCheck pc (spPath v) .read a 8 = (.ok (.mem b1), u) →
      u.agnCheck pc (spPath v) .write a 8 = (.ok (.mem b), w) →
      ∃ t, exec (.statusOr pc) s = .next t ∧ leNat (memBytes t.mem b 8) = Nat.lor (leNat (memBytes s.mem b 8)) acc.toNat ∧
        (∀ x, x < b ∨ b + 8 ≤ x → memRead t.mem x = memRead s.mem x) ∧
        t.pctx pc = { w.pctx pc with statusDone := true } ∧ OtherStreams w t pc ∧ t.arcs = s.arcs) ∧
    (∀ b c b1 c1 u w x y, spStw v = true → m < 8 → s0.agnCheck pc (spPath v) .read a m = (.ok (.mem b1), u) →
      u.agnCheck pc (spPath v) .write a m = (.ok (.mem b), w) →
      w.agnCheck pc (spPath v) .read (a + m) (8 - m) = (.ok (.mem c1), x) →
      x.agnCheck pc (spPath v) .write (a + m) (8 - m) = (.ok (.mem c), y) → b + m ≤ c ∨ c + (8 - m) ≤ b →
      ∃ t, exec (.statusOr pc) s = .next t ∧
        leNat (memBytes t.mem b m ++ memBytes t.mem c (8 - m)) =
          Nat.lor (leNat (memBytes s.mem b m ++ memBytes s.mem c (8 - m))) acc.toNat ∧
        (∀ z, (z < b ∨ b + m ≤ z) → (z < c ∨ c + (8 - m) ≤ z) → memRead t.mem z = memRead s.mem z) ∧
        t.pctx pc = { y.pctx pc with statusDone := true } ∧ OtherStreams y t pc) ∧
    (∀ c, spStw v = true → (s0.agnCheck pc (spPath v) .read a m).1 = .bad c → c.isXlt = false →
      ∃ t, exec (.statusOr pc) s = .next t ∧ AgnStops s t pc k c (BitVec.ofInt 64 a)) ∧
    (∀ c b u, spStw v = true → s0.agnCheck pc (spPath v) .read a m = (.ok (.mem b), u) →
      (u.agnCheck pc (spPath v) .write a m).1 = .bad c → c.isXlt = true → l.nrx = false →
      ∃ t, exec (.statusOr pc) s = .next t ∧ t.pctx pc =
        { p with acc := acc, stopped := some { n := p.pos, addr := a.toNat, due := s.now + 65536 }, recorded := true } ∧
        OtherStreams s t pc ∧ t.mem = s.mem ∧
        (p.recorded = false → ∃ f, t.records = s.records ++ [f] ∧ f.cause = c ∧ f.origin = .agn ∧ f.stop = true ∧
          f.addr = addrOf c (BitVec.ofInt 64 a)))

/-- R47, R77: once its status OR is done, a read stream emits one end of stream to DEST, and to CDEST for a bitmap stream. -/
def StreamEnds : Prop :=
  ∀ (s : State) (pc k : Nat) (l : Launch) (v : Nat), StreamRuns s pc k l v → s.agnRecordWaits pc = false →
    let p := s.pctx pc
    p.st = .draining → spReads v = true → p.statusDone = true → p.eosSent = false → spAtt v = false → s.streamRoom pc v = true →
    let d := s.send (entryOf pc) (spDtile v) (spDest v) .eos
    let e := if spKind v = 4 then d.send (entryOf pc) (spCtile v) (spCdest v) .eos else d
    ∃ t, exec (.endOfStream pc) s = .next t ∧ t.pctx pc = { p with eosSent := true } ∧ OtherStreams s t pc ∧
      t.arcs = e.arcs ∧ t.mem = e.mem

/-- R46, R47, R429: a retry lets a stopped element go on once it is due, and changes nothing before, nor while a record of the
stream waits to be written; a diverted element that is due and comes first of those of its AGN that can be tried is read and
enters the stream at once, with the late bit of the accumulator. -/
def StreamRetries : Prop :=
  ∀ (s : State) (pc k : Nat) (l : Launch) (v : Nat), (s.pctx pc).launch = some k → s.launch k = some l → l.runs = true →
    let p := s.pctx pc
    p.tag = none → p.spec.toNat = v → l.recMode = 0 →
    (s.agnRecordWaits pc = true → exec (.agnRetry pc) s = .next s) ∧ (s.agnRecordWaits pc = false →
    (∀ h, p.stopped = some h → s.now < h.due → exec (.agnRetry pc) s = .next s) ∧
    (∀ h, p.stopped = some h → h.due ≤ s.now → ∃ t, exec (.agnRetry pc) s = .next t ∧ t.pctx pc = { p with stopped := none } ∧
      OtherStreams s t pc ∧ { t with pctxs := s.pctxs } = s) ∧
    (∀ h rest x bad u, p.stopped = none → p.spill = h :: rest → h.due ≤ s.now → s.streamRoom pc v = true → p.part = [] →
      (∀ i c e, i < 4 → c = pc / 512 * 512 + i * 128 + pc % 128 → c ≠ pc → s.lateReady c = some e → h.ord ≤ e.ord) →
      spKind v = 0 → spAtt v = false → spPf v = 1 → spSign v = false →
      s.readElems pc (spPath v) (spSize v) false false 1 (spAddr v h.n) 0 0 false = .ok x bad u →
      let d := u.send (entryOf pc) (spDtile v) (spDest v) (valueToken (x % 2 ^ 64) bad)
      ∃ t, exec (.agnRetry pc) s = .next t ∧ (t.pctx pc).spill = rest ∧ (t.pctx pc).pos = p.pos ∧
        (t.pctx pc).count = p.count + 1 ∧ (t.pctx pc).acc = p.acc ||| 0x1000 ||| (if bad then 0x800 else 0) ∧
        OtherStreams u t pc ∧ t.arcs = d.arcs ∧ t.mem = d.mem))

/-- R85, R343: a stream that is over frees its port context and posts the number of its context, the time, its element count and
its accumulator to its channel; one without a channel posts nothing. -/
def StreamCompletions : Prop :=
  ∀ (s : State) (pc k : Nat) (l : Launch) (v : Nat), StreamRuns s pc k l v → s.frameState = [] →
    let p := s.pctx pc
    p.st = .draining → p.statusDone = true → p.charged = false → p.item = none →
    (if spReads v then p.eosSent = true else p.eosA = true ∧ (spKind v ≠ 3 ∨ p.eosB = true)) →
    (p.post = none → ∃ t, exec (.streamCompletion pc) s = .next t ∧ t.pctx pc = PCtx.reset ∧ OtherStreams s t pc ∧
      { t with pctxs := s.pctxs } = s) ∧
    (∀ ch gen, p.post = some (ch, gen) → ∃ t m, exec (.streamCompletion pc) s = .next t ∧ t.pctx pc = PCtx.reset ∧
      OtherStreams s t pc ∧ Holds s t l.seqn m ∧ m.ch = ch ∧ m.gen = gen ∧ m.src = 2 ∧ m.cause = 0 ∧
      m.w0.toNat = (pc % 512 + pc / 512 * 512) % 2 ^ 64 ∧ m.w1.toNat = s.replica (4 * (pc / 512)) % 2 ^ 64 ∧
      m.w2.toNat = p.count % 2 ^ 64 ∧ m.w3 = p.acc ∧ { t with pctxs := s.pctxs, seqs := s.seqs, now := s.now } = s)

/-! ### Links, rings, invocations, islands and storage (R16, R53 to R68, R100, R103, R343 to R345) -/

/-- R16: a router link serves the arcs that wait for it in ascending order of key from the one after the last served, wrapping
round; a token that moves on keeps its place in its arc, and one that arrives joins the consumer's queue; an idle link does
nothing. -/
def RouterLinks : Prop :=
  (∀ (last : Nat) (l : List (Nat × Arc)) (p : Nat × Arc), nextArc last l = some p →
    p ∈ l ∧ (last < p.2.key → ∀ q, q ∈ l → last < q.2.key → p.2.key ≤ q.2.key) ∧
    (p.2.key ≤ last → ∀ q, q ∈ l → q.2.key ≤ last ∧ p.2.key ≤ q.2.key)) ∧
  (∀ (last : Nat) (l : List (Nat × Arc)), nextArc last l = none → l = []) ∧
  (∀ (t n : Nat) (l : List (Nat × Token)), (moveToken t n l).map (fun x => x.2) = l.map (fun x => x.2)) ∧
  (∀ (s : State) (tile dir : Nat), s.linkArcs tile dir = [] → exec (.routerLinkTransfer tile dir) s = .next s) ∧
  (∀ (s : State) (tile dir key : Nat) (a : Arc) (k : Token),
    nextArc (tabGet s.links (4 * tile + dir) 0) (s.linkArcs tile dir) = some (key, a) → s.arc key = a →
    a.transit.find? (fun x => x.1 == tile) = some (tile, k) →
    (neighbour tile dir ≠ key / 512 → ∃ t, exec (.routerLinkTransfer tile dir) s = .next t ∧
      t.arc key = { a with transit := moveToken tile (neighbour tile dir) a.transit } ∧ (∀ x, x ≠ key → t.arc x = s.arc x) ∧
      tabGet t.links (4 * tile + dir) 0 = a.key ∧ { t with arcs := s.arcs, links := s.links, tiles := s.tiles } = s) ∧
    (neighbour tile dir = key / 512 → a.ring = none → ∃ t, exec (.routerLinkTransfer tile dir) s = .next t ∧
      t.arc key = { a with queue := a.queue ++ [k], transit := dropToken tile a.transit } ∧
      (∀ x, x ≠ key → t.arc x = s.arc x) ∧ tabGet t.links (4 * tile + dir) 0 = a.key ∧
      { t with arcs := s.arcs, links := s.links, tiles := s.tiles } = s))

/-- The route that the model takes (log 10: the spec leaves the route open) is one: each hop of a token between two tiles of the
mesh stays on the mesh and brings it one tile nearer. -/
def RoutesLead : Prop :=
  ∀ (t d : Nat), t < 1536 → d < 1536 → t ≠ d →
    let n := neighbour t (hop t d)
    let gap (a b : Nat) : Nat := (a - b) + (b - a)
    n < 1536 ∧ gap (tileX n) (tileX d) + gap (tileY n) (tileY d) + 1 = gap (tileX t) (tileX d) + gap (tileY t) (tileY d)

/-- R88, R89, R103, R104: the adapter takes the oldest token of a ring into its FIFO when there is room, an end of stream without
its poison bit, and nothing from an empty ring; a page that does not translate stops the arc with MEM_SPILL_FAULT at the slot's
address. -/
def RingRefills : Prop :=
  ∀ (s : State) (tile : Nat) (g : BitVec 9) (r : Ring), (s.arcAt tile g.toNat).ring = some r →
    (s.arcAt tile g.toNat).stopped = false →
    let a := s.arcAt tile g.toNat
    (r.wr ≤ r.rd ∨ 64 ≤ a.queue.length → exec (.spillRingRefill tile g) s = .next s) ∧
    (∀ l, r.rd < r.wr → a.queue.length < 64 → s.ringPlace tile r r.rd .read = some l → s.dataError l 16 = none →
      let b := memNat s.mem (l + 8) 1
      b < 8 → b % 4 ≠ 3 →
      ∃ t k, exec (.spillRingRefill tile g) s = .next t ∧ k.data.toNat = leNat (memBytes s.mem l 8) ∧
        k.kindBits = (if b % 4 = 0 then b else b % 4) ∧
        t.arcAt tile g.toNat = { a with queue := a.queue ++ [k], ring := some { r with rd := r.rd + 1 } } ∧
        (∀ x, x ≠ 512 * tile + g.toNat → t.arc x = s.arc x) ∧ { t with arcs := s.arcs } = s) ∧
    (r.rd < r.wr → a.queue.length < 64 → s.ringPlace tile r r.rd .read = none →
      ∃ t f, exec (.spillRingRefill tile g) s = .next t ∧ t.records = s.records ++ [f] ∧ f.cause = .memSpillFault ∧
        f.origin = .adapter ∧ f.stop = true ∧ f.tok0 = none ∧
        f.addr = addrOf .memSpillFault (r.base + BitVec.ofNat 64 (16 * (r.rd % r.slots))) ∧ t.arcAt tile g.toNat = { a with stopped := true } ∧ t.mem = s.mem)

/-- R100, R119, R160, R193: a tile of a running launch whose invocation has not begun, or has ended and finds a token at a port stub,
begins one: its frame is zero and its granules empty, its operators and records are fresh but for those stopped for good, the next seed is in
force, and everything else stands. Otherwise nothing happens. -/
def InvocationStarts : Prop :=
  ∀ (s : State) (tile : Nat), Memory.wf s.mem = true →
    let v := s.tile tile
    let n := v.plane.fsize.toNat
    let begins : Prop := (s.tileLaunch tile).isSome = true ∧
      (v.active = false ∨ (s.invocationEnded tile = true ∧ s.stubWaits tile = true))
    (¬ begins → exec (.invocationStart tile) s = .next s) ∧
    (begins → ∃ t, exec (.invocationStart tile) s = .next t ∧
      (∀ x, scratchLoc tile 0 ≤ x → x < scratchLoc tile 0 + 16 * n → memRead t.mem x = 0) ∧
      (∀ x, x < scratchLoc tile 0 ∨ scratchLoc tile 0 + 16 * n ≤ x → memRead t.mem x = memRead s.mem x) ∧
      (∀ g, t.full.contains g = (s.full.contains g && !(decide (1536 * tile ≤ g) && decide (g < 1536 * tile + n)))) ∧
      (∀ i, (t.tile tile).slotSt i = { SlotState.reset with stopped := (v.slotSt i).stopped }) ∧
      (∀ i, (t.tile tile).recSt i = { RecState.reset with stopped := (v.recSt i).stopped }) ∧
      (t.tile tile).reqs = [] ∧ (t.tile tile).last = none ∧ (t.tile tile).active = true ∧
      (t.tile tile).invocation = v.invocation + 1 ∧
      (t.tile tile).seed = (match v.nextSeed with | some x => x.1 | none => v.seed) ∧ (t.tile tile).nextSeed = none ∧
      (t.tile tile).plane = v.plane ∧ (t.tile tile).flags = v.flags ∧ (t.tile tile).events = v.events ∧
      (∀ x, x ≠ tile → t.tile x = s.tile x) ∧
      { t with tiles := s.tiles, mem := s.mem, full := s.full } = s)

/-- R66, R67: a write of SCR that is legal makes the island busy; the repartition zeroes every block that enters or leaves island
scratch, clears the owners of the blocks that leave it and ends; an illegal write, or one to a busy island, is ignored. -/
def IslandRepartitions : Prop :=
  ∀ (s : State) (n : Nat), n < 256 → Memory.wf s.mem = true →
    let i := s.island n
    (∀ scr : BitVec 5, 16 < scr.toNat ∨ i.busy = true ∨ (∃ b, b < 16 ∧ scr.toNat ≤ b ∧ s.reserved n b = true) →
      exec (.islandRepartition n scr) s = .next s) ∧
    (∀ scr : BitVec 5, scr.toNat ≤ 16 → i.busy = false → (∀ b, b < 16 → scr.toNat ≤ b → s.reserved n b = false) →
      ∃ t, exec (.islandRepartition n scr) s = .next t ∧ t.island n = { i with busy := true, next := scr } ∧
        (∀ x, x ≠ n → t.island x = s.island x) ∧ { t with islands := s.islands } = s) ∧
    (i.busy = false → exec (.repartitionComplete n) s = .next s) ∧
    (i.busy = true → ∃ t, exec (.repartitionComplete n) s = .next t ∧ (t.island n).scr = i.next ∧ (t.island n).busy = false ∧
      (∀ b, b < 16 → (tabGet (t.island n).own b 0).getLsbD 12 =
        (!(decide (i.next.toNat ≤ b) && decide (b < i.scr.toNat)) && (tabGet i.own b 0).getLsbD 12)) ∧
      (∀ b o, b < 16 → o < 65536 → memRead t.mem (islandLoc n (65536 * b) + o) =
        if (b < i.scr.toNat) = (b < i.next.toNat) then memRead s.mem (islandLoc n (65536 * b) + o) else 0) ∧
      (∀ x, x < islandLoc n 0 ∨ islandLoc n 0 + 2 ^ 20 ≤ x → memRead t.mem x = memRead s.mem x) ∧
      (∀ x, x ≠ n → t.island x = s.island x) ∧
      { t with islands := s.islands, mem := s.mem, poison := s.poison } = s)

/-- The copy has its next page before it, without a command, and counts `c` pages with first cause `x` (R56, R62). -/
def PageFollows (t : State) (k : Nat) (j : CopyJob) (c : Nat) (x : Option Cause) : Prop :=
  ∃ n, t.copyJob k = some n ∧ n.page = j.page + 1 ∧ n.count = c ∧ n.cause = x ∧ n.failed = j.failed ∧
    (∀ y, y ∈ t.storage → y.2.copy ≠ k)

/-- R54, R56, R57: an NVMe command that fails without Do Not Retry is issued once more; after a second failure, or with it, the
page fails with one record MEM_STORAGE_ERROR and its frame with state 10; one that succeeds in time moves its page and no other
byte. That the time counts anew from the second issue is the model's choice (log 37). -/
def NvmeCommands : Prop :=
  ∀ (s : State) (cmd k : Nat) (c : StorageCmd) (j : CopyJob) (dnr : Bool), tabFind s.storage cmd = some c → c.copy = k →
    s.copyJob k = some j → Memory.wf s.mem = true → s.now < c.since + 2000000000 → s.resetting.contains c.port = false →
    let v := j.sdesc.toNat
    (dnr = false → c.reissued = false → ∃ t, exec (.nvmeCompletion cmd false dnr) s = .next t ∧
      tabFind t.storage cmd = some { c with reissued := true, since := s.now } ∧
      (∀ x, x ≠ cmd → tabFind t.storage x = tabFind s.storage x) ∧ { t with storage := s.storage } = s) ∧
    (∀ l, dnr = true ∨ c.reissued = true → exOut v = false → s.pagePlace j = .ok l →
      ∃ t f, exec (.nvmeCompletion cmd false dnr) s = .next t ∧ t.records = s.records ++ [f] ∧ f.cause = .memStorageError ∧
        f.origin = .storage ∧ f.stop = false ∧ f.addr.toNat = j.pageNo % 2 ^ 64 ∧ f.pos = exPort v + exNsid v * 2 ∧
        tabGet t.frameState (l / 131072) 0 = 2 ∧
        (∀ x, x ≠ l / 131072 → tabGet t.frameState x 0 = tabGet s.frameState x 0) ∧
        PageFollows t k j (j.count + 1) (if j.cause.isSome then j.cause else some .memStorageError) ∧ t.mem = s.mem) ∧
    (∀ l, c.write = false → exWci v = false → s.pagePlace j = .ok l →
      ∃ t, exec (.nvmeCompletion cmd true dnr) s = .next t ∧
        memBytes t.mem l 131072 = memBytes s.mem (s.drivePage v j.pageNo) 131072 ∧
        (∀ x, x < l ∨ l + 131072 ≤ x → memRead t.mem x = memRead s.mem x) ∧
        PageFollows t k j j.count j.cause ∧ t.frameState = s.frameState ∧ t.records = s.records) ∧
    (∀ l, c.write = true → exWci v = false → s.pagePlace j = .ok l → s.dataError l 131072 = none →
      ∃ t, exec (.nvmeCompletion cmd true dnr) s = .next t ∧
        memBytes t.mem (s.drivePage v j.pageNo) 131072 = memBytes s.mem l 131072 ∧
        (∀ x, x < s.drivePage v j.pageNo ∨ s.drivePage v j.pageNo + 131072 ≤ x → memRead t.mem x = memRead s.mem x) ∧
        PageFollows t k j j.count j.cause ∧ t.records = s.records)

/-- R60 to R63: a header page that a check of R60 or R62 refuses, with a key or without, fails with its cause and ends the copy; a
data page of a cache image reaches memory; when its tag agrees nothing is recorded, and otherwise its frame has
state 01, one record MEM_TAG_MISMATCH names the page, and the page counts; without a key the page is not transferred. That a header page that
fails is not written and its record has STOP 1 is the model's choice (log 37). -/
def CacheImagePages : Prop :=
  ∀ (s : State) (cmd k l : Nat) (c : StorageCmd) (j : CopyJob), tabFind s.storage cmd = some c → c.copy = k →
    s.copyJob k = some j → Memory.wf s.mem = true → s.now < c.since + 2000000000 → s.resetting.contains c.port = false →
    c.write = false → s.pagePlace j = .ok l →
    let v := j.sdesc.toNat
    let p := j.pageNo
    let page := memBytes s.mem (s.drivePage v p) 131072
    (∀ x, exWci v = true → p = 0 → headerCheck v page = some x →
      ∃ t f n, exec (.nvmeCompletion cmd true false) s = .next t ∧ t.mem = s.mem ∧ tabGet t.frameState (l / 131072) 0 = 1 ∧
        t.records = s.records ++ [f] ∧ f.cause = x ∧ f.stop = true ∧ t.copyJob k = some n ∧ n.page = j.page + 1 ∧
        n.failed = true ∧ n.count = j.count + 1 ∧ n.cause = (if j.cause.isSome then j.cause else some x)) ∧
    (exWci v = true → 0 < p → p ≤ exDpages v →
    (∀ key, s.dataKey (exKey v) = some key → pageTag key (exImgid v) p page = memBytes s.mem (s.tagLoc v p) 16 →
      ∃ t, exec (.nvmeCompletion cmd true false) s = .next t ∧ memBytes t.mem l 131072 = page ∧
        PageFollows t k j j.count j.cause ∧ t.records = s.records ∧ t.frameState = s.frameState) ∧
    (∀ key, s.dataKey (exKey v) = some key → pageTag key (exImgid v) p page ≠ memBytes s.mem (s.tagLoc v p) 16 →
      ∃ t f, exec (.nvmeCompletion cmd true false) s = .next t ∧ memBytes t.mem l 131072 = page ∧
        tabGet t.frameState (l / 131072) 0 = 1 ∧ t.records = s.records ++ [f] ∧ f.cause = .memTagMismatch ∧
        f.addr.toNat = p % 2 ^ 64 ∧ f.stop = false ∧
        PageFollows t k j (j.count + 1) (if j.cause.isSome then j.cause else some .memTagMismatch)) ∧
    (s.dataKey (exKey v) = none → ∃ t f, exec (.nvmeCompletion cmd true false) s = .next t ∧ t.mem = s.mem ∧
      t.frameState = s.frameState ∧ t.records = s.records ++ [f] ∧ f.cause = .memNoKey ∧
      PageFollows t k j (j.count + 1) (if j.cause.isSome then j.cause else some .memNoKey)))

/-- R60, R61, R63, R345: a page that a copy writes into a cache image reaches its place on the drive with its tag: a data page's tag
stands in its entry of its tag page, which the first entry clears, and the header page, as MAJOR 1 and MINOR 0, holds its own tag;
without a key the page is not written; one that holds a poisoned granule is not written either, its entry is zero and one record
PSN_EGRESS names its first such granule. The ADDR of the record of MEM_NO_KEY is the model's choice (log 37). -/
def CacheImageWrites : Prop :=
  ∀ (s : State) (cmd k l : Nat) (c : StorageCmd) (j : CopyJob), tabFind s.storage cmd = some c → c.copy = k →
    s.copyJob k = some j → Memory.wf s.mem = true → s.now < c.since + 2000000000 → s.resetting.contains c.port = false →
    c.write = true → s.pagePlace j = .ok l → exWci j.sdesc.toNat = true →
    let v := j.sdesc.toNat
    let p := j.pageNo
    let page := memBytes s.mem l 131072
    let place := s.drivePage v p
    let entry := s.drivePage v (exDpages v + 1 + (p - 1) / 8192) + 16 * ((p - 1) % 8192)
    let own := if (p - 1) % 8192 = 0 then 131072 else 16
    (∀ key, 0 < p → p ≤ exDpages v → s.dataError l 131072 = none → s.dataKey (exKey v) = some key →
      ∃ t, exec (.nvmeCompletion cmd true false) s = .next t ∧ memBytes t.mem place 131072 = page ∧
        memBytes t.mem entry 16 = pageTag key (exImgid v) p page ∧
        (∀ x, entry + 16 ≤ x → x < entry + own → memRead t.mem x = 0) ∧
        (∀ x, x < place ∨ place + 131072 ≤ x → x < entry ∨ entry + own ≤ x → memRead t.mem x = memRead s.mem x) ∧
        PageFollows t k j j.count j.cause ∧ t.records = s.records) ∧
    (∀ key, p = 0 → s.dataError l 131072 = none → s.dataKey (exKey v) = some key →
      let with_ (tag : List Byte) : List Byte := page.take 8 ++ [0, 1] ++ (page.drop 10).take 230 ++ tag ++ page.drop 256
      ∃ t, exec (.nvmeCompletion cmd true false) s = .next t ∧
        memBytes t.mem place 131072 = with_ (pageTag key (exImgid v) 0 (with_ (List.replicate 16 0))) ∧
        (∀ x, x < place ∨ place + 131072 ≤ x → memRead t.mem x = memRead s.mem x) ∧
        PageFollows t k j j.count j.cause ∧ t.records = s.records) ∧
    (s.dataError l 131072 = none → s.dataKey (exKey v) = none →
      ∃ t f, exec (.nvmeCompletion cmd true false) s = .next t ∧ t.mem = s.mem ∧ t.records = s.records ++ [f] ∧
        f.cause = .memNoKey ∧ f.origin = .copy ∧ f.stop = false ∧
        PageFollows t k j (j.count + 1) (if j.cause.isSome then j.cause else some .memNoKey)) ∧
    (∀ i, 0 < p → p ≤ exDpages v → i < 8192 → s.dataError (l + 16 * i) 16 ≠ none → (∀ x, x < i → s.dataError (l + 16 * x) 16 = none) →
      ∃ t, exec (.nvmeCompletion cmd true false) s = .next t ∧ memBytes t.mem entry 16 = List.replicate 16 0 ∧
        (∀ x, x < entry ∨ entry + own ≤ x → memRead t.mem x = memRead s.mem x) ∧
        PageFollows t k j (j.count + 1) (if j.cause.isSome then j.cause else some .psnEgress) ∧
        (j.firstPsn = false → ∃ r, r ∈ t.records ∧ r.cause = .psnEgress ∧ r.origin = .copy ∧ r.stop = false ∧
          r.addr = j.pageAddr + BitVec.ofNat 64 (16 * i)))

/-- R54: a command without completion for 2 × 10^9 ticks fails with MEM_STORAGE_TIMEOUT and its controller is reset, with which
every command of the port fails so at once, an answer that comes later included; before that nothing happens; the end of the reset
lets commands run again. -/
def StorageTimeouts : Prop :=
  ∀ (s : State) (cmd k l : Nat) (c : StorageCmd) (j : CopyJob), tabFind s.storage cmd = some c → c.copy = k →
    s.copyJob k = some j → exOut j.sdesc.toNat = false → s.pagePlace j = .ok l → (s.storage.map (fun x => x.1)).Nodup →
    let due : Prop := c.since + 2000000000 ≤ s.now ∨ s.resetting.contains c.port = true
    (s.now < c.since + 2000000000 → s.resetting.contains c.port = false → exec (.storageCommandTimeout cmd) s = .next s) ∧
    (due → ∀ ok dnr, exec (.nvmeCompletion cmd ok dnr) s = exec (.storageCommandTimeout cmd) s) ∧
    (due → (∀ x, x ∈ s.storage → s.copyJob x.2.copy ≠ none) →
      ∃ t, exec (.storageCommandTimeout cmd) s = .next t ∧ (∀ x, x ∈ t.storage → x ∈ s.storage ∧ x.2.port ≠ c.port) ∧
        t.resetting.contains c.port = true) ∧
    (due → (∀ x, x ∈ s.storage → x.2.port = c.port → x.1 = cmd) →
      ∃ t f, exec (.storageCommandTimeout cmd) s = .next t ∧ t.records = s.records ++ [f] ∧ f.cause = .memStorageTimeout ∧
        f.origin = .storage ∧ f.stop = false ∧ tabGet t.frameState (l / 131072) 0 = 2 ∧
        t.resetting.contains c.port = true ∧ (∀ p, p ≠ c.port → t.resetting.contains p = s.resetting.contains p) ∧
        PageFollows t k j (j.count + 1) (if j.cause.isSome then j.cause else some .memStorageTimeout) ∧ t.mem = s.mem) ∧
    (∀ p, ∃ t, exec (.storageControllerResetDone p) s = .next t ∧ t.resetting.contains p = false ∧
      (∀ x, x ≠ p → t.resetting.contains x = s.resetting.contains x) ∧ { t with resetting := s.resetting } = s)

/-- R57, R343, R345, R396: a copy whose last access has performed is over: frames that it wrote whole are clean, a COPY
instruction's message holds the cause, the count, the time and the descriptor's address, and a COPY packet completes, or fails
with the copy's cause; a cancelled copy is only charged its final partial unit (R402); until then nothing happens. The CAUSE
of a COPY packet that completes with poisoned granules is the model's choice (log 37). -/
def CopyCompletions : Prop :=
  (∀ (s : State) (k : Nat) (j : CopyJob), s.copyJob k = some j → j.cancelled = false → j.stor = false →
    (s.copyOver k j = false → exec (.copyCompletion k) s = .next s) ∧
    (∀ n l ch gen, s.copyOver k j = true → j.item = none → j.launch = some n → s.launch n = some l → l.live = true →
      j.post = some (ch, gen) →
      ∃ t m, exec (.copyCompletion k) s = .next t ∧ t.copyJob k = none ∧ (∀ x, x ≠ k → t.copyJob x = s.copyJob x) ∧
        Holds s t l.seqn m ∧ m.ch = ch ∧ m.gen = gen ∧ m.cause = 0 ∧ m.src = 5 ∧
        m.w0.toNat = (match j.cause with | none => 0 | some c => c.code) ∧ m.w1.toNat = j.count % 2 ^ 64 ∧
        m.w2.toNat = s.replica (seqClock j.seqn) % 2 ^ 64 ∧ m.w3 = j.desc ∧
        (∀ f, tabGet t.frameState f 0 = if j.failed = false ∧ f ∈ j.clean then 0 else tabGet s.frameState f 0) ∧
        t.mem = s.mem ∧ t.records = s.records) ∧
    (∀ x i, s.copyOver k j = true → j.item = some x → s.item x = some i → i.phase = .running → j.clean = [] →
      let ticks := if j.done % 256 = 0 then 0 else 1
      (j.failed = false → ∃ t u, exec (.copyCompletion k) s = .next t ∧ t.copyJob k = none ∧
        GoesOn u t x { i with cheng := i.cheng + ticks, cause := if i.cause.isSome then i.cause else j.cause } ∧
        { u with copies := s.copies, items := s.items } = s) ∧
      (∀ c, j.failed = true → j.cause = some c → ∃ t u, exec (.copyCompletion k) s = .next t ∧ t.copyJob k = none ∧
        Fails u t x { i with cheng := i.cheng + ticks } c ∧ { u with copies := s.copies, items := s.items } = s))) ∧
  (∀ (s : State) (k x : Nat) (j : CopyJob) (i : Item), s.copyJob k = some j → j.cancelled = true → j.stor = false →
    s.copyOver k j = true → j.item = some x → s.item x = some i →
    ∃ t, exec (.copyCompletion k) s = .next t ∧ t.copyJob k = none ∧
      ItemIs s t x { i with cheng := i.cheng + (if j.done % 256 = 0 then 0 else 1) } ∧
      { t with copies := s.copies, items := s.items } = s)

/-- R344, R345: the granules of a copy in this package move one by one: one that is free of error stands at its destination, and
one that holds an error is not written, with one record PSN_STORE, or PSN_EGRESS towards the host, for the first; it counts. -/
def CopyMoves : Prop :=
  ∀ (s : State) (k : Nat) (j : CopyJob) (a b : Nat), s.copyJob k = some j → j.stor = false → j.failed = false →
    j.cancelled = false → j.tag = none → j.stopped = none → j.buf = none → j.done < j.len → Memory.wf s.mem = true →
    let src := j.srca + BitVec.ofNat 64 j.done
    let dst := j.dsta + BitVec.ofNat 64 j.done
    s.copyPlace j .read src = .ok (.mem a) →
    (pathOf dst = 6 → s.domain = true ∧ dst.toNat / 2 ^ 52 % 64 = s.pkg) →
    (s.dataError a 16 = none → s.copyPlace j .write dst = .ok (.mem b) → pathOf dst ≠ 2 →
      ∃ n, (s.copyStep k).copyJob k = some n ∧ n.done = j.done + 16 ∧ n.count = j.count ∧ n.cause = j.cause ∧
        memBytes (s.copyStep k).mem b 16 = memBytes s.mem a 16 ∧
        (∀ x, x < b ∨ b + 16 ≤ x → memRead (s.copyStep k).mem x = memRead s.mem x) ∧ (s.copyStep k).records = s.records) ∧
    (∀ e, s.dataError a 16 = some e → j.firstPsn = false →
      let c : Cause := if pathOf dst = 7 then .psnEgress else .psnStore
      ∃ n, (s.copyStep k).copyJob k = some n ∧ n.done = j.done + 16 ∧ n.count = j.count + 1 ∧
        n.cause = (if j.cause.isSome then j.cause else some c) ∧ n.firstPsn = true ∧ (s.copyStep k).mem = s.mem ∧
        (∃ r, r ∈ (s.copyStep k).records ∧ r.cause = c ∧ r.origin = .copy ∧ r.stop = false ∧ r.addr = dst))

/-! ### Messages, tasks and launch control (R302 to R309, R313, R323, R343, R359, R432 to R434, R448) -/

/-- Sequencer `n` is `q`, and the others are as before; nothing else has changed. -/
def SeqIs (s t : State) (n : Nat) (q : Seq) : Prop :=
  t.seq n = q ∧ (∀ x, x ≠ n → t.seq x = s.seq x) ∧ { t with seqs := s.seqs } = s

/-- The entry of channel `c` in the handler table of sequencer `n` (R304). -/
def entryOfChannel (s : State) (n c : Nat) : Nat := leNat (memBytes s.mem (localLoc n (8 * c)) 8)

/-- R304, R306: a message that arrives stays on its channel when the entry is valid and its generation agrees; a stale one is
dropped and counted; one whose channel has no handler goes to channel DEFCH with its generation and cause SEQ_NO_HANDLER, or
stays at the head of a queue for want of room there, and behind an earlier message of its poster (R308); without a handler in DEFCH either it is discarded with one record. -/
def MessageArrivals : Prop :=
  ∀ (s : State) (n : Nat) (m : Msg), (s.seq n).arriving.find? (fun x => x.ch == m.ch) = some m →
    let q := s.seq n
    let q1 := { q with arriving := q.arriving.erase m }
    let c := m.ch.toNat
    let d := q.defch.toNat
    let taken := (tabGet q.queues d []).length + (q1.arriving.filter (fun x => x.ch.toNat == d)).length
    let e := entryOfChannel s n c
    let f := entryOfChannel s n d
    let puts (x : Nat) (y : Msg) : Seq := { q1 with queues := tabPut q.queues x (tabGet q.queues x [] ++ [y]) }
    (e.testBit 19 = true → m.gen.toNat = fieldOf e 20 8 →
      ∃ t, exec (.messageArrival n m) s = .next t ∧ SeqIs s t n (puts c m)) ∧
    (e.testBit 19 = true → m.gen.toNat ≠ fieldOf e 20 8 →
      ∃ t, exec (.messageArrival n m) s = .next t ∧
        SeqIs s t n { q1 with drops := if q.drops = BitVec.allOnes 64 then q.drops else q.drops + 1 }) ∧
    (e.testBit 19 = false → f.testBit 19 = true →
      ∃ t, exec (.messageArrival n m) s = .next t ∧
        SeqIs s t n (if taken < 16 ∧ (∀ x, x ∈ tabGet q.queues c [] → x.src ≠ m.src ∨ x.sseq ≠ m.sseq) then
          puts d { m with gen := BitVec.ofNat 8 (fieldOf f 20 8), cause := 0x183 } else puts c m)) ∧
    (e.testBit 19 = false → f.testBit 19 = false →
      ∃ t r, exec (.messageArrival n m) s = .next t ∧ t.records = s.records ++ [r] ∧ r.cause = .seqNoHandler ∧
        r.origin = .seq ∧ r.stop = false ∧ t.seq n = q1 ∧ (∀ x, x ≠ n → t.seq x = s.seq x) ∧ t.mem = s.mem)

/-- R305, R308: the first message held at its source whose channel has room sets out for it; the others wait. -/
def HardwarePosts : Prop :=
  ∀ (s : State) (n : Nat),
    let q := s.seq n
    let room (m : Msg) : Bool :=
      decide ((tabGet q.queues m.ch.toNat []).length + (q.arriving.filter (fun x => x.ch.toNat == m.ch.toNat)).length < 16)
    (∀ m, q.held.find? room = some m → ∃ t, exec (.hardwarePost n) s = .next t ∧
      SeqIs s t n { q with held := q.held.erase m, arriving := q.arriving ++ [m] }) ∧
    (q.held.find? room = none → exec (.hardwarePost n) s = .next s)

/-- R302, R307: an idle sequencer takes the head message of the selected channel: its payload goes to g1 to g4, MSGINFO names it,
PC is its entry and the watchdog is disarmed; no message of a running task, and nothing on no channel, starts one. -/
def TaskStarts : Prop :=
  ∀ (s : State) (n : Nat),
    let q := s.seq n
    (q.running = true ∨ s.seqFree n = false ∨ s.selectChannel n = none → exec (.taskStart n) s = .next s) ∧
    (∀ c m rest, q.running = false → s.seqFree n = true → s.selectChannel n = some c → tabGet q.queues c [] = m :: rest →
      let e := entryOfChannel s n c
      e.testBit 19 = true → m.gen.toNat = fieldOf e 20 8 →
      ∃ t r, exec (.taskStart n) s = .next t ∧ t.seq n = r ∧ (∀ x, x ≠ n → t.seq x = s.seq x) ∧
        { t with seqs := s.seqs } = s ∧
        r.rd 1 = m.w0 ∧ r.rd 2 = m.w1 ∧ r.rd 3 = m.w2 ∧ r.rd 4 = m.w3 ∧
        (∀ x : Reg, 4 < x.toNat ∨ x = 0 → r.rd x = q.rd x) ∧ r.pc.toNat = 4 * fieldOf e 0 16 ∧ r.running = true ∧
        r.wdog = none ∧ fieldOf r.msginfo.toNat 0 6 = m.ch.toNat ∧ fieldOf r.msginfo.toNat 6 8 = m.gen.toNat ∧
        fieldOf r.msginfo.toNat 14 9 = m.cause.toNat ∧ fieldOf r.msginfo.toNat 23 4 = m.src.toNat ∧
        fieldOf r.msginfo.toNat 27 5 = m.sseq.toNat ∧ r.queues = tabPut q.queues c rest ∧ r.sr = q.sr ∧ r.sd = q.sd ∧
        r.barriers = q.barriers) ∧
    (∀ c m rest, q.running = false → s.seqFree n = true → s.selectChannel n = some c → tabGet q.queues c [] = m :: rest →
      let e := entryOfChannel s n c
      e.testBit 19 = true → m.gen.toNat ≠ fieldOf e 20 8 →
      let more : Word := if q.drops = BitVec.allOnes 64 then q.drops else q.drops + 1
      ∃ t, exec (.taskStart n) s = .next t ∧ SeqIs s t n { q with queues := tabPut q.queues c rest, drops := more })

/-- R307: the selected channel holds a message, no selectable channel has a higher priority, and none of its priority has a lower
number. -/
def ChannelSelection : Prop :=
  ∀ (s : State) (n c : Nat), s.selectChannel n = some c →
    let prio (x : Nat) : Nat := fieldOf (entryOfChannel s n x) 16 3
    c < 64 ∧ tabGet (s.seq n).queues c [] ≠ [] ∧
    (∀ x, x < 64 → s.selectable n x = true → prio x < prio c ∨ (prio x = prio c ∧ c ≤ x)) ∧
    (∀ x m r, tabGet (s.seq n).queues x [] = m :: r → (entryOfChannel s n x).testBit 19 = true → s.selectable n x = true)

/-- R311, R313, R456: a span completes its next phase once every declared member has reported it and holds no message of the
phase before at its source: each member's channel gets one message with its barrier, that phase and the span; until then nothing
is posted. -/
def SpanPhases : Prop :=
  ∀ (s : State) (n : Nat) (v : Span), tabFind s.spans n = some v →
    let complete : Prop := v.members.length = v.m ∧ ∀ m, m ∈ v.members → v.done < m.reported ∧ s.spanHeld n m = false
    (¬ complete → exec (.spanPhaseComplete n) s = .next s) ∧
    (complete → ∃ t, exec (.spanPhaseComplete n) s = .next t ∧ tabFind t.spans n = some { v with done := v.done + 1 } ∧
      (∀ x, x ≠ n → tabFind t.spans x = tabFind s.spans x) ∧ t.mem = s.mem ∧ t.records = s.records) ∧
    (∀ a b la lb, complete → v.members = [a, b] → s.launch a.launch = some la → s.launch b.launch = some lb →
      la.live = true → lb.live = true → la.seqn ≠ lb.seqn →
      let msg (m : SpanMember) (x : Msg) : Prop := x.ch = m.ch ∧ x.gen = m.gen ∧ x.cause = 0 ∧ x.src = 4 ∧
        x.w0.toNat = m.bar % 128 + (m.base + v.done) % 256 * 2 ^ 8 ∧ x.w1.toNat = coreTime s ∧
        x.w2.toNat = n % 2 ^ 64 ∧ x.w3 = 0
      ∃ t x y, exec (.spanPhaseComplete n) s = .next t ∧ msg a x ∧ msg b y ∧
        (t.seq la.seqn).held = (s.seq la.seqn).held ++ [x] ∧ (t.seq lb.seqn).held = (s.seq lb.seqn).held ++ [y])

/-- R323, R359, R432: a watchdog that has run out stops its task with SEQ_WATCHDOG at the next instruction, disarmed; a host access
of 100,000 ticks stops its sequencer with MEM_HOST_TIMEOUT; RESUME lets a sequencer whose record is written go on at the place of
its stop; the host's answer in time is the bytes of its memory, which go to the register of a load, and a store's bytes stand in
the host, while a status branch takes its word; an answer after 100,000 ticks does nothing (R323, R364). That the host's data are
the bytes of its memory, and that any other answer does nothing, is the model's choice (log 55); no atomic waits for the host
(R333). -/
def SequencerEvents : Prop :=
  ∀ (s : State) (n : Nat),
    let q := s.seq n
    let stops (t : State) (c : Cause) (a : Word) : Prop :=
      (∃ r, t.records = s.records ++ [r] ∧ r.cause = c ∧ r.origin = .seq ∧ r.stop = true ∧ r.addr = addrOf c a) ∧
      (t.seq n).stop = some { cause := c, resume := q.pc } ∧ (t.seq n).pc = q.pc ∧ (t.seq n).waiting = none ∧
      (∀ x, (t.seq n).rd x = q.rd x) ∧ (∀ x, x ≠ n → t.seq x = s.seq x) ∧ t.mem = s.mem
    (q.wdogDue = true → q.running = true → s.seqFree n = true → ∃ t, exec (.watchdogExpiry n) s = .next t ∧
      stops t .seqWatchdog 0 ∧ (t.seq n).wdog = none ∧ (t.seq n).wdogDue = false) ∧
    (q.wdogDue = false → exec (.watchdogExpiry n) s = .next s) ∧
    (∀ w, q.waiting = some w → w.tag = none →
      (w.since + 100000 ≤ s.now → ∃ t, exec (.hostTimeout n) s = .next t ∧ stops t .memHostTimeout w.addr) ∧
      (s.now < w.since + 100000 → exec (.hostTimeout n) s = .next s)) ∧
    (∀ v, q.stop = some v → s.recordWaits n = false → ∃ t, exec (.resume n) s = .next t ∧
      SeqIs s t n { q with stop := none, pc := v.resume }) ∧
    (q.stop = none → exec (.resume n) s = .next s) ∧
    (∀ w (x : BitVec 64), q.waiting = some w → w.tag.isSome = true ∨ w.since + 100000 ≤ s.now →
      exec (.hostCompletion n x) s = .next s) ∧
    (∀ w d (x : BitVec 64), q.waiting = some w → w.tag = none → w.act = .load d → s.now < w.since + 100000 →
      (x = BitVec.ofNat 64 (leNat (memBytes s.mem (hostLoc w.bus) w.bytes.length)) → ∃ t r,
        exec (.hostCompletion n x) s = .next t ∧ SeqIs s t n r ∧ Writes q r d x ∧ r.pc = q.pc + 4 ∧ r.waiting = none) ∧
      (x ≠ BitVec.ofNat 64 (leNat (memBytes s.mem (hostLoc w.bus) w.bytes.length)) →
        exec (.hostCompletion n x) s = .next s)) ∧
    (∀ w mask off (x : BitVec 64), q.waiting = some w → w.tag = none → w.act = .test mask off → s.now < w.since + 100000 →
      x = BitVec.ofNat 64 (leNat (memBytes s.mem (hostLoc w.bus) w.bytes.length)) → ∃ t,
        exec (.hostCompletion n x) s = .next t ∧
        SeqIs s t n { q with waiting := none, pc := if x &&& mask ≠ 0 then branchTarget q.pc off else q.pc + 4 }) ∧
    (∀ w (x : BitVec 64), q.waiting = some w → w.tag = none → w.act = .store → s.now < w.since + 100000 →
      Memory.wf s.mem = true → ∃ t, exec (.hostCompletion n x) s = .next t ∧ t.seq n = { q with pc := q.pc + 4, waiting := none } ∧
        memBytes t.mem (hostLoc w.bus) w.bytes.length = w.bytes ∧
        (∀ y, y < hostLoc w.bus ∨ hostLoc w.bus + w.bytes.length ≤ y → memRead t.mem y = memRead s.mem y))

/-- R433, R434, R448: RELEASE lets every held break and trap of the launch proceed once; WGO ends the weight hold; a debug hold is
taken for a used input of the region while DEBUG is set, and any other write of DHOLD is ignored. -/
def LaunchControls : Prop :=
  ∀ (s : State) (n k : Nat) (l : Launch), s.seqLaunch n = some k → s.launch k = some l →
    (∃ t, exec (.release n) s = .next t ∧ { t with tiles := s.tiles } = s ∧
      (∀ x i, (t.tile x).slotSt i = if (s.tile x).launch = some k ∧ ((s.tile x).slotSt i).held = true then
        { (s.tile x).slotSt i with released := true } else (s.tile x).slotSt i) ∧
      (∀ x, { t.tile x with slots := (s.tile x).slots } = s.tile x)) ∧
    (∃ t, exec (.wgo n) s = .next t ∧ t.launch k = some { l with whold := false } ∧ (∀ x, x ≠ k → t.launch x = s.launch x) ∧
      { t with launches := s.launches } = s) ∧
    (∀ (r : Nat) (v : BitVec 64),
      let tile := fieldOf v.toNat 0 11
      let g := fieldOf v.toNat 11 9
      let legal : Prop := l.debug = true ∧ l.covers tile = true ∧ tile < 1536 ∧ (s.tile tile).plane.used g = true ∧ r < 4
      (legal → ∃ t, exec (.dholdWrite n r v) s = .next t ∧
        SeqIs s t n { s.seq n with dhold := tabPut (s.seq n).dhold r (v &&& 0x1FFFFF) }) ∧
      (¬ legal → exec (.dholdWrite n r v) s = .next s))

/-! ### Loads, swaps, pre-emption and resumption (R340 to R343, R393, R437 to R448) -/

/-- R296, R393: a LAUNCH whose image has loaded starts: its sequencer holds the task section in a local memory that is zero
otherwise, with CODELIM its length; the launch runs; the start message of channel 0 carries its payload; the packet goes on. -/
def LaunchStarts : Prop :=
  ∀ (s u : State) (k len : Nat) (l l1 : Launch) (task : List Byte) (i : Item), s.launch k = some l → l.phase = .loading →
    l.loadHeld = false → s.loadRecordWaits l.ctx = false → s.biasReady l = true → s.item l.item = some i → i.phase = .running →
    s.loadImage k l l.image.toNat = .ok u → u.launch k = some l1 → l1.phase = .loading → l1.seqn = l.seqn → l1.item = l.item →
    l1.payload = l.payload → u.item l.item = some i → u.taskSection l l.image.toNat = .ok (len, task) →
    task.length = len → len ≤ 262144 → Memory.wf u.mem = true →
    (∀ c, c ∈ u.pctxs → c.2.launch = some k → c.2.st ≠ .bound) → (∀ x, x ∈ l1.tiles → x < 1536) →
    ∃ t m, exec (.imageLoadComplete k) s = .next t ∧ memBytes t.mem (localLoc l.seqn 0) len = task ∧
      (∀ x, len ≤ x → x < 262144 → memRead t.mem (localLoc l.seqn x) = 0) ∧
      (t.seq l.seqn).codelim = BitVec.ofNat 19 len ∧ (t.seq l.seqn).held = (u.seq l.seqn).held ++ [m] ∧
      m.ch = 0 ∧ m.src = 1 ∧ m.cause = 0 ∧ m.w0 = l.payload.getD 0 0 ∧ m.w1 = l.payload.getD 1 0 ∧
      m.w2 = l.payload.getD 2 0 ∧ m.w3 = l.payload.getD 3 0 ∧
      (∃ v, t.launch k = some v ∧ v.phase = .running ∧ v.cfg = l1.cfg + 1 ∧ v.tasklen = len ∧ v.shadow = .none) ∧
      t.item l.item = some (doneItem u i)

/-- R149, R393, R429, R445: a load that meets a translation fault is recorded and held until a retry; one that fails otherwise fails its
LAUNCH packet with its cause, and the launch is over; a load that is held, that waits for its clusters or whose context has a record of the loader that waits, does nothing. -/
def LaunchLoadFails : Prop :=
  ∀ (s : State) (k : Nat) (l : Launch) (i : Item), s.launch k = some l → l.phase = .loading → s.item l.item = some i →
    i.phase = .running →
    (l.loadHeld = true ∨ s.biasReady l = false ∨ s.loadRecordWaits l.ctx = true → exec (.imageLoadComplete k) s = .next s) ∧
    (∀ e, l.loadHeld = false → s.loadRecordWaits l.ctx = false → s.biasReady l = true → s.loadImage k l l.image.toNat = .error e → e.cause.isXlt = true →
      ∃ t r, exec (.imageLoadComplete k) s = .next t ∧ t.records = s.records ++ [r] ∧ r.cause = e.cause ∧ r.origin = .loader ∧
        t.launch k = some { l with loadHeld := true } ∧ t.mem = s.mem) ∧
    (∀ e, l.loadHeld = false → s.loadRecordWaits l.ctx = false → s.biasReady l = true → s.loadImage k l l.image.toNat = .error e → e.cause.isXlt = false →
      ∃ t r, exec (.imageLoadComplete k) s = .next t ∧ t.records = s.records ++ [r] ∧ r.cause = e.cause ∧ r.origin = .loader ∧
        (∃ v, t.launch k = some v ∧ v.phase = .retired) ∧ (∃ j, t.item l.item = some j ∧ j.phase = .finished ∧ j.state = 2) ∧
        t.mem = s.mem)

/-- R340, R343: the load of a CFGLD that succeeds leaves its plane loaded and posts kind 1 with cause 0 and the image's address;
the launch goes on with its resident plane. -/
def ShadowLoads : Prop :=
  ∀ (s u : State) (k : Nat) (l v : Launch) (ch : BitVec 6) (gen : BitVec 8), s.launch k = some l → l.phase = .running →
    l.loadHeld = false → s.loadRecordWaits l.ctx = false → l.shadow = .loading → l.shPost = some (ch, gen) → l.shPosted = false →
    s.loadImage k l l.shImage.toNat = .ok u → (∃ w, u.taskSection l l.shImage.toNat = .ok w) → u.launch k = some v → v.phase = .running → v.seqn = l.seqn →
    ∃ t m, exec (.imageLoadComplete k) s = .next t ∧ t.launch k = some { v with shadow := .loaded, shPosted := true } ∧
      Holds u t l.seqn m ∧ m.ch = ch ∧ m.gen = gen ∧ m.src = 3 ∧ m.cause = 0 ∧ m.w0 = 1 ∧ m.w1 = l.shImage ∧
      m.w2.toNat = u.replica (seqClock l.seqn) % 2 ^ 64 ∧ m.w3 = 0 ∧ t.mem = u.mem ∧ t.tiles = u.tiles

/-- R442: the token passes a tile, with the tiles joined to it by a cycle, once the engines have drained and its conditions hold,
and nothing but that changes; where it finds a token it raises FLOW_STRAY_TOKEN, one record for each tile of the group that holds
one, and passes no tile of the group. -/
def TokenPasses : Prop :=
  ∀ (s : State) (x k : Nat) (l : Launch), (s.tile x).launch = some k → s.launch k = some l → l.covers x = true →
    l.reconf.isSome = true → l.shadow = .loaded → l.phase = .running → l.frozen = false → (s.tile x).passed = false →
    (s.tile x).strayed = false →
    let g := s.group l x
    let clear : Prop := s.enginesDrained k l = true ∧ ∀ y, y ∈ g → s.mayPass l g y = true
    (¬ clear → exec (.tokenPass x) s = .next s) ∧
    (clear → (∀ y, y ∈ g → s.strayAt y = none) → ∃ t, exec (.tokenPass x) s = .next t ∧
      (∀ y, t.tile y = if y ∈ g then { s.tile y with passed := true } else s.tile y) ∧ { t with tiles := s.tiles } = s) ∧
    (clear → ∃ t, exec (.tokenPass x) s = .next t ∧
      t.records.length = s.records.length + (g.filter (fun y => (s.strayAt y).isSome)).length ∧
      ∀ y, y ∈ g → (t.tile y).strayed = ((s.tile y).strayed || g.any (fun z => (s.strayAt z).isSome))) ∧
    (∀ y c d, clear → g = [y] → s.strayAt y = some (c, d) → ∃ t r, exec (.tokenPass x) s = .next t ∧
      t.records = s.records ++ [r] ∧ r.cause = .flowStrayToken ∧ r.origin = .tile ∧ r.stop = true ∧
      r.addr.toNat = (c + d * 8) % 2 ^ 64 ∧ (t.tile y).passed = (s.tile y).passed ∧ t.arcs = s.arcs ∧ t.mem = s.mem ∧
      (∀ v, (s.tile y).launch = some k → t.launch k = some v → v.frozen = true))

/-- R85, R378, R443: once every tile has passed and the accesses that its slots have fired have performed, all the tiles of the region take their shadow planes in one step, with flags clear and no
invocation begun, the streams Bound for the new configuration run and no other port context changes, and kind 2 with cause 0 is posted; until then no tile changes its plane. -/
def PlaneSwaps : Prop :=
  ∀ (s : State) (k : Nat) (l : Launch) (ch : BitVec 6) (gen : BitVec 8), s.launch k = some l → l.reconf = some (ch, gen) →
    l.shadow = .loaded → l.phase = .running → l.frozen = false → l.tiles.Nodup → (s.pctxs.map (fun x => x.1)).Nodup →
    let ready : Prop := s.enginesDrained k l = true ∧ ∀ x, x ∈ l.tiles → (s.tile x).passed = true ∧ (s.tile x).settled = true
    (¬ ready → exec (.planeSwap k) s = .next s) ∧
    (ready → ∃ t m, exec (.planeSwap k) s = .next t ∧
      (∀ x, x ∈ l.tiles → (t.tile x).plane = (s.tile x).shadow.getD Plane.empty ∧ (t.tile x).shadow = none ∧
        (t.tile x).flags = 0 ∧ (t.tile x).active = false ∧ (t.tile x).passed = false ∧ (t.tile x).strayed = false ∧ (t.tile x).slots = [] ∧
        (t.tile x).recs = [] ∧ (t.tile x).launch = (s.tile x).launch) ∧
      (∀ x, x ∉ l.tiles → t.tile x = s.tile x) ∧
      (∀ x, t.pctx x = if (s.pctx x).launch = some k ∧ (s.pctx x).st = .bound ∧ (s.pctx x).cfg = l.cfg + 1 then
        { s.pctx x with st := .running } else s.pctx x) ∧
      (∃ v, t.launch k = some v ∧ v.cfg = l.cfg + 1 ∧ v.shadow = .none ∧ v.reconf = none ∧ v.phase = .running) ∧
      Holds s t l.seqn m ∧ m.ch = ch ∧ m.gen = gen ∧ m.src = 3 ∧ m.cause = 0 ∧ m.w0 = 2 ∧ m.w1 = 0 ∧
      m.w2.toNat = s.replica (seqClock l.seqn) % 2 ^ 64 ∧ m.w3 = 0)

/-- R442, R444: a swap whose launch is frozen is refused, once every tile that the token has reached has been checked: every tile keeps its plane and loses its shadow plane, and kind 2 is posted
with the launch's cause. -/
def SwapsRefused : Prop :=
  ∀ (s : State) (k : Nat) (l : Launch) (ch : BitVec 6) (gen : BitVec 8) (c : Cause), s.launch k = some l →
    l.reconf = some (ch, gen) → l.frozen = true → l.phase = .running → l.lcause = some c → l.tiles.Nodup →
    (∀ x, x ∈ s.pctxs → x.2.launch = some k → x.2.st ≠ .bound) → (∀ x, x ∈ l.tiles → s.passGroup k l x = none) →
    ∃ t m, exec (.swapRefused k) s = .next t ∧
      (∀ x, x ∈ l.tiles → t.tile x = { s.tile x with shadow := none }) ∧ (∀ x, x ∉ l.tiles → t.tile x = s.tile x) ∧
      (∃ v, t.launch k = some v ∧ v.shadow = .none ∧ v.reconf = none ∧ v.cfg = l.cfg ∧ v.frozen = true) ∧
      Holds s t l.seqn m ∧ m.ch = ch ∧ m.gen = gen ∧ m.src = 3 ∧ m.w0.toNat = 2 + c.code * 2 ^ 16 ∧ m.w1 = 0 ∧ m.w3 = 0 ∧
      t.mem = s.mem

/-- R342, R343, R449: an armed drain watch posts once the region has drained, with SRC 7 and the time in word 1, and is disarmed;
until then it posts nothing. -/
def DrainWatches : Prop :=
  ∀ (s : State) (n k : Nat) (l : Launch) (ch : BitVec 6) (gen : BitVec 8), (s.seq n).drainWatch = some (ch, gen) →
    s.seqLaunch n = some k → s.launch k = some l → l.seqn = n →
    (s.drained k l = false → exec (.drainWatchPost n) s = .next s) ∧
    (s.drained k l = true → ∃ t m, exec (.drainWatchPost n) s = .next t ∧
      t.seq n = { s.seq n with drainWatch := none, held := (s.seq n).held ++ [m] } ∧ (∀ x, x ≠ n → t.seq x = s.seq x) ∧
      m.ch = ch ∧ m.gen = gen ∧ m.src = 7 ∧ m.cause = 0 ∧ m.w0 = 0 ∧ m.w1.toNat = s.replica (seqClock n) % 2 ^ 64 ∧ m.w2 = 0 ∧
      m.w3 = 0 ∧ { t with seqs := s.seqs, now := s.now } = s)

/-- R400, R437, R446: a running launch that must stop is marked stopping, its streams go on to their boundary and its shadow plane
is discarded; a frozen one is cancelled with SCH_PREEMPT_FROZEN, though a collective of it is open; one that is not asked to stop,
whose EDGE has not taken its end of stream, or whose entry stands in a linked pair, goes on, and no pre-emption takes effect
between the packets of any linked pair. -/
def PreEmptions : Prop :=
  ∀ (s : State) (k : Nat) (l : Launch), s.launch k = some l → l.endCause = none → l.tiles.Nodup →
    ((∃ i, s.item l.item = some i ∧ i.inPair = true) ∨ (∃ x, x ∈ s.items ∧ x.2.midPair = true) →
      exec (.preEmption k) s = .next s) ∧
    (l.phase = .running → s.mustStop k l = false ∨ (l.frozen = false ∧ s.openColl k = true) → exec (.preEmption k) s = .next s) ∧
    (l.phase = .running → l.frozen = false → s.mustStop k l = true → s.openColl k = false →
      (∀ i, s.item l.item = some i → i.inPair = false) → (∀ x, x ∈ s.items → x.2.midPair = false) →
      ∃ t v, exec (.preEmption k) s = .next t ∧
      t.launch k = some v ∧ v.phase = .stopping ∧ v.shadow = .none ∧ v.reconf = none ∧ v.asked = false ∧
      (∃ w, v.saved = some w ∧ w.load = (if l.shadow = .none then none else l.shPost) ∧ w.posted = l.shPosted ∧
        w.img = l.shImage ∧ w.rcp = l.reconf) ∧
      (∀ x, (t.pctx x) = if (s.pctx x).launch = some k ∧ (s.pctx x).st = .running then { s.pctx x with st := .stopping }
        else s.pctx x) ∧
      (∀ x, (t.tile x).plane = (s.tile x).plane ∧ (x ∈ l.tiles → (t.tile x).shadow = none)) ∧ t.seqs = s.seqs ∧ t.mem = s.mem) ∧
    (∀ i, l.phase = .stopping ∨ (l.phase = .running ∧ s.mustStop k l = true) → l.frozen = true →
      s.item l.item = some i → i.phase = .running → i.inPair = false → (∀ x, x ∈ s.items → x.2.midPair = false) →
      ∃ t r more, exec (.preEmption k) s = .next t ∧ t.records = s.records ++ r :: more ∧ r.cause = .schPreemptFrozen ∧
        r.origin = .complex ∧ r.stop = false ∧ (∀ e, e ∈ more → e.cause = .netCollAbort ∧ e.origin = .indigo) ∧
        (∀ n c, s.coll n = some c → c.launch = some k → ∃ d, t.coll n = some d ∧ d.cancelled = true) ∧
        (∃ v, t.launch k = some v ∧ v.phase = .stopping ∧ v.endCause = some .schPreemptFrozen ∧ v.saved = none) ∧
        (∃ j, t.item l.item = some j ∧ j.phase = .finished ∧ j.state = 3)) ∧
    (l.phase = .stopping → l.frozen = false → exec (.preEmption k) s = .next s)

/-- R397, R407, R408, R431: a LAUNCH whose load has not ended gives up its place and waits again; a cancelled launch whose engines
have drained ends, with its tiles and its sequencer free; one that an overrun aborts while it runs ends as RETIRE with CANCEL ends
it. When the engines of a frozen launch count as drained is the model's choice (log 40). -/
def LaunchesEnd : Prop :=
  ∀ (s : State) (k : Nat) (l : Launch), s.launch k = some l → s.saving = false →
    (∀ i, l.endCause = none → l.phase = .loading → s.mustStop k l = true → s.item l.item = some i → s.placed l = true →
      i.inPair = false → (∀ x, x ∈ s.items → x.2.midPair = false) →
      ∃ t, exec (.preEmption k) s = .next t ∧
        t.launch k = some { l with phase := .waiting, loadHeld := false, asked := false } ∧
        t.item l.item = some { i with phase := .admitted, background := i.background || (i.ovr && !i.abort) } ∧ t.seq l.seqn = Seq.reset ∧
        (∀ x, l.covers x = true → t.tile x = Tile.reset)) ∧
    (∀ c, l.endCause = some c → l.phase = .stopping ∨ l.phase = .running → s.placed l = true →
      let ended : Bool := if l.phase = .running then s.retirable k l else s.endable k l
      (ended = false → exec (.preEmption k) s = .next s) ∧
      (ended = true → ∃ t v, exec (.preEmption k) s = .next t ∧ t.launch k = some v ∧ v.phase = .ended ∧
        v.endCause = some c ∧ v.saved = none ∧ t.seq l.seqn = Seq.reset ∧ (∀ x, l.covers x = true → t.tile x = Tile.reset))) ∧
    (s.endable k l = true ↔ (∀ c, c ∈ s.pctxs → c.2.launch = some k → c.2.st ≠ .free →
      (spReads c.2.spec.toNat = true → c.2.statusDone = true) ∧ c.2.tag = none) ∧ s.copiesOf k = [] ∧ s.collsOf k = [] ∧
      (s.seq l.seqn).waiting = none)

/-- R437, R440: in one step of the model, and with open bytes for the body of the area (the model's choice, log 14), a launch is not
saved before it is quiescent; then its save area is written and its place is free, it is saved with
one save more, its streams' port contexts are free, and what the save keeps is what the region, the streams and the sequencer
held; a fault of the area cancels it with SCH_SAVE_FAULT, and what has been written stays. -/
def Saves : Prop :=
  ∀ (s : State) (k : Nat) (l : Launch) (v : Saved), s.launch k = some l → l.phase = .stopping → l.frozen = false →
    l.endCause = none → l.saved = some v → s.saving = false →
    let still : Prop := (s.seq l.seqn).waiting = none ∧ s.quiescent k l = true
    let kept := s.keepLaunch k l v
    (¬ still → exec (.saveCommit k) s = .next s) ∧
    (∀ u, still → s.saveArea l kept = .ok u → u.placed l = true → u.launches = s.launches → u.pctxs = s.pctxs →
      ∃ t, exec (.saveCommit k) s = .next t ∧
        t.launch k = some { l with phase := .saved, saved := some kept, nsave := l.nsave + 1, whold := false } ∧
        t.seq l.seqn = Seq.reset ∧ (∀ x, l.covers x = true → t.tile x = Tile.reset) ∧
        (∀ x, x ∈ t.pctxs → x.2.launch ≠ some k) ∧ t.mem = u.mem) ∧
    (∀ u, still → s.saveArea l kept = .error u → u.launches = s.launches → u.pctxsOf k = [] → u.copiesOf k = [] →
      u.collsOf k = [] → ∃ t r, exec (.saveCommit k) s = .next t ∧ t.records = u.records ++ [r] ∧ r.cause = .schSaveFault ∧
        r.origin = .complex ∧ t.mem = u.mem ∧ ∃ w, t.launch k = some w ∧ w.phase = .stopping ∧ w.endCause = some .schSaveFault ∧ w.saved = none) ∧
    kept.seq = { s.seq l.seqn with utlb := [] } ∧
    (∀ x, l.covers x = true → tabGet kept.tiles x Tile.reset = { s.tile x with shadow := none, passed := false, strayed := false }) ∧
    (Memory.wf s.mem = true → ∀ a, memRead kept.bytes a = if s.savesLoc l a then memRead s.mem a else 0) ∧
    (∀ g, g ∈ kept.poison ↔ g ∈ s.poison ∧ s.savesLoc l (16 * g) = true) ∧
    (∀ n c, (n, c) ∈ s.pctxs → c.launch = some k → c.st ≠ .free → ∃ d, (n, d) ∈ kept.pctxs ∧ d.tlb = c.tlb ∧
      { d with st := c.st } = c ∧ (c.st = .running ∨ c.st = .stopping → d.st = .saved)) ∧ kept.load = v.load ∧ kept.rcp = v.rcp

/-- R439: the header of a save holds its fields where the layout puts them. -/
def SaveHeaders : Prop :=
  ∀ (l : Launch) (v : Saved) (time n crc : Nat), l.ctx < 2 ^ 12 → l.ltag < 2 ^ 15 → l.seqn < 32 → l.x0 < 32 → l.y0 < 64 →
    l.lw < 8 → l.lh < 8 → l.saveLen < 2 ^ 64 → time < 2 ^ 64 → crc < 2 ^ 64 →
    let h := saveHeader l v time n crc
    let z := 81920 + 16 * l.pg + 98304 * l.wsp.toNat + 53248 * l.evp.toNat
    fieldOf h 0 64 = 0x0045564153564E52 ∧ fieldOf h 64 8 = 1 ∧ fieldOf h 72 12 = l.ctx ∧ fieldOf h 84 15 = l.ltag ∧
    fieldOf h 99 5 = l.seqn ∧ fieldOf h 104 5 = l.x0 ∧ fieldOf h 109 6 = l.y0 ∧ fieldOf h 115 3 = l.lw ∧
    fieldOf h 118 3 = l.lh ∧ fieldOf h 121 1 = l.whole.toNat ∧ fieldOf h 122 6 = 0 ∧
    fieldOf h 128 64 = 0x90000 + (z + 4095) / 4096 * 4096 * l.area ∧ fieldOf h 192 64 = time ∧
    fieldOf h 256 32 = n % 2 ^ 32 ∧ fieldOf h 288 32 = 0 ∧ fieldOf h 320 64 = crc ∧
    (fieldOf h 384 1 = 1 ↔ v.load.isSome = true ∧ v.posted = false) ∧ (fieldOf h 385 1 = 1 ↔ v.rcp.isSome = true) ∧
    fieldOf h 386 6 = (match v.load with | none => 0 | some p => p.1.toNat) ∧
    fieldOf h 392 6 = (match v.rcp with | none => 0 | some p => p.1.toNat) ∧
    (fieldOf h 398 1 = 1 ↔ v.load.isSome = true ∧ v.posted = true) ∧ fieldOf h 399 49 = 0 ∧
    fieldOf h 448 64 = if v.load.isSome then v.img.toNat else 0

/-- R309, R408, R447, R448: a saved launch that has its place again resumes: its sequencer, its tiles with their resident planes, its streams
and the bytes of its local memory and of its tiles that the save keeps are as they were saved, its load and its token go on, and without WSP a region with a matrix tile starts
under the weight hold; a save area that a check fails cancels it with SCH_SAVE_CORRUPT, after the island's record of an
uncorrectable error in it. That what the save keeps stands beside the area is the model's choice (log 14). -/
def Resumptions : Prop :=
  ∀ (s : State) (k : Nat) (l : Launch) (v : Saved) (p : Pick), s.launch k = some l → l.phase = .saved → l.endCause = none →
    l.saved = some v → s.clearPick k = some p → s.biasReady l = true → s.blocksFree l = true →
    (∀ x, x ∈ v.pctxs → (s.pctx x.1).st = .free) → l.tiles.Nodup → (v.tiles.map (fun x => x.1)).Nodup →
    (v.pctxs.map (fun x => x.1)).Nodup → l.whold = false → Memory.wf s.mem = true → Memory.wf v.bytes = true → l.pg ≤ 1536 →
    (s.savedHeader l = none → s.pctxsOf k = [] → s.copiesOf k = [] → s.collsOf k = [] →
      ∃ t pre r, exec (.launchResume k) s = .next t ∧ t.records = s.records ++ pre ++ [r] ∧ r.cause = .schSaveCorrupt ∧
      (pre = [] ∨ ∃ e, pre = [e] ∧ e.cause = .memDataError ∧ e.origin = .island ∧ e.ctx = some l.ctx ∧ e.stop = false) ∧
      (s.poison = [] → pre = []) ∧ r.origin = .complex ∧ ∃ w, t.launch k = some w ∧ w.phase = .ended ∧ w.endCause = some .schSaveCorrupt) ∧
    (∀ h, s.savedHeader l = some h → ∃ t w, exec (.launchResume k) s = .next t ∧ t.launch k = some w ∧ w.phase = .running ∧
      w.saved = none ∧ w.nsave = l.nsave ∧ w.asked = false ∧ w.shImage.toNat = fieldOf h 448 64 ∧
      (w.reconf = if fieldOf h 385 1 = 1 then
        some (BitVec.ofNat 6 (fieldOf h 392 6), match v.rcp with | some x => x.2 | none => 0) else none) ∧
      (w.shPost = if fieldOf h 384 1 = 1 ∨ fieldOf h 398 1 = 1 then
        some (BitVec.ofNat 6 (fieldOf h 386 6), match v.load with | some x => x.2 | none => 0) else none) ∧
      (w.shadow = if fieldOf h 384 1 = 1 ∨ fieldOf h 398 1 = 1 then .loading else .none) ∧
      (w.shPosted = true ↔ fieldOf h 398 1 = 1) ∧
      (∀ i, s.item l.item = some i → t.item l.item = some { i with background := i.background || (i.ovr && !i.abort) }) ∧
      (∀ g, localLoc l.seqn 0 ≤ 16 * g → 16 * g < localLoc l.seqn 262144 → (g ∈ t.poison ↔ g ∈ v.poison)) ∧
      (∀ a, t.savesLoc l a = true → memRead t.mem a = memRead v.bytes a) ∧
      (∀ x y, tabFind v.tiles x = some y → t.tile x = { y with launch := some k, pool := 0 }) ∧
      (∀ x y, tabFind v.pctxs x = some y → t.pctx x = if y.st = .saved then { y with st := .running } else y) ∧
      { t.seq l.seqn with held := v.seq.held } = { v.seq with launch := some k } ∧
      (w.whold = true → w.wsp = false) ∧
      (l.wsp = false → (∃ x y, x ∈ l.tiles ∧ tabFind v.tiles x = some y ∧ (y.plane.mode = 1 ∨ y.plane.mode = 2)) → w.whold = true ∧
        ∃ m, (t.seq l.seqn).held = v.seq.held ++ [m] ∧ m.ch = 0 ∧ m.src = 1 ∧ m.w0 = BitVec.allOnes 64 ∧
          m.w1.toNat = l.nsave % 2 ^ 64 ∧ m.w3 = 0))

/-! ### The domain: links, peer requests and collectives (R270 to R292) -/

/-- The class of `f` has room on a port: none of its flits waits there, and the class has fewer than 85 of the 256 places of the
replay buffer (R271, R272; the shares are the model's choice, log 16). -/
def ClassRoom (v : Port) (f : Flit) : Prop :=
  (∀ x, x ∈ v.pending → x.1.cls ≠ f.cls) ∧ (v.buffer.filter (fun g => g.cls == f.cls)).length < 85

/-- A flit with the header and payload of `f` leaves on port `p`, sealed with a CRC that stands, the next sequence number and the
number last received, and stays in the replay buffer; while its class has no room it waits in order behind that class (R271, R272).
Nothing else changes. -/
def SendsOn (s t : State) (p : Nat) (f : Flit) (nak : Bool) : Prop :=
  let v := s.port p
  (ClassRoom v f → ∃ g : Flit, t.sent = .flit p g :: s.sent ∧ g.header = f.header ∧
    g.payload = f.payload ∧ g.crcOk = true ∧ g.seqNo = (v.sent.toNat + 1) % 2 ^ 16 ∧ g.ack = v.received.toNat ∧ g.nak = nak ∧
    t.port p = { v with sent := v.sent + 1, buffer := v.buffer ++ [g] }) ∧
  (¬ ClassRoom v f → t.sent = s.sent ∧ t.port p = { v with pending := v.pending ++ [(f, nak)] }) ∧
  (∀ x, x ≠ p → t.port x = s.port x) ∧ { t with sent := s.sent, net := { t.net with ports := s.net.ports } } = s

/-- Port `p` is `v`, and nothing else has changed. -/
def PortIs (s t : State) (p : Nat) (v : Port) : Prop :=
  t.port p = v ∧ (∀ x, x ≠ p → t.port x = s.port x) ∧ { t with net := { t.net with ports := s.net.ports } } = s

/-- The flit is the next one in sequence on its port (R271). -/
def InOrder (s : State) (p : Nat) (f : Flit) : Prop := f.seqNo % 2 ^ 16 = ((s.port p).received.toNat + 1) % 2 ^ 16

/-- R270, R271: a flit that fails its CRC is answered with NAK; on a NAK that has come the replay buffer goes out again in order,
and after eight failed replays UP is clear; a flit of a bad type or length is counted in BADFLIT and does nothing but what its
trailer says; one out of sequence does nothing; a link that firmware, in STAGE 2 or 3, has retrained is up, empty, and leads to
its partner. Each traffic class waits for room of its own (R272; its 85 places are the model's choice, log 16). -/
def LinkEvents : Prop :=
  ∀ (s : State) (p : Nat),
    let v := s.port p
    (∀ f : Flit, f.crcOk = false → v.up = true → ∃ t g, exec (.flitCrcMismatch p f) s = .next t ∧ SendsOn s t p g true ∧
      g.type = 7 ∧ g.srcp = s.pkg ∧ g.dstp = v.peer.toNat) ∧
    (∀ f : Flit, f.crcOk = true → exec (.flitCrcMismatch p f) s = .next s) ∧
    (v.up = true → v.naked = true → v.buffer ≠ [] → v.failed < 8 → ∃ t, exec (.flitReplay p) s = .next t ∧
      t.sent = (v.buffer.map (Sent.flit p)).reverse ++ s.sent ∧ (t.port p).buffer = v.buffer ∧
      (t.port p).replay.toNat = min (v.replay.toNat + v.buffer.length) 0xFFFF ∧ (t.port p).failed = v.failed + 1 ∧
      (t.port p).up = true ∧ (t.port p).naked = false ∧ (∀ x, x ≠ p → t.port x = s.port x) ∧
      { t with sent := s.sent, net := { t.net with ports := s.net.ports } } = s) ∧
    (v.up = true → v.naked = true → v.buffer ≠ [] → 8 ≤ v.failed → ∃ t, exec (.flitReplay p) s = .next t ∧
      PortIs s t p { v with up := false, naked := false, buffer := [], pending := [] }) ∧
    (v.up = false ∨ v.naked = false ∨ v.buffer = [] → exec (.flitReplay p) s = .next s) ∧
    (∀ f : Flit, f.crcOk = true → v.up = true → 8 ≤ f.type ∨ f.len16 = 15 → InOrder s p f →
      ∃ t, exec (.badflit p f) s = .next t ∧ (t.port p).badflit = (if v.badflit = 0xFFFF then v.badflit else v.badflit + 1) ∧
        (t.port p).received.toNat = f.seqNo % 2 ^ 16 ∧ (∀ x, x ≠ p → t.port x = s.port x) ∧
        { t with sent := s.sent, net := { t.net with ports := s.net.ports } } = s ∧ (v.pending = [] → t.sent = s.sent)) ∧
    (∀ f : Flit, (f.type < 8 ∧ f.len16 ≠ 15) ∨ ¬ InOrder s p f → exec (.badflit p f) s = .next s) ∧
    (∀ peer : BitVec 6, p < 12 → s.part.ports.getLsbD p = true → fieldOf s.ctl.bootst.toNat 0 4 ≠ 2 → fieldOf s.ctl.bootst.toNat 0 4 ≠ 3 →
      exec (.linkRetrained p peer) s = .next s) ∧
    (∀ peer : BitVec 6, p < 12 → s.part.ports.getLsbD p = true →
      fieldOf s.ctl.bootst.toNat 0 4 = 2 ∨ fieldOf s.ctl.bootst.toNat 0 4 = 3 → ∃ t, exec (.linkRetrained p peer) s = .next t ∧
      t.port p = { v with up := true, peer := peer, buffer := [], failed := 0, sent := 0, received := 0, pending := [],
                          naked := false } ∧
      (∀ x, x ≠ p → t.port x = s.port x) ∧ (tabGet t.net.routes peer.toNat 0).toNat = (p + 16) % 32 ∧
      (∀ x, x ≠ peer.toNat → tabGet t.net.routes x 0 = tabGet s.net.routes x 0) ∧
      { t with net := { t.net with ports := s.net.ports, routes := s.net.routes } } = s)

/-- R272, R274: a flit for another package that stands and comes next on its link leaves by its own route,
unchanged but for its trailer; without a route it is dropped (the model's choice, log 16); one out of sequence is not taken. -/
def FlitsForwarded : Prop :=
  ∀ (s : State) (p : Nat) (f : Flit), f.crcOk = true → (s.port p).up = true → f.type < 8 → f.len16 < 15 → f.dstp ≠ s.pkg →
    let u := s.acceptOn p f
    (¬ InOrder s p f → exec (.flitForward p f) s = .next s) ∧
    (InOrder s p f →
      { u with sent := s.sent, net := { u.net with ports := s.net.ports } } = s ∧
      (u.port p).received.toNat = f.seqNo % 2 ^ 16 ∧ ((u.port p).naked = true ↔ (s.port p).naked = true ∨ f.nak = true) ∧
      (∀ g, g ∈ (s.port p).buffer → g.seqNo = f.ack → (s.port p).pending = [] →
        g ∉ (u.port p).buffer) ∧
      (∀ o, s.routeTo f.dstp = some o → ∃ t, exec (.flitForward p f) s = .next t ∧ SendsOn u t o f false) ∧
      (s.routeTo f.dstp = none → exec (.flitForward p f) s = .next u))

/-- A response to request `f` leaves for its sender with its context and tag (R270, R275). -/
def Answers (u t : State) (f : Flit) (sub pmask : Nat) (g : Flit) : Prop :=
  (∃ p, u.routeTo f.srcp = some p ∧ SendsOn u t p g false) ∧ g.type = 4 ∧ g.srcp = u.pkg ∧ g.dstp = f.srcp ∧ g.ctx = f.ctx ∧
    g.tag = f.tag ∧ g.sub = sub ∧ g.pmask = pmask

/-- R275: a request of a size or an operation that does not exist, and one that faults at the destination, performs nothing; its
response carries the cause. The request's size in the last payload word is the model's choice (log 16). -/
def PeerFaults : Prop :=
  ∀ (s : State) (q : Nat) (f : Flit) (p : Nat), s.routeTo f.srcp = some p →
    let u := s.acceptOn q f
    let n := f.lastWord
    let m := if f.len16 = 14 then 224 else n
    let fails (i : Instr) (c : Cause) : Prop :=
      ∃ t g, exec i s = .next t ∧ Answers u t f 1 0 g ∧ g.pay 0 = c.code ∧ t.mem = s.mem ∧ t.records = s.records
    (s.takes q f 1 = true → n = 0 ∨ 224 < n → fails (.readRequest ⟨q, f⟩) .netProtocol) ∧
    (∀ c, s.takes q f 1 = true → 0 < n → n ≤ 224 → u.peerPlace f.ctx f.addr .read n = .error c → fails (.readRequest ⟨q, f⟩) c) ∧
    (s.takes q f 2 = true → m = 0 ∨ 224 < m → fails (.writeRequest ⟨q, f⟩) .netProtocol) ∧
    (∀ c, s.takes q f 2 = true → 0 < m → m ≤ 224 → u.peerPlace f.ctx f.addr .write m = .error c → fails (.writeRequest ⟨q, f⟩) c) ∧
    (s.takes q f 3 = true → 8 ≤ f.sub ∨ (n ≠ 4 ∧ n ≠ 8) → fails (.atomicRequest ⟨q, f⟩) .netProtocol) ∧
    (s.takes q f 3 = true → f.sub < 8 → n = 4 ∨ n = 8 → f.addr % n ≠ 0 → fails (.atomicRequest ⟨q, f⟩) .memMisaligned) ∧
    (∀ c, s.takes q f 3 = true → f.sub < 8 → n = 4 ∨ n = 8 → f.addr % n = 0 →
      u.peerPlace f.ctx f.addr .atomic n = .error c → fails (.atomicRequest ⟨q, f⟩) c)

/-- The place of each byte of an access, from its parts: each part is a location and a number of bytes (R38). -/
def bytePlaces (ps : List (Nat × Nat)) : List Nat := ps.flatMap (fun p => (List.range p.2).map (fun i => p.1 + i))

/-- R38, R275, R277: a read answers with the bytes at its address and marks the words that hold an error, of which the island writes
its record; a write writes its bytes, in each 128 KiB span where that span is, but for the words that PMASK marks, for which there
is one record PSN_STORE and that answer. -/
def PeerReadsAndWrites : Prop :=
  ∀ (s : State) (q : Nat) (f : Flit) (p : Nat) (ps : List (Nat × Nat)), s.routeTo f.srcp = some p → Memory.wf s.mem = true →
    let u := s.acceptOn q f
    let n := f.lastWord
    let m := if f.len16 = 14 then 224 else n
    let at_ := bytePlaces ps
    (s.takes q f 1 = true → 0 < n → n ≤ 224 → u.peerPlace f.ctx f.addr .read n = .ok ps →
      ∃ t g w, exec (.readRequest ⟨q, f⟩) s = .next t ∧ Answers w t f 0 g.pmask g ∧ t.mem = s.mem ∧
        (leBytes 224 g.payload.toNat).take n = at_.map (memRead s.mem) ∧
        (∀ l i, ps = [(l, n)] → i < (n + 7) / 8 →
          (g.pmask.testBit i = true ↔ (s.dataError (l + 8 * i) (min 8 (n - 8 * i))).isSome = true)) ∧
        ((∀ x, x ∈ at_ → s.granulePoison x = false) → w = u) ∧
        (∀ l x, ps = [(l, n)] → x ∈ at_ → s.granulePoison x = true → ∃ r, t.records = s.records ++ [r] ∧
          r.cause = .memDataError ∧ r.origin = .island ∧ r.ctx = some f.ctx ∧ r.stop = false)) ∧
    (s.takes q f 2 = true → 0 < m → m ≤ 224 → u.peerPlace f.ctx f.addr .write m = .ok ps → at_.Nodup →
      ∃ t g w, exec (.writeRequest ⟨q, f⟩) s = .next t ∧
        (∀ i x, at_[i]? = some x → memRead t.mem x = if f.pmask.testBit (i / 8) then memRead s.mem x
          else (leBytes 224 f.payload.toNat).getD i 0) ∧
        (∀ x, x ∉ at_ → memRead t.mem x = memRead s.mem x) ∧
        (f.pmask = 0 → t.records = s.records ∧ w = { u with mem := t.mem, poison := t.poison } ∧ Answers w t f 0 0 g) ∧
        (f.pmask ≠ 0 → Answers w t f 1 0 g ∧ g.pay 0 = 0x100 ∧ ∃ r, t.records = s.records ++ [r] ∧ r.cause = .psnStore ∧
          r.origin = .peer ∧ r.ctx = some f.ctx ∧ r.stop = false ∧ r.addr.toNat = f.addr % 2 ^ 64))

/-- R275, R276, R334: an atomic of 4 or 8 bytes leaves in memory what its operation makes of the old value, the operand and the
expected value, and answers with the old value; one that meets an error performs nothing and answers with its cause. The operand,
the expected value and the unsigned flag in payload words 0 to 2 are the model's choice (log 16). -/
def PeerAtomics : Prop :=
  ∀ (s : State) (q : Nat) (f : Flit) (p l b : Nat) (ps : List (Nat × Nat)), s.routeTo f.srcp = some p → Memory.wf s.mem = true →
    s.takes q f 3 = true →
    let u := s.acceptOn q f
    let n := f.lastWord
    n = 4 ∨ n = 8 → f.addr % n = 0 → u.peerPlace f.ctx f.addr .atomic n = .ok ((l, b) :: ps) →
    (∀ c, f.sub < 8 → s.dataError l n = some c → ∃ t g w, exec (.atomicRequest ⟨q, f⟩) s = .next t ∧ Answers w t f 1 0 g ∧
      g.pay 0 = c.code ∧ t.mem = s.mem) ∧
    (s.dataError l n = none →
    let old := leNat (memBytes s.mem l n)
    let x := f.pay 0 % 2 ^ (8 * n)
    let below : Bool := if f.pay 2 = 1 then decide (x < old) else decide (toSigned (8 * n) x < toSigned (8 * n) old)
    f.sub < 8 → ∃ t g, exec (.atomicRequest ⟨q, f⟩) s = .next t ∧ g.pay 0 = old ∧ t.records = s.records ∧
      (∀ y, y < l ∨ l + n ≤ y → memRead t.mem y = memRead s.mem y) ∧
      leNat (memBytes t.mem l n) =
        (if f.sub = 0 then (old + x) % 2 ^ (8 * n) else if f.sub = 1 then Nat.land old x else if f.sub = 2 then Nat.lor old x
        else if f.sub = 3 then Nat.xor old x else if f.sub = 4 then (if below = true then x else old)
        else if f.sub = 5 then (if below = true ∨ x = old then old else x) else if f.sub = 6 then x
        else if old = f.pay 1 % 2 ^ (8 * n) then x else old) ∧
      Answers { u with mem := t.mem, poison := t.poison } t f 0 0 g)

/-- R275, R277, R278: the response of a sequencer's request completes its load, or stops it with the cause that it carries, or
with MEM_DATA_ERROR when its data is poisoned; a response without a request, or 100,000 ticks after it, changes nothing but its
port; a request without a response for 100,000 ticks stops the sequencer with NET_TIMEOUT, and an earlier one waits. -/
def PeerAnswers : Prop :=
  ∀ (s : State) (n tag : Nat) (w : Waiting) (r : PeerReq), (s.seq n).waiting = some w → w.tag = some tag →
    tabFind s.net.reqs tag = some r → r.who = .seq n →
    let q := s.seq n
    let stops (t : State) (c : Cause) (o : Origin) : Prop :=
      (∃ x, t.records = s.records ++ [x] ∧ x.cause = c ∧ x.origin = o ∧ x.addr = addrOf c w.addr) ∧
      (t.seq n).stop = some { cause := c, resume := q.pc } ∧ (∀ x, (t.seq n).rd x = q.rd x) ∧ t.mem = s.mem
    (∀ (o : Nat) (f : Flit), s.takes o f 4 = true → f.tag = tag → f.srcp = r.dst → s.now < r.since + 100000 →
      (∀ d, f.sub = 0 → f.pmask = 0 → w.act = .load d → ∃ t v, exec (.response ⟨o, f⟩) s = .next t ∧ t.seq n = v ∧
        Writes q v d (BitVec.ofNat 64 (f.pay 0 % 2 ^ (8 * w.bytes.length))) ∧ v.pc = q.pc + 4 ∧ v.waiting = none ∧
        tabFind t.net.reqs tag = none ∧ (∀ x, x ≠ n → t.seq x = s.seq x) ∧ t.mem = s.mem ∧ t.records = s.records) ∧
      (f.sub = 0 → f.pmask = 0 → w.act = .store → ∃ t, exec (.response ⟨o, f⟩) s = .next t ∧
        t.seq n = { q with pc := q.pc + 4, waiting := none } ∧ tabFind t.net.reqs tag = none ∧ t.mem = s.mem ∧
        t.records = s.records) ∧
      (f.sub = 0 → f.pmask ≠ 0 → ∃ t, exec (.response ⟨o, f⟩) s = .next t ∧ stops t .memDataError .seq) ∧
      (∀ c, f.respCause = some c → ∃ t, exec (.response ⟨o, f⟩) s = .next t ∧ stops t c .peer)) ∧
    (∀ (o : Nat) (f : Flit), s.takes o f 4 = true → tabFind s.net.reqs f.tag = none ∨ (f.tag = tag ∧ r.since + 100000 ≤ s.now) →
      exec (.response ⟨o, f⟩) s = .next (s.acceptOn o f)) ∧
    (r.since + 100000 ≤ s.now → ∃ t, exec (.netTimeout tag) s = .next t ∧ stops t .netTimeout .seq ∧
      tabFind t.net.reqs tag = none) ∧
    (s.now < r.since + 100000 → exec (.netTimeout tag) s = .next s)

/-- A flit with property `good` leaves on port `p`, or waits there for room of its class. -/
def Leaves (s t : State) (p : Nat) (good : Flit → Prop) : Prop :=
  ∃ g, good g ∧ ((∃ new, t.sent = new ++ s.sent ∧ Sent.flit p g ∈ new) ∨ ∃ b, (g, b) ∈ (t.port p).pending)

/-- The collective with key `k` is `c`, and the other collectives are as before. -/
def CollIs (s t : State) (k : Nat) (c : Coll) : Prop := t.coll k = some c ∧ ∀ x, x ≠ k → t.coll x = s.coll x

/-- A member's collective fails with cause `c`: one record that names package `p`, nothing written, an abort on its way to every
neighbour that a route leads to, and no flit of it left that came early (R291; the abort's code 2 is the model's choice, log 16). -/
def CollFails (s t : State) (k : Nat) (c : Coll) (why : Cause) (p : Nat) : Prop :=
  (∃ r, t.records = s.records ++ [r] ∧ r.cause = why ∧ r.origin = .indigo ∧ r.ctx = some c.ctx ∧ r.stop = false ∧
    r.pos = k / 65536 + k % 65536 * 2 ^ 3 + p * 2 ^ 19) ∧
  (∃ d, t.coll k = some d ∧ d.failed = some why) ∧ t.mem = s.mem ∧ (∀ x, x ≠ k → t.coll x = s.coll x) ∧
  (∀ q o, q ∈ c.neighbours s.pkg → s.routeTo q = some o → c.ctx < 4096 →
    Leaves s t o (fun g => g.type = 6 ∧ g.srcp = s.pkg ∧ g.dstp = q ∧ g.addr % 65536 = clId c.v ∧ g.pay 0 = 2)) ∧
  (∀ f, f ∈ t.net.early → f ∈ s.net.early ∧ f.addr % 65536 ≠ k % 65536)

/-- The neighbour behind input `j`, 0 the parent, has still to send something and has sent nothing for 10^6 ticks (R291). -/
def Quiet (c : Coll) (now j : Nat) : Prop :=
  let i := if j = 0 then c.down else c.input j
  (i.met = false ∨ (i.ended = false ∧ ¬ (0 < j ∧ 3 ≤ clKind c.v ∧ clKind c.v ≠ 4)) ∨ (clSparse c.v = true ∧ i.settled = false)) ∧
    i.heard + 1000000 ≤ now

/-- R283, R289, R291: a flit waits while its collective is not active or earlier flits wait. Then a child's unit joins its input,
an end ends a phase with its status, an equal digest is noted; an unequal one fails it (NET_COLL_MISMATCH), an abort at once
(NET_COLL_ABORT), a flit after 10^6 silent ticks too (NET_TIMEOUT), with aborts to every neighbour. Payload codes 0 to 4 and early
flits are the model's choice (log 16). -/
def CollectiveFlits : Prop :=
  ∀ (s : State) (q : Nat) (f : Flit) (k : Nat) (c : Coll), s.collById (f.addr % 65536) = some (k, c) → s.coll k = some c →
    c.failed = none → c.complete = false →
    let digest : BitVec 64 := BitVec.ofNat 64 (f.pay 1)
    let first : Prop := ∀ e, e ∈ s.net.early → e.addr % 65536 ≠ f.addr % 65536
    let does (t : State) : Prop := (f.type = 5 → exec (.collectiveData ⟨q, f⟩) s = .next t) ∧
      (f.type = 6 → exec (.collectiveControl ⟨q, f⟩) s = .next t)
    let comes : Prop := s.takes q f 5 = true ∨ (s.takes q f 6 = true ∧ f.pay 0 ≠ 2)
    (comes → c.active = false → ∃ t, does t ∧
      t.net.early = s.net.early ++ [f] ∧ t.coll k = s.coll k ∧ t.mem = s.mem ∧ t.records = s.records) ∧
    (comes → c.active = true → ¬ first → (∀ j, c.from? s.pkg f.srcp = some j → ¬ Quiet c s.now j) → ∃ t d, does t ∧
      t.net.early = s.net.early ++ [f] ∧ t.coll k = some d ∧ (∀ j, (d.input j).units = (c.input j).units) ∧ t.mem = s.mem ∧
      t.records = s.records) ∧
    (s.takes q f 6 = true → f.pay 0 = 2 → ∃ t, exec (.collectiveControl ⟨q, f⟩) s = .next t ∧
      CollFails s t k c .netCollAbort f.srcp) ∧
    (∀ j, comes → c.active = true → c.from? s.pkg f.srcp = some j → Quiet c s.now j → ∃ t, does t ∧
      CollFails s t k c .netTimeout f.srcp) ∧
    (s.takes q f 6 = true → c.active = true → first → (∀ j, c.from? s.pkg f.srcp = some j → ¬ Quiet c s.now j) → f.pay 0 = 0 →
      digest ≠ Config.collDigest c.shared → ∃ t, exec (.collectiveControl ⟨q, f⟩) s = .next t ∧
        CollFails s t k c .netCollMismatch f.srcp) ∧
    (∀ j, c.active = true → first → c.from? s.pkg f.srcp = some j → ¬ Quiet c s.now j →
      let heard (i : CollIn) : CollIn := { i with heard := s.now }
      (s.takes q f 5 = true → (∀ n l, c.launch = some n → s.launch n = some l → l.recMode = 0) → 0 < j →
        ∃ t, exec (.collectiveData ⟨q, f⟩) s = .next t ∧ CollIs s t k (c.setInput j { heard (c.input j) with
          units := (c.input j).units ++ [(BitVec.ofNat 64 (f.pay 0), decide (f.pmask % 2 = 1))] }) ∧ t.mem = s.mem ∧
          t.records = s.records) ∧
      (s.takes q f 5 = true → (∀ n l, c.launch = some n → s.launch n = some l → l.recMode = 0) → j = 0 →
        ∃ t d, exec (.collectiveData ⟨q, f⟩) s = .next t ∧ t.coll k = some d ∧ d.downUnits = c.downUnits + 1 ∧
          d.down.units = c.down.units ++ [(BitVec.ofNat 64 (f.pay 0), decide (f.pmask % 2 = 1))] ∧ t.mem = s.mem) ∧
      (s.takes q f 6 = true → f.pay 0 = 0 → digest = Config.collDigest c.shared → 0 < j →
        ∃ t, exec (.collectiveControl ⟨q, f⟩) s = .next t ∧ CollIs s t k (c.setInput j { heard (c.input j) with met := true }) ∧
          t.mem = s.mem ∧ t.records = s.records) ∧
      (s.takes q f 6 = true → f.pay 0 = 1 ∨ f.pay 0 = 3 → 0 < j → ∃ t, exec (.collectiveControl ⟨q, f⟩) s = .next t ∧
        CollIs s t k { c.setInput j (if f.pay 0 = 1 then { heard (c.input j) with ended := true }
          else { heard (c.input j) with settled := true }) with status := c.status ||| BitVec.ofNat 19 (f.pay 1) } ∧
        t.mem = s.mem) ∧
      (s.takes q f 6 = true → f.pay 0 = 1 ∨ f.pay 0 = 4 → j = 0 → ∃ t d, exec (.collectiveControl ⟨q, f⟩) s = .next t ∧
        t.coll k = some d ∧ d.status = c.status ||| BitVec.ofNat 19 (f.pay 1) ∧ t.mem = s.mem ∧
        (if f.pay 0 = 1 then d.down.ended = true else d.down.settled = true)))

/-- What the root sends of a sum or value `x` of the reduce phase: for VT 1 a sum is rounded to BF16 (R284). -/
def rootValue (v x : Nat) : Nat := if clVt v = 1 ∧ clSums v = true then (bf16.roundVal .rne (fp32.decode x)).bits else x
def rootFlags (v x : Nat) : BitVec 19 :=
  if clVt v = 1 ∧ clSums v = true then (bf16.roundVal .rne (fp32.decode x)).fl.setWidth 19 &&& 0x35 else 0

/-- R282 to R284, R288, R290: the engine takes up a collective while fewer than four are active; reads its contribution in order;
forms the next element, sent to the parent or, rounded to BF16, by the root; takes the next element of the result to DSTA, a
poisoned one with PELEM and one PSN_STORE but no bytes; and ends a barrier. -/
def CollectiveSteps : Prop :=
  ∀ (s : State) (eng : Nat) (id : BitVec 16) (c : Coll), s.coll (65536 * eng + id.toNat) = some c → c.failed = none →
    c.complete = false → clSparse c.v = false → (c.active = true → ∀ f, f ∈ s.net.early → f.addr % 65536 ≠ id.toNat) →
    let k := 65536 * eng + id.toNat
    let i := c.input 0
    let rank := clRank c.v s.pkg
    let n := clBytes c.v
    let go (t : State) : Prop := exec (.collectiveWindowMerge eng id) s = .next t
    let begun (x : CollIn) : CollIn := { x with heard := s.now }
    (c.active = false → (s.net.colls.filter (fun x => x.1 / 65536 == eng && x.2.active)).length < 4 →
      (∀ q, q ∈ c.neighbours s.pkg → s.routeTo q ≠ none) →
      ∃ t, go t ∧ t.coll k = some { c with active := true, inputs := c.inputs.map begun, down := begun c.down } ∧
        t.mem = s.mem ∧ t.records = s.records) ∧
    (c.active = false → 4 ≤ (s.net.colls.filter (fun x => x.1 / 65536 == eng && x.2.active)).length → go s) ∧
    (∀ l, c.active = true → c.inputs ≠ [] → clKind c.v ≤ 2 ∨ (clKind c.v = 3 ∧ rank = 0) → clSrcf c.v = false →
      i.ended = false → c.src + 8 ≤ n * clCount c.v → (clSrca c.v + c.src) % 8 = 0 →
      s.collPlace c .read (clSrca c.v + c.src) 8 = .ok l →
      ∃ t d, go t ∧ t.coll k = some d ∧ d.src = c.src + 8 ∧ t.mem = s.mem ∧
        (d.input 0).units = i.units ++ (List.range (8 / n)).map (fun j =>
          let x := leNat (memBytes s.mem (l + n * j) n)
          (BitVec.ofNat 64 (if clVt c.v = 1 ∧ clKind c.v ≤ 1 then x * 2 ^ 16 else x), (s.dataError l 8).isSome))) ∧
    (c.active = true → (s.collRead k c).isNone = true → clKind c.v ≤ 3 → (clKind c.v = 3 → rank = 0) →
      c.formed < clFormed c.v rank →
      let from_ := if clKind c.v ≤ 1 then List.range c.inputs.length else if clKind c.v = 3 then [0] else
        [clInputOf c.v rank (((List.range (clSize c.v)).filter (inSubtree (clFan c.v) rank 64)).getD (c.formed / clCount c.v) 0)]
      (∀ j, j ∈ from_ → (c.input j).units ≠ []) → from_ ≠ [] →
      let heads := from_.map (fun j => let u := (c.input j).units.headD (0, false); (u.1.toNat % 2 ^ 32, u.2))
      let y := clSum (clVt c.v) heads none 0
      ∃ t d, go t ∧ t.coll k = some d ∧ d.formed = c.formed + 1 ∧ t.mem = s.mem ∧
        (∀ j, j ∈ from_ → (d.input j).units = (c.input j).units.drop 1) ∧
        (rank = 0 → d.down.units = c.down.units ++ [(BitVec.ofNat 64 (rootValue c.v y.1.1), y.1.2)] ∧
          d.status = c.status ||| y.2 ||| rootFlags c.v y.1.1 ||| (if y.1.2 then 0x800 else 0)) ∧
        (∀ o, rank ≠ 0 → s.routeTo (clPkg c.v ((rank - 1) / clFan c.v)) = some o → c.ctx < 4096 → d.upUnits = c.upUnits + 1 ∧
          d.status = c.status ||| y.2 ∧
          Leaves s t o (fun g => g.type = 5 ∧ g.pay 0 = y.1.1 ∧ (g.pmask = 1 ↔ y.1.2 = true) ∧
            g.addr = clId c.v + c.upUnits % 2 ^ 36 * 2 ^ 16))) ∧
    (∀ x p r, c.active = true → clKind c.v ≤ 3 → (s.collRead k c).isNone = true → (s.collForm k c).isNone = true →
      c.sentUp = true ∨ c.reduced s.pkg = false → Memory.wf s.mem = true → c.down.units = (x, p) :: r →
      let size := clCount c.v / clSize c.v
      let mine : Prop := clKind c.v ≠ 1 ∨ (rank * size ≤ c.taken ∧ c.taken < (rank + 1) * size)
      let off := n * (if clKind c.v = 1 then c.taken - rank * size else c.taken)
      (¬ mine → ∃ t d, go t ∧ t.coll k = some d ∧ d.taken = c.taken + 1 ∧ d.down.units = r ∧ d.wrote = c.wrote ∧ t.mem = s.mem) ∧
      (∀ l, mine → s.collPlace c .write (clDsta c.v + off) n = .ok l →
        ∃ t d, go t ∧ t.coll k = some d ∧ d.taken = c.taken + 1 ∧ d.wrote = c.wrote + n ∧ d.down.units = r ∧
          (p = false → leNat (memBytes t.mem l n) = x.toNat % 2 ^ (8 * n) ∧
            (∀ y, y < l ∨ l + n ≤ y → memRead t.mem y = memRead s.mem y) ∧ t.records = s.records ∧ d.status = c.status) ∧
          (p = true → t.mem = s.mem ∧ d.status = c.status ||| 0x800 ∧ d.psn = true ∧
            (if c.psn then t.records = s.records else ∃ e, t.records = s.records ++ [e] ∧ e.cause = .psnStore ∧
              e.origin = .indigo ∧ e.stop = false ∧ e.addr = BitVec.ofNat 64 (clDsta c.v + off))))) ∧
    (c.active = true → clKind c.v = 4 → c.sentUp = false → (∀ x, x ∈ c.inputs.drop 1 → x.ended = true) →
      ∃ t d, go t ∧ t.coll k = some d ∧ d.sentUp = true ∧ t.mem = s.mem ∧
        (clRank c.v s.pkg = 0 → d.down.ended = true ∧ d.status = c.status))

/-- R284: values add in ascending input number: INT32 clamps with SAT, FP32 adds under RNE with its flags; poison is ORed. -/
def CollectiveSums : Prop :=
  ∀ (vt : Nat) (x : Nat) (p : Bool) (r : List (Nat × Bool)) (a : Nat) (q : Bool) (f : BitVec 19),
    clSum vt [] (some (a, q)) f = ((a, q), f) ∧ clSum vt ((x, p) :: r) none f = clSum vt r (some (x, p)) f ∧
    (vt = 2 → (-2 ^ 31 : Int) ≤ toSigned 32 a + toSigned 32 x → toSigned 32 a + toSigned 32 x < 2 ^ 31 →
      clSum vt ((x, p) :: r) (some (a, q)) f =
        clSum vt r (some (((toSigned 32 a + toSigned 32 x) % 2 ^ 32).toNat, p || q)) f) ∧
    (vt = 2 → toSigned 32 a + toSigned 32 x < -2 ^ 31 →
      clSum vt ((x, p) :: r) (some (a, q)) f = clSum vt r (some (0x80000000, p || q)) (f ||| 0x20)) ∧
    (vt = 2 → (2 ^ 31 : Int) ≤ toSigned 32 a + toSigned 32 x →
      clSum vt ((x, p) :: r) (some (a, q)) f = clSum vt r (some (0x7FFFFFFF, p || q)) (f ||| 0x20)) ∧
    (vt ≠ 2 →
      let y := fp32.add .rne (fp32.decode a) (fp32.decode x)
      clSum vt ((x, p) :: r) (some (a, q)) f = clSum vt r (some (y.bits, p || q)) (f ||| (y.fl.setWidth 19 &&& 0x35)))

/-- R285 to R287: a sparse window is formed once every input has passed it; items not above the last index taken are dropped with
SPORD; the result holds the sum for every index held, dense with DNS if an input is dense or above FILL indices, else records. -/
def SparseWindows : Prop :=
  (∀ (n : Nat) (i : CollIn) (x : CollItem) (rest : List (Word × Bool)), collItem i.units = some (x, rest) →
    let dropped : Prop := (∃ l, i.last = some l ∧ x.first ≤ l) ∨ 2 ^ 32 ≤ x.last
    (dropped → (CollIn.tidy (n + 1) i).2 = true ∧ (CollIn.tidy (n + 1) i).1 = (CollIn.tidy n { i with units := rest }).1) ∧
    (¬ dropped → CollIn.tidy (n + 1) i = (i, false))) ∧
  (∀ (c : Coll) (w : Nat) (parts : List WinPart), c.nextWindow = some (w, parts) → parts.length = c.inputs.length ∧
    (∃ p, p ∈ parts ∧ p.vals ≠ []) ∧
    ∀ p, p ∈ parts → (∀ x, x ∈ p.vals → x.1 / 4096 = w) ∧ p.vals.Pairwise (fun a b => a.1 < b.1) ∧
      (p.rest.ended = true ∨ ∃ x r, collItem p.rest.units = some (x, r) ∧ w < x.first / 4096)) ∧
  (∀ (v w : Nat) (parts : List WinPart),
    (∀ p, p ∈ parts → (∀ x, x ∈ p.vals → x.1 / 4096 = w) ∧ p.vals.Pairwise (fun a b => a.1 < b.1)) →
    let held (i : Nat) : List (Nat × Bool) := parts.flatMap (fun p => (p.vals.filter (fun x => x.1 == i)).map (fun x => x.2))
    let sum (i : Nat) := (clSum (clVt v) (held i) none 0).1
    let unit (i : Nat) : Word × Bool := (BitVec.ofNat 64 (sum i).1, (sum i).2)
    let d := (List.range' (4096 * w) 4096).filter (fun i => parts.any (fun p => p.vals.any (fun x => x.1 == i)))
    let dense : Prop := (∃ p, p ∈ parts ∧ p.dense = true) ∨ clFill v < d.length
    (dense → (clWindow v w parts).1 = (BitVec.ofNat 64 (0xFFFFFFFF * 2 ^ 32 + w), false) :: (List.range' (4096 * w) 4096).map unit) ∧
    (¬ dense → (clWindow v w parts).1 = d.map (fun i => (BitVec.ofNat 64 (i * 2 ^ 32 + (sum i).1), (sum i).2))) ∧
    ((clWindow v w parts).2.getLsbD 17 = true ↔ dense))

/-- R285 to R290: a sparse engine reads L and then units; sends a window up or down; writes a record of its share after L, a poisoned
one without its value, one past DCAP only counted with DCAPX; and L last. The status is ORed at STA in the last write. -/
def SparseSteps : Prop :=
  ∀ (s : State) (eng : Nat) (id : BitVec 16) (c : Coll), s.coll (65536 * eng + id.toNat) = some c → c.failed = none →
    c.complete = false → c.active = true → (∀ f, f ∈ s.net.early → f.addr % 65536 ≠ id.toNat) → c.tidied = c →
    let k := 65536 * eng + id.toNat
    let i := c.input 0
    let rank := clRank c.v s.pkg
    let go (t : State) : Prop := exec (.collectiveWindowMerge eng id) s = .next t
    let idle : Prop := (s.collRead k c).isNone = true ∧ (s.collForm k c).isNone = true ∧ (c.sentUp = true ∨ c.reduced s.pkg = false)
    (clSparse c.v = true → clKind c.v ≤ 1 → clSrcf c.v = false → i.ended = false → c.inputs ≠ [] →
      (∀ l, c.srcLen = none → c.src = 0 → clSrca c.v % 8 = 0 → s.collPlace c .read (clSrca c.v) 8 = .ok l →
        ∃ t d, go t ∧ t.coll k = some d ∧ d.src = 8 ∧ d.srcLen = some (leNat (memBytes s.mem l 8)) ∧ t.mem = s.mem) ∧
      (∀ l n, c.srcLen = some n → c.src < 8 + n / 8 * 8 → c.src % 8 = 0 → clSrca c.v % 8 = 0 →
        s.collPlace c .read (clSrca c.v + c.src) 8 = .ok l →
        let x := leNat (memBytes s.mem l 4)
        let y := leNat (memBytes s.mem (l + 4) 4)
        let bad := (s.dataError l 8).isSome
        let wide (x : Nat) : Nat := if clVt c.v = 1 then x % 2 ^ 16 * 2 ^ 16 else x
        ∃ t d, go t ∧ t.coll k = some d ∧ d.src = c.src + 8 ∧ t.mem = s.mem ∧
          (i.units = [] → (d.input 0).units = if y = 0xFFFFFFFF then [(BitVec.ofNat 64 (x + 2 ^ 32 * y), false)]
            else [(BitVec.ofNat 64 (wide x + 2 ^ 32 * y), bad)]) ∧
          (∀ h vs, i.units = h :: vs → h.1.toNat / 2 ^ 32 = 0xFFFFFFFF → vs.length < 4096 →
            (d.input 0).units = i.units ++ [(BitVec.ofNat 64 (wide x), bad), (BitVec.ofNat 64 (wide y), bad)])) ∧
      (∀ n, c.srcLen = some n → 8 + n / 8 * 8 ≤ c.src → ∃ t d, go t ∧ t.coll k = some d ∧ (d.input 0).ended = true ∧
        d.status = (if n % 8 = 0 then c.status else c.status ||| 0x10000) ∧ t.mem = s.mem)) ∧
    (∀ w parts, clSparse c.v = true → clKind c.v ≤ 1 → (s.collRead k c).isNone = true → c.nextWindow = some (w, parts) →
      let y := clWindow c.v w parts
      ∃ t d, go t ∧ t.coll k = some d ∧ d.inputs = parts.map (fun p => p.rest) ∧ t.mem = s.mem ∧
        (parts.any (fun p => p.spord) = true → d.status.getLsbD 16 = true) ∧
        (rank = 0 → d.down.units = c.down.units ++ y.1.map (fun u => if u.1.toNat / 2 ^ 32 = 0xFFFFFFFF then u else
            (BitVec.ofNat 64 (u.1.toNat / 2 ^ 32 * 2 ^ 32 + rootValue c.v (u.1.toNat % 2 ^ 32)), u.2)) ∧
          (y.1.any (fun u => u.2) = true → d.status.getLsbD 11 = true)) ∧
        (∀ o, rank ≠ 0 → s.routeTo (clPkg c.v ((rank - 1) / clFan c.v)) = some o → c.ctx < 4096 →
          d.upUnits = c.upUnits + y.1.length ∧ ∀ (j : Nat) (u : Word × Bool), y.1[j]? = some u → Leaves s t o (fun g => g.type = 5 ∧
            g.pay 0 = u.1.toNat ∧ (g.pmask = 1 ↔ u.2 = true) ∧ g.addr = clId c.v + (c.upUnits + j) % 2 ^ 36 * 2 ^ 16))) ∧
    (∀ (u : Word) p r, clSparse c.v = true → idle → Memory.wf s.mem = true → c.down.units = (u, p) :: r →
      u.toNat / 2 ^ 32 ≠ 0xFFFFFFFF →
      let mine : Prop := clKind c.v ≠ 1 ∨ u.toNat / 2 ^ 44 % clSize c.v = rank
      (¬ mine → ∃ t d, go t ∧ t.coll k = some d ∧ d.down.units = r ∧ d.needed = c.needed ∧ t.mem = s.mem) ∧
      (mine → clDcap c.v < c.needed + 16 → ∃ t d, go t ∧ t.coll k = some d ∧ d.down.units = r ∧ d.needed = c.needed + 8 ∧
        d.wrote = c.wrote ∧ d.status = c.status ||| 0x40000 ∧ t.mem = s.mem) ∧
      (∀ l, mine → c.needed + 16 ≤ clDcap c.v → s.collPlace c .write (clDsta c.v + (8 + c.needed)) 8 = .ok l →
        ∃ t d, go t ∧ t.coll k = some d ∧ d.down.units = r ∧ d.needed = c.needed + 8 ∧ d.wrote = c.wrote + 8 ∧
          leNat (memBytes t.mem (l + 4) 4) = u.toNat / 2 ^ 32 ∧
          (∀ y, y < l ∨ l + 8 ≤ y → memRead t.mem y = memRead s.mem y) ∧
          (p = false → leNat (memBytes t.mem l 4) = u.toNat % 2 ^ 32 ∧ t.records = s.records ∧ d.status = c.status) ∧
          (p = true → memBytes t.mem l (clBytes c.v) = memBytes s.mem l (clBytes c.v) ∧ d.status = c.status ||| 0x800 ∧
            (if c.psn then t.records = s.records else ∃ e, t.records = s.records ++ [e] ∧ e.cause = .psnStore ∧
              e.addr = BitVec.ofNat 64 (clDsta c.v + (8 + c.needed)))))) ∧
    (idle → c.down.ended = true → c.down.units = [] → c.allMet s.pkg = true → Memory.wf s.mem = true →
      (∀ l, clSparse c.v = true → c.told = false → (∀ x, x ∈ c.inputs.drop 1 → x.settled = true) → 8 ≤ clDcap c.v →
        s.collPlace c .write (clDsta c.v) 8 = .ok l →
        ∃ t d, go t ∧ t.coll k = some d ∧ d.told = true ∧ leNat (memBytes t.mem l 8) = c.wrote % 2 ^ 64 ∧
          (∀ y, y < l ∨ l + 8 ≤ y → memRead t.mem y = memRead s.mem y) ∧ (rank = 0 → d.down.settled = true)) ∧
      (clSparse c.v = false ∨ (c.told = true ∧ c.down.settled = true) →
        (clStw c.v = false → ∃ t d, go t ∧ t.coll k = some d ∧ d.complete = true ∧ t.mem = s.mem) ∧
        (∀ l m, clStw c.v = true → s.collPlace c .read (clSta c.v) 8 = .ok l → s.collPlace c .write (clSta c.v) 8 = .ok m →
          ∃ t d, go t ∧ t.coll k = some d ∧ d.complete = true ∧
            leNat (memBytes t.mem l 8) = Nat.lor (leNat (memBytes s.mem l 8)) c.status.toNat ∧
            (∀ y, y < l ∨ l + 8 ≤ y → memRead t.mem y = memRead s.mem y))))

/-- R281: ranks run from 0 at the root to m - 1, one per member, and each but the root is a child of the rank that the tree names. -/
def CollectiveTree : Prop :=
  ∀ (v : Nat), clRoot v ∈ clMembers v → 2 ≤ clFan v →
    clRank v (clRoot v) = 0 ∧ (∀ p, p ∈ clMembers v → clRank v p < clSize v ∧ clPkg v (clRank v p) = p) ∧
    (∀ r, r < clSize v → clPkg v r ∈ clMembers v ∧ clRank v (clPkg v r) = r) ∧
    (∀ r, 0 < r → r < clSize v → r ∈ clChildren v ((r - 1) / clFan v)) ∧
    (∀ r q, q ∈ clChildren v r → q < clSize v ∧ 0 < q ∧ (q - 1) / clFan v = r)

/-- R291, R292: a neighbour silent for 10^6 ticks fails the collective with NET_TIMEOUT; one that is over posts its cause, bytes, time
and COLLID once, with a charge of 500 ticks (the model's choice, log 16). -/
def CollectiveEnds : Prop :=
  ∀ (s : State) (eng : Nat) (id : BitVec 16) (c : Coll), s.coll (65536 * eng + id.toNat) = some c →
    let k := 65536 * eng + id.toNat
    let kids := clChildren c.v (clRank c.v s.pkg)
    (c.active = false → exec (.collectiveTimeout eng id) s = .next s) ∧
    (c.active = true → c.failed = none → c.complete = false →
      (∀ j, j < kids.length → Quiet c s.now (j + 1) → (∀ x, x < j → ¬ Quiet c s.now (x + 1)) →
        ∃ t, exec (.collectiveTimeout eng id) s = .next t ∧ CollFails s t k c .netTimeout (clPkg c.v (kids.getD j 0))) ∧
      ((∀ x, x < kids.length → ¬ Quiet c s.now (x + 1)) → clRank c.v s.pkg ≠ 0 → Quiet c s.now 0 →
        ∃ t, exec (.collectiveTimeout eng id) s = .next t ∧
          CollFails s t k c .netTimeout (clPkg c.v ((clRank c.v s.pkg - 1) / clFan c.v))) ∧
      ((∀ x, x < kids.length → ¬ Quiet c s.now (x + 1)) → clRank c.v s.pkg = 0 ∨ ¬ Quiet c s.now 0 →
        exec (.collectiveTimeout eng id) s = .next s)) ∧
    (c.complete = false → c.failed = none → c.cancelled = false → exec (.collectiveCompletion eng id) s = .next s) ∧
    (∀ n l, c.complete = true ∨ c.failed ≠ none → c.cancelled = false → c.launch = some n → s.launch n = some l →
      l.live = true → ∃ t m, exec (.collectiveCompletion eng id) s = .next t ∧ t.coll k = none ∧
        (∀ x, x ≠ k → t.coll x = s.coll x) ∧ Holds s t l.seqn m ∧ m.ch = c.post.1 ∧ m.gen = c.post.2 ∧ m.src = 6 ∧ m.cause = 0 ∧
        m.w0.toNat = (match c.failed with | none => 0 | some x => x.code) ∧
        m.w1.toNat = (if c.status.getLsbD 18 then c.needed else c.wrote) % 2 ^ 64 ∧
        m.w2.toNat = s.replica (seqClock c.seqn) % 2 ^ 64 ∧ m.w3.toNat = clId c.v ∧ t.mem = s.mem ∧
        (∀ i, s.item l.item = some i → t.item l.item = some { i with cheng := i.cheng + 500 + (if c.wrote % 256 = 0 then 0 else 1) }))

/-! ### Fault records, retries, power, keys and start-up (R412 to R435, R458 to R470) -/

/-- R425: the eight words of a record hold its cause, origin, context, tokens, STOP, number, stamp, position, configuration
word and address, in the fields of the table. -/
def RecordLayout : Prop :=
  ∀ (r : FaultRec) (x : Nat), r.ctx.getD x < 4096 → r.seqNo < 2 ^ 24 →
    let w (k : Nat) : Nat := (r.words x).getD k 0
    let tok (j : Nat) : Option Token := if j = 0 then r.tok0 else if j = 1 then r.tok1 else r.tok2
    (r.words x).length = 8 ∧ fieldOf (w 0) 0 9 = r.cause.code ∧ fieldOf (w 0) 9 4 = r.origin.code ∧
    fieldOf (w 0) 13 12 = r.ctx.getD x ∧ fieldOf (w 0) 37 1 = r.stop.toNat ∧ fieldOf (w 0) 38 2 = 0 ∧
    w 0 / 2 ^ 40 = r.seqNo ∧ w 1 = r.stamp ∧ w 2 = r.pos ∧ w 3 = r.cfgw.toNat ∧ w 4 = r.addr.toNat ∧
    (∀ j, j < 3 → match tok j with
      | none => fieldOf (w 0) (25 + j) 1 = 0 ∧ fieldOf (w 0) (28 + 3 * j) 3 = 0 ∧ w (5 + j) = 0
      | some v => fieldOf (w 0) (25 + j) 1 = 1 ∧ fieldOf (w 0) (28 + 3 * j) 2 = v.kind.code ∧
        fieldOf (w 0) (30 + 3 * j) 1 = v.psn.toNat ∧ w (5 + j) = v.data.toNat)

/-- R427 to R429: a waiting record is written to words 1 to 7 and then word 0 of slot PI of its ring, PI moves, and the interrupt
goes out when the ring was empty; a full ring holds a record of a tile, the loader, an AGN, a sequencer or an adapter back and
drops any other with LOST; a ring that is disabled or cannot be written sends it on to the ring of MCTX with one record
MCH_FAULT_RING, and there, or with the table not valid, it is dropped with LOST of MCTX. That a write waits until 4 ticks after its
stamp (R21, log 3), and the CTX of a record of no context, MCTX (log 20), are the model's choices. -/
def RecordWrites : Prop :=
  ∀ (s : State) (i : Nat) (r : FaultRec), s.records[i]? = some r →
    let x := if r.refused = true then s.mctx else r.ctx.getD s.mctx
    let gone : State := { s with records := s.records.eraseIdx i, now := max s.now (r.stamp + 4) }
    let e := memNat s.mem (dpaLoc (fieldOf s.ctl.frtbase.toNat 17 22 * 2 ^ 17 + 32 * x)) 32
    let valid : Prop := s.ctl.frtbase.getLsbD 51 = true
    let enabled : Prop := e.testBit 68 = true ∧ 4 ≤ fieldOf e 64 4 ∧
      s.dataError (dpaLoc (fieldOf s.ctl.frtbase.toNat 17 22 * 2 ^ 17 + 32 * x)) 32 = none
    let size := 2 ^ fieldOf e 64 4
    let g := s.ring x
    let slot : Word := BitVec.ofNat 64 (e % 2 ^ 64 + 64 * (g.pi.toNat % size))
    let lost (c : Nat) : State := gone.setRing c { gone.ring c with lost := true }
    let waits : Prop := r.origin = .tile ∨ r.origin = .loader ∨ r.origin = .agn ∨ r.origin = .seq ∨ r.origin = .adapter
    let room : Prop := (g.pi - g.ci).toNat < size
    let passedOn : Prop :=
      (r.refused = true ∨ x = s.mctx → exec (.faultRecordWrite i) s = .next (lost s.mctx)) ∧
      (r.refused = false → x ≠ s.mctx → ∃ t q, exec (.faultRecordWrite i) s = .next t ∧
        t.records = s.records.set i { r with refused := true } ++ [q] ∧ q.cause = .mchFaultRing ∧ q.origin = .complex ∧
        q.ctx = none ∧ q.stop = false ∧ t.mem = s.mem ∧ t.ring x = s.ring x)
    (valid → enabled → room → ∀ s1 s2, gone.writeWords x (slot + 8) ((r.words x).drop 1) = .ok s1 →
      s1.writeWords x slot ((r.words x).take 1) = .ok s2 →
      exec (.faultRecordWrite i) s =
        .next { s2.setRing x { g with pi := g.pi + 1 } with
                  sent := if fieldOf e 69 1 = 1 ∧ g.pi = g.ci ∧ fieldOf e 70 5 ≤ 16 then
                    .msix (fieldOf e 70 5) (fieldOf e 75 11) :: s2.sent else s2.sent }) ∧
    (valid → enabled → ¬ room → waits → exec (.faultRecordWrite i) s = .next s) ∧
    (valid → enabled → ¬ room → ¬ waits → exec (.faultRecordWrite i) s = .next (lost x)) ∧
    (¬ valid → exec (.faultRecordWrite i) s = .next (lost s.mctx)) ∧
    (valid → ¬ enabled → passedOn) ∧
    (valid → enabled → room → ∀ c, gone.writeWords x (slot + 8) ((r.words x).drop 1) = .error c → passedOn)

/-- R427, R429: a word of a record that its access reaches stands at its place, little-endian, and no other byte changes. -/
def RecordWords : Prop :=
  ∀ (s : State) (ctx v l : Nat) (a : Word), Memory.wf s.mem = true →
    (s.check { ctx := some ctx } 0 [] .write a 8).1 = .ok (.mem l) →
    ∃ t, s.writeWords ctx a [v] = .ok t ∧ memNat t.mem l 8 = v % 2 ^ 64 ∧
      (∀ y, y < l ∨ l + 8 ≤ y → memRead t.mem y = memRead s.mem y) ∧ { t with mem := s.mem, poison := s.poison } = s

/-- R428: the consumer index takes a value from its present one up to PI and no other; LOST clears; a reset empties the ring and
clears LOST; a store to FRCI does the same by its bits, for firmware, the physical function and a sequencer of the context. -/
def RingIndices : Prop :=
  ∀ (s : State) (c : Nat), c < 4096 →
    let g := s.ring c
    let ahead (v : BitVec 32) : Prop := (g.pi - g.ci).toNat < (v - g.ci).toNat
    (∀ v, ¬ ahead v → exec (.consumerIndexWrite c v) s = .next (s.setRing c { g with ci := v })) ∧
    (∀ v, ahead v → ∃ t, exec (.consumerIndexWrite c v) s = .next t ∧ (∀ x, t.ring x = s.ring x) ∧
      { t with rings := s.rings } = s) ∧
    exec (.lostClear c) s = .next (s.setRing c { g with lost := false }) ∧
    exec (.ringReset c) s = .next (s.setRing c { g with pi := 0, ci := 0, lost := false }) ∧
    (∀ (a : Agent) (v : BitVec 64), a = .firmware ∨ a = .pf ∨ (∃ n, a = .sequencer n ∧ s.seqCtx n = some c) →
      ∃ t, exec (.registerWrite a (BitVec.ofNat 64 (0x2000008 + 16 * c)) v) s = .next t ∧
        (∀ x, x ≠ c → t.ring x = s.ring x) ∧ { t with rings := s.rings } = s ∧
        t.ring c = (if v.getLsbD 33 = true then { g with pi := 0, ci := 0, lost := false } else
          { g with ci := if (v.setWidth 32 - g.ci).toNat ≤ (g.pi - g.ci).toNat then v.setWidth 32 else g.ci,
                   lost := g.lost && !v.getLsbD 32 })) ∧
    (∀ (n : Nat) (v : BitVec 64), s.seqCtx n ≠ some c →
      exec (.registerWrite (.sequencer n) (BitVec.ofNat 64 (0x2000008 + 16 * c)) v) s = .next s)

/-- R46, R435: a retry of context `c` by firmware, the physical function or a sequencer of `c` releases the held elements of its
port contexts and copies and its loads, and resumes every sequencer of a running launch that a translation cause has stopped and
whose record is written; any other write, and one without GO, is ignored. -/
def TranslationRetries : Prop :=
  ∀ (s : State) (a : Agent) (v : BitVec 64),
    let c := v.toNat % 4096
    let may : Prop := v.getLsbD 12 = true ∧ (a = .pf ∨ a = .firmware ∨ ∃ n, a = .sequencer n ∧ s.seqCtx n = some c)
    let xlt (x : Cause) : Prop := x = .xltNoContext ∨ x = .xltNotMapped ∨ x = .xltPermission ∨ x = .xltBadEntry ∨ x = .xltWalkError
    let due (h : HeldElement) : HeldElement := { h with due := 0 }
    (¬ may → exec (.fretry a v) s = .next s) ∧
    (may → ∃ t, exec (.fretry a v) s = .next t ∧
      (∀ n, n < 32 → match (s.seq n).stop with
        | none => t.seq n = s.seq n
        | some u => (xlt u.cause → s.seqCtx n = some (s.seq n).ctxid.toNat → (s.seq n).ctxid.toNat = c → s.recordWaits n = false →
              t.seq n = { s.seq n with stop := none, pc := u.resume }) ∧
            (¬ xlt u.cause ∨ (s.seq n).ctxid.toNat ≠ c ∨ s.recordWaits n = true → t.seq n = s.seq n)) ∧
      (∀ k p, tabFind s.pctxs k = some p → tabFind t.pctxs k = some
        (if (p.launch.bind s.launch).map Launch.ctx = some c then
          { p with stopped := p.stopped.map due, spill := p.spill.map due } else p)) ∧
      (∀ k j, tabFind s.copies k = some j →
        tabFind t.copies k = some (if j.ctx = c then { j with stopped := j.stopped.map due } else j)) ∧
      (∀ k l, s.launch k = some l → t.launch k = some (if l.ctx = c then { l with loadHeld := false } else l)) ∧
      { t with seqs := s.seqs, pctxs := s.pctxs, copies := s.copies, launches := s.launches } = s)

/-! ### Power and temperature (R412 to R423) -/

/-- R412, R415: within 50 ticks of an interval's start its grant sets the pool of every tile that it is not late for, of a running
launch that had joined it by then, to 14,500 (c + 1) tokens, once; after the 50 ticks no grant of the interval comes. -/
def PowerGrants : Prop :=
  ∀ (s : State),
    let n := s.now / 2000
    (2000 * n + 50 < s.now → exec .powerGrant s = .next s) ∧
    (s.now ≤ 2000 * n + 50 → ∃ t, exec .powerGrant s = .next t ∧ { t with tiles := s.tiles, choice := s.choice } = s ∧
      ∀ x v, tabFind s.tiles x = some v → tabFind t.tiles x = some (match v.launch.bind s.launch with
        | none => v
        | some l =>
          if Config.grantLate s.choice x = false ∧ l.runs = true ∧ l.joined ≤ 2000 * n ∧ v.granted ≤ n then
            { v with pool := 14500 * (l.pclass + 1), granted := n + 1 }
          else v))

/-- R417, R418: a cluster that has held no live launch for 100,000 ticks goes to reverse bias, and settles; a die's ADAPT bit sets, but
not during recovery; an adaptive die adjusts its supply, or returns to guard mode with one record MCH_MARGIN_LOW. -/
def MarginsAndBias : Prop :=
  ∀ (s : State) (c d : Nat),
    let free : Prop := ∀ k l, (k, l) ∈ s.launches → l.live = true → ∀ t, t ∈ l.tiles → tileCluster t ≠ c
    (c < 16 → free → c ∉ s.power.reverse → tabGet s.power.idle c 0 + 100000 ≤ s.now → ∃ t, exec (.bodyBiasChange c) s = .next t ∧
      t = { s with power := { s.power with reverse := c :: s.power.reverse, settling := tabDel s.power.settling c } }) ∧
    (¬ free ∨ s.now < tabGet s.power.idle c 0 + 100000 → exec (.bodyBiasChange c) s = .next s) ∧
    exec (.bodyBiasSettled c) s = .next { s with power := { s.power with settling := tabDel s.power.settling c } } ∧
    (d < 4 → ∃ t, exec (.adapt d) s = .next t ∧ { t with ctl := s.ctl, power := s.power } = s ∧
      (s.stage = 4 → t.ctl.adapt = 0) ∧
      (s.stage ≠ 4 → ∀ x, x < 4 → (t.ctl.adapt.getLsbD x = true ↔ x = d ∨ s.ctl.adapt.getLsbD x = true)) ∧
      { t.ctl with adapt := s.ctl.adapt } = s.ctl) ∧
    (d < 4 → s.ctl.adapt.getLsbD d = false → exec (.supplyAdjust d) s = .next s) ∧
    (d < 4 → s.ctl.adapt.getLsbD d = true → ∃ t, exec (.supplyAdjust d) s = .next t ∧ t.choice = s.choice + 1 ∧ t.mem = s.mem ∧
      (if Config.marginOut s.choice = true then
        t.ctl.adapt = (if s.stage = 4 then 0 else s.ctl.adapt &&& ~~~ (1#4 <<< d)) ∧
        ∃ r, t.records = s.records ++ [r] ∧ r.cause = .mchMarginLow ∧ r.origin = .complex ∧ r.ctx = none ∧ r.stop = false
      else t.ctl = s.ctl ∧ t.records = s.records ∧ t.power = { s.power with supply := tabPut s.power.supply d (Config.supply s.choice) }))

/-- R421 to R423: THERM shows the hottest sensor of each die and of the I/O die; WARN sets when a sensor reaches 105 °C, with one
record MCH_THERMAL_WARN for each context with a running launch, and the save begins; it clears when every sensor is below 95 °C; at
120 °C the package loses power within 1 µs, whatever the sensors read later, without a record. -/
def Temperatures : Prop :=
  ∀ (s : State) (n : Nat) (v : BitVec 8), n < 17 →
    let sensor (u : State) (x : Nat) : Nat := (tabGet u.power.sensors x 0).toNat
    let runs : List Nat := ((s.launches.filter (fun l => l.2.runs)).map (fun l => l.2.ctx)).eraseDups
    let warns : Prop := s.ctl.therm.getLsbD 40 = false ∧ 105 ≤ v.toNat
    (∃ t, exec (.thermalWarn n v) s = .next t ∧ (∀ x, sensor t x = if x = n then v.toNat else sensor s x) ∧
      (∀ d, d < 4 → fieldOf t.ctl.therm.toNat (8 * d) 8 =
        max (max (sensor t (4 * d)) (sensor t (4 * d + 1))) (max (sensor t (4 * d + 2)) (sensor t (4 * d + 3)))) ∧
      fieldOf t.ctl.therm.toNat 32 8 = sensor t 16 ∧ t.ctl.therm.toNat / 2 ^ 42 = 0 ∧
      (¬ warns → t.ctl.therm.getLsbD 40 = s.ctl.therm.getLsbD 40 ∧ t.ctl.therm.getLsbD 41 = s.ctl.therm.getLsbD 41 ∧
        t.records = s.records) ∧
      (warns → t.ctl.therm.getLsbD 40 = true ∧ (t.ctl.therm.getLsbD 41 = true ↔ runs ≠ []) ∧
        ∃ rs, t.records = s.records ++ rs ∧ rs.map FaultRec.ctx = runs.map some ∧
          ∀ r, r ∈ rs → r.cause = .mchThermalWarn ∧ r.origin = .complex ∧ r.stop = false) ∧
      t.power.trip = (if 120 ≤ v.toNat then some (s.power.trip.getD (s.now + 1000)) else s.power.trip) ∧
      t.mem = s.mem ∧ t.tiles = s.tiles ∧ t.seqs = s.seqs) ∧
    ((∀ x, x < 17 → sensor s x < 95) → s.ctl.therm.getLsbD 40 = true → ∃ t, exec .thermalWarnClear s = .next t ∧
      t.ctl.therm.getLsbD 40 = false ∧ t.ctl.therm.getLsbD 41 = s.ctl.therm.getLsbD 41 ∧ { t with ctl := s.ctl } = s) ∧
    (∀ x, x < 17 → 95 ≤ sensor s x → exec .thermalWarnClear s = .next s) ∧
    (s.power.trip.isSome = true ∨ (∃ x w, tabFind s.power.sensors x = some w ∧ 120 ≤ w.toNat) →
      ∃ t, exec .thermalTrip s = .next t ∧ t.powered = false ∧ t.records = []) ∧
    (s.power.trip = none → (∀ p, p ∈ s.power.sensors → p.2.toNat < 120) → exec .thermalTrip s = .next s) ∧
    (∀ d, s.powered = true → s.power.trip = some d → d ≤ s.now → ∃ t, step s = .next t ∧ t.powered = false ∧ t.records = [])

/-! ### Security requests (R463, R465) -/

/-- STATUS `v` stands in the request block at `a`, the request is over, and besides the keys, the measurements and what `f` says of
memory nothing else has changed. -/
def Concluded (s t : State) (a : Word) (v : Nat) (x : Sec) : Prop :=
  memNat t.mem (hostLoc (a.toNat + 8)) 2 = v ∧
    (∀ y, y < hostLoc (a.toNat + 8) ∨ hostLoc (a.toNat + 10) ≤ y → memRead t.mem y = memRead s.mem y) ∧
    t.sec = { x with pending := none } ∧ { t with mem := s.mem, poison := s.poison, sec := s.sec } = s

/-- R463 (lengths and the order of the checks: the model's choice, log 12): the request that is pending is answered by the
instruction of its operation alone, with STATUS 2 for a bad block or payload, 4 for a signature of the owner that fails, 3 for a full
slot, 5 for an empty one and 1 when the key has been installed or erased. -/
def KeyRequests : Prop :=
  ∀ (s : State) (a : Word) (i : Instr) (op len : Nat), Memory.wf s.mem = true →
    (i, op, len) ∈ [(Instr.installDataKey a, 1, 32), (Instr.eraseDataKey a, 2, 32), (Instr.installImageKey a, 3, 1312),
      (Instr.eraseImageKey a, 4, 1312)] →
    let b := memNat s.mem (hostLoc a.toNat) 64
    let slot := fieldOf b 8 4
    let bad : Prop := fieldOf b 0 8 = 0 ∨ 8 ≤ fieldOf b 0 8 ∨ fieldOf b 24 40 ≠ 0 ∨ (fieldOf b 0 8 ≤ 4 ∧ slot = 0)
    let part (x n : Nat) : List Byte := memBytes s.mem (hostLoc (fieldOf b 128 64 + x)) n
    let owned : Prop := s.sec.owner = some (sha3 (part len 1312)) ∧
      mlVerify (part len 1312) (signed (ascii "RNVOWN1") (leBytes 64 b ++ part 0 len)) (part (len + 1312) 2420) = true
    let held : Bool := if op < 3 then (tabFind s.sec.dataKeys slot).isSome else (tabFind s.sec.imageKeys slot).isSome
    let result : Sec :=
      if op = 1 then { s.sec with dataKeys := tabPut s.sec.dataKeys slot (part 0 32) }
      else if op = 2 then { s.sec with dataKeys := tabDel s.sec.dataKeys slot }
      else if op = 3 then { s.sec with imageKeys := tabPut s.sec.imageKeys slot (part 0 1312) }
      else { s.sec with imageKeys := tabDel s.sec.imageKeys slot }
    (s.sec.pending ≠ some a → exec i s = .next s) ∧
    (s.sec.pending = some a → bad → ∃ t, exec i s = .next t ∧ Concluded s t a 2 s.sec) ∧
    (s.sec.pending = some a → ¬ bad → fieldOf b 0 8 ≠ op → exec i s = .next s) ∧
    (s.sec.pending = some a → ¬ bad → fieldOf b 0 8 = op → fieldOf b 192 32 ≠ len + 3732 → ∃ t, exec i s = .next t ∧
      Concluded s t a 2 s.sec) ∧
    (s.sec.pending = some a → ¬ bad → fieldOf b 0 8 = op → fieldOf b 192 32 = len + 3732 → ∃ t, exec i s = .next t ∧
      (¬ owned → Concluded s t a 4 s.sec) ∧
      (owned → (op = 1 ∨ op = 3) → held = true → Concluded s t a 3 s.sec) ∧
      (owned → (op = 2 ∨ op = 4) → held = false → Concluded s t a 5 s.sec) ∧
      (owned → ((op = 1 ∨ op = 3) ↔ held = false) → Concluded s t a 1 result))

/-- R463, R465 (the nonce's least length, the certificate's bytes, the identity key's seed and the signature's randomness: the model's
choices, log 12): an attestation overwrites its payload with the 256 bytes of the report and their ML-DSA-44 signature by the identity
key; the certificate is stored at the payload; ownership is taken once. -/
def Attestations : Prop :=
  ∀ (s : State) (a : Word), Memory.wf s.mem = true → s.sec.pending = some a →
    let b := memNat s.mem (hostLoc a.toNat) 64
    let paddr := fieldOf b 128 64
    let plen := fieldOf b 192 32
    let own (n : Nat) : Prop := paddr + n ≤ a.toNat + 8 ∨ a.toNat + 10 ≤ paddr
    let c := fieldOf b 12 12
    let m := tabGet s.sec.meas c (List.replicate 32 0, 0)
    let report : List Byte := memBytes s.mem (hostLoc paddr) 32 ++ sha3 identityKey.pub ++
      (if s.sec.firmware = [] then List.replicate 32 0 else s.sec.firmware) ++ m.1 ++ leBytes 4 m.2 ++ leBytes 2 c ++
      [BitVec.ofNat 8 (fieldOf s.ctl.bootst.toNat 16 8)] ++ [BitVec.ofNat 8 s.part.step.toNat] ++
      leBytes 8 (coreTime s) ++ leBytes 8 s.part.dcap.toNat ++ List.replicate 104 0
    let sealed (t : State) : Prop := memNat t.mem (hostLoc (a.toNat + 8)) 2 = 1 ∧ t.sec.pending = none
    fieldOf b 24 40 = 0 →
    (fieldOf b 0 8 = 5 → plen < 32 → ∃ t, exec (.attest a) s = .next t ∧ Concluded s t a 2 s.sec) ∧
    (fieldOf b 0 8 = 5 → 32 ≤ plen → own 2676 → ∃ t, exec (.attest a) s = .next t ∧ sealed t ∧
      (report.length = 256 → memBytes t.mem (hostLoc paddr) 256 = report ∧
        let sig := mlSign identityKey (signed (ascii "RNVATT1") report) (leBytes 32 (Config.signRandom s.choice).toNat)
        ∀ j, j < 2420 → j < sig.length → memRead t.mem (hostLoc paddr + 256 + j) = sig.getD j 0) ∧ t.now = s.now + 2 ∧
      t.choice = s.choice + 1 ∧
      { t.sec with pending := s.sec.pending } = s.sec) ∧
    (fieldOf b 0 8 = 6 → own Config.certificate.length → ∃ t, exec (.readIdentityCertificate a) s = .next t ∧ sealed t ∧
      memBytes t.mem (hostLoc paddr) Config.certificate.length = Config.certificate ∧
      { t.sec with pending := s.sec.pending } = s.sec) ∧
    (fieldOf b 0 8 = 7 → s.sec.owner ≠ none → ∃ t, exec (.takeOwnership a) s = .next t ∧ Concluded s t a 6 s.sec) ∧
    (fieldOf b 0 8 = 7 → s.sec.owner = none → plen ≠ 1312 → ∃ t, exec (.takeOwnership a) s = .next t ∧ Concluded s t a 2 s.sec) ∧
    (fieldOf b 0 8 = 7 → s.sec.owner = none → plen = 1312 → ∃ t, exec (.takeOwnership a) s = .next t ∧
      Concluded s t a 1 { s.sec with owner := some (sha3 (memBytes s.mem (hostLoc paddr) 1312)) })

/-! ### Cold reset, recovery, loss of power and wear (R24, R25, R458 to R460, R469) -/

/-- The firmware image at a location carries MAGIC, a body of at most 4 MiB, at the next multiple of 8 the root key's KEYID and its
ML-DSA-44 signature, an SVN at or above the fused minimum, and no poison (R459, R462; where header fields stand, and poison: the
model's choices, log 12). -/
def FirmwareStands (s : State) (loc : Nat) : Prop :=
  let header := memBytes s.mem loc 64
  let len := Config.fwLen header
  let block := loc + 64 + (len + 7) / 8 * 8
  Config.fwMagic header = 0x0057464E52564E52 ∧ len ≤ 4194304 ∧ memBytes s.mem block 32 = sha3 Config.rootKey ∧
    mlVerify Config.rootKey (signed (ascii "RNVFW1") (sha3 (memBytes s.mem loc (64 + len))))
      (memBytes s.mem (block + 32) 2420) = true ∧
    s.sec.minSvn ≤ Config.fwSvn header ∧ ∀ g, g ∈ s.poison → loc / 16 ≤ g → block + 2452 ≤ 16 * g

/-- Everything volatile is as reset leaves it; the fuses, the boot flash, the drives and the host's memory are kept (R458). -/
def Cold (s t : State) : Prop :=
  (∀ y, y < place 5 0 → memRead t.mem y = 0) ∧ (∀ y, place 5 0 ≤ y → memRead t.mem y = memRead s.mem y) ∧
    t.seqs = [] ∧ t.tiles = [] ∧ t.launches = [] ∧ t.queues = [] ∧ t.items = [] ∧ t.pctxs = [] ∧ t.copies = [] ∧ t.records = [] ∧
    t.rings = [] ∧ t.sems = [] ∧ t.now = 0 ∧ t.sec.dataKeys = [] ∧ t.sec.meas = [] ∧ t.sec.owner = s.sec.owner ∧
    t.namespaces = [] ∧ t.ctl.domid = 0 ∧ t.ctl.frtbase = 0 ∧ t.ctl.qtbase = 0 ∧ t.ctl.adapt = 0 ∧ t.ctl.pcap = 0x153D8000

/-- R458, R459, R460 (the steps of the boot and where the two copies stand in the flash: the model's choices, log 12): a cold reset
keeps the fuses and the boot flash alone, and the ROM takes copy A in STAGE 1 if it stands and else copy B, and with neither waits
in STAGE 4; the window's image boots as COPY 2, or leaves STAGE 4 with its error. Then the firmware applies the retirements and
trains in STAGE 2, and STAGE 3 raises the fused minimum SVN, or a training that fails sets ERR 5. Without power nothing is left. -/
def Boots : Prop :=
  ∀ (s : State), Memory.wf s.mem = true →
    let stage (t : State) : Nat := fieldOf t.ctl.bootst.toNat 0 4
    let copy (t : State) : Nat := fieldOf t.ctl.bootst.toNat 4 2
    let err (t : State) : Nat := fieldOf t.ctl.bootst.toNat 24 8
    let a := place 5 0
    let b := place 5 0x800000
    let svn (loc : Nat) : Nat := Config.fwSvn (memBytes s.mem loc 64)
    let up (t : State) (c loc : Nat) : Prop :=
      stage t = 1 ∧ copy t = c ∧ fieldOf t.ctl.bootst.toNat 16 8 = svn loc % 256 ∧ t.sec.svn = svn loc
    (∃ t, exec .coldReset s = .next t ∧ t.powered = true ∧ Cold s t ∧ t.sec.minSvn = s.sec.minSvn ∧ t.sec.marks = s.sec.marks ∧
      (FirmwareStands s a → up t 0 a ∧ err t = 0) ∧
      (¬ FirmwareStands s a → FirmwareStands s b → up t 1 b ∧ err t ≠ 0) ∧
      (¬ FirmwareStands s a → ¬ FirmwareStands s b → stage t = 4 ∧ err t ≠ 0)) ∧
    (∃ t, exec .powerGoodLoss s = .next t ∧ t.powered = false ∧ Cold s t) ∧
    (stage s ≠ 4 → exec .recoveryVerify s = .next s) ∧
    (stage s = 4 → ∃ t, exec .recoveryVerify s = .next t ∧ t.mem = s.mem ∧
      (FirmwareStands s (islandLoc 0 0) → up t 2 (islandLoc 0 0) ∧ err t = err s) ∧
      (¬ FirmwareStands s (islandLoc 0 0) → stage t = 4 ∧ err t ≠ 0 ∧ { t with ctl := s.ctl } = s)) ∧
    (∀ ok rest, s.powered = true → s.power.trip = none → s.turns = .boot ok :: rest →
      (stage s = 1 → ∃ t, step s = .next t ∧ stage t = 2 ∧ t.ctl.svcpend = 0 ∧ t.sec.marks = [] ∧ t.mem = s.mem ∧
        t.part = (s.sec.marks.foldl State.retireUnit s).part) ∧
      (stage s = 2 → ok = true → ∃ t, step s = .next t ∧ stage t = 3 ∧ t.sec.minSvn = max s.sec.minSvn s.sec.svn ∧ t.mem = s.mem) ∧
      (stage s = 2 → ok = false → ∃ t, step s = .next t ∧ stage t = 2 ∧ err t = 5 ∧ t.sec = s.sec ∧ t.mem = s.mem) ∧
      (stage s ≠ 1 → stage s ≠ 2 → step s = .next { s with turns := rest }))

/-- R24, R25, R30, R469: a unit whose corrected errors are above its threshold is marked once: its bit of SVCPEND sets, with NOSPARE
when no spare is left for it, and vector 0 of the physical function is sent, and it stays in service; at the next boot a unit with a
spare is retired for good, and one without takes its cluster, its island or its port out of service. -/
def ServiceMarks : Prop :=
  ∀ (s : State),
    let due (u : SvcUnit) : Prop := u ∉ s.sec.marks ∧ Config.threshold (unitKey u) < tabGet s.sec.corrected (unitKey u) 0
    let taken (k : Nat) : Prop := k ∈ s.sec.spares ∨ ∃ m, m ∈ s.sec.marks ∧ spareOf m = some k
    let marked (u : SvcUnit) (bit : Nat) (none_ : Prop) : Prop := due u → ∃ t, exec (.serviceMark u) s = .next t ∧
      (none_ → t.ctl.svcpend = s.ctl.svcpend ||| BitVec.ofNat 64 (2 ^ bit + 2 ^ 28)) ∧
      (¬ none_ → t.ctl.svcpend = s.ctl.svcpend ||| BitVec.ofNat 64 (2 ^ bit)) ∧
      t.sec.marks = s.sec.marks ++ [u] ∧ t.sent = .msix 0 0 :: s.sent ∧ t.part = s.part ∧
      { t with ctl := s.ctl, sec := s.sec, sent := s.sent } = s
    (∀ u, ¬ due u → exec (.serviceMark u) s = .next s) ∧
    (∀ r, r < 96 → marked (.tileRow r) (r / 24) (taken (r / 24))) ∧
    (∀ n, n < 256 → marked (.island n) (4 + n / 64) (taken (16 + 2 * (n / 64) + n % 64 / 32))) ∧
    (∀ n, n < 48 → marked (.lane n) (8 + n / 4) (taken (32 + n / 4))) ∧
    (∀ n, n < 256 → marked (.hbmChannel n) (20 + n / 32) False) ∧
    (∀ u k, spareOf u = some k → k ∉ s.sec.spares → s.retireUnit u = { s with sec := { s.sec with spares := k :: s.sec.spares } }) ∧
    (∀ r, r < 96 → r / 24 ∈ s.sec.spares → let t := s.retireUnit (.tileRow r)
      ∀ c, c < 16 → (t.part.clusters.getLsbD c = true ↔ s.part.clusters.getLsbD c = true ∧ c ≠ 4 * (r / 24) + r % 24 / 6) ∧
        (∀ q, q < 32 → (t.part.sequencers.getLsbD q = true ↔
          s.part.sequencers.getLsbD q = true ∧ q / 2 ≠ 4 * (r / 24) + r % 24 / 6))) ∧
    (∀ n, n < 256 → 16 + 2 * (n / 64) + n % 64 / 32 ∈ s.sec.spares →
      ∀ j, j < 256 → ((s.retireUnit (.island n)).part.islands.getLsbD j = true ↔ s.part.islands.getLsbD j = true ∧ j ≠ n)) ∧
    (∀ n, n < 48 → 32 + n / 4 ∈ s.sec.spares →
      ∀ p, p < 12 → ((s.retireUnit (.lane n)).part.ports.getLsbD p = true ↔ s.part.ports.getLsbD p = true ∧ p ≠ n / 4))

/-! ### Registers (R6, R26, R33, R390, R416, R463, R466) -/

/-- R7, R26, R270, R274, R382, R390, R416, R427, R460, R463, R466: what firmware and the physical function write to the registers of
the device, masked to their writable bits; a capability register takes no write; SECREQ takes an address while no request is pending,
its low six bits as zero (log 54); VALUE of a semaphore takes a store of a sequencer of the owning context alone; a sequencer writes
none of the others; in STAGE 4 the physical function writes nothing but BOOTST and the recovery window. -/
def RegisterWrites : Prop :=
  ∀ (s : State) (a : Agent) (v : BitVec 64),
    let writes (off : Nat) (t : State) : Prop := exec (.registerWrite a (BitVec.ofNat 64 off) v) s = .next t
    let bar0 : Prop := a ≠ .pfPages ∧ ∀ n, a ≠ .vf n
    (s.stage = 4 → a = .pf → ∀ off, off ∈ [0x40, 0x48, 0x50, 0x60, 0x68, 0x70, 0xE0, 0xF0, 0xF8] → writes off s) ∧
    (s.stage ≠ 4 → a = .pf ∨ a = .firmware →
      writes 0x50 { s with ctl := { s.ctl with domid := v &&& 0x7F } } ∧
      writes 0x60 { s with ctl := { s.ctl with qtbase := v &&& 0x7FFFFC0000 } } ∧
      writes 0x68 { s with ctl := { s.ctl with frtbase := v &&& 0xFFFFFFFFE0000 } } ∧
      (∃ t, writes 0x70 t ∧ t.ctl = { s.ctl with pcap := v.setWidth 32, adapt := v.extractLsb' 32 4 } ∧
        { t with ctl := s.ctl, power := s.power } = s) ∧
      (∃ t, writes 0xF0 t ∧ t.ctl.rpctl.toNat % 2 ^ 14 = v.toNat % 2 ^ 14 ∧
        (t.ctl.rpctl.getLsbD 14 = true ↔ s.ctl.rpctl.getLsbD 14 = true ∧ v.getLsbD 14 = false) ∧
        t.ctl.rpctl.toNat < 2 ^ 15 ∧ { t.ctl with rpctl := s.ctl.rpctl } = s.ctl ∧
        { t with ctl := s.ctl, sec := { t.sec with session := s.sec.session } } = s) ∧
      (∃ t, writes 0xF8 t ∧ t.ctl = { s.ctl with rpring := v } ∧
        { t with ctl := s.ctl, sec := { t.sec with session := s.sec.session } } = s) ∧
      (∀ n, n < 64 → writes (0x1000 + 8 * n) { s with net := { s.net with routes := tabPut s.net.routes n (v.setWidth 5) } }) ∧
      (∀ n, n < 8192 → writes (0x800008 + 16 * n) { s with sown := tabPut s.sown n (v.setWidth 13) }) ∧
      (∀ n, n < 8192 → writes (0x800000 + 16 * n) s)) ∧
    (bar0 → ∀ off, off < 0x38 → writes off s) ∧
    (s.stage ≠ 4 → a = .pf → s.sec.pending = none → ∃ x : BitVec 64, x.toNat = v.toNat / 64 * 64 ∧
      writes 0xE0 { s with sec := { s.sec with pending := some x } }) ∧
    (a ≠ .pf ∨ s.sec.pending ≠ none → bar0 → writes 0xE0 s) ∧
    (∀ q, a = .sequencer q → (∀ off, off ∈ [0x50, 0x60, 0x68, 0x70, 0xF0, 0xF8] → writes off s) ∧
      (∀ n, n < 8192 →
        let own := tabGet s.sown n 0
        (own.getLsbD 12 = true → s.seqCtx q = some (own.toNat % 4096) →
          ∃ t : State, writes (0x800000 + 16 * n) t ∧ SemSet s t n v ∧ t.now = s.now) ∧
        (own.getLsbD 12 = false ∨ s.seqCtx q ≠ some (own.toNat % 4096) → writes (0x800000 + 16 * n) s)))

/-! ### The recorder (R466 to R468) -/

/-- R466, R467: a record stands in the next place of the ring of its launch's recording: kind, origin and its count, then the value,
the auxiliary word and the timebase; the count of its origin moves on. A full ring holds the agent back. That each recording has
counts of its own is the model's choice (log 25). -/
def RecorderRecords : Prop :=
  ∀ (s : State) (l : Launch) (kind o c loc : Nat) (who : Origin) (v aux : Word), Memory.wf s.mem = true → kind < 8 → o < 2 ^ 20 →
    let size := 2 ^ (fieldOf l.recRing.toNat 0 4 + 10)
    let key := l.recSession * 2 ^ 24 + who.code * 2 ^ 20 + o
    let n := tabGet s.sec.recCount key 0
    let used := tabGet s.sec.recIdx l.recSession 0
    (size ≤ used → s.record l kind who o v aux c = none) ∧
    (used < size → s.recPlace l used .write = some loc →
      ∃ t, s.record l kind who o v aux c = some t ∧ memNat t.mem loc 8 = kind + o * 2 ^ 4 + n % 2 ^ 40 * 2 ^ 24 ∧
        memNat t.mem (loc + 8) 8 = v.toNat ∧ memNat t.mem (loc + 16) 8 = aux.toNat ∧
        memNat t.mem (loc + 24) 8 = s.replica c % 2 ^ 64 ∧ t.now = s.now + 2 ∧
        (∀ x, tabGet t.sec.recIdx x 0 = if x = l.recSession then used + 1 else tabGet s.sec.recIdx x 0) ∧
        (∀ x, tabGet t.sec.recCount x 0 = if x = key then n + 1 else tabGet s.sec.recCount x 0) ∧
        (∀ y, y < loc ∨ loc + 32 ≤ y → memRead t.mem y = memRead s.mem y))

/-! ### Reset, steps, encodings and invariants (R6, R26, R93, R96, R134, R143, R297, R298, R314 to R318, R336, R387) -/

/-- R26, R299, R416, R421, R427, R428, R460, R466, R469: after reset the capability registers show a full part, PCAP is 356,352,000, the
other registers of the device read zero, the rings are empty. STEP 0 and the full part's fuses (log 8), empty memory that reads zero (log 1), and that nothing runs (logs 6
and 7) are the model's choices. -/
def ResetValues : Prop :=
  let s := State.reset
  s.readReg .pf 0x00 = 0x3FFFFFFFFFF10 ∧ s.readReg .pf 0x08 = 0xFFFFFFFF ∧
    (∀ off, off ∈ [0x10, 0x18, 0x20, 0x28] → s.readReg .pf off = 0xFFFFFFFFFFFFFFFF) ∧
    s.readReg .pf 0x70 = 0x153D8000 ∧ (0x153D8000 : Nat) = 356352000 ∧
    (∀ off, off ∈ [0x30, 0x38, 0x40, 0x48, 0x50, 0x60, 0x68, 0x78, 0xE8, 0xF0, 0xF8] → s.readReg .pf off = 0) ∧
    (∀ c, s.ring c = FaultRing.reset) ∧ (∀ n, s.sem n = 0) ∧ (∀ n, (s.seq n).running = false ∧ (s.seq n).stop = none) ∧
    (∀ k, s.launch k = none ∧ s.item k = none) ∧ s.events = [] ∧ s.cores = [] ∧ s.kicks = 0 ∧ s.kick = 0 ∧ s.now = 0 ∧ s.powered = true ∧ s.mem = [] ∧ s.records = []

/-- Reserved bits of the registers of the device that are stored whole read zero (R6, R274, R382, R421, R427, R460, R466, R469). -/
def ReservedBitsClear (s : State) : Prop :=
  s.ctl.domid.toNat < 2 ^ 7 ∧ s.ctl.qtbase &&& 0x7FFFFC0000 = s.ctl.qtbase ∧ s.ctl.frtbase &&& 0xFFFFFFFFE0000 = s.ctl.frtbase ∧
    s.ctl.stq0.toNat < 2 ^ 13 ∧ s.ctl.stq1.toNat < 2 ^ 13 ∧ s.ctl.therm.toNat < 2 ^ 42 ∧ s.ctl.svcpend.toNat < 2 ^ 29 ∧
    s.ctl.rpctl.toNat < 2 ^ 15 ∧ s.ctl.bootst.toNat < 2 ^ 32 ∧ fieldOf s.ctl.bootst.toNat 6 10 = 0

/-- Memory stands in its canonical form and every reserved bit reads zero. -/
def Sound (s : State) : Prop := s.memWf ∧ ReservedBitsClear s

/-- R6: reset is sound. -/
def ResetIsSound : Prop := Sound State.reset

/-- R6: every step, of whatever agent or input, keeps memory in its canonical form (the model's own, log 1) and every reserved bit of
the registers of the device at zero. -/
def StepsStaySound : Prop := ∀ (s t : State), Sound s → step s = .next t → Sound t

/-- What a step answers: the outcome of its turn, followed by what the ticks that the turn has taken bring: watchdogs, counters, the
grants of R412 and causes of work (R216, R359, R408, R409). -/
def Ran (s : State) (o : Out) : Out :=
  match o with
  | .next t => .next (t.since s.now)
  | x => x

/-- A trip has begun, and the time by which it removes power has come (R423). -/
def TripDue (s : State) : Prop := ∃ d, s.power.trip = some d ∧ d ≤ s.now

/-- R134, R143, R192, R297, R298, R387, R388, R423, R458: the agent whose turn it is runs the instruction that the bytes decode to: a
sequencer the word at its PC (the old or the new bits of a word stored to since its task began), or its fetch faults; a slot
that the pool pays for, its operator; a record its operation; the command complex its packet. A package without power takes no turn
but a cold reset. Which agent moves is the model's list of turns (log 2). -/
def StepRunsDecoded : Prop :=
  ∀ (s : State) (x : Turn) (rest : List Turn), s.turns = x :: rest →
    let u : State := { s with turns := rest }
    (s.powered = false → x ≠ .event .coldReset → step s = .fault .noPower) ∧
    (x = .event .coldReset → s.powered = false ∨ ¬ TripDue s → step s = Ran u (exec .coldReset u)) ∧
    (s.powered = true → ¬ TripDue s →
      (∀ n, x = .seq n → u.seqReady n = false → step s = .next u) ∧
      (∀ n, x = .seq n → u.seqReady n = true → (s.seq n).wdogDue = false →
        let pc := (s.seq n).pc.toNat
        let new : Word32 := BitVec.ofNat 32 (memNat s.mem (localLoc n pc) 4)
        let old : Word32 := BitVec.ofNat 32 (memNat (s.seq n).code (localLoc n pc) 4)
        let legal : Prop := 512 ≤ pc ∧ pc < (s.seq n).codelim.toNat ∧ pc % 4 = 0
        let faults (c : Cause) : Prop := ∃ t r, step s = .next t ∧ t.records = s.records ++ [r] ∧ r.cause = c ∧ r.cfgw = 0 ∧
          r.origin = .seq ∧ (t.seq n).stop = some { cause := c, resume := (s.seq n).pc } ∧ t.mem = s.mem
        (legal → s.dataError (localLoc n pc) 4 = none → old = new → step s = Ran u (exec (decodeSeq new) { u with curSeq := n })) ∧
        (legal → s.dataError (localLoc n pc) 4 = none → old ≠ new →
          step s = Ran u (exec (decodeSeq new) { u with curSeq := n, choice := s.choice + 1 }) ∨
          step s = Ran u (exec (decodeSeq old) { u with curSeq := n, choice := s.choice + 1 })) ∧
        (¬ legal → faults .seqFetchRange) ∧ (legal → s.dataError (localLoc n pc) 4 ≠ none → faults .memDataError)) ∧
      (∀ n, x = .seq n → u.seqReady n = true → (s.seq n).wdogDue = true → step s = Ran u (exec (.watchdogExpiry n) u)) ∧
      (∀ t i ins, x = .slot t i →
        let p := (s.tile t).plane
        let w := p.slotWord i
        (w ≠ 0 → p.isExt i = false → decodeSlot w (if w.getLsbD 21 then p.slotWord (i + 1) else 0) = .ok ins →
          step s = if u.granted t i = true then Ran u (exec ins { u with curTile := t, curSlot := i }) else .next u) ∧
        (w = 0 ∨ p.isExt i = true → step s = .next u)) ∧
      (∀ t q v ins, x = .record t q → (s.tile t).plane.recs[q]? = some v → decodeRec v = .ok ins →
        step s = Ran u (exec ins { u with curTile := t, curSlot := q })) ∧
      (∀ k i ins, x = .packet k → s.item k = some i → i.packets[i.idx]? = some ins →
        step s = if (i.phase = .dispatched ∨ i.phase = .running) ∧ u.actionDue i = false ∧
            ((s.queue i.queue).putOff = false ∨ s.pairRuns i.queue = true) then Ran u (exec ins u) else .next u) ∧
      (∀ n, x = .pass n → ∃ t, step s = .next t ∧ t.now = s.now + n ∧ t.mem = s.mem))

/-- R96, R381, R382 (the queue of causes: log 51): a step that no word encodes runs in its turn, when it is the own step of a
unit; a cause of work of the command complex enters its event queue, a kick always, with its number, and any other once while it waits; a core takes
the head event, unless another core holds the lock of its queue, and handles the one that it holds. -/
def StepRunsEvents : Prop :=
  ∀ (s : State) (x : Turn) (rest : List Turn), s.turns = x :: rest → s.powered = true → ¬ TripDue s →
    let u : State := { s with turns := rest }
    (∀ ins, x = .event ins → encode ins ≠ [] → step s = .next u) ∧
    (∀ ins, x = .event ins → encode ins = [] → u.causeOf ins = none → (∀ t, ins ≠ .eventDelivery t) →
      step s = Ran u (exec ins u)) ∧
    (∀ t, x = .event (.eventDelivery t) →
      step s = if (u.evinSlot t).all (u.granted t) = true then Ran u (exec (.eventDelivery t) u) else .next u) ∧
    (∀ q v, x = .event (.kick q v) →
      step s = .next { u with events := s.events ++ [.kick q v s.kicks], kicks := s.kicks + 1 }) ∧
    (∀ ins e, x = .event ins → encode ins = [] → u.causeOf ins = some e → (∀ q v n, e ≠ .kick q v n) →
      (exec ins u = .next u → step s = .next u) ∧
      (∀ t, exec ins u = .next t → { t with curTile := s.curTile, curSlot := s.curSlot } ≠ u →
        step s = .next { u with events := if e ∈ s.events ∨ (∃ c, c ∈ s.cores ∧ c.2 = e) then s.events else s.events ++ [e] })) ∧
    (∀ c e, x = .core c → c < 12 → tabFind s.cores c = some e →
      let v : State := { u with cores := tabDel s.cores c }
      step s = Ran u (match e with
        | .kick q w n => exec (.kick q w) { v with kick := n }
        | .reset q => exec (.queueReset q) v
        | .semaphore k => exec (.waitGeComplete k) v
        | .deadline k => exec (.deadlineMiss k) v
        | .budget k => exec (.budgetOverrun k) v
        | .engine i => exec i v)) ∧
    (∀ c e r, x = .core c → c < 12 → tabFind s.cores c = none → s.events = e :: r →
      let q := u.eventQueue e
      let locked : Prop := q.isSome = true ∧ ∃ y, y ∈ s.cores ∧ u.eventQueue y.2 = q
      (locked → step s = .next u) ∧
      (¬ locked → step s = .next { u with events := r, cores := tabPut s.cores c e }))

/-- R96, R415: every ready slot fires when the pool pays for all of them together; otherwise the first ready one after the slot
granted last does, and the others wait. -/
def SlotGrants : Prop :=
  ∀ (s : State) (t i : Nat), i < 64 → s.readyCost t i ≠ 0 →
    let cost (j : Nat) : Nat := s.readyCost t j
    let total : Nat := ((List.range 64).map cost).sum
    let turn (j : Nat) : Nat := (j + 63 - (s.tile t).lastGrant % 64) % 64
    (total ≤ (s.tile t).pool → s.granted t i = true) ∧
    ((s.tile t).lastGrant < 64 → (s.tile t).pool < total →
      (s.granted t i = true ↔ ∀ j, j < 64 → cost j ≠ 0 → turn i ≤ turn j))

/-- R134, R143, R314 to R318, R336, R387: instruction words written out from the formats decode to the instructions that they stand
for. -/
def DecodedWords : Prop :=
  decodeSeq (0b000001#6 ++ 1#5 ++ 2#5 ++ 3#5 ++ 0#11) = .add 1 2 3 ∧
  decodeSeq (0b000001#6 ++ 31#5 ++ 2#5 ++ 3#5 ++ 13#11) = .max 31 2 3 ∧
  decodeSeq (0b000010#6 ++ 4#5 ++ 5#5 ++ 6#5 ++ 3#11) = .fdivs 4 5 6 ∧
  decodeSeq (0b000010#6 ++ 4#5 ++ 5#5 ++ 1#5 ++ 4#11) = .illegalInstruction 0x08850804 ∧
  decodeSeq (0b000011#6 ++ 1#5 ++ 2#5 ++ 3#5 ++ 0#1 ++ 3#3 ++ 2#2 ++ 0#1 ++ 1#1 ++ 0b111#3) =
    .amocas 1 2 3 { sco := 3, ord := 2, u := false, sz := true } ∧
  decodeSeq (0b001000#6 ++ 1#5 ++ 2#5 ++ 0xFFFF#16) = .addi 1 2 0xFFFF ∧
  decodeSeq (0b010000#6 ++ 1#5 ++ 2#5 ++ 0x8000#16) = .beq 1 2 0x8000 ∧
  decodeSeq (0b011000#6 ++ 1#5 ++ 0x1FFFFF#21) = .jal 1 0x1FFFFF ∧
  decodeSeq (0b100011#6 ++ 1#5 ++ 2#5 ++ 1#2 ++ 4#3 ++ 0x7FF#11) = .ldd 1 2 { ord := 1, sco := 4, off := 0x7FF } ∧
  decodeSeq (0b110000#6 ++ 0#5 ++ 0#5 ++ 0#8 ++ 3#8) = .fence 3 ∧
  decodeSeq (0b110001#6 ++ 15#5 ++ 2#5 ++ 0#8 ++ 7#8) = .sdset 15 2 7 ∧
  decodeSeq (0b110010#6 ++ 0#5 ++ 2#5 ++ 1#8 ++ 95#8) = .barrive 2 95 ∧
  decodeSeq (0b110011#6 ++ 1#5 ++ 2#5 ++ 0#8 ++ 0#1 ++ 1#1 ++ 63#6) = .chpost 1 2 true 63 ∧
  decodeSeq (0b110100#6 ++ 1#5 ++ 2#5 ++ 0#8 ++ 0#8) = .evsend 1 2 ∧
  decodeSeq (0b110101#6 ++ 0#5 ++ 0#5 ++ 0#8 ++ 0x2A#8) = .trap 0x2A ∧
  decodeSeq (0b110101#6 ++ 1#5 ++ 0#5 ++ 0#8 ++ 0x2A#8) = .illegalInstruction 0xD420002A ∧
  decodeSeq 0 = .illegalInstruction 0 ∧
  decodeSlot 0x0AA3FE04 0x00C00000 =
    .ok (.mulOperator { w := 2, m := 8, t1 := 0x1FF, t0 := 0x004, ext := 0x00C00000 }) ∧
  decodeSlot (0x23#7 ++ 0b100#3 ++ 0b0000#4 ++ 5#9 ++ 6#9) 0 = .ok (.fma { w := 4, m := 0, t1 := 5, t0 := 6, ext := 0 }) ∧
  decodeSlot (0x40#7 ++ 3#3 ++ 0b1000#4 ++ 5#9 ++ 6#9) (1#6 ++ 0#6 ++ 0#6 ++ 0#2 ++ 8#12) =
    .ok (.ld { w := 3, m := 8, t1 := 5, t0 := 6, ext := 0x04000008 }) ∧
  decodeSlot (0x00#7 ++ 0#3 ++ 0#4 ++ 5#9 ++ 6#9) 0 = .error .badOpcode ∧
  decodeRec (0#4 ++ 0b000001#6 ++ 0b111111#6 ++ 7#9 ++ 0x1FF#9 ++ 0#8 ++ 0#22) =
    .ok (.pass { dx := 1, dy := 0x3F, dst := 7, dst2 := 0x1FF, param := 0 }) ∧
  decodeRec (5#4 ++ 1#6 ++ 0#6 ++ 7#9 ++ 0x1FF#9 ++ 33#8 ++ 0#22) = .error .badRoute ∧
  decodePacket 9 [0x03#8 ++ 3#8 ++ 0x8000#16, 5, 6, 7, 8] = .ok (.waitGe { item := 9, flags := 0x8000, body := [5, 6, 7] }, [8]) ∧
  decodePacket 9 [0x08#8 ++ 0#8 ++ 1#16] = .error .badPacket

/-- R314 to R318, R336: the word of every well-formed instruction of a sequencer decodes to it, with every operand at every value, and
a word that decodes to an instruction is that instruction's word: no word has two meanings, and none that sets a reserved bit has
one. -/
def SequencerWordsRoundTrip : Prop :=
  (∀ (i : Instr) (w : Word32), i.wf = true → encodeSeq i = some w → decodeSeq w = i) ∧
    (∀ (i : Instr) (w : Word32), decodeSeqWord w = some i → encodeSeq i = some w ∧ i.wf = true)

/-- R134, R135, R140, R142 to R145, R147, R149: the words of every well-formed slot operator and route record decode to it, whatever word follows a slot
without an extension, and what a slot's words or a record decode to has these words. -/
def SlotAndRecordWordsRoundTrip : Prop :=
  (∀ (i : Instr) (opc : BitVec 7) (o : SlotOp) (e : Word32), i.wf = true → slotParts i = some (opc, o) →
    decodeSlot (fmtSlot opc o) (if o.m.getLsbD 3 = true then o.ext else e) = .ok i) ∧
  (∀ (i : Instr) (w e : Word32), decodeSlot w e = .ok i →
    i.wf = true ∧ encode i = (if w.getLsbD 21 = true then [w, e] else [w])) ∧
  (∀ (i : Instr) (op : BitVec 4) (r : RecOp), i.wf = true → recParts i = some (op, r) → decodeRec (fmtRec op r) = .ok i) ∧
  (∀ (i : Instr) (v : BitVec 64), decodeRec v = .ok i → i.wf = true ∧ ∃ op r, recParts i = some (op, r) ∧ fmtRec op r = v)

/-- R387: the dwords of every well-formed packet decode to it and leave what follows them, and what dwords decode to has those
dwords. -/
def PacketsRoundTrip : Prop :=
  (∀ (i : Instr) (code : BitVec 8) (p : Pkt) (rest : List (BitVec 32)), i.wf = true → packetParts i = some (code, p) →
    decodePacket p.item (encode i ++ rest) = .ok (i, rest)) ∧
  (∀ (k : Nat) (i : Instr) (ds rest : List (BitVec 32)), decodePacket k ds = .ok (i, rest) → i.wf = true ∧ encode i ++ rest = ds)

/-- The kind, address and size of the access of a load, store, atomic or BSTAT (R330, R332, R334). -/
def accessForm (i : Instr) (q : Seq) : Option (AccKind × Word × Nat) :=
  match loadForm i, storeForm i, amoForm i with
  | some (_, b, m, n), _, _ => some (.read, q.rd b + m.off.signExtend 64, n)
  | none, some (_, b, m, n), _ => some (.write, q.rd b + m.off.signExtend 64, n)
  | none, none, some (_, a, _, f, _) => some (.atomic, q.rd a, if f.sz then 8 else 4)
  | none, none, none =>
    match i with
    | .bstat a _ _ => some (.read, q.rd a, 8)
    | _ => none

/-- R33, R44, R270, R275, R322, R332, R333: an access that a check forbids stops the sequencer with its cause and address; one of the
control path reads or writes its register in its step; one that the host or a peer answers leaves the sequencer waiting at
its instruction; a peer without a route gives NET_NO_ROUTE; one that must wait changes nothing. -/
def OtherAccesses : Prop :=
  ∀ (i : Instr) (s : State) (k : AccKind) (a : Word) (n : Nat), accessForm i s.cur = some (k, a, n) →
    let got := s.check { ctx := some s.cur.ctxid.toNat, core := true } 32 s.cur.utlb k a n
    let stops (c : Cause) : Prop := ∃ t r, exec i s = .next t ∧ t.cur.stop = some { cause := c, resume := s.cur.pc } ∧
      t.records = s.records ++ [r] ∧ r.cause = c ∧ r.origin = .seq ∧ r.addr = addrOf c a ∧ r.stop = true ∧ t.cur.g = s.cur.g ∧
      t.cur.pc = s.cur.pc ∧ t.mem = s.mem
    (∀ tlb, got = (.wait, tlb) → exec i s = .next s) ∧
    (∀ c tlb, got = (.bad c, tlb) → stops c) ∧
    (∀ b tlb, got = (.ok (.host b), tlb) → ∃ t w, exec i s = .next t ∧ t.cur = { s.cur with utlb := tlb, waiting := some w } ∧
      w.bus = b ∧ w.addr = a ∧ w.tag = none ∧ w.since = s.now ∧ w.bytes.length = n ∧ OnlyCur s t) ∧
    (∀ off tlb, got = (.ok (.reg off), tlb) →
      (∀ d b m, loadForm i = some (d, b, m, n) → ∃ t, exec i s = .next t ∧
        Writes s.cur t.cur d (s.readReg (.sequencer s.curSeq) off) ∧ t.cur.pc = s.cur.pc + 4 ∧ OnlyCur s t) ∧
      (∀ d b m, storeForm i = some (d, b, m, n) → exec i s =
        .next ((s.setSeq s.curSeq { s.cur with waiting := none, pc := s.cur.pc + 4 }).writeReg (.sequencer s.curSeq) off
          (s.cur.rd d)))) ∧
    (∀ pkg va tlb, got = (.ok (.peer pkg va), tlb) →
      (s.domain = false → stops .netNoRoute) ∧
      (s.domain = true → pkg ≠ s.pkg → s.routeTo pkg = none → stops .netNoRoute) ∧
      (∀ p, s.domain = true → pkg ≠ s.pkg → s.routeTo pkg = some p → ∃ t w tag r, exec i s = .next t ∧
        t.cur = { s.cur with waiting := some w } ∧ w.tag = some tag ∧ w.addr = a ∧ w.since = s.now ∧
        tabFind t.net.reqs tag = some r ∧ r.who = .seq s.curSeq ∧ t.mem = s.mem ∧ t.records = s.records))

/-! ### Completion, instruction by instruction -/

/-- R213 to R215, R227, R231, R342, R430, R442 to R444: under conditions on the state alone these complete, each with its own effect:
MROW and MROWS with a complete row fire it, EOSG passes its token and takes its predicate, TRAP with a false predicate and BRK where
nothing holds pass their token; ROW_ARRIVAL moves a transfer into the row buffer and ROW_FORWARD a fired row to the down-chain tile;
TOKEN_PASS passes a group without stray tokens, PLANE_SWAP makes the shadow planes resident, SWAP_REFUSED discards them, and
DRAIN_WATCH_POST posts. -/
def MatrixControlAndSwapsComplete : Prop :=
  (∀ (i : Instr) (s : State) (opc : Nat) (o : SlotOp) (g : ScaleGroup) (rest : List ScaleGroup), rowForm i = some (opc, o) →
    let m := s.curT.matrix
    s.slotLive = true → m.outBuf = [] → m.ending ≠ 1 → extGate o.ext = false → extPsrc o.ext = 0 → m.row.eos = false →
    m.row.fired = false → m.row.transfers.length = rowNeed opc o → s.rowGroup o = some (g, rest) → s.weightHold = false →
    s.canPay (if opc = 0x51 then 1100 else match o.w.toNat with | 4 => 1100 | 0 => 2200 | _ => 4400) = true →
    (extPdst o.ext = false → ((s.southLink s.curTile).filter Option.isSome).length < 2) →
    ∃ t, exec i s = .next t ∧ t.curT.matrix.rows = m.rows + 1 ∧ t.curT.matrix.groups = rest ∧
      t.curT.matrix.row = if extAfwd o.ext then { m.row with fired := true, group := some g } else RowBuf.empty) ∧
  (∀ (s : State) (o : SlotOp) (a c : Token), s.slotLive = true → s.slotSt.closed = false → s.head 0 = some a → s.head 2 = some c →
    a.isEos = false → c.isEos = false → c.psn = false → s.canPay 4 = true → s.slotRoom o 2 2 = true → s.slotRoom o 1 1 = true →
    ∃ t, exec (.eosg o) s = .next t ∧ t.slotSt.closed = c.data.getLsbD 0) ∧
  (∀ (s : State) (o : SlotOp) (c : Token), CanFire s 0x69 o 4 → s.head 2 = some c → s.operand 0x69 o 2 = c → c.psn = false →
    c.data.getLsbD 0 = false →
    ∃ t, exec (.trapOperator o) s = .next t ∧ t.slotSt.count = s.slotSt.count + 1 ∧ t.slotSt.held = false) ∧
  (∀ (s : State) (o : SlotOp), CanFire s 0x6A o 4 → (s.tileLaunch s.curTile).any Launch.debug = false →
    ∃ t, exec (.brk o) s = .next t ∧ t.slotSt.count = s.slotSt.count + 1 ∧ t.slotSt.held = false) ∧
  (∀ (s : State) (x j opc : Nat) (o : SlotOp) (v : BitVec 1024 × Bool) (rest : List (Option (BitVec 1024 × Bool))),
    let m := (s.tile x).matrix
    (s.tile x).plane.matrixSlot = some (j, opc, o) → (s.tileLaunch x).isSome = true → extPsrc o.ext ≠ 1 →
    m.wide = some v :: rest → m.row.eos = false → m.row.fired = false → m.row.transfers.length < rowNeed opc o →
    ∃ t, exec (.rowArrival x) s = .next t ∧ (t.tile x).matrix.row.transfers = m.row.transfers ++ [v.1] ∧
      (t.tile x).matrix.wide = rest) ∧
  (∀ (s : State) (x u : Nat), s.inRegion x (downChain x) = some u → u ≠ x → (s.tileLaunch x).isSome = true →
    (s.tile x).matrix.row.fired = true → (s.tile u).matrix.row.transfers = [] → (s.tile u).matrix.row.eos = false →
    ∃ t, exec (.rowForward x) s = .next t ∧ (t.tile u).matrix.row.transfers = (s.tile x).matrix.row.transfers ∧
      (t.tile x).matrix.row = RowBuf.empty) ∧
  (∀ (s : State) (x k : Nat) (l : Launch) (g : List Nat), (s.tile x).launch = some k → s.launch k = some l →
    s.passGroup k l x = some g → (∀ y, y ∈ g → s.strayAt y = none) →
    ∃ t, exec (.tokenPass x) s = .next t ∧ ∀ y, (t.tile y).passed = ((s.tile y).passed || g.contains y)) ∧
  (∀ (s : State) (k : Nat) (l : Launch), s.launch k = some l → l.reconf.isSome = true → l.shadow = .loaded → l.phase = .running →
    l.frozen = false → l.tiles.Nodup → s.enginesDrained k l = true →
    (∀ x, x ∈ l.tiles → (s.tile x).passed = true ∧ (s.tile x).settled = true) →
    ∃ t v, exec (.planeSwap k) s = .next t ∧ (∀ x, x ∈ l.tiles → (t.tile x).plane = (s.tile x).shadow.getD Plane.empty) ∧
      t.launch k = some v ∧ v.cfg = l.cfg + 1 ∧ v.reconf = none) ∧
  (∀ (s : State) (k : Nat) (l : Launch), s.launch k = some l → l.reconf.isSome = true → l.phase = .running → l.frozen = true →
    (∀ x, x ∈ l.tiles → s.passGroup k l x = none) →
    ∃ t v, exec (.swapRefused k) s = .next t ∧ (∀ x, (t.tile x).plane = (s.tile x).plane) ∧ t.launch k = some v ∧
      v.reconf = none ∧ v.shadow = .none ∧ v.cfg = l.cfg) ∧
  (∀ (s : State) (n k : Nat) (l : Launch), (s.seq n).drainWatch.isSome = true → s.seqLaunch n = some k → s.launch k = some l →
    l.seqn = n → s.drained k l = true →
    ∃ t, exec (.drainWatchPost n) s = .next t ∧ (t.seq n).drainWatch = none ∧
      (t.seq n).held.length = (s.seq n).held.length + 1)

/-- R271, R274, R275, R278, R283, R291, R292, R306, R323, R359: under conditions on the state alone these complete, each with its own
effect: FLIT_CRC_MISMATCH, FLIT_REPLAY, BADFLIT, FLIT_FORWARD and LINK_RETRAINED on a link; READ_REQUEST, WRITE_REQUEST and
ATOMIC_REQUEST, which are answered, RESPONSE and NET_TIMEOUT for a request; COLLECTIVE_DATA, COLLECTIVE_CONTROL,
COLLECTIVE_WINDOW_MERGE, COLLECTIVE_TIMEOUT and COLLECTIVE_COMPLETION of a collective; HOST_COMPLETION, HOST_TIMEOUT,
WATCHDOG_EXPIRY and MESSAGE_ARRIVAL at a sequencer. The traffic classes' shares of a port, the size in a request's last payload word
and the payload code 1 of a phase's end are the model's choices (log 16). -/
def DomainAndSequencerStepsComplete : Prop :=
  (∀ (s : State) (p : Nat) (f : Flit),
    let v := s.port p
    v.up = true →
    (f.crcOk = false → (∀ x, x ∈ v.pending → x.1.cls ≠ .collectives) →
      (v.buffer.filter (fun g => g.cls == .collectives)).length < 85 → ∃ t g, exec (.flitCrcMismatch p f) s = .next t ∧ t.sent = .flit p g :: s.sent ∧ g.nak = true) ∧
    (v.naked = true → v.buffer ≠ [] → v.failed < 8 → ∃ t, exec (.flitReplay p) s = .next t ∧
      t.sent = (v.buffer.map (Sent.flit p)).reverse ++ s.sent ∧ (t.port p).naked = false) ∧
    (f.crcOk = true → 8 ≤ f.type → InOrder s p f → v.badflit ≠ 0xFFFF →
      ∃ t, exec (.badflit p f) s = .next t ∧ (t.port p).badflit = v.badflit + 1) ∧
    (∀ o, f.crcOk = true → f.type < 8 → f.len16 < 15 → f.dstp ≠ s.pkg → InOrder s p f → s.routeTo f.dstp = some o →
      ClassRoom ((s.acceptOn p f).port o) f →
      ∃ t g, exec (.flitForward p f) s = .next t ∧ t.sent = .flit o g :: (s.acceptOn p f).sent ∧ g.header = f.header ∧ g.payload = f.payload)) ∧
  (∀ (s : State) (p : Nat) (peer : BitVec 6), p < 12 → s.part.ports.getLsbD p = true →
    fieldOf s.ctl.bootst.toNat 0 4 = 2 ∨ fieldOf s.ctl.bootst.toNat 0 4 = 3 →
    ∃ t, exec (.linkRetrained p peer) s = .next t ∧ (t.port p).up = true ∧ (t.port p).peer = peer) ∧
  (∀ (s : State) (q : Nat) (f : Flit) (p : Nat) (ps : List (Nat × Nat)), s.routeTo f.srcp = some p → Memory.wf s.mem = true →
    let u := s.acceptOn q f
    let n := f.lastWord
    (s.takes q f 1 = true → 0 < n → n ≤ 224 → u.peerPlace f.ctx f.addr .read n = .ok ps →
      ∃ t g w, exec (.readRequest ⟨q, f⟩) s = .next t ∧ Answers w t f 0 g.pmask g ∧ t.mem = s.mem) ∧
    (s.takes q f 2 = true → f.len16 ≠ 14 → 0 < n → n ≤ 224 → f.pmask = 0 → u.peerPlace f.ctx f.addr .write n = .ok ps →
      ∃ t g w, exec (.writeRequest ⟨q, f⟩) s = .next t ∧ Answers w t f 0 0 g ∧ ∀ x, x ∉ bytePlaces ps → memRead t.mem x = memRead s.mem x) ∧
    (∀ l b r, s.takes q f 3 = true → f.sub < 8 → n = 4 ∨ n = 8 → f.addr % n = 0 → ps = (l, b) :: r →
      u.peerPlace f.ctx f.addr .atomic n = .ok ps → s.dataError l n = none →
      ∃ t g w, exec (.atomicRequest ⟨q, f⟩) s = .next t ∧ Answers w t f 0 0 g ∧ g.pay 0 = leNat (memBytes s.mem l n))) ∧
  (∀ (s : State) (n tag q : Nat) (w : Waiting) (r : PeerReq) (f : Flit), (s.seq n).waiting = some w → w.tag = some tag →
    tabFind s.net.reqs tag = some r → r.who = .seq n →
    (s.takes q f 4 = true → f.tag = tag → f.srcp = r.dst → s.now < r.since + 100000 → f.sub = 0 → f.pmask = 0 → w.act = .store →
      ∃ t, exec (.response ⟨q, f⟩) s = .next t ∧ (t.seq n).pc = (s.seq n).pc + 4 ∧ (t.seq n).waiting = none) ∧
    (r.since + 100000 ≤ s.now → ∃ t v, exec (.netTimeout tag) s = .next t ∧ (t.seq n).stop = some v ∧ v.cause = .netTimeout)) ∧
  (∀ (s : State) (q : Nat) (f : Flit) (k j : Nat) (c : Coll), s.collById (f.addr % 65536) = some (k, c) → s.coll k = some c →
    c.active = true → c.failed = none → c.complete = false → c.from? s.pkg f.srcp = some j → 0 < j → j < c.inputs.length →
    (∀ e, e ∈ s.net.early → e.addr % 65536 ≠ f.addr % 65536) → ¬ Quiet c s.now j →
    (s.takes q f 5 = true → c.launch = none → ∃ t d, exec (.collectiveData ⟨q, f⟩) s = .next t ∧ t.coll k = some d ∧
      (d.input j).units.length = (c.input j).units.length + 1) ∧
    (s.takes q f 6 = true → f.pay 0 = 1 → ∃ t d, exec (.collectiveControl ⟨q, f⟩) s = .next t ∧ t.coll k = some d ∧
      (d.input j).ended = true)) ∧
  (∀ (s : State) (eng : Nat) (id : BitVec 16) (c : Coll), s.coll (65536 * eng + id.toNat) = some c →
    (c.failed = none → c.complete = false → c.active = false →
      (s.net.colls.filter (fun x => x.1 / 65536 == eng && x.2.active)).length < 4 →
      ∃ t d, exec (.collectiveWindowMerge eng id) s = .next t ∧ t.coll (65536 * eng + id.toNat) = some d ∧ d.active = true) ∧
    (c.active = true → c.failed = none → c.complete = false → clChildren c.v (clRank c.v s.pkg) ≠ [] → Quiet c s.now 1 →
      ∃ t d, exec (.collectiveTimeout eng id) s = .next t ∧ t.coll (65536 * eng + id.toNat) = some d ∧ d.failed = some .netTimeout) ∧
    (c.complete = true → ∃ t, exec (.collectiveCompletion eng id) s = .next t ∧ t.coll (65536 * eng + id.toNat) = none)) ∧
  (∀ (s : State) (n : Nat) (w : Waiting), (s.seq n).waiting = some w → w.tag = none →
    (s.now < w.since + 100000 → w.act = .store → ∀ x, ∃ t, exec (.hostCompletion n x) s = .next t ∧
      (t.seq n).pc = (s.seq n).pc + 4 ∧ (t.seq n).waiting = none) ∧
    (w.since + 100000 ≤ s.now → ∃ t v, exec (.hostTimeout n) s = .next t ∧ (t.seq n).stop = some v ∧ v.cause = .memHostTimeout)) ∧
  (∀ (s : State) (n : Nat), (s.seq n).wdogDue = true → (s.seq n).running = true → s.seqFree n = true →
    ∃ t v, exec (.watchdogExpiry n) s = .next t ∧ (t.seq n).stop = some v ∧ v.cause = .seqWatchdog) ∧
  (∀ (s : State) (n : Nat) (m : Msg), (s.seq n).arriving.find? (fun x => x.ch == m.ch) = some m →
    ∃ t, exec (.messageArrival n m) s = .next t ∧ (t.seq n).arriving = (s.seq n).arriving.erase m)

/-- R412, R417, R418, R421, R428, R429, R437, R440, R447, R458, R463, R469: under conditions on the state alone these complete,
each with its own effect: PRE_EMPTION, SAVE_COMMIT and LAUNCH_RESUME of a launch; FAULT_RECORD_WRITE, FRETRY, CONSUMER_INDEX_WRITE,
LOST_CLEAR and RING_RESET; INSTALL_DATA_KEY and INSTALL_IMAGE_KEY into an empty slot and ERASE_DATA_KEY and ERASE_IMAGE_KEY of a full
one, for the owner's signature (R463; lengths: the model's choice, log 12), TAKE_OWNERSHIP, READ_IDENTITY_CERTIFICATE and ATTEST; COLD_RESET, POWER_GOOD_LOSS, RECOVERY_VERIFY and
SERVICE_MARK; ADAPT, SUPPLY_ADJUST, BODY_BIAS_CHANGE, BODY_BIAS_SETTLED, THERMAL_WARN, THERMAL_WARN_CLEAR, THERMAL_TRIP and
POWER_GRANT; REGISTER_WRITE. -/
def SystemStepsComplete : Prop :=
  (∀ (s : State) (k : Nat) (l : Launch), s.launch k = some l → l.endCause = none → l.frozen = false →
    (l.phase = .running → s.mustStop k l = true → s.openColl k = false → (∀ i, s.item l.item = some i → i.inPair = false) →
      (∀ x, x ∈ s.items → x.2.midPair = false) →
      ∃ t v, exec (.preEmption k) s = .next t ∧ t.launch k = some v ∧ v.phase = .stopping) ∧
    (∀ v u, l.phase = .stopping → l.saved = some v → (s.seq l.seqn).waiting = none → s.quiescent k l = true →
      s.saveArea l (s.keepLaunch k l v) = .ok u →
      ∃ t x, exec (.saveCommit k) s = .next t ∧ t.launch k = some x ∧ x.phase = .saved ∧ x.nsave = l.nsave + 1) ∧
    (∀ v p h, l.phase = .saved → l.saved = some v → s.clearPick k = some p → s.biasReady l = true → s.blocksFree l = true →
      (∀ x, x ∈ v.pctxs → (s.pctx x.1).st = .free) → s.savedHeader l = some h →
      ∃ t x, exec (.launchResume k) s = .next t ∧ t.launch k = some x ∧ x.phase = .running ∧ x.saved = none)) ∧
  (∀ (s : State) (i : Nat) (r : FaultRec), s.records[i]? = some r → s.frtValid = false →
    ∃ t, exec (.faultRecordWrite i) s = .next t ∧ t.records = s.records.eraseIdx i ∧ (t.ring s.mctx).lost = true) ∧
  (∀ (s : State) (v : BitVec 64), v.getLsbD 12 = true → ∃ t, exec (.fretry .firmware v) s = .next t ∧
    ∀ k l, s.launch k = some l → l.ctx = v.toNat % 4096 → t.launch k = some { l with loadHeld := false }) ∧
  (∀ (s : State) (c : Nat), c < 4096 →
    (∃ t, exec (.consumerIndexWrite c (s.ring c).pi) s = .next t ∧ (t.ring c).ci = (s.ring c).pi) ∧
    (∃ t, exec (.lostClear c) s = .next t ∧ (t.ring c).lost = false) ∧
    (∃ t, exec (.ringReset c) s = .next t ∧ (t.ring c).pi = 0 ∧ (t.ring c).ci = 0)) ∧
  (∀ (s : State) (a : Word), s.sec.pending = some a →
    let b := memNat s.mem (hostLoc a.toNat) 64
    fieldOf b 24 40 = 0 →
    let slot := fieldOf b 8 4
    let part (x n : Nat) : List Byte := memBytes s.mem (hostLoc (fieldOf b 128 64 + x)) n
    let owned (len : Nat) : Prop := slot ≠ 0 ∧ fieldOf b 192 32 = len + 3732 ∧ s.sec.owner = some (sha3 (part len 1312)) ∧
      mlVerify (part len 1312) (signed (ascii "RNVOWN1") (leBytes 64 b ++ part 0 len)) (part (len + 1312) 2420) = true
    let answered (t : State) (x : Sec) : Prop := memNat t.mem (hostLoc (a.toNat + 8)) 2 = 1 ∧ t.sec = { x with pending := none }
    (Memory.wf s.mem = true → fieldOf b 0 8 = 1 → owned 32 → tabFind s.sec.dataKeys slot = none →
      ∃ t, exec (.installDataKey a) s = .next t ∧
        answered t { s.sec with dataKeys := tabPut s.sec.dataKeys slot (part 0 32) }) ∧
    (Memory.wf s.mem = true → fieldOf b 0 8 = 2 → owned 32 → (tabFind s.sec.dataKeys slot).isSome = true →
      ∃ t, exec (.eraseDataKey a) s = .next t ∧ answered t { s.sec with dataKeys := tabDel s.sec.dataKeys slot }) ∧
    (Memory.wf s.mem = true → fieldOf b 0 8 = 3 → owned 1312 → tabFind s.sec.imageKeys slot = none →
      ∃ t, exec (.installImageKey a) s = .next t ∧
        answered t { s.sec with imageKeys := tabPut s.sec.imageKeys slot (part 0 1312) }) ∧
    (Memory.wf s.mem = true → fieldOf b 0 8 = 4 → owned 1312 → (tabFind s.sec.imageKeys slot).isSome = true →
      ∃ t, exec (.eraseImageKey a) s = .next t ∧ answered t { s.sec with imageKeys := tabDel s.sec.imageKeys slot }) ∧
    (fieldOf b 0 8 = 7 → s.sec.owner = none → fieldOf b 192 32 = 1312 → ∃ t, exec (.takeOwnership a) s = .next t ∧
      t.sec.pending = none ∧ t.sec.owner = some (sha3 (memBytes s.mem (hostLoc (fieldOf b 128 64)) 1312))) ∧
    (fieldOf b 0 8 = 6 → ∃ t, exec (.readIdentityCertificate a) s = .next t ∧ t.sec.pending = none ∧ t.sec.owner = s.sec.owner) ∧
    (fieldOf b 0 8 = 5 → 32 ≤ fieldOf b 192 32 → ∃ t, exec (.attest a) s = .next t ∧ t.sec.pending = none ∧ t.now = s.now + 2)) ∧
  (∀ (s : State), Memory.wf s.mem = true →
    (∃ t, exec .coldReset s = .next t ∧ t.powered = true ∧ t.tiles = [] ∧ t.now = 0) ∧
    (∃ t, exec .powerGoodLoss s = .next t ∧ t.powered = false) ∧
    (fieldOf s.ctl.bootst.toNat 0 4 = 4 → FirmwareStands s (islandLoc 0 0) →
      ∃ t, exec .recoveryVerify s = .next t ∧ fieldOf t.ctl.bootst.toNat 0 4 = 1) ∧
    (∀ u, unitOk u = true → u ∉ s.sec.marks → Config.threshold (unitKey u) < tabGet s.sec.corrected (unitKey u) 0 →
      ∃ t, exec (.serviceMark u) s = .next t ∧ t.sec.marks = s.sec.marks ++ [u])) ∧
  (∀ (s : State) (d c n : Nat) (v : BitVec 8),
    (d < 4 → s.stage ≠ 4 → ∃ t, exec (.adapt d) s = .next t ∧ t.ctl.adapt.getLsbD d = true) ∧
    (d < 4 → s.ctl.adapt.getLsbD d = true → ∃ t, exec (.supplyAdjust d) s = .next t ∧ t.choice = s.choice + 1) ∧
    (c < 16 → (∀ l, l ∈ s.launches → l.2.live = false) → c ∉ s.power.reverse → tabGet s.power.idle c 0 + 100000 ≤ s.now →
      ∃ t, exec (.bodyBiasChange c) s = .next t ∧ c ∈ t.power.reverse) ∧
    (∃ t, exec (.bodyBiasSettled c) s = .next t ∧ tabFind t.power.settling c = none) ∧
    (n < 17 → ∃ t, exec (.thermalWarn n v) s = .next t ∧ tabGet t.power.sensors n 0 = v) ∧
    (s.ctl.therm.getLsbD 40 = true → (∀ x, x < 17 → (tabGet s.power.sensors x 0).toNat < 95) →
      ∃ t, exec .thermalWarnClear s = .next t ∧ t.ctl.therm.getLsbD 40 = false) ∧
    (∀ p, p ∈ s.power.sensors → 120 ≤ p.2.toNat → ∃ t, exec .thermalTrip s = .next t ∧ t.powered = false)) ∧
  (∀ (s : State) (x k : Nat) (v : Tile) (l : Launch), s.now % 2000 ≤ 50 → tabFind s.tiles x = some v → v.launch = some k →
    s.launch k = some l → l.runs = true → l.joined ≤ s.now / 2000 * 2000 → v.granted ≤ s.now / 2000 →
    Config.grantLate s.choice x = false →
    ∃ t u, exec .powerGrant s = .next t ∧ tabFind t.tiles x = some u ∧ u.pool = 14500 * (l.pclass + 1)) ∧
  (∀ (s : State) (v : BitVec 64), ∃ t, exec (.registerWrite .firmware 0x50 v) s = .next t ∧ t.ctl.domid = v &&& 0x7F)

end Sys2Proof.Claims

/-! ### The statements -/

/-- Integer instructions: words, results, IDZ and frame. -/
def Obligations.IntegerInstructionResults : Prop :=
  Sys2Proof.Claims.IntegerWords ∧ Sys2Proof.Claims.IntegerInstructionResults

/-- FP32 instructions: words, results, flags and frame. -/
def Obligations.FloatInstructionResults : Prop :=
  Sys2Proof.Claims.FloatWords ∧ Sys2Proof.Claims.FloatInstructionResults

/-- Branches, jumps and BSTAT: target, link register and frame. -/
def Obligations.BranchesAndJumps : Prop :=
  Sys2Proof.Claims.BranchAndJumpTargets ∧ Sys2Proof.Claims.StatusBranch

/-- Loads and stores: bytes read and stored, frame, faults, registers, host and peers. -/
def Obligations.LoadsAndStores : Prop :=
  Sys2Proof.Claims.LoadResults ∧ Sys2Proof.Claims.StoreResults ∧ Sys2Proof.Claims.OtherAccesses

/-- Atomics leave the new value in one step; misaligned accesses stop with MEM_MISALIGNED. -/
def Obligations.AtomicsAndAlignment : Prop :=
  Sys2Proof.Claims.AtomicResults ∧ Sys2Proof.Claims.MisalignedAccessStops

/-- FENCE, FENCEIO, TIME, WDOG and TEND. -/
def Obligations.FencesTimeAndTaskEnd : Prop :=
  Sys2Proof.Claims.FencesComplete ∧ Sys2Proof.Claims.TimebaseReads ∧ Sys2Proof.Claims.WatchdogAndTaskEnd

/-- Operand faults, TRAP, illegal words and ERET: what stops a sequencer and what returns. -/
def Obligations.StopsAndErrorReturn : Prop :=
  Sys2Proof.Claims.BadOperandsStop ∧ Sys2Proof.Claims.TrapAndIllegalStops ∧ Sys2Proof.Claims.ErrorReturn

/-- CSRR and CSRW for every control and status register. -/
def Obligations.ControlRegisters : Prop :=
  Sys2Proof.Claims.ControlRegisterReads ∧ Sys2Proof.Claims.ControlRegisterWrites

/-- SDSET writes one word of a descriptor register or zeroes all of it. -/
def Obligations.DescriptorRegisterWrites : Prop :=
  Sys2Proof.Claims.DescriptorRegisterWrites

/-- SBIND and SCANCEL: results, checks and the port context. -/
def Obligations.StreamBindingAndCancel : Prop :=
  Sys2Proof.Claims.StreamBinding ∧ Sys2Proof.Claims.StreamCancel

/-- CFGLD, RECONF, DRAIN, COPY and COLL: acceptance and results. -/
def Obligations.ConfigurationCopyAndCollective : Prop :=
  Sys2Proof.Claims.ConfigurationInstructions ∧ Sys2Proof.Claims.CopyAccepted ∧ Sys2Proof.Claims.CollectiveAccepted

/-- BARINIT, BARRIVE and BARBIND: counts, phases, posts and spans. -/
def Obligations.BarriersAndSpans : Prop :=
  Sys2Proof.Claims.BarrierSetup ∧ Sys2Proof.Claims.BarrierArrival ∧ Sys2Proof.Claims.SpanBinding

/-- CHPOST, CHBIND, EVSEND and EVHZ: posting, handler entries, insertion results and the horizon of a subgroup. -/
def Obligations.ChannelAndEventInstructions : Prop :=
  Sys2Proof.Claims.ChannelPost ∧ Sys2Proof.Claims.HandlerExchange ∧ Sys2Proof.Claims.EventSend ∧
    Sys2Proof.Claims.HorizonWrite

/-- Integer slot operators: result by width, lanes and modifiers. -/
def Obligations.SlotIntegerResults : Prop :=
  Sys2Proof.Claims.SlotIntegerResults

/-- Floating-point slot operators: result by format and rounding mode. -/
def Obligations.SlotFloatResults : Prop :=
  Sys2Proof.Claims.SlotFloatResults

/-- A firing of a pure slot operator: tokens, tokens out, cost, end of stream and frame. -/
def Obligations.SlotFirings : Prop :=
  Sys2Proof.Claims.SlotFiringFrame ∧ Sys2Proof.Claims.SlotEndAction ∧ Sys2Proof.Claims.SlotEosMismatch

/-- QCVT, QSIDE, PACK, UNPK, MXQ, DEQ and SRND. -/
def Obligations.SlotQuantisation : Prop :=
  Sys2Proof.Claims.SlotQuantiseResults ∧ Sys2Proof.Claims.SlotSideEntries

/-- JOIN, ACC, AMAX, ARGM, IOTA, CNT, SCAN and HALT. -/
def Obligations.SlotSequenceOperators : Prop :=
  Sys2Proof.Claims.SlotJoin ∧ Sys2Proof.Claims.SlotLaneAccumulation ∧ Sys2Proof.Claims.SlotSequences

/-- Scratch memory operators of a slot: requests, their performance and the end of stream. -/
def Obligations.SlotMemoryOperators : Prop :=
  Sys2Proof.Claims.MemoryOperatorFirings ∧ Sys2Proof.Claims.MemoryOperatorEnd ∧ Sys2Proof.Claims.MemoryRequestsPerform

/-- EOSG, TRAP, BRK, TIME, PCNT and SEED slots. -/
def Obligations.SlotControlOperators : Prop :=
  Sys2Proof.Claims.EndOfStreamGate ∧ Sys2Proof.Claims.TrapAndBreakSlots ∧ Sys2Proof.Claims.ReadAndSeedSlots

/-- Tokens arrive at their targets; PASS, STEER and FORK records forward them. -/
def Obligations.TokensAndForwarding : Prop :=
  Sys2Proof.Claims.TokenPlacement ∧ Sys2Proof.Claims.RouteForwarding

/-- MERGE, CARRY, INVAR, DELAY and edge records, and what stops a record. -/
def Obligations.RouteStateOperators : Prop :=
  Sys2Proof.Claims.RouteLoops ∧ Sys2Proof.Claims.RouteBuffersAndEdges ∧ Sys2Proof.Claims.RouteRecordStops

/-- MROW and MROWS: firings, column sums and the movement of rows. -/
def Obligations.MatrixOperators : Prop :=
  Sys2Proof.Claims.MatrixRowFirings ∧ Sys2Proof.Claims.MatrixColumnSums ∧ Sys2Proof.Claims.MatrixRowMovement

/-- MWLD, MWRD, MSCL, MSTAT and MCLR act on the weight store. -/
def Obligations.WeightStoreOperators : Prop :=
  Sys2Proof.Claims.WeightStoreOperators

/-- Event slot operators and deliveries: queue, neuron records and synapse groups. -/
def Obligations.EventOperators : Prop :=
  Sys2Proof.Claims.EventQueueOperators ∧ Sys2Proof.Claims.EventRecordOperators ∧ Sys2Proof.Claims.EventDeliveries

/-- SIGNAL, INTERRUPT, WAIT_GE, FENCE and NOP packets. -/
def Obligations.SignalAndWaitPackets : Prop :=
  Sys2Proof.Claims.SignalAndInterruptPackets ∧ Sys2Proof.Claims.WaitingPackets

/-- WRITE, TIMESTAMP, RETIRE and INVALIDATE packets. -/
def Obligations.WriteRetireAndInvalidatePackets : Prop :=
  Sys2Proof.Claims.WritingPackets ∧ Sys2Proof.Claims.RetirePackets ∧ Sys2Proof.Claims.InvalidatePackets

/-- COPY, BIND and LAUNCH packets. -/
def Obligations.CopyBindAndLaunchPackets : Prop :=
  Sys2Proof.Claims.CopyPacketStarts ∧ Sys2Proof.Claims.BindPackets ∧ Sys2Proof.Claims.LaunchPacketPlaces

/-- Kicks of a queue page, and resets of queues and functions. -/
def Obligations.KicksAndQueueResets : Prop :=
  Sys2Proof.Claims.KickResults ∧ Sys2Proof.Claims.KickReadFaults ∧ Sys2Proof.Claims.QueueResets

/-- Admission of queue entries: acceptance and every rejection code. -/
def Obligations.Admission : Prop :=
  Sys2Proof.Claims.AdmissionResults ∧ Sys2Proof.Claims.AdmissionCodes

/-- Dispatch of launches and other entries, on a free region. -/
def Obligations.Dispatch : Prop :=
  Sys2Proof.Claims.DispatchResults ∧ Sys2Proof.Claims.DispatchedRegionIsFree

/-- Completion records, budgets and deadlines of queue entries. -/
def Obligations.CompletionRecords : Prop :=
  Sys2Proof.Claims.CompletionRecords ∧ Sys2Proof.Claims.RingWords ∧ Sys2Proof.Claims.BudgetOverruns ∧
    Sys2Proof.Claims.DeadlineMisses

/-- Affine read streams: addresses, elements and tokens. -/
def Obligations.StreamReads : Prop :=
  Sys2Proof.Claims.AffineReads ∧ Sys2Proof.Claims.ElementReads

/-- Gather streams and bitmap streams. -/
def Obligations.GathersAndBitmaps : Prop :=
  Sys2Proof.Claims.Gathers ∧ Sys2Proof.Claims.BitmapElements

/-- Write streams, scatters and status ORs. -/
def Obligations.StreamWrites : Prop :=
  Sys2Proof.Claims.AffineWrites ∧ Sys2Proof.Claims.Scatters ∧ Sys2Proof.Claims.StatusOrs

/-- The end, retry and completion of a stream. -/
def Obligations.StreamEndsAndRetries : Prop :=
  Sys2Proof.Claims.StreamEnds ∧ Sys2Proof.Claims.StreamRetries ∧ Sys2Proof.Claims.StreamCompletions

/-- Router links, the routes of tokens, spill rings, invocations of a launch, and the repartition of an island. -/
def Obligations.LinksRingsInvocationsAndIslands : Prop :=
  Sys2Proof.Claims.RouterLinks ∧ Sys2Proof.Claims.RoutesLead ∧ Sys2Proof.Claims.RingRefills ∧
    Sys2Proof.Claims.InvocationStarts ∧ Sys2Proof.Claims.IslandRepartitions

/-- Storage ports: commands, pages of images and of sealed extents, and timeouts. -/
def Obligations.StoragePorts : Prop :=
  Sys2Proof.Claims.NvmeCommands ∧ Sys2Proof.Claims.CacheImagePages ∧ Sys2Proof.Claims.CacheImageWrites ∧
    Sys2Proof.Claims.StorageTimeouts

/-- Copy engines: spans that move, and their completion. -/
def Obligations.CopyEngines : Prop :=
  Sys2Proof.Claims.CopyCompletions ∧ Sys2Proof.Claims.CopyMoves

/-- Messages arrive, channels are selected, tasks start, and spans complete phases. -/
def Obligations.MessagesTasksAndSpans : Prop :=
  Sys2Proof.Claims.MessageArrivals ∧ Sys2Proof.Claims.HardwarePosts ∧ Sys2Proof.Claims.TaskStarts ∧
    Sys2Proof.Claims.ChannelSelection ∧ Sys2Proof.Claims.SpanPhases

/-- Watchdogs, host answers, resumption, and the launch control registers. -/
def Obligations.SequencerEventsAndLaunchControl : Prop :=
  Sys2Proof.Claims.SequencerEvents ∧ Sys2Proof.Claims.LaunchControls

/-- A launch loads its image and starts, or ends with the cause of its check. -/
def Obligations.LaunchLoads : Prop :=
  Sys2Proof.Claims.LaunchStarts ∧ Sys2Proof.Claims.LaunchLoadFails

/-- Shadow loads, the reconfiguration token, plane swaps and drains. -/
def Obligations.ShadowLoadsAndSwaps : Prop :=
  Sys2Proof.Claims.ShadowLoads ∧ Sys2Proof.Claims.TokenPasses ∧ Sys2Proof.Claims.PlaneSwaps ∧
    Sys2Proof.Claims.SwapsRefused ∧ Sys2Proof.Claims.DrainWatches

/-- Pre-emption, the save area and its header, resumption and the end of launches. -/
def Obligations.PreEmptionAndResumption : Prop :=
  Sys2Proof.Claims.PreEmptions ∧ Sys2Proof.Claims.LaunchesEnd ∧ Sys2Proof.Claims.Saves ∧ Sys2Proof.Claims.SaveHeaders ∧
    Sys2Proof.Claims.Resumptions

/-- Scale-out links: CRC, replay, retraining and forwarding; peer requests and their answers. -/
def Obligations.LinksAndPeerRequests : Prop :=
  Sys2Proof.Claims.LinkEvents ∧ Sys2Proof.Claims.FlitsForwarded ∧ Sys2Proof.Claims.PeerFaults ∧
    Sys2Proof.Claims.PeerReadsAndWrites ∧ Sys2Proof.Claims.PeerAtomics ∧ Sys2Proof.Claims.PeerAnswers

/-- Collectives: flits, steps, sums, sparse windows, status words, the tree of packages and the end. -/
def Obligations.Collectives : Prop :=
  Sys2Proof.Claims.CollectiveFlits ∧ Sys2Proof.Claims.CollectiveSteps ∧ Sys2Proof.Claims.CollectiveSums ∧
    Sys2Proof.Claims.SparseWindows ∧ Sys2Proof.Claims.SparseSteps ∧ Sys2Proof.Claims.CollectiveTree ∧
    Sys2Proof.Claims.CollectiveEnds

/-- Fault records, their rings, and translation retries. -/
def Obligations.FaultRecordsAndRetries : Prop :=
  Sys2Proof.Claims.RecordLayout ∧ Sys2Proof.Claims.RecordWrites ∧ Sys2Proof.Claims.RecordWords ∧
    Sys2Proof.Claims.RingIndices ∧ Sys2Proof.Claims.TranslationRetries

/-- Power grants, margins, body bias and temperature. -/
def Obligations.PowerAndTemperature : Prop :=
  Sys2Proof.Claims.PowerGrants ∧ Sys2Proof.Claims.SlotGrants ∧ Sys2Proof.Claims.MarginsAndBias ∧
    Sys2Proof.Claims.Temperatures

/-- Security requests: keys, attestation, certificate and ownership. -/
def Obligations.SecurityRequests : Prop :=
  Sys2Proof.Claims.KeyRequests ∧ Sys2Proof.Claims.Attestations

/-- Cold reset, recovery, loss of power, and retirement of worn units. -/
def Obligations.BootAndWear : Prop :=
  Sys2Proof.Claims.Boots ∧ Sys2Proof.Claims.ServiceMarks

/-- Registers of the device and who writes them, and the replay recorder. -/
def Obligations.RegistersAndRecorder : Prop :=
  Sys2Proof.Claims.RegisterWrites ∧ Sys2Proof.Claims.RecorderRecords

/-- Matrix and control slots, wide rows, tokens and swaps complete. -/
def Obligations.MatrixControlAndSwapsComplete : Prop :=
  Sys2Proof.Claims.MatrixControlAndSwapsComplete

/-- Links, peer requests, collectives and sequencer events complete. -/
def Obligations.DomainAndSequencerStepsComplete : Prop :=
  Sys2Proof.Claims.DomainAndSequencerStepsComplete

/-- Saves, fault rings, security, start-up, power and registers complete. -/
def Obligations.SystemStepsComplete : Prop :=
  Sys2Proof.Claims.SystemStepsComplete

/-- What reset leaves, and that it is sound. -/
def Obligations.ResetState : Prop :=
  Sys2Proof.Claims.ResetValues ∧ Sys2Proof.Claims.ResetIsSound

/-- A step runs the instruction that the bytes decode to. -/
def Obligations.StepRunsDecoded : Prop :=
  Sys2Proof.Claims.StepRunsDecoded ∧ Sys2Proof.Claims.StepRunsEvents

/-- Words written out from the formats decode to their instructions. -/
def Obligations.DecodedWords : Prop :=
  Sys2Proof.Claims.DecodedWords

/-- Encoding and decoding of every sequencer instruction agree, both ways. -/
def Obligations.SequencerWordsRoundTrip : Prop :=
  Sys2Proof.Claims.SequencerWordsRoundTrip

/-- Encoding and decoding of slots, route records and packets agree, both ways. -/
def Obligations.SlotRecordAndPacketRoundTrip : Prop :=
  Sys2Proof.Claims.SlotAndRecordWordsRoundTrip ∧ Sys2Proof.Claims.PacketsRoundTrip

/-- Every step keeps memory canonical and reserved bits zero. -/
def Obligations.StepsStaySound : Prop :=
  Sys2Proof.Claims.StepsStaySound
end

