-- ==== Sys2Proof/Laws/Memory.lean ====
section
/-!
SUPPORT. The canonical form of memory: every operation keeps it, and under it a read gives what was written last.
-/
namespace Sys2Proof.Machine
open Sys2Proof

/-! ### The canonical form is kept -/

theorem memAbove_mono {lo lo' : Nat} (h : lo' ≤ lo) {m : List Host.Cell} (w : memAbove lo m = true) : memAbove lo' m = true := by
  cases m with
  | nil => rfl
  | cons p r =>
    obtain ⟨a, b⟩ := p
    simp only [memAbove, Bool.and_eq_true, decide_eq_true_eq] at w ⊢
    exact ⟨⟨by omega, w.1.2⟩, w.2⟩

theorem memAbove_write (m : List Host.Cell) (lo a : Nat) (b : Byte) (h : lo ≤ a) (w : memAbove lo m = true) :
    memAbove lo (memWrite m a b) = true := by
  induction m generalizing lo with
  | nil =>
    simp only [memWrite]
    split
    · rfl
    · rename_i hb
      simp only [memAbove, Bool.and_eq_true, decide_eq_true_eq]
      exact ⟨⟨h, hb⟩, trivial⟩
  | cons p r ih =>
    obtain ⟨j, c⟩ := p
    simp only [memAbove, Bool.and_eq_true, decide_eq_true_eq] at w
    obtain ⟨⟨h1, h2⟩, h3⟩ := w
    simp only [memWrite]
    split
    · split
      · simp only [memAbove, Bool.and_eq_true, decide_eq_true_eq]
        exact ⟨⟨h1, h2⟩, h3⟩
      · rename_i hl hb
        simp only [memAbove, Bool.and_eq_true, decide_eq_true_eq]
        exact ⟨⟨h, hb⟩, ⟨by omega, h2⟩, h3⟩
    · split
      · rename_i he
        split
        · exact memAbove_mono (by omega) h3
        · rename_i hb
          simp only [memAbove, Bool.and_eq_true, decide_eq_true_eq]
          exact ⟨⟨h, hb⟩, he ▸ h3⟩
      · simp only [memAbove, Bool.and_eq_true, decide_eq_true_eq]
        exact ⟨⟨h1, h2⟩, ih (j + 1) (by omega) h3⟩

theorem memAbove_filter (f : Host.Cell → Bool) (m : List Host.Cell) (lo : Nat) (w : memAbove lo m = true) :
    memAbove lo (m.filter f) = true := by
  induction m generalizing lo with
  | nil => rfl
  | cons p r ih =>
    obtain ⟨j, c⟩ := p
    simp only [memAbove, Bool.and_eq_true, decide_eq_true_eq] at w
    obtain ⟨⟨h1, h2⟩, h3⟩ := w
    simp only [List.filter_cons]
    split
    · simp only [memAbove, Bool.and_eq_true, decide_eq_true_eq]
      exact ⟨⟨h1, h2⟩, ih (j + 1) h3⟩
    · exact ih lo (memAbove_mono (by omega) h3)

theorem memWrite_wf {m : List Host.Cell} (a : Nat) (b : Byte) (w : Memory.wf m = true) : Memory.wf (memWrite m a b) = true :=
  memAbove_write m 0 a b (Nat.zero_le _) w

theorem memPut_wf (m : List Host.Cell) (a : Nat) (bs : List Byte) (w : Memory.wf m = true) : Memory.wf (memPut m a bs) = true := by
  induction bs generalizing m a with
  | nil => exact w
  | cons b r ih => exact ih _ _ (memWrite_wf a b w)

theorem memPutNat_wf {m : List Host.Cell} (a n v : Nat) (w : Memory.wf m = true) : Memory.wf (memPutNat m a n v) = true :=
  memPut_wf m a _ w

theorem memFilter_wf (f : Host.Cell → Bool) {m : List Host.Cell} (w : Memory.wf m = true) : Memory.wf (m.filter f) = true :=
  memAbove_filter f m 0 w

theorem memClear_wf {m : List Host.Cell} (a n : Nat) (w : Memory.wf m = true) : Memory.wf (memClear m a n) = true :=
  memFilter_wf _ w

/-- Writing a list of cells one after another keeps the form. -/
theorem memCells_wf (cs : List Host.Cell) (m : List Host.Cell) (w : Memory.wf m = true) :
    Memory.wf (cs.foldl (fun x c => memWrite x c.1 c.2) m) = true := by
  induction cs generalizing m with
  | nil => exact w
  | cons c r ih => exact ih _ (memWrite_wf c.1 c.2 w)

/-! ### Reading after a write -/

theorem memRead_below {lo a : Nat} (h : a < lo) {m : List Host.Cell} (w : memAbove lo m = true) : memRead m a = 0 := by
  cases m with
  | nil => rfl
  | cons p r =>
    obtain ⟨j, c⟩ := p
    simp only [memAbove, Bool.and_eq_true, decide_eq_true_eq] at w
    have hj : a < j := by omega
    simp [memRead, hj]

theorem memAbove_read_write (m : List Host.Cell) (lo a x : Nat) (b : Byte) (w : memAbove lo m = true) :
    memRead (memWrite m a b) x = if x = a then b else memRead m x := by
  induction m generalizing lo with
  | nil =>
    by_cases hb : b = 0#8
    · simp [memWrite, memRead, hb]
    · by_cases hx : x = a
      · simp [memWrite, memRead, hb, hx]
      · simp [memWrite, memRead, hb, hx]
  | cons p r ih =>
    obtain ⟨j, c⟩ := p
    simp only [memAbove, Bool.and_eq_true, decide_eq_true_eq] at w
    obtain ⟨⟨h1, h2⟩, h3⟩ := w
    simp only [memWrite]
    by_cases ha : a < j
    · by_cases hb : b = 0#8
      · by_cases hx : x = a
        · subst hx
          simp [ha, hb, memRead]
        · simp [ha, hb, hx]
      · by_cases hx : x = a
        · subst hx
          simp [ha, hb, memRead]
        · by_cases hl : x < a
          · have hj : x < j := by omega
            simp [ha, hb, hx, hl, hj, memRead]
          · simp [ha, hb, hx, hl, memRead]
    · by_cases he : a = j
      · subst he
        by_cases hx : x = a
        · subst hx
          by_cases hb : b = 0#8
          · simp [hb, memRead_below (Nat.lt_succ_self x) h3]
          · simp [hb, memRead]
        · by_cases hb : b = 0#8
          · by_cases hl : x < a
            · simp [hb, hx, hl, memRead, memRead_below (Nat.lt_succ_of_lt hl) h3]
            · simp [hb, hx, hl, memRead]
          · simp [hb, hx, memRead]
      · have ih' := ih (j + 1) h3
        by_cases hx : x = a
        · subst hx
          simp [ha, he, memRead, ih']
        · simp [ha, he, memRead, ih', hx]

/-- A byte reads as it was written last. -/
theorem memRead_write {m : List Host.Cell} (a x : Nat) (b : Byte) (w : Memory.wf m = true) :
    memRead (memWrite m a b) x = if x = a then b else memRead m x :=
  memAbove_read_write m 0 a x b w

/-- A run of bytes leaves every byte outside it. -/
theorem memRead_put_outside (bs : List Byte) (m : List Host.Cell) (a x : Nat) (w : Memory.wf m = true)
    (h : x < a ∨ a + bs.length ≤ x) : memRead (memPut m a bs) x = memRead m x := by
  induction bs generalizing m a with
  | nil => rfl
  | cons b r ih =>
    simp only [List.length_cons] at h
    simp only [memPut]
    rw [ih _ _ (memWrite_wf a b w) (by omega), memRead_write a x b w]
    have : x ≠ a := by omega
    simp [this]

/-- A run of bytes reads back. -/
theorem memBytes_put_same (bs : List Byte) (m : List Host.Cell) (a : Nat) (w : Memory.wf m = true) :
    memBytes (memPut m a bs) a bs.length = bs := by
  induction bs generalizing m a with
  | nil => rfl
  | cons b r ih =>
    simp only [memPut, List.length_cons, memBytes]
    rw [ih _ _ (memWrite_wf a b w), memRead_put_outside r _ _ _ (memWrite_wf a b w) (by omega), memRead_write a a b w]
    simp

theorem memBytes_put_outside (bs : List Byte) (m : List Host.Cell) (a x n : Nat) (w : Memory.wf m = true)
    (h : x + n ≤ a ∨ a + bs.length ≤ x) : memBytes (memPut m a bs) x n = memBytes m x n := by
  induction n generalizing x with
  | zero => rfl
  | succ n ih =>
    simp only [memBytes]
    rw [ih (x + 1) (by omega), memRead_put_outside bs m a x w (by omega)]

theorem memAbove_read_filter (f : Host.Cell → Bool) (m : List Host.Cell) (lo x : Nat) (w : memAbove lo m = true)
    (h : ∀ b, f (x, b) = true) : memRead (m.filter f) x = memRead m x := by
  induction m generalizing lo with
  | nil => rfl
  | cons p r ih =>
    obtain ⟨j, c⟩ := p
    simp only [memAbove, Bool.and_eq_true, decide_eq_true_eq] at w
    obtain ⟨⟨h1, h2⟩, h3⟩ := w
    simp only [List.filter_cons]
    split
    · simp only [memRead, ih (j + 1) h3]
    · rename_i hf
      have hx : x ≠ j := by
        intro e
        subst e
        exact hf (h c)
      by_cases hl : x < j
      · rw [ih (j + 1) h3]
        simp [memRead, hl, memRead_below (Nat.lt_succ_of_lt hl) h3]
      · simp [memRead, hl, hx, ih (j + 1) h3]

/-- A cleared range leaves every byte outside it. -/
theorem memRead_clear_outside (m : List Host.Cell) (a n x : Nat) (w : Memory.wf m = true) (h : x < a ∨ a + n ≤ x) :
    memRead (memClear m a n) x = memRead m x := by
  refine memAbove_read_filter _ m 0 x w (fun b => ?_)
  simp only [Bool.not_eq_true', Bool.and_eq_false_iff, decide_eq_false_iff_not]
  omega

theorem memRead_filter_none (f : Host.Cell → Bool) (m : List Host.Cell) (x : Nat) (h : ∀ b, f (x, b) = false) :
    memRead (m.filter f) x = 0 := by
  induction m with
  | nil => rfl
  | cons p r ih =>
    obtain ⟨j, c⟩ := p
    simp only [List.filter_cons]
    split
    · rename_i hf
      have hx : x ≠ j := by
        intro e
        subst e
        simp [h c] at hf
      simp only [memRead]
      split
      · rfl
      · simp [ih]
    · exact ih

/-- A cleared byte reads zero. -/
theorem memRead_clear_inside (m : List Host.Cell) (a n x : Nat) (h1 : a ≤ x) (h2 : x < a + n) : memRead (memClear m a n) x = 0 :=
  memRead_filter_none _ m x (fun b => by simp [h1, h2])

/-! ### Little-endian numbers -/

@[simp] theorem leBytes_length (n v : Nat) : (leBytes n v).length = n := by
  induction n generalizing v with
  | zero => rfl
  | succ n ih => simp [leBytes, ih]

theorem leNat_leBytes (n v : Nat) : leNat (leBytes n v) = v % 256 ^ n := by
  induction n generalizing v with
  | zero => simp [leBytes, leNat, Nat.mod_one]
  | succ n ih =>
    simp only [leBytes, leNat, ih, BitVec.toNat_ofNat]
    have h : 256 ^ (n + 1) = 256 * 256 ^ n := by rw [Nat.pow_succ, Nat.mul_comm]
    rw [h, Nat.mod_mul]

/-- A stored number reads back modulo the width stored. -/
theorem memNat_putNat (m : List Host.Cell) (a n v : Nat) (w : Memory.wf m = true) :
    memNat (memPutNat m a n v) a n = v % 256 ^ n := by
  have h := memBytes_put_same (leBytes n v) m a w
  simp only [leBytes_length] at h
  simp [memNat, memPutNat, h, leNat_leBytes]

theorem memBytes_length (m : List Host.Cell) (a n : Nat) : (memBytes m a n).length = n := by
  induction n generalizing a with
  | zero => rfl
  | succ n ih => simp [memBytes, ih]

end Sys2Proof.Machine
end

