-- ==== Sys2Proof/Laws/Storage.lean ====
section
/-!
SUPPORT. The length of a tag (R61), and memory that no error marks (R57).
-/
namespace Sys2Proof.Machine
open Sys2Proof

theorem keccakRound_length (a : Lanes) (i : Nat) : (keccakRound a i).length = 25 := by simp [keccakRound]

theorem keccakRounds_length (l : List Nat) (a : Lanes) (h : a.length = 25) : (l.foldl keccakRound a).length = 25 := by
  induction l generalizing a with
  | nil => exact h
  | cons i r ih => exact ih _ (keccakRound_length a i)

theorem absorb_length (n fuel : Nat) (a : Lanes) (bs : List Byte) (h : a.length = 25) : (absorb a n fuel bs).length = 25 := by
  induction fuel generalizing a bs with
  | zero => exact h
  | succ f ih =>
    simp only [absorb]
    split
    · exact h
    · exact ih _ _ (keccakRounds_length _ _ (by simp))

theorem flatMap_leBytes_length (a : List Word) : (a.flatMap (fun w => leBytes 8 w.toNat)).length = 8 * a.length := by
  induction a with
  | nil => rfl
  | cons w r ih =>
    simp only [List.flatMap_cons, List.length_append, ih, List.length_cons]
    simp [leBytes]
    omega

theorem squeeze_length (rate n : Nat) (a : Lanes) (hr : rate ≤ 200) (h : a.length = 25) :
    (squeeze rate a n).length = rate * n := by
  induction n generalizing a with
  | zero => rfl
  | succ n ih =>
    simp only [squeeze, List.length_append, List.length_take, flatMap_leBytes_length, h]
    rw [ih (keccakF a) (keccakRounds_length _ _ h), Nat.min_eq_left hr, Nat.mul_succ, Nat.add_comm]

/-- A sponge gives as many bytes as it is asked for. -/
theorem sponge_length (rate : Nat) (suffix : Byte) (msg : List Byte) (out : Nat) (h0 : 0 < rate) (hr : rate ≤ 200) :
    (sponge rate suffix msg out).length = out := by
  have hc : out ≤ rate * ceilDiv out rate := by
    have := Nat.lt_mul_div_succ (out + rate - 1) h0
    rw [Nat.mul_succ] at this
    unfold ceilDiv
    omega
  simp only [sponge, List.length_take]
  rw [squeeze_length _ _ _ hr (absorb_length _ _ _ _ (by simp))]
  omega

/-- R61: a tag has 16 bytes. -/
theorem pageTag_length (key : List Byte) (imgid p : Nat) (page : List Byte) : (pageTag key imgid p page).length = 16 :=
  sponge_length _ _ _ _ (by decide) (by decide)

/-- Memory without a poisoned granule and a marked frame holds no error (R57, R471). -/
theorem dataError_clean (s : State) (h1 : s.poison = []) (h2 : s.frameState = []) (n loc : Nat) : s.dataError loc n = none := by
  induction n generalizing loc with
  | zero => rfl
  | succ n ih =>
    have hp : s.granulePoison loc = false := by simp [State.granulePoison, h1]
    have hf : s.frame loc = 0 := by simp only [State.frame, h2]; split <;> rfl
    simp [State.dataError, hp, hf, ih]

end Sys2Proof.Machine
end

