-- ==== Sys2Proof/Laws/SaveArea.lean ====
section
/-!
SUPPORT. Save areas that lie in island scratch: their accesses reach it, writing one succeeds, and reading one gives the bytes that
stand there (R32, R67, R440, R447).
-/
namespace Sys2Proof.Machine
open Sys2Proof

/-- Island 0 is island scratch whole, and every block of it belongs to context `c`. -/
def State.ownsIsland (s : State) (c : Nat) : Prop :=
  s.part.islandOk 0 = true ∧ (s.island 0).busy = false ∧ (s.island 0).scr.toNat = 16 ∧
    ∀ b, b < 16 → s.reserved 0 b = false ∧ (tabGet (s.island 0).own b 0).getLsbD 12 = true ∧
      bits (tabGet (s.island 0).own b 0).toNat 0 12 = c

theorem island_address (o : Nat) (h : o < 2 ^ 20) : (word (2 ^ 60 + o)).toNat = 2 ^ 60 + o := by
  simp only [word, BitVec.toNat_ofNat]
  omega

theorem check_island_at (s : State) (c o n : Nat) (k : AccKind) (a : Word) (hs : s.ownsIsland c) (h : o < 2 ^ 20) (hk : k ≠ .atomic)
    (ha : a.toNat = 2 ^ 60 + o) : (s.check { ctx := some c } 0 [] k a n).1 = .ok (.mem (islandLoc 0 o)) := by
  obtain ⟨h1, h2, h3, h4⟩ := hs
  have hp : pathOf a = 1 := by
    simp only [pathOf, bits, ha]
    omega
  have hi : islandOfAddr a = 0 := by
    simp only [islandOfAddr, bits, ha]
    omega
  have hb : bits a.toNat 0 20 = o := by
    simp only [bits, ha]
    omega
  have e1 : bits a.toNat 58 2 = 0 := by
    simp only [bits, ha]
    omega
  have e2 : bits a.toNat 20 30 = 0 := by
    simp only [bits, ha]
    omega
  obtain ⟨r1, r2, r3⟩ := h4 (o / 65536) (by omega)
  have c1 : s.checkPath a = none := by
    simp only [State.checkPath, hp, hi, h1, e1, e2]
    rfl
  have c2 : s.checkIsland (some c) a = .ok (.mem (islandLoc 0 o)) := by
    have : ¬ (16 ≤ o / 65536) := by omega
    simp only [State.checkIsland, hi, hb, h2, r1, h3, r2, r3]
    simp [this]
  simp [State.check, c1, c2, hp, hk]

theorem check_owned_island (s : State) (c o n : Nat) (k : AccKind) (hs : s.ownsIsland c) (h : o < 2 ^ 20) (hk : k ≠ .atomic) :
    (s.check { ctx := some c } 0 [] k (word (2 ^ 60 + o)) n).1 = .ok (.mem (islandLoc 0 o)) :=
  check_island_at s c o n k _ hs h hk (island_address o h)

theorem saveWords_owned (c : Nat) (f : Nat → Nat) (n : Nat) : ∀ (s : State) (off : Nat), s.ownsIsland c → off + 8 * n ≤ 2 ^ 20 →
    ∃ m p, s.saveWords c (2 ^ 60) f n off = .ok { s with mem := m, poison := p } := by
  induction n with
  | zero => intro s off _ _; exact ⟨s.mem, s.poison, rfl⟩
  | succ n ih =>
    intro s off hs h
    obtain ⟨m, p, e⟩ := ih (s.storeNat (islandLoc 0 off) 8 (f off)) (off + 8) hs (by omega)
    refine ⟨m, p, ?_⟩
    simp only [State.saveWords]
    rw [check_owned_island s c off 8 .write hs (by omega) (by decide)]
    exact e

theorem savedBytes_owned (c : Nat) (s : State) (hs : s.ownsIsland c) (h1 : s.poison = []) (h2 : s.frameState = []) (n : Nat) :
    ∀ off, off + 8 * n ≤ 2 ^ 20 →
      s.savedBytes c (2 ^ 60) n off = some ((List.range n).flatMap (fun i => memBytes s.mem (islandLoc 0 (off + 8 * i)) 8)) := by
  induction n with
  | zero => intro off _; rfl
  | succ n ih =>
    intro off h
    simp only [State.savedBytes]
    rw [check_owned_island s c off 8 .read hs (by omega) (by decide)]
    simp only [dataError_clean s h1 h2, Option.isSome_none, Bool.false_eq_true, if_false, ih (off + 8) (by omega), Option.map_some]
    congr 1
    rw [List.range_succ_eq_map, List.flatMap_cons, List.flatMap_map]
    congr 1
    refine congrArg (fun g => List.flatMap g (List.range n)) (funext fun i => ?_)
    rw [show off + 8 + 8 * i = off + 8 * (i + 1) by omega]

/-- R440: an area in an owned island is written, and nothing but memory, the time and the model's choices changes. -/
theorem saveArea_owned (s : State) (l : Launch) (sv : Saved) (hs : s.ownsIsland l.ctx) (ha : l.savea.toNat = 2 ^ 60)
    (hl : l.saveLen ≤ 2 ^ 20) (hz : 256 ≤ l.saveLen) :
    ∃ m p n c, s.saveArea l sv = .ok { s with mem := m, poison := p, now := n, choice := c } := by
  simp only [State.saveArea, ha]
  obtain ⟨m1, p1, e1⟩ := saveWords_owned l.ctx (fun _ => 0) 32 s.bump 0 hs (by decide)
  rw [e1]
  obtain ⟨m2, p2, e2⟩ := saveWords_owned l.ctx (fun off => leNat ((List.range 8).map (fun i => savedByte s.choice (off + i))))
    ((l.saveLen - 256) / 8) { s.bump with mem := m1, poison := p1 } 256 hs (by omega)
  simp only [e2]
  generalize saveHeader l sv _ _ _ = v
  obtain ⟨m3, p3, e3⟩ := saveWords_owned l.ctx (fun off => bits v (8 * off) 64) 32
    ({ s.bump with mem := m2, poison := p2 } : State).hold 0 hs (by decide)
  exact ⟨m3, p3, _, _, e3⟩

theorem crcBit_lt (c : Nat) (b : Bool) : crcBit c b < 2 ^ 64 := by
  simp only [crcBit]
  split
  · exact Nat.xor_lt_two_pow (by omega) (by decide)
  · omega

theorem crcRun_cons (b : Byte) (r : List Byte) (c : Nat) : crcRun (b :: r) c = crcRun r (crcByte c b) := by
  simp only [crcRun]
  split <;> simp_all

theorem crc64_lt (bs : List Byte) : crc64 bs < 2 ^ 64 := by
  have step (c : Nat) (b : Byte) : crcByte c b < 2 ^ 64 := crcBit_lt _ _
  have run (bs : List Byte) : ∀ c, c < 2 ^ 64 → crcRun bs c < 2 ^ 64 := by
    induction bs with
    | nil => intro c h; exact h
    | cons b r ih => intro c _; rw [crcRun_cons]; exact ih _ (step c b)
  exact run bs 0 (by decide)

theorem memBytes_append (m : List Host.Cell) (n : Nat) : ∀ (k a : Nat), memBytes m a (n + k) = memBytes m a n ++ memBytes m (a + n) k := by
  induction n with
  | zero => intro k a; simp [memBytes]
  | succ n ih =>
    intro k a
    rw [show n + 1 + k = (n + k) + 1 by omega]
    simp only [memBytes, ih, List.cons_append]
    rw [show a + 1 + n = a + (n + 1) by omega]

theorem memBytes_chunks (m : List Host.Cell) (a n : Nat) :
    (List.range n).flatMap (fun i => memBytes m (a + 8 * i) 8) = memBytes m a (8 * n) := by
  induction n with
  | zero => rfl
  | succ n ih =>
    rw [List.range_succ, List.flatMap_append, ih, show 8 * (n + 1) = 8 * n + 8 by omega, memBytes_append]
    simp

/-- A save area in an owned island that stands for launch `l` exists: some 256 bytes of header make it so, without a load or a token
(R447). -/
theorem savedHeader_owned (s : State) (l : Launch) (hs : s.ownsIsland l.ctx) (ha : l.savea.toNat = 2 ^ 60)
    (hl : l.saveLen ≤ 2 ^ 20) (hz : 256 ≤ l.saveLen) (h1 : s.poison = []) (h2 : s.frameState = []) (w : Memory.wf s.mem = true)
    (c1 : l.ctx < 2 ^ 12) (c2 : l.ltag < 2 ^ 15) (c3 : l.regionBits < 2 ^ 18) :
    ∃ (bs : List Byte) (h : Nat), ({ s with mem := memPut s.mem (islandLoc 0 0) bs } : State).savedHeader l = some h ∧ h < 2 ^ 384 := by
  obtain ⟨body, hbody⟩ : ∃ b, b = memBytes s.mem (islandLoc 0 256) (8 * ((l.saveLen - 256) / 8)) := ⟨_, rfl⟩
  obtain ⟨h, hh⟩ : ∃ h, h = saveMagic + 2 ^ 64 + l.ctx * 2 ^ 72 + l.ltag * 2 ^ 84 + l.regionBits * 2 ^ 104 + crc64 body * 2 ^ 320 :=
    ⟨_, rfl⟩
  obtain ⟨bs, hbs⟩ : ∃ b, b = leBytes 256 h := ⟨_, rfl⟩
  have hn : bs.length = 256 := by rw [hbs, leBytes_length]
  have hc := crc64_lt body
  have loc (o : Nat) : islandLoc 0 o = islandLoc 0 0 + o := by simp [islandLoc, place]
  have r1 : memBytes (memPut s.mem (islandLoc 0 0) bs) (islandLoc 0 0) 256 = bs := by
    have := memBytes_put_same bs s.mem (islandLoc 0 0) w
    rwa [hn] at this
  have r2 : memBytes (memPut s.mem (islandLoc 0 0) bs) (islandLoc 0 256) (8 * ((l.saveLen - 256) / 8)) = body := by
    rw [hbody]
    refine memBytes_put_outside bs s.mem (islandLoc 0 0) _ _ w (Or.inr ?_)
    exact Nat.le_of_eq (by rw [hn, loc 256])
  have t1 := savedBytes_owned l.ctx { s with mem := memPut s.mem (islandLoc 0 0) bs } hs h1 h2 32 0 (by decide)
  have t2 := savedBytes_owned l.ctx { s with mem := memPut s.mem (islandLoc 0 0) bs } hs h1 h2
    ((l.saveLen - 256) / 8) 256 (by omega)
  have g1 : (List.range 32).flatMap (fun i => memBytes (memPut s.mem (islandLoc 0 0) bs) (islandLoc 0 (0 + 8 * i)) 8) = bs := by
    refine Eq.trans ?_ r1
    rw [show (256 : Nat) = 8 * 32 from rfl, ← memBytes_chunks]
    refine congrArg (fun g => List.flatMap g _) (funext fun i => ?_)
    rw [loc (0 + 8 * i), Nat.zero_add]
  have g2 : (List.range ((l.saveLen - 256) / 8)).flatMap
      (fun i => memBytes (memPut s.mem (islandLoc 0 0) bs) (islandLoc 0 (256 + 8 * i)) 8) = body := by
    rw [← r2, ← memBytes_chunks]
    refine congrArg (fun g => List.flatMap g _) (funext fun i => ?_)
    rw [loc (256 + 8 * i), loc 256, Nat.add_assoc]
  have e : leNat bs = h := by
    rw [hbs, leNat_leBytes]
    refine Nat.mod_eq_of_lt (Nat.lt_of_lt_of_le (m := 256 ^ 48) ?_ (by decide))
    simp only [hh, saveMagic]
    omega
  refine ⟨bs, h, ?_, by simp only [hh, saveMagic]; omega⟩
  simp only [State.savedHeader, ha, t1, t2, g1, g2, e]
  refine if_pos ?_
  simp only [hh, saveMagic, bits, Bool.and_eq_true, beq_iff_eq]
  omega

theorem bits_magic (b : Byte) (r : List Byte) (h : b ≠ 0x52) : (bits (leNat (b :: r)) 0 64 == saveMagic) = false := by
  have h82 : b.toNat ≠ 82 := fun e => h (BitVec.eq_of_toNat_eq e)
  have := b.isLt
  generalize hn : leNat r = n
  simp only [leNat, hn, bits, saveMagic, beq_eq_false_iff_ne]
  omega

theorem memChunks_cons (m : List Host.Cell) (n : Nat) :
    ∃ r, (List.range (n + 1)).flatMap (fun i => memBytes m (islandLoc 0 (0 + 8 * i)) 8) = memRead m (islandLoc 0 0) :: r := by
  rw [List.range_succ_eq_map, List.flatMap_cons]
  exact ⟨_, rfl⟩

/-- An area in an owned island whose first byte is not that of the magic number stands for no launch. -/
theorem savedHeader_magic (s : State) (l : Launch) (hs : s.ownsIsland l.ctx) (ha : l.savea.toNat = 2 ^ 60) (h1 : s.poison = [])
    (h2 : s.frameState = []) (h : memRead s.mem (islandLoc 0 0) ≠ 0x52) : s.savedHeader l = none := by
  obtain ⟨r, e⟩ := memChunks_cons s.mem 31
  have t1 := savedBytes_owned l.ctx s hs h1 h2 32 0 (by decide)
  rw [e] at t1
  simp only [State.savedHeader, ha, t1]
  generalize s.savedBytes l.ctx (2 ^ 60) ((l.saveLen - 256) / 8) 256 = body
  cases body with
  | none => rfl
  | some b => simp only [bits_magic _ r h, Bool.false_and, Bool.false_eq_true, if_false]

end Sys2Proof.Machine
end

