-- ==== Sys2Proof/Laws/Flits.lean ====
section
/-!
SUPPORT. Sealed flits: a seal keeps header and payload, its CRC stands, and its trailer holds the numbers that it was given (R270,
R271).
-/
namespace Sys2Proof
open Sys2Proof.Machine

theorem Flit.bytes_eq (f : Flit) (x : BitVec 128) :
    ({ header := f.header, payload := f.payload, trailer := x } : Flit).bytes = f.bytes := by
  unfold Flit.bytes
  rfl

theorem Flit.bytes_seal (f : Flit) (n a : BitVec 16) (k : Bool) : (f.seal n a k).bytes = f.bytes := by
  unfold Flit.seal
  exact f.bytes_eq _

/-- The fields of a trailer that stands for the CRC `c`, the numbers `n` and `a` and the NAK bit `k`. -/
theorem trailer_fields (c n a k : Nat) (hc : c < 2 ^ 64) (hn : n < 2 ^ 16) (ha : a < 2 ^ 16) (hk : k ≤ 1) :
    let v := (BitVec.ofNat 128 (c + n * 2 ^ 64 + a * 2 ^ 80 + k * 2 ^ 96)).toNat
    bits v 0 64 = c ∧ bits v 64 16 = n ∧ bits v 80 16 = a ∧ bits v 96 1 = k := by
  simp only [BitVec.toNat_ofNat, bits]
  omega

theorem Flit.fields_seal (f : Flit) (n a : BitVec 16) (k : Bool) :
    bits (f.seal n a k).trailer.toNat 0 64 = crc64 f.bytes ∧ (f.seal n a k).seqNo = n.toNat ∧ (f.seal n a k).ack = a.toNat ∧
      bits (f.seal n a k).trailer.toNat 96 1 = k.toNat := by
  have h := crc64_lt f.bytes
  unfold Flit.seqNo Flit.ack Flit.seal
  generalize crc64 f.bytes = c at h
  exact trailer_fields c n.toNat a.toNat k.toNat h n.isLt a.isLt (Bool.toNat_le k)

/-- A sealed flit passes its CRC. -/
theorem Flit.crcOk_seal (f : Flit) (n a : BitVec 16) (k : Bool) : (f.seal n a k).crcOk = true := by
  unfold Flit.crcOk
  rw [(f.fields_seal n a k).1, Flit.bytes_seal, beq_self_eq_true]

theorem Flit.seqNo_seal (f : Flit) (n a : BitVec 16) (k : Bool) : (f.seal n a k).seqNo = n.toNat := (f.fields_seal n a k).2.1

theorem Flit.ack_seal (f : Flit) (n a : BitVec 16) (k : Bool) : (f.seal n a k).ack = a.toNat := (f.fields_seal n a k).2.2.1

theorem Flit.nak_seal (f : Flit) (n a : BitVec 16) (k : Bool) : (f.seal n a k).nak = k := by
  unfold Flit.nak
  rw [(f.fields_seal n a k).2.2.2]
  cases k <;> rfl

end Sys2Proof
end

