-- ==== Sys2Proof/Laws/Mldsa.lean ====
section
/-!
SUPPORT. Lengths of what the hash functions answer, and a signature of ML-DSA-44 that verifies under a public key of zeros.
-/
namespace Sys2Proof.Machine
open Sys2Proof

/-! ### Lengths -/

theorem sha3_length (msg : List Byte) : (sha3 msg).length = 32 := sponge_length _ _ _ _ (by decide) (by decide)
theorem shake256_length (msg : List Byte) (n : Nat) : (shake256 msg n).length = n := sponge_length _ _ _ _ (by decide) (by decide)

/-! ### Zero polynomials -/

/-- Every coefficient is zero. -/
def Poly.Zero (p : Poly) : Prop := ∀ x, x ∈ p → x = 0

theorem zero_zipWith (f : Nat → Nat → Nat) (h : f 0 0 = 0) (a b : Poly) (ha : Poly.Zero a) (hb : Poly.Zero b) :
    Poly.Zero (List.zipWith f a b) := by
  intro x hx
  obtain ⟨i, hi, rfl⟩ := List.mem_iff_getElem.mp hx
  simp only [List.length_zipWith] at hi
  rw [List.getElem_zipWith, ha _ (List.getElem_mem _), hb _ (List.getElem_mem _)]
  exact h

theorem zero_mul (a b : Poly) (h : Poly.Zero b) : Poly.Zero (polyMul a b) := by
  intro x hx
  obtain ⟨i, hi, rfl⟩ := List.mem_iff_getElem.mp hx
  simp only [polyMul, List.getElem_zipWith]
  rw [h _ (List.getElem_mem _)]
  rfl

theorem mul_zero_left (a b : Poly) (h : Poly.Zero a) : Poly.Zero (polyMul a b) := by
  intro x hx
  obtain ⟨i, hi, rfl⟩ := List.mem_iff_getElem.mp hx
  simp only [polyMul, List.getElem_zipWith]
  rw [h _ (List.getElem_mem _), Nat.zero_mul]
  rfl

theorem zero_ntt (w : Poly) (h : Poly.Zero w) : Poly.Zero (ntt w) := by
  intro x hx
  obtain ⟨r, -, rfl⟩ := List.mem_map.mp hx
  clear hx
  induction w with
  | nil => rfl
  | cons c w ih =>
    rw [List.foldr_cons, h c (by simp), ih (fun y hy => h y (by simp [hy]))]
    rfl

theorem nttInv_zero (v : Poly) (h : Poly.Zero v) : nttInv v = List.replicate 256 0 := by
  have sum (l : Poly) (hl : Poly.Zero l) : l.foldl (· + ·) 0 = 0 := by
    induction l with
    | nil => rfl
    | cons c l ih => rw [List.foldl_cons, hl c (by simp)]; exact ih (fun y hy => hl y (by simp [hy]))
  have go (n : Nat) : ∀ v, Poly.Zero v → nttSums v n = List.replicate n 0 := by
    induction n with
    | zero => intro v _; rfl
    | succ n ih =>
      intro v h
      simp only [nttSums, sum v h, ih _ (mul_zero_left _ _ h), List.replicate_succ]
      rfl
  exact go 256 v h

theorem zero_matVec (a : List (List Poly)) (v : List Poly) (h : ∀ p, p ∈ v → Poly.Zero p) (p : Poly) (hp : p ∈ matVec a v) :
    Poly.Zero p := by
  obtain ⟨row, -, rfl⟩ := List.mem_map.mp hp
  have go (l : List Poly) (z : Poly) (hl : ∀ q, q ∈ l → Poly.Zero q) (hz : Poly.Zero z) : Poly.Zero (l.foldl polyAdd z) := by
    induction l generalizing z with
    | nil => exact hz
    | cons q l ih =>
      exact ih _ (fun y hy => hl y (by simp [hy])) (zero_zipWith _ rfl _ _ hz (hl q (by simp)))
  refine go _ _ (fun q hq => ?_) (fun x hx => (List.mem_replicate.mp hx).2)
  obtain ⟨i, hi, rfl⟩ := List.mem_iff_getElem.mp hq
  rw [List.getElem_zipWith]
  exact zero_mul _ _ (h _ (List.getElem_mem _))

/-! ### A signature under the key of zeros -/

def zeroKey : List Byte := List.replicate 1312 0
def zeroHigh : List Poly := List.replicate 4 (List.replicate 256 0)
/-- Commitment, response and hint: the response and the hint are zero, so that the high bits are zero whatever the challenge is. -/
def zeroSig (msg : List Byte) : List Byte :=
  mlCommit (mlMu zeroKey msg) zeroHigh ++ ((List.replicate 4 (packMask (List.replicate 256 0))).flatten ++ List.replicate 84 0)

theorem zeroTail_length :
    ((List.replicate 4 (packMask (List.replicate 256 0))).flatten ++ List.replicate 84 (0 : Byte)).length = 2388 := by decide +kernel

theorem zeroSig_length (msg : List Byte) : (zeroSig msg).length = 2420 := by
  rw [zeroSig, List.length_append, zeroTail_length, mlCommit, shake256_length]

theorem zeroSig_verifies (msg : List Byte) : mlVerify zeroKey msg (zeroSig msg) = true := by
  have hc : (mlCommit (mlMu zeroKey msg) zeroHigh).length = 32 := shake256_length _ _
  have drop (n : Nat) : (zeroSig msg).drop (32 + n) =
      ((List.replicate 4 (packMask (List.replicate 256 0))).flatten ++ List.replicate 84 0).drop n := by
    rw [zeroSig, ← List.drop_drop, List.drop_left' hc]
  have take : (zeroSig msg).take 32 = mlCommit (mlMu zeroKey msg) zeroHigh := List.take_left' hc
  have hint : unpackHint (((zeroSig msg).drop 2336).map BitVec.toNat) 4 0 = some [[], [], [], []] := by
    rw [show 2336 = 32 + 2304 from rfl, drop]
    decide +kernel
  have hz : (List.range 4).map (fun i => unpackMask (piece 576 i ((zeroSig msg).drop 32))) = zeroHigh := by
    rw [show (zeroSig msg).drop 32 = _ from drop 0]
    decide +kernel
  have ht : (List.range 4).map (fun i => (unpackPoly 10 (piece 320 i (zeroKey.drop 32))).map (· * 8192 % mlQ)) = zeroHigh := by
    decide +kernel
  have zero (p : Poly) (h : p ∈ zeroHigh) : Poly.Zero p := by
    rw [(List.mem_replicate.mp h).2]
    exact fun x hx => (List.mem_replicate.mp hx).2
  have hw (c : Poly) : List.zipWith (fun a t => nttInv (polySub a (polyMul c (ntt t))))
      (matVec (expandA (zeroKey.take 32)) (zeroHigh.map ntt)) zeroHigh = zeroHigh := by
    refine List.eq_replicate_iff.mpr ⟨?_, ?_⟩
    · simp only [matVec, expandA, zeroHigh, List.length_zipWith, List.length_map, List.length_range, List.length_replicate, min_self]
    · intro p hp
      obtain ⟨i, hi, rfl⟩ := List.mem_iff_getElem.mp hp
      rw [List.getElem_zipWith]
      refine nttInv_zero _ (zero_zipWith _ rfl _ _ ?_ ?_)
      · refine zero_matVec _ _ (fun q hq => ?_) _ (List.getElem_mem _)
        obtain ⟨r, hr, rfl⟩ := List.mem_map.mp hq
        exact zero_ntt _ (zero _ hr)
      · exact zero_mul _ _ (zero_ntt _ (zero _ (List.getElem_mem _)))
  have hh : List.zipWith (fun p ones => p.mapIdx (fun j x => useHint (ones.contains j) x)) zeroHigh [[], [], [], []] = zeroHigh := by
    decide +kernel
  have short : shortVec zeroHigh (2 ^ 17 - 78) = true := by decide +kernel
  have hk : ¬ (zeroKey.length ≠ 1312 ∨ (zeroSig msg).length ≠ 2420) := by
    exact fun h => h.elim (fun e => e List.length_replicate) (fun e => e (zeroSig_length msg))
  rw [mlVerify, if_neg hk, hint]
  dsimp only
  rw [hz, ht, hw, hh, take, short, Bool.true_and]
  exact decide_eq_true rfl

end Sys2Proof.Machine
end

