-- ==== Sys2Proof/Laws/PerInstr.lean ====
section
/-!
SUPPORT. Statements made per instruction: how many words an instruction has (R134, R143, R314, R387).
-/
namespace Sys2Proof.Laws.WordCount
open Sys2Proof

/-- A sequencer instruction has one word, a slot one or two by M[3], a record two, a packet its header and its body, and a
step that no word encodes none. -/
def Statement (i : Instr) : Prop :=
  ((encodeSeq i).isSome = true → (encode i).length = 1) ∧
  (∀ opc o, encodeSeq i = none → slotParts i = some (opc, o) → (encode i).length = if o.m.getLsbD 3 = true then 2 else 1) ∧
  (∀ op r, encodeSeq i = none → slotParts i = none → recParts i = some (op, r) → (encode i).length = 2) ∧
  (∀ code p, encodeSeq i = none → slotParts i = none → recParts i = none → packetParts i = some (code, p) →
    (encode i).length = p.body.length + 1) ∧
  (encodeSeq i = none → slotParts i = none → recParts i = none → packetParts i = none → encode i = [])

theorem of_encode (i : Instr) : Statement i := by
  unfold Statement encode
  refine ⟨fun h => ?_, fun _ _ h1 h2 => ?_, fun _ _ h1 h2 h3 => ?_, fun _ _ h1 h2 h3 h4 => ?_, fun h1 h2 h3 h4 => ?_⟩
  · obtain ⟨w, hw⟩ := Option.isSome_iff_exists.mp h
    rw [hw]
    rfl
  · rw [h1, h2]
    simp only
    split <;> rfl
  · rw [h1, h2, h3]
    rfl
  · rw [h1, h2, h3, h4]
    rfl
  · rw [h1, h2, h3, h4]

theorem add : ∀ x0 x1 x2, Statement (.add x0 x1 x2) := fun _ _ _ => of_encode _
theorem sub : ∀ x0 x1 x2, Statement (.sub x0 x1 x2) := fun _ _ _ => of_encode _
theorem and : ∀ x0 x1 x2, Statement (.and x0 x1 x2) := fun _ _ _ => of_encode _
theorem or : ∀ x0 x1 x2, Statement (.or x0 x1 x2) := fun _ _ _ => of_encode _
theorem xor : ∀ x0 x1 x2, Statement (.xor x0 x1 x2) := fun _ _ _ => of_encode _
theorem sll : ∀ x0 x1 x2, Statement (.sll x0 x1 x2) := fun _ _ _ => of_encode _
theorem srl : ∀ x0 x1 x2, Statement (.srl x0 x1 x2) := fun _ _ _ => of_encode _
theorem sra : ∀ x0 x1 x2, Statement (.sra x0 x1 x2) := fun _ _ _ => of_encode _
theorem mul : ∀ x0 x1 x2, Statement (.mul x0 x1 x2) := fun _ _ _ => of_encode _
theorem mulh : ∀ x0 x1 x2, Statement (.mulh x0 x1 x2) := fun _ _ _ => of_encode _
theorem div : ∀ x0 x1 x2, Statement (.div x0 x1 x2) := fun _ _ _ => of_encode _
theorem rem : ∀ x0 x1 x2, Statement (.rem x0 x1 x2) := fun _ _ _ => of_encode _
theorem min : ∀ x0 x1 x2, Statement (.min x0 x1 x2) := fun _ _ _ => of_encode _
theorem max : ∀ x0 x1 x2, Statement (.max x0 x1 x2) := fun _ _ _ => of_encode _
theorem slt : ∀ x0 x1 x2, Statement (.slt x0 x1 x2) := fun _ _ _ => of_encode _
theorem sltu : ∀ x0 x1 x2, Statement (.sltu x0 x1 x2) := fun _ _ _ => of_encode _
theorem fadds : ∀ x0 x1 x2, Statement (.fadds x0 x1 x2) := fun _ _ _ => of_encode _
theorem fsubs : ∀ x0 x1 x2, Statement (.fsubs x0 x1 x2) := fun _ _ _ => of_encode _
theorem fmuls : ∀ x0 x1 x2, Statement (.fmuls x0 x1 x2) := fun _ _ _ => of_encode _
theorem fdivs : ∀ x0 x1 x2, Statement (.fdivs x0 x1 x2) := fun _ _ _ => of_encode _
theorem fsqrts : ∀ x0 x1, Statement (.fsqrts x0 x1) := fun _ _ => of_encode _
theorem feqs : ∀ x0 x1 x2, Statement (.feqs x0 x1 x2) := fun _ _ _ => of_encode _
theorem flts : ∀ x0 x1 x2, Statement (.flts x0 x1 x2) := fun _ _ _ => of_encode _
theorem fles : ∀ x0 x1 x2, Statement (.fles x0 x1 x2) := fun _ _ _ => of_encode _
theorem fcvtis : ∀ x0 x1, Statement (.fcvtis x0 x1) := fun _ _ => of_encode _
theorem fcvtsi : ∀ x0 x1, Statement (.fcvtsi x0 x1) := fun _ _ => of_encode _
theorem amoadd : ∀ x0 x1 x2 x3, Statement (.amoadd x0 x1 x2 x3) := fun _ _ _ _ => of_encode _
theorem amoand : ∀ x0 x1 x2 x3, Statement (.amoand x0 x1 x2 x3) := fun _ _ _ _ => of_encode _
theorem amoor : ∀ x0 x1 x2 x3, Statement (.amoor x0 x1 x2 x3) := fun _ _ _ _ => of_encode _
theorem amoxor : ∀ x0 x1 x2 x3, Statement (.amoxor x0 x1 x2 x3) := fun _ _ _ _ => of_encode _
theorem amomin : ∀ x0 x1 x2 x3, Statement (.amomin x0 x1 x2 x3) := fun _ _ _ _ => of_encode _
theorem amomax : ∀ x0 x1 x2 x3, Statement (.amomax x0 x1 x2 x3) := fun _ _ _ _ => of_encode _
theorem amoswp : ∀ x0 x1 x2 x3, Statement (.amoswp x0 x1 x2 x3) := fun _ _ _ _ => of_encode _
theorem amocas : ∀ x0 x1 x2 x3, Statement (.amocas x0 x1 x2 x3) := fun _ _ _ _ => of_encode _
theorem addi : ∀ x0 x1 x2, Statement (.addi x0 x1 x2) := fun _ _ _ => of_encode _
theorem andi : ∀ x0 x1 x2, Statement (.andi x0 x1 x2) := fun _ _ _ => of_encode _
theorem ori : ∀ x0 x1 x2, Statement (.ori x0 x1 x2) := fun _ _ _ => of_encode _
theorem xori : ∀ x0 x1 x2, Statement (.xori x0 x1 x2) := fun _ _ _ => of_encode _
theorem slli : ∀ x0 x1 x2, Statement (.slli x0 x1 x2) := fun _ _ _ => of_encode _
theorem srli : ∀ x0 x1 x2, Statement (.srli x0 x1 x2) := fun _ _ _ => of_encode _
theorem srai : ∀ x0 x1 x2, Statement (.srai x0 x1 x2) := fun _ _ _ => of_encode _
theorem lih : ∀ x0 x1 x2, Statement (.lih x0 x1 x2) := fun _ _ _ => of_encode _
theorem beq : ∀ x0 x1 x2, Statement (.beq x0 x1 x2) := fun _ _ _ => of_encode _
theorem bne : ∀ x0 x1 x2, Statement (.bne x0 x1 x2) := fun _ _ _ => of_encode _
theorem blt : ∀ x0 x1 x2, Statement (.blt x0 x1 x2) := fun _ _ _ => of_encode _
theorem bge : ∀ x0 x1 x2, Statement (.bge x0 x1 x2) := fun _ _ _ => of_encode _
theorem bltu : ∀ x0 x1 x2, Statement (.bltu x0 x1 x2) := fun _ _ _ => of_encode _
theorem bgeu : ∀ x0 x1 x2, Statement (.bgeu x0 x1 x2) := fun _ _ _ => of_encode _
theorem bstat : ∀ x0 x1 x2, Statement (.bstat x0 x1 x2) := fun _ _ _ => of_encode _
theorem jalr : ∀ x0 x1 x2, Statement (.jalr x0 x1 x2) := fun _ _ _ => of_encode _
theorem jal : ∀ x0 x1, Statement (.jal x0 x1) := fun _ _ => of_encode _
theorem ldb : ∀ x0 x1 x2, Statement (.ldb x0 x1 x2) := fun _ _ _ => of_encode _
theorem ldh : ∀ x0 x1 x2, Statement (.ldh x0 x1 x2) := fun _ _ _ => of_encode _
theorem ldw : ∀ x0 x1 x2, Statement (.ldw x0 x1 x2) := fun _ _ _ => of_encode _
theorem ldd : ∀ x0 x1 x2, Statement (.ldd x0 x1 x2) := fun _ _ _ => of_encode _
theorem stb : ∀ x0 x1 x2, Statement (.stb x0 x1 x2) := fun _ _ _ => of_encode _
theorem sth : ∀ x0 x1 x2, Statement (.sth x0 x1 x2) := fun _ _ _ => of_encode _
theorem stw : ∀ x0 x1 x2, Statement (.stw x0 x1 x2) := fun _ _ _ => of_encode _
theorem std : ∀ x0 x1 x2, Statement (.std x0 x1 x2) := fun _ _ _ => of_encode _
theorem fence : ∀ x0, Statement (.fence x0) := fun _ => of_encode _
theorem fenceio : ∀ x0, Statement (.fenceio x0) := fun _ => of_encode _
theorem sdset : ∀ x0 x1 x2, Statement (.sdset x0 x1 x2) := fun _ _ _ => of_encode _
theorem sbind : ∀ x0 x1 x2 x3, Statement (.sbind x0 x1 x2 x3) := fun _ _ _ _ => of_encode _
theorem scancel : ∀ x0 x1, Statement (.scancel x0 x1) := fun _ _ => of_encode _
theorem cfgld : ∀ x0 x1 x2, Statement (.cfgld x0 x1 x2) := fun _ _ _ => of_encode _
theorem reconf : ∀ x0 x1, Statement (.reconf x0 x1) := fun _ _ => of_encode _
theorem drain : ∀ x0 x1, Statement (.drain x0 x1) := fun _ _ => of_encode _
theorem copy : ∀ x0 x1 x2, Statement (.copy x0 x1 x2) := fun _ _ _ => of_encode _
theorem coll : ∀ x0 x1 x2, Statement (.coll x0 x1 x2) := fun _ _ _ => of_encode _
theorem barinit : ∀ x0 x1, Statement (.barinit x0 x1) := fun _ _ => of_encode _
theorem barrive : ∀ x0 x1, Statement (.barrive x0 x1) := fun _ _ => of_encode _
theorem barbind : ∀ x0 x1, Statement (.barbind x0 x1) := fun _ _ => of_encode _
theorem chpost : ∀ x0 x1 x2 x3, Statement (.chpost x0 x1 x2 x3) := fun _ _ _ _ => of_encode _
theorem chbind : ∀ x0 x1 x2, Statement (.chbind x0 x1 x2) := fun _ _ _ => of_encode _
theorem tend : Statement .tend := of_encode _
theorem evsend : ∀ x0 x1, Statement (.evsend x0 x1) := fun _ _ => of_encode _
theorem evhz : ∀ x0, Statement (.evhz x0) := fun _ => of_encode _
theorem trap : ∀ x0, Statement (.trap x0) := fun _ => of_encode _
theorem eret : Statement .eret := of_encode _
theorem csrr : ∀ x0 x1, Statement (.csrr x0 x1) := fun _ _ => of_encode _
theorem csrw : ∀ x0 x1 x2, Statement (.csrw x0 x1 x2) := fun _ _ _ => of_encode _
theorem time : ∀ x0, Statement (.time x0) := fun _ => of_encode _
theorem wdog : ∀ x0, Statement (.wdog x0) := fun _ => of_encode _
theorem illegalInstruction : ∀ x0, Statement (.illegalInstruction x0) := fun _ => of_encode _
theorem addOperator : ∀ x0, Statement (.addOperator x0) := fun _ => of_encode _
theorem subOperator : ∀ x0, Statement (.subOperator x0) := fun _ => of_encode _
theorem adds : ∀ x0, Statement (.adds x0) := fun _ => of_encode _
theorem subs : ∀ x0, Statement (.subs x0) := fun _ => of_encode _
theorem mulOperator : ∀ x0, Statement (.mulOperator x0) := fun _ => of_encode _
theorem mulhOperator : ∀ x0, Statement (.mulhOperator x0) := fun _ => of_encode _
theorem mad : ∀ x0, Statement (.mad x0) := fun _ => of_encode _
theorem abs : ∀ x0, Statement (.abs x0) := fun _ => of_encode _
theorem neg : ∀ x0, Statement (.neg x0) := fun _ => of_encode _
theorem minOperator : ∀ x0, Statement (.minOperator x0) := fun _ => of_encode _
theorem maxOperator : ∀ x0, Statement (.maxOperator x0) := fun _ => of_encode _
theorem minu : ∀ x0, Statement (.minu x0) := fun _ => of_encode _
theorem maxu : ∀ x0, Statement (.maxu x0) := fun _ => of_encode _
theorem andOperator : ∀ x0, Statement (.andOperator x0) := fun _ => of_encode _
theorem orOperator : ∀ x0, Statement (.orOperator x0) := fun _ => of_encode _
theorem xorOperator : ∀ x0, Statement (.xorOperator x0) := fun _ => of_encode _
theorem andn : ∀ x0, Statement (.andn x0) := fun _ => of_encode _
theorem not : ∀ x0, Statement (.not x0) := fun _ => of_encode _
theorem shl : ∀ x0, Statement (.shl x0) := fun _ => of_encode _
theorem shr : ∀ x0, Statement (.shr x0) := fun _ => of_encode _
theorem sar : ∀ x0, Statement (.sar x0) := fun _ => of_encode _
theorem rol : ∀ x0, Statement (.rol x0) := fun _ => of_encode _
theorem clz : ∀ x0, Statement (.clz x0) := fun _ => of_encode _
theorem popc : ∀ x0, Statement (.popc x0) := fun _ => of_encode _
theorem cmpeq : ∀ x0, Statement (.cmpeq x0) := fun _ => of_encode _
theorem cmpne : ∀ x0, Statement (.cmpne x0) := fun _ => of_encode _
theorem cmplt : ∀ x0, Statement (.cmplt x0) := fun _ => of_encode _
theorem cmple : ∀ x0, Statement (.cmple x0) := fun _ => of_encode _
theorem cmpltu : ∀ x0, Statement (.cmpltu x0) := fun _ => of_encode _
theorem cmpleu : ∀ x0, Statement (.cmpleu x0) := fun _ => of_encode _
theorem sel : ∀ x0, Statement (.sel x0) := fun _ => of_encode _
theorem fadd : ∀ x0, Statement (.fadd x0) := fun _ => of_encode _
theorem fsub : ∀ x0, Statement (.fsub x0) := fun _ => of_encode _
theorem fmul : ∀ x0, Statement (.fmul x0) := fun _ => of_encode _
theorem fma : ∀ x0, Statement (.fma x0) := fun _ => of_encode _
theorem fmin : ∀ x0, Statement (.fmin x0) := fun _ => of_encode _
theorem fmax : ∀ x0, Statement (.fmax x0) := fun _ => of_encode _
theorem fabs : ∀ x0, Statement (.fabs x0) := fun _ => of_encode _
theorem fneg : ∀ x0, Statement (.fneg x0) := fun _ => of_encode _
theorem fcmpeq : ∀ x0, Statement (.fcmpeq x0) := fun _ => of_encode _
theorem fcmplt : ∀ x0, Statement (.fcmplt x0) := fun _ => of_encode _
theorem fcmple : ∀ x0, Statement (.fcmple x0) := fun _ => of_encode _
theorem fcmpun : ∀ x0, Statement (.fcmpun x0) := fun _ => of_encode _
theorem rcp : ∀ x0, Statement (.rcp x0) := fun _ => of_encode _
theorem rsq : ∀ x0, Statement (.rsq x0) := fun _ => of_encode _
theorem sqrt : ∀ x0, Statement (.sqrt x0) := fun _ => of_encode _
theorem exp2 : ∀ x0, Statement (.exp2 x0) := fun _ => of_encode _
theorem log2 : ∀ x0, Statement (.log2 x0) := fun _ => of_encode _
theorem tanh : ∀ x0, Statement (.tanh x0) := fun _ => of_encode _
theorem sigm : ∀ x0, Statement (.sigm x0) := fun _ => of_encode _
theorem frnd : ∀ x0, Statement (.frnd x0) := fun _ => of_encode _
theorem fclass : ∀ x0, Statement (.fclass x0) := fun _ => of_encode _
theorem cvtf : ∀ x0, Statement (.cvtf x0) := fun _ => of_encode _
theorem cvti : ∀ x0, Statement (.cvti x0) := fun _ => of_encode _
theorem cvtif : ∀ x0, Statement (.cvtif x0) := fun _ => of_encode _
theorem join : ∀ x0, Statement (.join x0) := fun _ => of_encode _
theorem acc : ∀ x0, Statement (.acc x0) := fun _ => of_encode _
theorem amax : ∀ x0, Statement (.amax x0) := fun _ => of_encode _
theorem argm : ∀ x0, Statement (.argm x0) := fun _ => of_encode _
theorem iota : ∀ x0, Statement (.iota x0) := fun _ => of_encode _
theorem cnt : ∀ x0, Statement (.cnt x0) := fun _ => of_encode _
theorem scan : ∀ x0, Statement (.scan x0) := fun _ => of_encode _
theorem halt : ∀ x0, Statement (.halt x0) := fun _ => of_encode _
theorem ld : ∀ x0, Statement (.ld x0) := fun _ => of_encode _
theorem st : ∀ x0, Statement (.st x0) := fun _ => of_encode _
theorem ldfe : ∀ x0, Statement (.ldfe x0) := fun _ => of_encode _
theorem stfe : ∀ x0, Statement (.stfe x0) := fun _ => of_encode _
theorem atadd : ∀ x0, Statement (.atadd x0) := fun _ => of_encode _
theorem atmin : ∀ x0, Statement (.atmin x0) := fun _ => of_encode _
theorem atmax : ∀ x0, Statement (.atmax x0) := fun _ => of_encode _
theorem atcas : ∀ x0, Statement (.atcas x0) := fun _ => of_encode _
theorem atxch : ∀ x0, Statement (.atxch x0) := fun _ => of_encode _
theorem empty : ∀ x0, Statement (.empty x0) := fun _ => of_encode _
theorem mrow : ∀ x0, Statement (.mrow x0) := fun _ => of_encode _
theorem mrows : ∀ x0, Statement (.mrows x0) := fun _ => of_encode _
theorem mwld : ∀ x0, Statement (.mwld x0) := fun _ => of_encode _
theorem mwrd : ∀ x0, Statement (.mwrd x0) := fun _ => of_encode _
theorem mscl : ∀ x0, Statement (.mscl x0) := fun _ => of_encode _
theorem mstat : ∀ x0, Statement (.mstat x0) := fun _ => of_encode _
theorem mclr : ∀ x0, Statement (.mclr x0) := fun _ => of_encode _
theorem qcvt : ∀ x0, Statement (.qcvt x0) := fun _ => of_encode _
theorem qside : ∀ x0, Statement (.qside x0) := fun _ => of_encode _
theorem pack : ∀ x0, Statement (.pack x0) := fun _ => of_encode _
theorem unpk : ∀ x0, Statement (.unpk x0) := fun _ => of_encode _
theorem mxq : ∀ x0, Statement (.mxq x0) := fun _ => of_encode _
theorem deq : ∀ x0, Statement (.deq x0) := fun _ => of_encode _
theorem srnd : ∀ x0, Statement (.srnd x0) := fun _ => of_encode _
theorem evin : ∀ x0, Statement (.evin x0) := fun _ => of_encode _
theorem evlk : ∀ x0, Statement (.evlk x0) := fun _ => of_encode _
theorem evfr : ∀ x0, Statement (.evfr x0) := fun _ => of_encode _
theorem evst : ∀ x0, Statement (.evst x0) := fun _ => of_encode _
theorem evwr : ∀ x0, Statement (.evwr x0) := fun _ => of_encode _
theorem evq : ∀ x0, Statement (.evq x0) := fun _ => of_encode _
theorem eosg : ∀ x0, Statement (.eosg x0) := fun _ => of_encode _
theorem trapOperator : ∀ x0, Statement (.trapOperator x0) := fun _ => of_encode _
theorem brk : ∀ x0, Statement (.brk x0) := fun _ => of_encode _
theorem timeOperator : ∀ x0, Statement (.timeOperator x0) := fun _ => of_encode _
theorem pcnt : ∀ x0, Statement (.pcnt x0) := fun _ => of_encode _
theorem seed : ∀ x0, Statement (.seed x0) := fun _ => of_encode _
theorem pass : ∀ x0, Statement (.pass x0) := fun _ => of_encode _
theorem fork : ∀ x0, Statement (.fork x0) := fun _ => of_encode _
theorem steer : ∀ x0, Statement (.steer x0) := fun _ => of_encode _
theorem merge : ∀ x0, Statement (.merge x0) := fun _ => of_encode _
theorem carry : ∀ x0, Statement (.carry x0) := fun _ => of_encode _
theorem invar : ∀ x0, Statement (.invar x0) := fun _ => of_encode _
theorem delay : ∀ x0, Statement (.delay x0) := fun _ => of_encode _
theorem edgeAgn : ∀ x0, Statement (.edgeAgn x0) := fun _ => of_encode _
theorem edgeBarrier : ∀ x0, Statement (.edgeBarrier x0) := fun _ => of_encode _
theorem edgeIndigo : ∀ x0, Statement (.edgeIndigo x0) := fun _ => of_encode _
theorem nop : ∀ x0, Statement (.nop x0) := fun _ => of_encode _
theorem write : ∀ x0, Statement (.write x0) := fun _ => of_encode _
theorem signalSet : ∀ x0, Statement (.signalSet x0) := fun _ => of_encode _
theorem signalAdd : ∀ x0, Statement (.signalAdd x0) := fun _ => of_encode _
theorem waitGe : ∀ x0, Statement (.waitGe x0) := fun _ => of_encode _
theorem launch : ∀ x0, Statement (.launch x0) := fun _ => of_encode _
theorem bind : ∀ x0, Statement (.bind x0) := fun _ => of_encode _
theorem copyPacket : ∀ x0, Statement (.copyPacket x0) := fun _ => of_encode _
theorem retire : ∀ x0, Statement (.retire x0) := fun _ => of_encode _
theorem retireCancel : ∀ x0, Statement (.retireCancel x0) := fun _ => of_encode _
theorem fencePacket : ∀ x0, Statement (.fencePacket x0) := fun _ => of_encode _
theorem interrupt : ∀ x0, Statement (.interrupt x0) := fun _ => of_encode _
theorem timestamp : ∀ x0, Statement (.timestamp x0) := fun _ => of_encode _
theorem invalidate : ∀ x0, Statement (.invalidate x0) := fun _ => of_encode _
theorem localMemoryRequestPerform : ∀ x0, Statement (.localMemoryRequestPerform x0) := fun _ => of_encode _
theorem rowArrival : ∀ x0, Statement (.rowArrival x0) := fun _ => of_encode _
theorem rowForward : ∀ x0, Statement (.rowForward x0) := fun _ => of_encode _
theorem eventDelivery : ∀ x0, Statement (.eventDelivery x0) := fun _ => of_encode _
theorem markEmit : ∀ x0, Statement (.markEmit x0) := fun _ => of_encode _
theorem routerLinkTransfer : ∀ x0 x1, Statement (.routerLinkTransfer x0 x1) := fun _ _ => of_encode _
theorem spillRingRefill : ∀ x0 x1, Statement (.spillRingRefill x0 x1) := fun _ _ => of_encode _
theorem invocationStart : ∀ x0, Statement (.invocationStart x0) := fun _ => of_encode _
theorem streamElementIssue : ∀ x0, Statement (.streamElementIssue x0) := fun _ => of_encode _
theorem writeStreamElement : ∀ x0, Statement (.writeStreamElement x0) := fun _ => of_encode _
theorem indirectGather : ∀ x0, Statement (.indirectGather x0) := fun _ => of_encode _
theorem indirectScatter : ∀ x0, Statement (.indirectScatter x0) := fun _ => of_encode _
theorem bitmapSparseElement : ∀ x0, Statement (.bitmapSparseElement x0) := fun _ => of_encode _
theorem statusOr : ∀ x0, Statement (.statusOr x0) := fun _ => of_encode _
theorem endOfStream : ∀ x0, Statement (.endOfStream x0) := fun _ => of_encode _
theorem agnRetry : ∀ x0, Statement (.agnRetry x0) := fun _ => of_encode _
theorem islandRepartition : ∀ x0 x1, Statement (.islandRepartition x0 x1) := fun _ _ => of_encode _
theorem repartitionComplete : ∀ x0, Statement (.repartitionComplete x0) := fun _ => of_encode _
theorem nvmeCompletion : ∀ x0 x1 x2, Statement (.nvmeCompletion x0 x1 x2) := fun _ _ _ => of_encode _
theorem storageCommandTimeout : ∀ x0, Statement (.storageCommandTimeout x0) := fun _ => of_encode _
theorem copyCompletion : ∀ x0, Statement (.copyCompletion x0) := fun _ => of_encode _
theorem streamCompletion : ∀ x0, Statement (.streamCompletion x0) := fun _ => of_encode _
theorem imageLoadComplete : ∀ x0, Statement (.imageLoadComplete x0) := fun _ => of_encode _
theorem tokenPass : ∀ x0, Statement (.tokenPass x0) := fun _ => of_encode _
theorem planeSwap : ∀ x0, Statement (.planeSwap x0) := fun _ => of_encode _
theorem swapRefused : ∀ x0, Statement (.swapRefused x0) := fun _ => of_encode _
theorem drainWatchPost : ∀ x0, Statement (.drainWatchPost x0) := fun _ => of_encode _
theorem messageArrival : ∀ x0 x1, Statement (.messageArrival x0 x1) := fun _ _ => of_encode _
theorem hardwarePost : ∀ x0, Statement (.hardwarePost x0) := fun _ => of_encode _
theorem taskStart : ∀ x0, Statement (.taskStart x0) := fun _ => of_encode _
theorem spanPhaseComplete : ∀ x0, Statement (.spanPhaseComplete x0) := fun _ => of_encode _
theorem watchdogExpiry : ∀ x0, Statement (.watchdogExpiry x0) := fun _ => of_encode _
theorem hostTimeout : ∀ x0, Statement (.hostTimeout x0) := fun _ => of_encode _
theorem flitCrcMismatch : ∀ x0 x1, Statement (.flitCrcMismatch x0 x1) := fun _ _ => of_encode _
theorem flitReplay : ∀ x0, Statement (.flitReplay x0) := fun _ => of_encode _
theorem badflit : ∀ x0 x1, Statement (.badflit x0 x1) := fun _ _ => of_encode _
theorem flitForward : ∀ x0 x1, Statement (.flitForward x0 x1) := fun _ _ => of_encode _
theorem readRequest : ∀ x0, Statement (.readRequest x0) := fun _ => of_encode _
theorem writeRequest : ∀ x0, Statement (.writeRequest x0) := fun _ => of_encode _
theorem atomicRequest : ∀ x0, Statement (.atomicRequest x0) := fun _ => of_encode _
theorem response : ∀ x0, Statement (.response x0) := fun _ => of_encode _
theorem netTimeout : ∀ x0, Statement (.netTimeout x0) := fun _ => of_encode _
theorem collectiveData : ∀ x0, Statement (.collectiveData x0) := fun _ => of_encode _
theorem collectiveControl : ∀ x0, Statement (.collectiveControl x0) := fun _ => of_encode _
theorem collectiveWindowMerge : ∀ x0 x1, Statement (.collectiveWindowMerge x0 x1) := fun _ _ => of_encode _
theorem collectiveTimeout : ∀ x0 x1, Statement (.collectiveTimeout x0 x1) := fun _ _ => of_encode _
theorem collectiveCompletion : ∀ x0 x1, Statement (.collectiveCompletion x0 x1) := fun _ _ => of_encode _
theorem waitGeComplete : ∀ x0, Statement (.waitGeComplete x0) := fun _ => of_encode _
theorem deferredBind : ∀ x0, Statement (.deferredBind x0) := fun _ => of_encode _
theorem invalidateComplete : ∀ x0, Statement (.invalidateComplete x0) := fun _ => of_encode _
theorem kick : ∀ x0 x1, Statement (.kick x0 x1) := fun _ _ => of_encode _
theorem queueReset : ∀ x0, Statement (.queueReset x0) := fun _ => of_encode _
theorem entryAdmission : ∀ x0, Statement (.entryAdmission x0) := fun _ => of_encode _
theorem dispatch : ∀ x0, Statement (.dispatch x0) := fun _ => of_encode _
theorem completionRecord : ∀ x0, Statement (.completionRecord x0) := fun _ => of_encode _
theorem budgetOverrun : ∀ x0, Statement (.budgetOverrun x0) := fun _ => of_encode _
theorem deadlineMiss : ∀ x0, Statement (.deadlineMiss x0) := fun _ => of_encode _
theorem preEmption : ∀ x0, Statement (.preEmption x0) := fun _ => of_encode _
theorem saveCommit : ∀ x0, Statement (.saveCommit x0) := fun _ => of_encode _
theorem launchResume : ∀ x0, Statement (.launchResume x0) := fun _ => of_encode _
theorem resume : ∀ x0, Statement (.resume x0) := fun _ => of_encode _
theorem release : ∀ x0, Statement (.release x0) := fun _ => of_encode _
theorem wgo : ∀ x0, Statement (.wgo x0) := fun _ => of_encode _
theorem dholdWrite : ∀ x0 x1 x2, Statement (.dholdWrite x0 x1 x2) := fun _ _ _ => of_encode _
theorem fretry : ∀ x0 x1, Statement (.fretry x0 x1) := fun _ _ => of_encode _
theorem consumerIndexWrite : ∀ x0 x1, Statement (.consumerIndexWrite x0 x1) := fun _ _ => of_encode _
theorem lostClear : ∀ x0, Statement (.lostClear x0) := fun _ => of_encode _
theorem ringReset : ∀ x0, Statement (.ringReset x0) := fun _ => of_encode _
theorem faultRecordWrite : ∀ x0, Statement (.faultRecordWrite x0) := fun _ => of_encode _
theorem installDataKey : ∀ x0, Statement (.installDataKey x0) := fun _ => of_encode _
theorem eraseDataKey : ∀ x0, Statement (.eraseDataKey x0) := fun _ => of_encode _
theorem installImageKey : ∀ x0, Statement (.installImageKey x0) := fun _ => of_encode _
theorem eraseImageKey : ∀ x0, Statement (.eraseImageKey x0) := fun _ => of_encode _
theorem attest : ∀ x0, Statement (.attest x0) := fun _ => of_encode _
theorem readIdentityCertificate : ∀ x0, Statement (.readIdentityCertificate x0) := fun _ => of_encode _
theorem takeOwnership : ∀ x0, Statement (.takeOwnership x0) := fun _ => of_encode _
theorem recoveryVerify : Statement .recoveryVerify := of_encode _
theorem adapt : ∀ x0, Statement (.adapt x0) := fun _ => of_encode _
theorem registerWrite : ∀ x0 x1 x2, Statement (.registerWrite x0 x1 x2) := fun _ _ _ => of_encode _
theorem coldReset : Statement .coldReset := of_encode _
theorem functionLevelReset : ∀ x0, Statement (.functionLevelReset x0) := fun _ => of_encode _
theorem powerGrant : Statement .powerGrant := of_encode _
theorem supplyAdjust : ∀ x0, Statement (.supplyAdjust x0) := fun _ => of_encode _
theorem bodyBiasChange : ∀ x0, Statement (.bodyBiasChange x0) := fun _ => of_encode _
theorem thermalWarn : ∀ x0 x1, Statement (.thermalWarn x0 x1) := fun _ _ => of_encode _
theorem thermalTrip : Statement .thermalTrip := of_encode _
theorem serviceMark : ∀ x0, Statement (.serviceMark x0) := fun _ => of_encode _
theorem thermalWarnClear : Statement .thermalWarnClear := of_encode _
theorem storageControllerResetDone : ∀ x0, Statement (.storageControllerResetDone x0) := fun _ => of_encode _
theorem linkRetrained : ∀ x0 x1, Statement (.linkRetrained x0 x1) := fun _ _ => of_encode _
theorem hostCompletion : ∀ x0 x1, Statement (.hostCompletion x0 x1) := fun _ _ => of_encode _
theorem bodyBiasSettled : ∀ x0, Statement (.bodyBiasSettled x0) := fun _ => of_encode _
theorem powerGoodLoss : Statement .powerGoodLoss := of_encode _

end Sys2Proof.Laws.WordCount
end

