-- ==== Sys2Proof/Laws/Tab.lean ====
section
/-!
SUPPORT. Reading a table after a write: the entry written is there, and every other one is as before.
-/
namespace Sys2Proof.Machine
open Sys2Proof

@[simp] theorem tabGet_put_same {α : Type} (t : Tab α) (k : Nat) (v d : α) : tabGet (tabPut t k v) k d = v := by
  induction t with
  | nil => simp [tabPut, tabGet]
  | cons p r ih =>
    obtain ⟨j, w⟩ := p
    simp only [tabPut]
    split
    · simp [tabGet]
    · split
      · simp [tabGet]
      · rename_i h
        simp [tabGet, Ne.symm h, ih]

theorem tabGet_put_other {α : Type} (t : Tab α) (k m : Nat) (v d : α) (h : m ≠ k) :
    tabGet (tabPut t k v) m d = tabGet t m d := by
  induction t with
  | nil => simp [tabPut, tabGet, Ne.symm h]
  | cons p r ih =>
    obtain ⟨j, w⟩ := p
    simp only [tabPut]
    split
    · simp [tabGet, Ne.symm h]
    · split
      · rename_i h2
        subst h2
        simp [tabGet, Ne.symm h]
      · simp [tabGet, ih]

@[simp] theorem tabFind_put_same {α : Type} (t : Tab α) (k : Nat) (v : α) : tabFind (tabPut t k v) k = some v := by
  induction t with
  | nil => simp [tabPut, tabFind]
  | cons p r ih =>
    obtain ⟨j, w⟩ := p
    simp only [tabPut]
    split
    · simp [tabFind]
    · split
      · simp [tabFind]
      · rename_i h
        simp [tabFind, Ne.symm h, ih]

theorem tabFind_put_other {α : Type} (t : Tab α) (k m : Nat) (v : α) (h : m ≠ k) :
    tabFind (tabPut t k v) m = tabFind t m := by
  induction t with
  | nil => simp [tabPut, tabFind, Ne.symm h]
  | cons p r ih =>
    obtain ⟨j, w⟩ := p
    simp only [tabPut]
    split
    · simp [tabFind, Ne.symm h]
    · split
      · rename_i h2
        subst h2
        simp [tabFind, Ne.symm h]
      · simp [tabFind, ih]

@[simp] theorem tabFind_del_same {α : Type} (t : Tab α) (k : Nat) : tabFind (tabDel t k) k = none := by
  induction t with
  | nil => simp [tabDel, tabFind]
  | cons p r ih =>
    obtain ⟨j, w⟩ := p
    simp only [tabDel]
    split
    · exact ih
    · rename_i h
      simp [tabFind, h, ih]

theorem tabFind_del_other {α : Type} (t : Tab α) (k m : Nat) (h : m ≠ k) : tabFind (tabDel t k) m = tabFind t m := by
  induction t with
  | nil => simp [tabDel]
  | cons p r ih =>
    obtain ⟨j, w⟩ := p
    simp only [tabDel]
    split
    · rename_i h2
      subst h2
      simp [tabFind, Ne.symm h, ih]
    · simp [tabFind, ih]

theorem tabFind_none_of_fresh {α : Type} (t : Tab α) (m : Nat) (h : tabFresh t ≤ m) : tabFind t m = none := by
  induction t with
  | nil => simp [tabFind]
  | cons p r ih =>
    obtain ⟨j, w⟩ := p
    simp only [tabFresh] at h
    have h1 : j ≠ m := by omega
    simp [tabFind, h1, ih (by omega)]

/-- A fresh number is not listed. -/
theorem tabFind_fresh {α : Type} (t : Tab α) : tabFind t (tabFresh t) = none :=
  tabFind_none_of_fresh t _ (Nat.le_refl _)

theorem tabGet_eq_find {α : Type} (t : Tab α) (k : Nat) (d : α) : tabGet t k d = (tabFind t k).getD d := by
  induction t with
  | nil => simp [tabGet, tabFind]
  | cons p r ih =>
    obtain ⟨j, w⟩ := p
    simp only [tabGet, tabFind]
    split
    · simp
    · exact ih

end Sys2Proof.Machine
end

