-- ==== Sys2Proof/Laws/State.lean ====
section
/-!
SUPPORT. The updates of a state, field by field: each one leaves every field but its own, and what it sets reads back.
-/
namespace Sys2Proof.Machine
open Sys2Proof

/-! ### setSeq -/

@[simp] theorem State.setSeq_turns (s : State) (n : Nat) (q : Seq) : (s.setSeq n q).turns = s.turns := rfl
@[simp] theorem State.setSeq_choice (s : State) (n : Nat) (q : Seq) : (s.setSeq n q).choice = s.choice := rfl
@[simp] theorem State.setSeq_curSeq (s : State) (n : Nat) (q : Seq) : (s.setSeq n q).curSeq = s.curSeq := rfl
@[simp] theorem State.setSeq_curTile (s : State) (n : Nat) (q : Seq) : (s.setSeq n q).curTile = s.curTile := rfl
@[simp] theorem State.setSeq_curSlot (s : State) (n : Nat) (q : Seq) : (s.setSeq n q).curSlot = s.curSlot := rfl
@[simp] theorem State.setSeq_sent (s : State) (n : Nat) (q : Seq) : (s.setSeq n q).sent = s.sent := rfl
@[simp] theorem State.setSeq_powered (s : State) (n : Nat) (q : Seq) : (s.setSeq n q).powered = s.powered := rfl
@[simp] theorem State.setSeq_now (s : State) (n : Nat) (q : Seq) : (s.setSeq n q).now = s.now := rfl
@[simp] theorem State.setSeq_part (s : State) (n : Nat) (q : Seq) : (s.setSeq n q).part = s.part := rfl
@[simp] theorem State.setSeq_ctl (s : State) (n : Nat) (q : Seq) : (s.setSeq n q).ctl = s.ctl := rfl
@[simp] theorem State.setSeq_mem (s : State) (n : Nat) (q : Seq) : (s.setSeq n q).mem = s.mem := rfl
@[simp] theorem State.setSeq_poison (s : State) (n : Nat) (q : Seq) : (s.setSeq n q).poison = s.poison := rfl
@[simp] theorem State.setSeq_frameState (s : State) (n : Nat) (q : Seq) : (s.setSeq n q).frameState = s.frameState := rfl
@[simp] theorem State.setSeq_full (s : State) (n : Nat) (q : Seq) : (s.setSeq n q).full = s.full := rfl
@[simp] theorem State.setSeq_ctxBase (s : State) (n : Nat) (q : Seq) : (s.setSeq n q).ctxBase = s.ctxBase := rfl
@[simp] theorem State.setSeq_edgeTlb (s : State) (n : Nat) (q : Seq) : (s.setSeq n q).edgeTlb = s.edgeTlb := rfl
@[simp] theorem State.setSeq_islands (s : State) (n : Nat) (q : Seq) : (s.setSeq n q).islands = s.islands := rfl
@[simp] theorem State.setSeq_pctxs (s : State) (n : Nat) (q : Seq) : (s.setSeq n q).pctxs = s.pctxs := rfl
@[simp] theorem State.setSeq_agnLast (s : State) (n : Nat) (q : Seq) : (s.setSeq n q).agnLast = s.agnLast := rfl
@[simp] theorem State.setSeq_tiles (s : State) (n : Nat) (q : Seq) : (s.setSeq n q).tiles = s.tiles := rfl
@[simp] theorem State.setSeq_arcs (s : State) (n : Nat) (q : Seq) : (s.setSeq n q).arcs = s.arcs := rfl
@[simp] theorem State.setSeq_links (s : State) (n : Nat) (q : Seq) : (s.setSeq n q).links = s.links := rfl
@[simp] theorem State.setSeq_launches (s : State) (n : Nat) (q : Seq) : (s.setSeq n q).launches = s.launches := rfl
@[simp] theorem State.setSeq_items (s : State) (n : Nat) (q : Seq) : (s.setSeq n q).items = s.items := rfl
@[simp] theorem State.setSeq_queues (s : State) (n : Nat) (q : Seq) : (s.setSeq n q).queues = s.queues := rfl
@[simp] theorem State.setSeq_spans (s : State) (n : Nat) (q : Seq) : (s.setSeq n q).spans = s.spans := rfl
@[simp] theorem State.setSeq_events (s : State) (n : Nat) (q : Seq) : (s.setSeq n q).events = s.events := rfl
@[simp] theorem State.setSeq_cores (s : State) (n : Nat) (q : Seq) : (s.setSeq n q).cores = s.cores := rfl
@[simp] theorem State.setSeq_kicks (s : State) (n : Nat) (q : Seq) : (s.setSeq n q).kicks = s.kicks := rfl
@[simp] theorem State.setSeq_kick (s : State) (n : Nat) (q : Seq) : (s.setSeq n q).kick = s.kick := rfl
@[simp] theorem State.setSeq_sems (s : State) (n : Nat) (q : Seq) : (s.setSeq n q).sems = s.sems := rfl
@[simp] theorem State.setSeq_sown (s : State) (n : Nat) (q : Seq) : (s.setSeq n q).sown = s.sown := rfl
@[simp] theorem State.setSeq_copies (s : State) (n : Nat) (q : Seq) : (s.setSeq n q).copies = s.copies := rfl
@[simp] theorem State.setSeq_storage (s : State) (n : Nat) (q : Seq) : (s.setSeq n q).storage = s.storage := rfl
@[simp] theorem State.setSeq_resetting (s : State) (n : Nat) (q : Seq) : (s.setSeq n q).resetting = s.resetting := rfl
@[simp] theorem State.setSeq_namespaces (s : State) (n : Nat) (q : Seq) : (s.setSeq n q).namespaces = s.namespaces := rfl
@[simp] theorem State.setSeq_records (s : State) (n : Nat) (q : Seq) : (s.setSeq n q).records = s.records := rfl
@[simp] theorem State.setSeq_rings (s : State) (n : Nat) (q : Seq) : (s.setSeq n q).rings = s.rings := rfl
@[simp] theorem State.setSeq_net (s : State) (n : Nat) (q : Seq) : (s.setSeq n q).net = s.net := rfl
@[simp] theorem State.setSeq_power (s : State) (n : Nat) (q : Seq) : (s.setSeq n q).power = s.power := rfl
@[simp] theorem State.setSeq_sec (s : State) (n : Nat) (q : Seq) : (s.setSeq n q).sec = s.sec := rfl
@[simp] theorem State.setSeq_at_tile (s : State) (n : Nat) (q : Seq) (m : Nat) : (s.setSeq n q).tile m = s.tile m := rfl
@[simp] theorem State.setSeq_at_pctx (s : State) (n : Nat) (q : Seq) (m : Nat) : (s.setSeq n q).pctx m = s.pctx m := rfl
@[simp] theorem State.setSeq_at_arc (s : State) (n : Nat) (q : Seq) (m : Nat) : (s.setSeq n q).arc m = s.arc m := rfl
@[simp] theorem State.setSeq_at_island (s : State) (n : Nat) (q : Seq) (m : Nat) : (s.setSeq n q).island m = s.island m := rfl
@[simp] theorem State.setSeq_at_launch (s : State) (n : Nat) (q : Seq) (m : Nat) : (s.setSeq n q).launch m = s.launch m := rfl
@[simp] theorem State.setSeq_at_item (s : State) (n : Nat) (q : Seq) (m : Nat) : (s.setSeq n q).item m = s.item m := rfl
@[simp] theorem State.setSeq_at_queue (s : State) (n : Nat) (q : Seq) (m : Nat) : (s.setSeq n q).queue m = s.queue m := rfl
@[simp] theorem State.setSeq_at_ring (s : State) (n : Nat) (q : Seq) (m : Nat) : (s.setSeq n q).ring m = s.ring m := rfl
@[simp] theorem State.setSeq_at_sem (s : State) (n : Nat) (q : Seq) (m : Nat) : (s.setSeq n q).sem m = s.sem m := rfl

/-! ### setTile -/

@[simp] theorem State.setTile_turns (s : State) (n : Nat) (q : Tile) : (s.setTile n q).turns = s.turns := rfl
@[simp] theorem State.setTile_choice (s : State) (n : Nat) (q : Tile) : (s.setTile n q).choice = s.choice := rfl
@[simp] theorem State.setTile_curSeq (s : State) (n : Nat) (q : Tile) : (s.setTile n q).curSeq = s.curSeq := rfl
@[simp] theorem State.setTile_curTile (s : State) (n : Nat) (q : Tile) : (s.setTile n q).curTile = s.curTile := rfl
@[simp] theorem State.setTile_curSlot (s : State) (n : Nat) (q : Tile) : (s.setTile n q).curSlot = s.curSlot := rfl
@[simp] theorem State.setTile_sent (s : State) (n : Nat) (q : Tile) : (s.setTile n q).sent = s.sent := rfl
@[simp] theorem State.setTile_powered (s : State) (n : Nat) (q : Tile) : (s.setTile n q).powered = s.powered := rfl
@[simp] theorem State.setTile_now (s : State) (n : Nat) (q : Tile) : (s.setTile n q).now = s.now := rfl
@[simp] theorem State.setTile_part (s : State) (n : Nat) (q : Tile) : (s.setTile n q).part = s.part := rfl
@[simp] theorem State.setTile_ctl (s : State) (n : Nat) (q : Tile) : (s.setTile n q).ctl = s.ctl := rfl
@[simp] theorem State.setTile_mem (s : State) (n : Nat) (q : Tile) : (s.setTile n q).mem = s.mem := rfl
@[simp] theorem State.setTile_poison (s : State) (n : Nat) (q : Tile) : (s.setTile n q).poison = s.poison := rfl
@[simp] theorem State.setTile_frameState (s : State) (n : Nat) (q : Tile) : (s.setTile n q).frameState = s.frameState := rfl
@[simp] theorem State.setTile_full (s : State) (n : Nat) (q : Tile) : (s.setTile n q).full = s.full := rfl
@[simp] theorem State.setTile_ctxBase (s : State) (n : Nat) (q : Tile) : (s.setTile n q).ctxBase = s.ctxBase := rfl
@[simp] theorem State.setTile_edgeTlb (s : State) (n : Nat) (q : Tile) : (s.setTile n q).edgeTlb = s.edgeTlb := rfl
@[simp] theorem State.setTile_islands (s : State) (n : Nat) (q : Tile) : (s.setTile n q).islands = s.islands := rfl
@[simp] theorem State.setTile_pctxs (s : State) (n : Nat) (q : Tile) : (s.setTile n q).pctxs = s.pctxs := rfl
@[simp] theorem State.setTile_agnLast (s : State) (n : Nat) (q : Tile) : (s.setTile n q).agnLast = s.agnLast := rfl
@[simp] theorem State.setTile_seqs (s : State) (n : Nat) (q : Tile) : (s.setTile n q).seqs = s.seqs := rfl
@[simp] theorem State.setTile_arcs (s : State) (n : Nat) (q : Tile) : (s.setTile n q).arcs = s.arcs := rfl
@[simp] theorem State.setTile_links (s : State) (n : Nat) (q : Tile) : (s.setTile n q).links = s.links := rfl
@[simp] theorem State.setTile_launches (s : State) (n : Nat) (q : Tile) : (s.setTile n q).launches = s.launches := rfl
@[simp] theorem State.setTile_items (s : State) (n : Nat) (q : Tile) : (s.setTile n q).items = s.items := rfl
@[simp] theorem State.setTile_queues (s : State) (n : Nat) (q : Tile) : (s.setTile n q).queues = s.queues := rfl
@[simp] theorem State.setTile_spans (s : State) (n : Nat) (q : Tile) : (s.setTile n q).spans = s.spans := rfl
@[simp] theorem State.setTile_events (s : State) (n : Nat) (q : Tile) : (s.setTile n q).events = s.events := rfl
@[simp] theorem State.setTile_cores (s : State) (n : Nat) (q : Tile) : (s.setTile n q).cores = s.cores := rfl
@[simp] theorem State.setTile_kicks (s : State) (n : Nat) (q : Tile) : (s.setTile n q).kicks = s.kicks := rfl
@[simp] theorem State.setTile_kick (s : State) (n : Nat) (q : Tile) : (s.setTile n q).kick = s.kick := rfl
@[simp] theorem State.setTile_sems (s : State) (n : Nat) (q : Tile) : (s.setTile n q).sems = s.sems := rfl
@[simp] theorem State.setTile_sown (s : State) (n : Nat) (q : Tile) : (s.setTile n q).sown = s.sown := rfl
@[simp] theorem State.setTile_copies (s : State) (n : Nat) (q : Tile) : (s.setTile n q).copies = s.copies := rfl
@[simp] theorem State.setTile_storage (s : State) (n : Nat) (q : Tile) : (s.setTile n q).storage = s.storage := rfl
@[simp] theorem State.setTile_resetting (s : State) (n : Nat) (q : Tile) : (s.setTile n q).resetting = s.resetting := rfl
@[simp] theorem State.setTile_namespaces (s : State) (n : Nat) (q : Tile) : (s.setTile n q).namespaces = s.namespaces := rfl
@[simp] theorem State.setTile_records (s : State) (n : Nat) (q : Tile) : (s.setTile n q).records = s.records := rfl
@[simp] theorem State.setTile_rings (s : State) (n : Nat) (q : Tile) : (s.setTile n q).rings = s.rings := rfl
@[simp] theorem State.setTile_net (s : State) (n : Nat) (q : Tile) : (s.setTile n q).net = s.net := rfl
@[simp] theorem State.setTile_power (s : State) (n : Nat) (q : Tile) : (s.setTile n q).power = s.power := rfl
@[simp] theorem State.setTile_sec (s : State) (n : Nat) (q : Tile) : (s.setTile n q).sec = s.sec := rfl
@[simp] theorem State.setTile_at_seq (s : State) (n : Nat) (q : Tile) (m : Nat) : (s.setTile n q).seq m = s.seq m := rfl
@[simp] theorem State.setTile_at_pctx (s : State) (n : Nat) (q : Tile) (m : Nat) : (s.setTile n q).pctx m = s.pctx m := rfl
@[simp] theorem State.setTile_at_arc (s : State) (n : Nat) (q : Tile) (m : Nat) : (s.setTile n q).arc m = s.arc m := rfl
@[simp] theorem State.setTile_at_island (s : State) (n : Nat) (q : Tile) (m : Nat) : (s.setTile n q).island m = s.island m := rfl
@[simp] theorem State.setTile_at_launch (s : State) (n : Nat) (q : Tile) (m : Nat) : (s.setTile n q).launch m = s.launch m := rfl
@[simp] theorem State.setTile_at_item (s : State) (n : Nat) (q : Tile) (m : Nat) : (s.setTile n q).item m = s.item m := rfl
@[simp] theorem State.setTile_at_queue (s : State) (n : Nat) (q : Tile) (m : Nat) : (s.setTile n q).queue m = s.queue m := rfl
@[simp] theorem State.setTile_at_ring (s : State) (n : Nat) (q : Tile) (m : Nat) : (s.setTile n q).ring m = s.ring m := rfl
@[simp] theorem State.setTile_at_sem (s : State) (n : Nat) (q : Tile) (m : Nat) : (s.setTile n q).sem m = s.sem m := rfl

/-! ### setPctx -/

@[simp] theorem State.setPctx_turns (s : State) (n : Nat) (q : PCtx) : (s.setPctx n q).turns = s.turns := rfl
@[simp] theorem State.setPctx_choice (s : State) (n : Nat) (q : PCtx) : (s.setPctx n q).choice = s.choice := rfl
@[simp] theorem State.setPctx_curSeq (s : State) (n : Nat) (q : PCtx) : (s.setPctx n q).curSeq = s.curSeq := rfl
@[simp] theorem State.setPctx_curTile (s : State) (n : Nat) (q : PCtx) : (s.setPctx n q).curTile = s.curTile := rfl
@[simp] theorem State.setPctx_curSlot (s : State) (n : Nat) (q : PCtx) : (s.setPctx n q).curSlot = s.curSlot := rfl
@[simp] theorem State.setPctx_sent (s : State) (n : Nat) (q : PCtx) : (s.setPctx n q).sent = s.sent := rfl
@[simp] theorem State.setPctx_powered (s : State) (n : Nat) (q : PCtx) : (s.setPctx n q).powered = s.powered := rfl
@[simp] theorem State.setPctx_now (s : State) (n : Nat) (q : PCtx) : (s.setPctx n q).now = s.now := rfl
@[simp] theorem State.setPctx_part (s : State) (n : Nat) (q : PCtx) : (s.setPctx n q).part = s.part := rfl
@[simp] theorem State.setPctx_ctl (s : State) (n : Nat) (q : PCtx) : (s.setPctx n q).ctl = s.ctl := rfl
@[simp] theorem State.setPctx_mem (s : State) (n : Nat) (q : PCtx) : (s.setPctx n q).mem = s.mem := rfl
@[simp] theorem State.setPctx_poison (s : State) (n : Nat) (q : PCtx) : (s.setPctx n q).poison = s.poison := rfl
@[simp] theorem State.setPctx_frameState (s : State) (n : Nat) (q : PCtx) : (s.setPctx n q).frameState = s.frameState := rfl
@[simp] theorem State.setPctx_full (s : State) (n : Nat) (q : PCtx) : (s.setPctx n q).full = s.full := rfl
@[simp] theorem State.setPctx_ctxBase (s : State) (n : Nat) (q : PCtx) : (s.setPctx n q).ctxBase = s.ctxBase := rfl
@[simp] theorem State.setPctx_edgeTlb (s : State) (n : Nat) (q : PCtx) : (s.setPctx n q).edgeTlb = s.edgeTlb := rfl
@[simp] theorem State.setPctx_islands (s : State) (n : Nat) (q : PCtx) : (s.setPctx n q).islands = s.islands := rfl
@[simp] theorem State.setPctx_agnLast (s : State) (n : Nat) (q : PCtx) : (s.setPctx n q).agnLast = s.agnLast := rfl
@[simp] theorem State.setPctx_seqs (s : State) (n : Nat) (q : PCtx) : (s.setPctx n q).seqs = s.seqs := rfl
@[simp] theorem State.setPctx_tiles (s : State) (n : Nat) (q : PCtx) : (s.setPctx n q).tiles = s.tiles := rfl
@[simp] theorem State.setPctx_arcs (s : State) (n : Nat) (q : PCtx) : (s.setPctx n q).arcs = s.arcs := rfl
@[simp] theorem State.setPctx_links (s : State) (n : Nat) (q : PCtx) : (s.setPctx n q).links = s.links := rfl
@[simp] theorem State.setPctx_launches (s : State) (n : Nat) (q : PCtx) : (s.setPctx n q).launches = s.launches := rfl
@[simp] theorem State.setPctx_items (s : State) (n : Nat) (q : PCtx) : (s.setPctx n q).items = s.items := rfl
@[simp] theorem State.setPctx_queues (s : State) (n : Nat) (q : PCtx) : (s.setPctx n q).queues = s.queues := rfl
@[simp] theorem State.setPctx_spans (s : State) (n : Nat) (q : PCtx) : (s.setPctx n q).spans = s.spans := rfl
@[simp] theorem State.setPctx_events (s : State) (n : Nat) (q : PCtx) : (s.setPctx n q).events = s.events := rfl
@[simp] theorem State.setPctx_cores (s : State) (n : Nat) (q : PCtx) : (s.setPctx n q).cores = s.cores := rfl
@[simp] theorem State.setPctx_kicks (s : State) (n : Nat) (q : PCtx) : (s.setPctx n q).kicks = s.kicks := rfl
@[simp] theorem State.setPctx_kick (s : State) (n : Nat) (q : PCtx) : (s.setPctx n q).kick = s.kick := rfl
@[simp] theorem State.setPctx_sems (s : State) (n : Nat) (q : PCtx) : (s.setPctx n q).sems = s.sems := rfl
@[simp] theorem State.setPctx_sown (s : State) (n : Nat) (q : PCtx) : (s.setPctx n q).sown = s.sown := rfl
@[simp] theorem State.setPctx_copies (s : State) (n : Nat) (q : PCtx) : (s.setPctx n q).copies = s.copies := rfl
@[simp] theorem State.setPctx_storage (s : State) (n : Nat) (q : PCtx) : (s.setPctx n q).storage = s.storage := rfl
@[simp] theorem State.setPctx_resetting (s : State) (n : Nat) (q : PCtx) : (s.setPctx n q).resetting = s.resetting := rfl
@[simp] theorem State.setPctx_namespaces (s : State) (n : Nat) (q : PCtx) : (s.setPctx n q).namespaces = s.namespaces := rfl
@[simp] theorem State.setPctx_records (s : State) (n : Nat) (q : PCtx) : (s.setPctx n q).records = s.records := rfl
@[simp] theorem State.setPctx_rings (s : State) (n : Nat) (q : PCtx) : (s.setPctx n q).rings = s.rings := rfl
@[simp] theorem State.setPctx_net (s : State) (n : Nat) (q : PCtx) : (s.setPctx n q).net = s.net := rfl
@[simp] theorem State.setPctx_power (s : State) (n : Nat) (q : PCtx) : (s.setPctx n q).power = s.power := rfl
@[simp] theorem State.setPctx_sec (s : State) (n : Nat) (q : PCtx) : (s.setPctx n q).sec = s.sec := rfl
@[simp] theorem State.setPctx_at_seq (s : State) (n : Nat) (q : PCtx) (m : Nat) : (s.setPctx n q).seq m = s.seq m := rfl
@[simp] theorem State.setPctx_at_tile (s : State) (n : Nat) (q : PCtx) (m : Nat) : (s.setPctx n q).tile m = s.tile m := rfl
@[simp] theorem State.setPctx_at_arc (s : State) (n : Nat) (q : PCtx) (m : Nat) : (s.setPctx n q).arc m = s.arc m := rfl
@[simp] theorem State.setPctx_at_island (s : State) (n : Nat) (q : PCtx) (m : Nat) : (s.setPctx n q).island m = s.island m := rfl
@[simp] theorem State.setPctx_at_launch (s : State) (n : Nat) (q : PCtx) (m : Nat) : (s.setPctx n q).launch m = s.launch m := rfl
@[simp] theorem State.setPctx_at_item (s : State) (n : Nat) (q : PCtx) (m : Nat) : (s.setPctx n q).item m = s.item m := rfl
@[simp] theorem State.setPctx_at_queue (s : State) (n : Nat) (q : PCtx) (m : Nat) : (s.setPctx n q).queue m = s.queue m := rfl
@[simp] theorem State.setPctx_at_ring (s : State) (n : Nat) (q : PCtx) (m : Nat) : (s.setPctx n q).ring m = s.ring m := rfl
@[simp] theorem State.setPctx_at_sem (s : State) (n : Nat) (q : PCtx) (m : Nat) : (s.setPctx n q).sem m = s.sem m := rfl

/-! ### setArc -/

@[simp] theorem State.setArc_turns (s : State) (n : Nat) (q : Arc) : (s.setArc n q).turns = s.turns := rfl
@[simp] theorem State.setArc_choice (s : State) (n : Nat) (q : Arc) : (s.setArc n q).choice = s.choice := rfl
@[simp] theorem State.setArc_curSeq (s : State) (n : Nat) (q : Arc) : (s.setArc n q).curSeq = s.curSeq := rfl
@[simp] theorem State.setArc_curTile (s : State) (n : Nat) (q : Arc) : (s.setArc n q).curTile = s.curTile := rfl
@[simp] theorem State.setArc_curSlot (s : State) (n : Nat) (q : Arc) : (s.setArc n q).curSlot = s.curSlot := rfl
@[simp] theorem State.setArc_sent (s : State) (n : Nat) (q : Arc) : (s.setArc n q).sent = s.sent := rfl
@[simp] theorem State.setArc_powered (s : State) (n : Nat) (q : Arc) : (s.setArc n q).powered = s.powered := rfl
@[simp] theorem State.setArc_now (s : State) (n : Nat) (q : Arc) : (s.setArc n q).now = s.now := rfl
@[simp] theorem State.setArc_part (s : State) (n : Nat) (q : Arc) : (s.setArc n q).part = s.part := rfl
@[simp] theorem State.setArc_ctl (s : State) (n : Nat) (q : Arc) : (s.setArc n q).ctl = s.ctl := rfl
@[simp] theorem State.setArc_mem (s : State) (n : Nat) (q : Arc) : (s.setArc n q).mem = s.mem := rfl
@[simp] theorem State.setArc_poison (s : State) (n : Nat) (q : Arc) : (s.setArc n q).poison = s.poison := rfl
@[simp] theorem State.setArc_frameState (s : State) (n : Nat) (q : Arc) : (s.setArc n q).frameState = s.frameState := rfl
@[simp] theorem State.setArc_full (s : State) (n : Nat) (q : Arc) : (s.setArc n q).full = s.full := rfl
@[simp] theorem State.setArc_ctxBase (s : State) (n : Nat) (q : Arc) : (s.setArc n q).ctxBase = s.ctxBase := rfl
@[simp] theorem State.setArc_edgeTlb (s : State) (n : Nat) (q : Arc) : (s.setArc n q).edgeTlb = s.edgeTlb := rfl
@[simp] theorem State.setArc_islands (s : State) (n : Nat) (q : Arc) : (s.setArc n q).islands = s.islands := rfl
@[simp] theorem State.setArc_pctxs (s : State) (n : Nat) (q : Arc) : (s.setArc n q).pctxs = s.pctxs := rfl
@[simp] theorem State.setArc_agnLast (s : State) (n : Nat) (q : Arc) : (s.setArc n q).agnLast = s.agnLast := rfl
@[simp] theorem State.setArc_seqs (s : State) (n : Nat) (q : Arc) : (s.setArc n q).seqs = s.seqs := rfl
@[simp] theorem State.setArc_tiles (s : State) (n : Nat) (q : Arc) : (s.setArc n q).tiles = s.tiles := rfl
@[simp] theorem State.setArc_links (s : State) (n : Nat) (q : Arc) : (s.setArc n q).links = s.links := rfl
@[simp] theorem State.setArc_launches (s : State) (n : Nat) (q : Arc) : (s.setArc n q).launches = s.launches := rfl
@[simp] theorem State.setArc_items (s : State) (n : Nat) (q : Arc) : (s.setArc n q).items = s.items := rfl
@[simp] theorem State.setArc_queues (s : State) (n : Nat) (q : Arc) : (s.setArc n q).queues = s.queues := rfl
@[simp] theorem State.setArc_spans (s : State) (n : Nat) (q : Arc) : (s.setArc n q).spans = s.spans := rfl
@[simp] theorem State.setArc_events (s : State) (n : Nat) (q : Arc) : (s.setArc n q).events = s.events := rfl
@[simp] theorem State.setArc_cores (s : State) (n : Nat) (q : Arc) : (s.setArc n q).cores = s.cores := rfl
@[simp] theorem State.setArc_kicks (s : State) (n : Nat) (q : Arc) : (s.setArc n q).kicks = s.kicks := rfl
@[simp] theorem State.setArc_kick (s : State) (n : Nat) (q : Arc) : (s.setArc n q).kick = s.kick := rfl
@[simp] theorem State.setArc_sems (s : State) (n : Nat) (q : Arc) : (s.setArc n q).sems = s.sems := rfl
@[simp] theorem State.setArc_sown (s : State) (n : Nat) (q : Arc) : (s.setArc n q).sown = s.sown := rfl
@[simp] theorem State.setArc_copies (s : State) (n : Nat) (q : Arc) : (s.setArc n q).copies = s.copies := rfl
@[simp] theorem State.setArc_storage (s : State) (n : Nat) (q : Arc) : (s.setArc n q).storage = s.storage := rfl
@[simp] theorem State.setArc_resetting (s : State) (n : Nat) (q : Arc) : (s.setArc n q).resetting = s.resetting := rfl
@[simp] theorem State.setArc_namespaces (s : State) (n : Nat) (q : Arc) : (s.setArc n q).namespaces = s.namespaces := rfl
@[simp] theorem State.setArc_records (s : State) (n : Nat) (q : Arc) : (s.setArc n q).records = s.records := rfl
@[simp] theorem State.setArc_rings (s : State) (n : Nat) (q : Arc) : (s.setArc n q).rings = s.rings := rfl
@[simp] theorem State.setArc_net (s : State) (n : Nat) (q : Arc) : (s.setArc n q).net = s.net := rfl
@[simp] theorem State.setArc_power (s : State) (n : Nat) (q : Arc) : (s.setArc n q).power = s.power := rfl
@[simp] theorem State.setArc_sec (s : State) (n : Nat) (q : Arc) : (s.setArc n q).sec = s.sec := rfl
@[simp] theorem State.setArc_at_seq (s : State) (n : Nat) (q : Arc) (m : Nat) : (s.setArc n q).seq m = s.seq m := rfl
@[simp] theorem State.setArc_at_tile (s : State) (n : Nat) (q : Arc) (m : Nat) : (s.setArc n q).tile m = s.tile m := rfl
@[simp] theorem State.setArc_at_pctx (s : State) (n : Nat) (q : Arc) (m : Nat) : (s.setArc n q).pctx m = s.pctx m := rfl
@[simp] theorem State.setArc_at_island (s : State) (n : Nat) (q : Arc) (m : Nat) : (s.setArc n q).island m = s.island m := rfl
@[simp] theorem State.setArc_at_launch (s : State) (n : Nat) (q : Arc) (m : Nat) : (s.setArc n q).launch m = s.launch m := rfl
@[simp] theorem State.setArc_at_item (s : State) (n : Nat) (q : Arc) (m : Nat) : (s.setArc n q).item m = s.item m := rfl
@[simp] theorem State.setArc_at_queue (s : State) (n : Nat) (q : Arc) (m : Nat) : (s.setArc n q).queue m = s.queue m := rfl
@[simp] theorem State.setArc_at_ring (s : State) (n : Nat) (q : Arc) (m : Nat) : (s.setArc n q).ring m = s.ring m := rfl
@[simp] theorem State.setArc_at_sem (s : State) (n : Nat) (q : Arc) (m : Nat) : (s.setArc n q).sem m = s.sem m := rfl

/-! ### setIsland -/

@[simp] theorem State.setIsland_turns (s : State) (n : Nat) (q : Island) : (s.setIsland n q).turns = s.turns := rfl
@[simp] theorem State.setIsland_choice (s : State) (n : Nat) (q : Island) : (s.setIsland n q).choice = s.choice := rfl
@[simp] theorem State.setIsland_curSeq (s : State) (n : Nat) (q : Island) : (s.setIsland n q).curSeq = s.curSeq := rfl
@[simp] theorem State.setIsland_curTile (s : State) (n : Nat) (q : Island) : (s.setIsland n q).curTile = s.curTile := rfl
@[simp] theorem State.setIsland_curSlot (s : State) (n : Nat) (q : Island) : (s.setIsland n q).curSlot = s.curSlot := rfl
@[simp] theorem State.setIsland_sent (s : State) (n : Nat) (q : Island) : (s.setIsland n q).sent = s.sent := rfl
@[simp] theorem State.setIsland_powered (s : State) (n : Nat) (q : Island) : (s.setIsland n q).powered = s.powered := rfl
@[simp] theorem State.setIsland_now (s : State) (n : Nat) (q : Island) : (s.setIsland n q).now = s.now := rfl
@[simp] theorem State.setIsland_part (s : State) (n : Nat) (q : Island) : (s.setIsland n q).part = s.part := rfl
@[simp] theorem State.setIsland_ctl (s : State) (n : Nat) (q : Island) : (s.setIsland n q).ctl = s.ctl := rfl
@[simp] theorem State.setIsland_mem (s : State) (n : Nat) (q : Island) : (s.setIsland n q).mem = s.mem := rfl
@[simp] theorem State.setIsland_poison (s : State) (n : Nat) (q : Island) : (s.setIsland n q).poison = s.poison := rfl
@[simp] theorem State.setIsland_frameState (s : State) (n : Nat) (q : Island) : (s.setIsland n q).frameState = s.frameState := rfl
@[simp] theorem State.setIsland_full (s : State) (n : Nat) (q : Island) : (s.setIsland n q).full = s.full := rfl
@[simp] theorem State.setIsland_ctxBase (s : State) (n : Nat) (q : Island) : (s.setIsland n q).ctxBase = s.ctxBase := rfl
@[simp] theorem State.setIsland_edgeTlb (s : State) (n : Nat) (q : Island) : (s.setIsland n q).edgeTlb = s.edgeTlb := rfl
@[simp] theorem State.setIsland_pctxs (s : State) (n : Nat) (q : Island) : (s.setIsland n q).pctxs = s.pctxs := rfl
@[simp] theorem State.setIsland_agnLast (s : State) (n : Nat) (q : Island) : (s.setIsland n q).agnLast = s.agnLast := rfl
@[simp] theorem State.setIsland_seqs (s : State) (n : Nat) (q : Island) : (s.setIsland n q).seqs = s.seqs := rfl
@[simp] theorem State.setIsland_tiles (s : State) (n : Nat) (q : Island) : (s.setIsland n q).tiles = s.tiles := rfl
@[simp] theorem State.setIsland_arcs (s : State) (n : Nat) (q : Island) : (s.setIsland n q).arcs = s.arcs := rfl
@[simp] theorem State.setIsland_links (s : State) (n : Nat) (q : Island) : (s.setIsland n q).links = s.links := rfl
@[simp] theorem State.setIsland_launches (s : State) (n : Nat) (q : Island) : (s.setIsland n q).launches = s.launches := rfl
@[simp] theorem State.setIsland_items (s : State) (n : Nat) (q : Island) : (s.setIsland n q).items = s.items := rfl
@[simp] theorem State.setIsland_queues (s : State) (n : Nat) (q : Island) : (s.setIsland n q).queues = s.queues := rfl
@[simp] theorem State.setIsland_spans (s : State) (n : Nat) (q : Island) : (s.setIsland n q).spans = s.spans := rfl
@[simp] theorem State.setIsland_events (s : State) (n : Nat) (q : Island) : (s.setIsland n q).events = s.events := rfl
@[simp] theorem State.setIsland_cores (s : State) (n : Nat) (q : Island) : (s.setIsland n q).cores = s.cores := rfl
@[simp] theorem State.setIsland_kicks (s : State) (n : Nat) (q : Island) : (s.setIsland n q).kicks = s.kicks := rfl
@[simp] theorem State.setIsland_kick (s : State) (n : Nat) (q : Island) : (s.setIsland n q).kick = s.kick := rfl
@[simp] theorem State.setIsland_sems (s : State) (n : Nat) (q : Island) : (s.setIsland n q).sems = s.sems := rfl
@[simp] theorem State.setIsland_sown (s : State) (n : Nat) (q : Island) : (s.setIsland n q).sown = s.sown := rfl
@[simp] theorem State.setIsland_copies (s : State) (n : Nat) (q : Island) : (s.setIsland n q).copies = s.copies := rfl
@[simp] theorem State.setIsland_storage (s : State) (n : Nat) (q : Island) : (s.setIsland n q).storage = s.storage := rfl
@[simp] theorem State.setIsland_resetting (s : State) (n : Nat) (q : Island) : (s.setIsland n q).resetting = s.resetting := rfl
@[simp] theorem State.setIsland_namespaces (s : State) (n : Nat) (q : Island) : (s.setIsland n q).namespaces = s.namespaces := rfl
@[simp] theorem State.setIsland_records (s : State) (n : Nat) (q : Island) : (s.setIsland n q).records = s.records := rfl
@[simp] theorem State.setIsland_rings (s : State) (n : Nat) (q : Island) : (s.setIsland n q).rings = s.rings := rfl
@[simp] theorem State.setIsland_net (s : State) (n : Nat) (q : Island) : (s.setIsland n q).net = s.net := rfl
@[simp] theorem State.setIsland_power (s : State) (n : Nat) (q : Island) : (s.setIsland n q).power = s.power := rfl
@[simp] theorem State.setIsland_sec (s : State) (n : Nat) (q : Island) : (s.setIsland n q).sec = s.sec := rfl
@[simp] theorem State.setIsland_at_seq (s : State) (n : Nat) (q : Island) (m : Nat) : (s.setIsland n q).seq m = s.seq m := rfl
@[simp] theorem State.setIsland_at_tile (s : State) (n : Nat) (q : Island) (m : Nat) : (s.setIsland n q).tile m = s.tile m := rfl
@[simp] theorem State.setIsland_at_pctx (s : State) (n : Nat) (q : Island) (m : Nat) : (s.setIsland n q).pctx m = s.pctx m := rfl
@[simp] theorem State.setIsland_at_arc (s : State) (n : Nat) (q : Island) (m : Nat) : (s.setIsland n q).arc m = s.arc m := rfl
@[simp] theorem State.setIsland_at_launch (s : State) (n : Nat) (q : Island) (m : Nat) : (s.setIsland n q).launch m = s.launch m := rfl
@[simp] theorem State.setIsland_at_item (s : State) (n : Nat) (q : Island) (m : Nat) : (s.setIsland n q).item m = s.item m := rfl
@[simp] theorem State.setIsland_at_queue (s : State) (n : Nat) (q : Island) (m : Nat) : (s.setIsland n q).queue m = s.queue m := rfl
@[simp] theorem State.setIsland_at_ring (s : State) (n : Nat) (q : Island) (m : Nat) : (s.setIsland n q).ring m = s.ring m := rfl
@[simp] theorem State.setIsland_at_sem (s : State) (n : Nat) (q : Island) (m : Nat) : (s.setIsland n q).sem m = s.sem m := rfl

/-! ### setLaunch -/

@[simp] theorem State.setLaunch_turns (s : State) (n : Nat) (q : Launch) : (s.setLaunch n q).turns = s.turns := rfl
@[simp] theorem State.setLaunch_choice (s : State) (n : Nat) (q : Launch) : (s.setLaunch n q).choice = s.choice := rfl
@[simp] theorem State.setLaunch_curSeq (s : State) (n : Nat) (q : Launch) : (s.setLaunch n q).curSeq = s.curSeq := rfl
@[simp] theorem State.setLaunch_curTile (s : State) (n : Nat) (q : Launch) : (s.setLaunch n q).curTile = s.curTile := rfl
@[simp] theorem State.setLaunch_curSlot (s : State) (n : Nat) (q : Launch) : (s.setLaunch n q).curSlot = s.curSlot := rfl
@[simp] theorem State.setLaunch_sent (s : State) (n : Nat) (q : Launch) : (s.setLaunch n q).sent = s.sent := rfl
@[simp] theorem State.setLaunch_powered (s : State) (n : Nat) (q : Launch) : (s.setLaunch n q).powered = s.powered := rfl
@[simp] theorem State.setLaunch_now (s : State) (n : Nat) (q : Launch) : (s.setLaunch n q).now = s.now := rfl
@[simp] theorem State.setLaunch_part (s : State) (n : Nat) (q : Launch) : (s.setLaunch n q).part = s.part := rfl
@[simp] theorem State.setLaunch_ctl (s : State) (n : Nat) (q : Launch) : (s.setLaunch n q).ctl = s.ctl := rfl
@[simp] theorem State.setLaunch_mem (s : State) (n : Nat) (q : Launch) : (s.setLaunch n q).mem = s.mem := rfl
@[simp] theorem State.setLaunch_poison (s : State) (n : Nat) (q : Launch) : (s.setLaunch n q).poison = s.poison := rfl
@[simp] theorem State.setLaunch_frameState (s : State) (n : Nat) (q : Launch) : (s.setLaunch n q).frameState = s.frameState := rfl
@[simp] theorem State.setLaunch_full (s : State) (n : Nat) (q : Launch) : (s.setLaunch n q).full = s.full := rfl
@[simp] theorem State.setLaunch_ctxBase (s : State) (n : Nat) (q : Launch) : (s.setLaunch n q).ctxBase = s.ctxBase := rfl
@[simp] theorem State.setLaunch_edgeTlb (s : State) (n : Nat) (q : Launch) : (s.setLaunch n q).edgeTlb = s.edgeTlb := rfl
@[simp] theorem State.setLaunch_islands (s : State) (n : Nat) (q : Launch) : (s.setLaunch n q).islands = s.islands := rfl
@[simp] theorem State.setLaunch_pctxs (s : State) (n : Nat) (q : Launch) : (s.setLaunch n q).pctxs = s.pctxs := rfl
@[simp] theorem State.setLaunch_agnLast (s : State) (n : Nat) (q : Launch) : (s.setLaunch n q).agnLast = s.agnLast := rfl
@[simp] theorem State.setLaunch_seqs (s : State) (n : Nat) (q : Launch) : (s.setLaunch n q).seqs = s.seqs := rfl
@[simp] theorem State.setLaunch_tiles (s : State) (n : Nat) (q : Launch) : (s.setLaunch n q).tiles = s.tiles := rfl
@[simp] theorem State.setLaunch_arcs (s : State) (n : Nat) (q : Launch) : (s.setLaunch n q).arcs = s.arcs := rfl
@[simp] theorem State.setLaunch_links (s : State) (n : Nat) (q : Launch) : (s.setLaunch n q).links = s.links := rfl
@[simp] theorem State.setLaunch_items (s : State) (n : Nat) (q : Launch) : (s.setLaunch n q).items = s.items := rfl
@[simp] theorem State.setLaunch_queues (s : State) (n : Nat) (q : Launch) : (s.setLaunch n q).queues = s.queues := rfl
@[simp] theorem State.setLaunch_spans (s : State) (n : Nat) (q : Launch) : (s.setLaunch n q).spans = s.spans := rfl
@[simp] theorem State.setLaunch_events (s : State) (n : Nat) (q : Launch) : (s.setLaunch n q).events = s.events := rfl
@[simp] theorem State.setLaunch_cores (s : State) (n : Nat) (q : Launch) : (s.setLaunch n q).cores = s.cores := rfl
@[simp] theorem State.setLaunch_kicks (s : State) (n : Nat) (q : Launch) : (s.setLaunch n q).kicks = s.kicks := rfl
@[simp] theorem State.setLaunch_kick (s : State) (n : Nat) (q : Launch) : (s.setLaunch n q).kick = s.kick := rfl
@[simp] theorem State.setLaunch_sems (s : State) (n : Nat) (q : Launch) : (s.setLaunch n q).sems = s.sems := rfl
@[simp] theorem State.setLaunch_sown (s : State) (n : Nat) (q : Launch) : (s.setLaunch n q).sown = s.sown := rfl
@[simp] theorem State.setLaunch_copies (s : State) (n : Nat) (q : Launch) : (s.setLaunch n q).copies = s.copies := rfl
@[simp] theorem State.setLaunch_storage (s : State) (n : Nat) (q : Launch) : (s.setLaunch n q).storage = s.storage := rfl
@[simp] theorem State.setLaunch_resetting (s : State) (n : Nat) (q : Launch) : (s.setLaunch n q).resetting = s.resetting := rfl
@[simp] theorem State.setLaunch_namespaces (s : State) (n : Nat) (q : Launch) : (s.setLaunch n q).namespaces = s.namespaces := rfl
@[simp] theorem State.setLaunch_records (s : State) (n : Nat) (q : Launch) : (s.setLaunch n q).records = s.records := rfl
@[simp] theorem State.setLaunch_rings (s : State) (n : Nat) (q : Launch) : (s.setLaunch n q).rings = s.rings := rfl
@[simp] theorem State.setLaunch_net (s : State) (n : Nat) (q : Launch) : (s.setLaunch n q).net = s.net := rfl
@[simp] theorem State.setLaunch_power (s : State) (n : Nat) (q : Launch) : (s.setLaunch n q).power = s.power := rfl
@[simp] theorem State.setLaunch_sec (s : State) (n : Nat) (q : Launch) : (s.setLaunch n q).sec = s.sec := rfl
@[simp] theorem State.setLaunch_at_seq (s : State) (n : Nat) (q : Launch) (m : Nat) : (s.setLaunch n q).seq m = s.seq m := rfl
@[simp] theorem State.setLaunch_at_tile (s : State) (n : Nat) (q : Launch) (m : Nat) : (s.setLaunch n q).tile m = s.tile m := rfl
@[simp] theorem State.setLaunch_at_pctx (s : State) (n : Nat) (q : Launch) (m : Nat) : (s.setLaunch n q).pctx m = s.pctx m := rfl
@[simp] theorem State.setLaunch_at_arc (s : State) (n : Nat) (q : Launch) (m : Nat) : (s.setLaunch n q).arc m = s.arc m := rfl
@[simp] theorem State.setLaunch_at_island (s : State) (n : Nat) (q : Launch) (m : Nat) : (s.setLaunch n q).island m = s.island m := rfl
@[simp] theorem State.setLaunch_at_item (s : State) (n : Nat) (q : Launch) (m : Nat) : (s.setLaunch n q).item m = s.item m := rfl
@[simp] theorem State.setLaunch_at_queue (s : State) (n : Nat) (q : Launch) (m : Nat) : (s.setLaunch n q).queue m = s.queue m := rfl
@[simp] theorem State.setLaunch_at_ring (s : State) (n : Nat) (q : Launch) (m : Nat) : (s.setLaunch n q).ring m = s.ring m := rfl
@[simp] theorem State.setLaunch_at_sem (s : State) (n : Nat) (q : Launch) (m : Nat) : (s.setLaunch n q).sem m = s.sem m := rfl

/-! ### setItem -/

@[simp] theorem State.setItem_turns (s : State) (n : Nat) (q : Item) : (s.setItem n q).turns = s.turns := rfl
@[simp] theorem State.setItem_choice (s : State) (n : Nat) (q : Item) : (s.setItem n q).choice = s.choice := rfl
@[simp] theorem State.setItem_curSeq (s : State) (n : Nat) (q : Item) : (s.setItem n q).curSeq = s.curSeq := rfl
@[simp] theorem State.setItem_curTile (s : State) (n : Nat) (q : Item) : (s.setItem n q).curTile = s.curTile := rfl
@[simp] theorem State.setItem_curSlot (s : State) (n : Nat) (q : Item) : (s.setItem n q).curSlot = s.curSlot := rfl
@[simp] theorem State.setItem_sent (s : State) (n : Nat) (q : Item) : (s.setItem n q).sent = s.sent := rfl
@[simp] theorem State.setItem_powered (s : State) (n : Nat) (q : Item) : (s.setItem n q).powered = s.powered := rfl
@[simp] theorem State.setItem_now (s : State) (n : Nat) (q : Item) : (s.setItem n q).now = s.now := rfl
@[simp] theorem State.setItem_part (s : State) (n : Nat) (q : Item) : (s.setItem n q).part = s.part := rfl
@[simp] theorem State.setItem_ctl (s : State) (n : Nat) (q : Item) : (s.setItem n q).ctl = s.ctl := rfl
@[simp] theorem State.setItem_mem (s : State) (n : Nat) (q : Item) : (s.setItem n q).mem = s.mem := rfl
@[simp] theorem State.setItem_poison (s : State) (n : Nat) (q : Item) : (s.setItem n q).poison = s.poison := rfl
@[simp] theorem State.setItem_frameState (s : State) (n : Nat) (q : Item) : (s.setItem n q).frameState = s.frameState := rfl
@[simp] theorem State.setItem_full (s : State) (n : Nat) (q : Item) : (s.setItem n q).full = s.full := rfl
@[simp] theorem State.setItem_ctxBase (s : State) (n : Nat) (q : Item) : (s.setItem n q).ctxBase = s.ctxBase := rfl
@[simp] theorem State.setItem_edgeTlb (s : State) (n : Nat) (q : Item) : (s.setItem n q).edgeTlb = s.edgeTlb := rfl
@[simp] theorem State.setItem_islands (s : State) (n : Nat) (q : Item) : (s.setItem n q).islands = s.islands := rfl
@[simp] theorem State.setItem_pctxs (s : State) (n : Nat) (q : Item) : (s.setItem n q).pctxs = s.pctxs := rfl
@[simp] theorem State.setItem_agnLast (s : State) (n : Nat) (q : Item) : (s.setItem n q).agnLast = s.agnLast := rfl
@[simp] theorem State.setItem_seqs (s : State) (n : Nat) (q : Item) : (s.setItem n q).seqs = s.seqs := rfl
@[simp] theorem State.setItem_tiles (s : State) (n : Nat) (q : Item) : (s.setItem n q).tiles = s.tiles := rfl
@[simp] theorem State.setItem_arcs (s : State) (n : Nat) (q : Item) : (s.setItem n q).arcs = s.arcs := rfl
@[simp] theorem State.setItem_links (s : State) (n : Nat) (q : Item) : (s.setItem n q).links = s.links := rfl
@[simp] theorem State.setItem_launches (s : State) (n : Nat) (q : Item) : (s.setItem n q).launches = s.launches := rfl
@[simp] theorem State.setItem_queues (s : State) (n : Nat) (q : Item) : (s.setItem n q).queues = s.queues := rfl
@[simp] theorem State.setItem_spans (s : State) (n : Nat) (q : Item) : (s.setItem n q).spans = s.spans := rfl
@[simp] theorem State.setItem_events (s : State) (n : Nat) (q : Item) : (s.setItem n q).events = s.events := rfl
@[simp] theorem State.setItem_cores (s : State) (n : Nat) (q : Item) : (s.setItem n q).cores = s.cores := rfl
@[simp] theorem State.setItem_kicks (s : State) (n : Nat) (q : Item) : (s.setItem n q).kicks = s.kicks := rfl
@[simp] theorem State.setItem_kick (s : State) (n : Nat) (q : Item) : (s.setItem n q).kick = s.kick := rfl
@[simp] theorem State.setItem_sems (s : State) (n : Nat) (q : Item) : (s.setItem n q).sems = s.sems := rfl
@[simp] theorem State.setItem_sown (s : State) (n : Nat) (q : Item) : (s.setItem n q).sown = s.sown := rfl
@[simp] theorem State.setItem_copies (s : State) (n : Nat) (q : Item) : (s.setItem n q).copies = s.copies := rfl
@[simp] theorem State.setItem_storage (s : State) (n : Nat) (q : Item) : (s.setItem n q).storage = s.storage := rfl
@[simp] theorem State.setItem_resetting (s : State) (n : Nat) (q : Item) : (s.setItem n q).resetting = s.resetting := rfl
@[simp] theorem State.setItem_namespaces (s : State) (n : Nat) (q : Item) : (s.setItem n q).namespaces = s.namespaces := rfl
@[simp] theorem State.setItem_records (s : State) (n : Nat) (q : Item) : (s.setItem n q).records = s.records := rfl
@[simp] theorem State.setItem_rings (s : State) (n : Nat) (q : Item) : (s.setItem n q).rings = s.rings := rfl
@[simp] theorem State.setItem_net (s : State) (n : Nat) (q : Item) : (s.setItem n q).net = s.net := rfl
@[simp] theorem State.setItem_power (s : State) (n : Nat) (q : Item) : (s.setItem n q).power = s.power := rfl
@[simp] theorem State.setItem_sec (s : State) (n : Nat) (q : Item) : (s.setItem n q).sec = s.sec := rfl
@[simp] theorem State.setItem_at_seq (s : State) (n : Nat) (q : Item) (m : Nat) : (s.setItem n q).seq m = s.seq m := rfl
@[simp] theorem State.setItem_at_tile (s : State) (n : Nat) (q : Item) (m : Nat) : (s.setItem n q).tile m = s.tile m := rfl
@[simp] theorem State.setItem_at_pctx (s : State) (n : Nat) (q : Item) (m : Nat) : (s.setItem n q).pctx m = s.pctx m := rfl
@[simp] theorem State.setItem_at_arc (s : State) (n : Nat) (q : Item) (m : Nat) : (s.setItem n q).arc m = s.arc m := rfl
@[simp] theorem State.setItem_at_island (s : State) (n : Nat) (q : Item) (m : Nat) : (s.setItem n q).island m = s.island m := rfl
@[simp] theorem State.setItem_at_launch (s : State) (n : Nat) (q : Item) (m : Nat) : (s.setItem n q).launch m = s.launch m := rfl
@[simp] theorem State.setItem_at_queue (s : State) (n : Nat) (q : Item) (m : Nat) : (s.setItem n q).queue m = s.queue m := rfl
@[simp] theorem State.setItem_at_ring (s : State) (n : Nat) (q : Item) (m : Nat) : (s.setItem n q).ring m = s.ring m := rfl
@[simp] theorem State.setItem_at_sem (s : State) (n : Nat) (q : Item) (m : Nat) : (s.setItem n q).sem m = s.sem m := rfl

/-! ### setQueue -/

@[simp] theorem State.setQueue_turns (s : State) (n : Nat) (q : Queue) : (s.setQueue n q).turns = s.turns := rfl
@[simp] theorem State.setQueue_choice (s : State) (n : Nat) (q : Queue) : (s.setQueue n q).choice = s.choice := rfl
@[simp] theorem State.setQueue_curSeq (s : State) (n : Nat) (q : Queue) : (s.setQueue n q).curSeq = s.curSeq := rfl
@[simp] theorem State.setQueue_curTile (s : State) (n : Nat) (q : Queue) : (s.setQueue n q).curTile = s.curTile := rfl
@[simp] theorem State.setQueue_curSlot (s : State) (n : Nat) (q : Queue) : (s.setQueue n q).curSlot = s.curSlot := rfl
@[simp] theorem State.setQueue_sent (s : State) (n : Nat) (q : Queue) : (s.setQueue n q).sent = s.sent := rfl
@[simp] theorem State.setQueue_powered (s : State) (n : Nat) (q : Queue) : (s.setQueue n q).powered = s.powered := rfl
@[simp] theorem State.setQueue_now (s : State) (n : Nat) (q : Queue) : (s.setQueue n q).now = s.now := rfl
@[simp] theorem State.setQueue_part (s : State) (n : Nat) (q : Queue) : (s.setQueue n q).part = s.part := rfl
@[simp] theorem State.setQueue_ctl (s : State) (n : Nat) (q : Queue) : (s.setQueue n q).ctl = s.ctl := rfl
@[simp] theorem State.setQueue_mem (s : State) (n : Nat) (q : Queue) : (s.setQueue n q).mem = s.mem := rfl
@[simp] theorem State.setQueue_poison (s : State) (n : Nat) (q : Queue) : (s.setQueue n q).poison = s.poison := rfl
@[simp] theorem State.setQueue_frameState (s : State) (n : Nat) (q : Queue) : (s.setQueue n q).frameState = s.frameState := rfl
@[simp] theorem State.setQueue_full (s : State) (n : Nat) (q : Queue) : (s.setQueue n q).full = s.full := rfl
@[simp] theorem State.setQueue_ctxBase (s : State) (n : Nat) (q : Queue) : (s.setQueue n q).ctxBase = s.ctxBase := rfl
@[simp] theorem State.setQueue_edgeTlb (s : State) (n : Nat) (q : Queue) : (s.setQueue n q).edgeTlb = s.edgeTlb := rfl
@[simp] theorem State.setQueue_islands (s : State) (n : Nat) (q : Queue) : (s.setQueue n q).islands = s.islands := rfl
@[simp] theorem State.setQueue_pctxs (s : State) (n : Nat) (q : Queue) : (s.setQueue n q).pctxs = s.pctxs := rfl
@[simp] theorem State.setQueue_agnLast (s : State) (n : Nat) (q : Queue) : (s.setQueue n q).agnLast = s.agnLast := rfl
@[simp] theorem State.setQueue_seqs (s : State) (n : Nat) (q : Queue) : (s.setQueue n q).seqs = s.seqs := rfl
@[simp] theorem State.setQueue_tiles (s : State) (n : Nat) (q : Queue) : (s.setQueue n q).tiles = s.tiles := rfl
@[simp] theorem State.setQueue_arcs (s : State) (n : Nat) (q : Queue) : (s.setQueue n q).arcs = s.arcs := rfl
@[simp] theorem State.setQueue_links (s : State) (n : Nat) (q : Queue) : (s.setQueue n q).links = s.links := rfl
@[simp] theorem State.setQueue_launches (s : State) (n : Nat) (q : Queue) : (s.setQueue n q).launches = s.launches := rfl
@[simp] theorem State.setQueue_items (s : State) (n : Nat) (q : Queue) : (s.setQueue n q).items = s.items := rfl
@[simp] theorem State.setQueue_spans (s : State) (n : Nat) (q : Queue) : (s.setQueue n q).spans = s.spans := rfl
@[simp] theorem State.setQueue_events (s : State) (n : Nat) (q : Queue) : (s.setQueue n q).events = s.events := rfl
@[simp] theorem State.setQueue_cores (s : State) (n : Nat) (q : Queue) : (s.setQueue n q).cores = s.cores := rfl
@[simp] theorem State.setQueue_kicks (s : State) (n : Nat) (q : Queue) : (s.setQueue n q).kicks = s.kicks := rfl
@[simp] theorem State.setQueue_kick (s : State) (n : Nat) (q : Queue) : (s.setQueue n q).kick = s.kick := rfl
@[simp] theorem State.setQueue_sems (s : State) (n : Nat) (q : Queue) : (s.setQueue n q).sems = s.sems := rfl
@[simp] theorem State.setQueue_sown (s : State) (n : Nat) (q : Queue) : (s.setQueue n q).sown = s.sown := rfl
@[simp] theorem State.setQueue_copies (s : State) (n : Nat) (q : Queue) : (s.setQueue n q).copies = s.copies := rfl
@[simp] theorem State.setQueue_storage (s : State) (n : Nat) (q : Queue) : (s.setQueue n q).storage = s.storage := rfl
@[simp] theorem State.setQueue_resetting (s : State) (n : Nat) (q : Queue) : (s.setQueue n q).resetting = s.resetting := rfl
@[simp] theorem State.setQueue_namespaces (s : State) (n : Nat) (q : Queue) : (s.setQueue n q).namespaces = s.namespaces := rfl
@[simp] theorem State.setQueue_records (s : State) (n : Nat) (q : Queue) : (s.setQueue n q).records = s.records := rfl
@[simp] theorem State.setQueue_rings (s : State) (n : Nat) (q : Queue) : (s.setQueue n q).rings = s.rings := rfl
@[simp] theorem State.setQueue_net (s : State) (n : Nat) (q : Queue) : (s.setQueue n q).net = s.net := rfl
@[simp] theorem State.setQueue_power (s : State) (n : Nat) (q : Queue) : (s.setQueue n q).power = s.power := rfl
@[simp] theorem State.setQueue_sec (s : State) (n : Nat) (q : Queue) : (s.setQueue n q).sec = s.sec := rfl
@[simp] theorem State.setQueue_at_seq (s : State) (n : Nat) (q : Queue) (m : Nat) : (s.setQueue n q).seq m = s.seq m := rfl
@[simp] theorem State.setQueue_at_tile (s : State) (n : Nat) (q : Queue) (m : Nat) : (s.setQueue n q).tile m = s.tile m := rfl
@[simp] theorem State.setQueue_at_pctx (s : State) (n : Nat) (q : Queue) (m : Nat) : (s.setQueue n q).pctx m = s.pctx m := rfl
@[simp] theorem State.setQueue_at_arc (s : State) (n : Nat) (q : Queue) (m : Nat) : (s.setQueue n q).arc m = s.arc m := rfl
@[simp] theorem State.setQueue_at_island (s : State) (n : Nat) (q : Queue) (m : Nat) : (s.setQueue n q).island m = s.island m := rfl
@[simp] theorem State.setQueue_at_launch (s : State) (n : Nat) (q : Queue) (m : Nat) : (s.setQueue n q).launch m = s.launch m := rfl
@[simp] theorem State.setQueue_at_item (s : State) (n : Nat) (q : Queue) (m : Nat) : (s.setQueue n q).item m = s.item m := rfl
@[simp] theorem State.setQueue_at_ring (s : State) (n : Nat) (q : Queue) (m : Nat) : (s.setQueue n q).ring m = s.ring m := rfl
@[simp] theorem State.setQueue_at_sem (s : State) (n : Nat) (q : Queue) (m : Nat) : (s.setQueue n q).sem m = s.sem m := rfl

/-! ### setRing -/

@[simp] theorem State.setRing_turns (s : State) (n : Nat) (q : FaultRing) : (s.setRing n q).turns = s.turns := rfl
@[simp] theorem State.setRing_choice (s : State) (n : Nat) (q : FaultRing) : (s.setRing n q).choice = s.choice := rfl
@[simp] theorem State.setRing_curSeq (s : State) (n : Nat) (q : FaultRing) : (s.setRing n q).curSeq = s.curSeq := rfl
@[simp] theorem State.setRing_curTile (s : State) (n : Nat) (q : FaultRing) : (s.setRing n q).curTile = s.curTile := rfl
@[simp] theorem State.setRing_curSlot (s : State) (n : Nat) (q : FaultRing) : (s.setRing n q).curSlot = s.curSlot := rfl
@[simp] theorem State.setRing_sent (s : State) (n : Nat) (q : FaultRing) : (s.setRing n q).sent = s.sent := rfl
@[simp] theorem State.setRing_powered (s : State) (n : Nat) (q : FaultRing) : (s.setRing n q).powered = s.powered := rfl
@[simp] theorem State.setRing_now (s : State) (n : Nat) (q : FaultRing) : (s.setRing n q).now = s.now := rfl
@[simp] theorem State.setRing_part (s : State) (n : Nat) (q : FaultRing) : (s.setRing n q).part = s.part := rfl
@[simp] theorem State.setRing_ctl (s : State) (n : Nat) (q : FaultRing) : (s.setRing n q).ctl = s.ctl := rfl
@[simp] theorem State.setRing_mem (s : State) (n : Nat) (q : FaultRing) : (s.setRing n q).mem = s.mem := rfl
@[simp] theorem State.setRing_poison (s : State) (n : Nat) (q : FaultRing) : (s.setRing n q).poison = s.poison := rfl
@[simp] theorem State.setRing_frameState (s : State) (n : Nat) (q : FaultRing) : (s.setRing n q).frameState = s.frameState := rfl
@[simp] theorem State.setRing_full (s : State) (n : Nat) (q : FaultRing) : (s.setRing n q).full = s.full := rfl
@[simp] theorem State.setRing_ctxBase (s : State) (n : Nat) (q : FaultRing) : (s.setRing n q).ctxBase = s.ctxBase := rfl
@[simp] theorem State.setRing_edgeTlb (s : State) (n : Nat) (q : FaultRing) : (s.setRing n q).edgeTlb = s.edgeTlb := rfl
@[simp] theorem State.setRing_islands (s : State) (n : Nat) (q : FaultRing) : (s.setRing n q).islands = s.islands := rfl
@[simp] theorem State.setRing_pctxs (s : State) (n : Nat) (q : FaultRing) : (s.setRing n q).pctxs = s.pctxs := rfl
@[simp] theorem State.setRing_agnLast (s : State) (n : Nat) (q : FaultRing) : (s.setRing n q).agnLast = s.agnLast := rfl
@[simp] theorem State.setRing_seqs (s : State) (n : Nat) (q : FaultRing) : (s.setRing n q).seqs = s.seqs := rfl
@[simp] theorem State.setRing_tiles (s : State) (n : Nat) (q : FaultRing) : (s.setRing n q).tiles = s.tiles := rfl
@[simp] theorem State.setRing_arcs (s : State) (n : Nat) (q : FaultRing) : (s.setRing n q).arcs = s.arcs := rfl
@[simp] theorem State.setRing_links (s : State) (n : Nat) (q : FaultRing) : (s.setRing n q).links = s.links := rfl
@[simp] theorem State.setRing_launches (s : State) (n : Nat) (q : FaultRing) : (s.setRing n q).launches = s.launches := rfl
@[simp] theorem State.setRing_items (s : State) (n : Nat) (q : FaultRing) : (s.setRing n q).items = s.items := rfl
@[simp] theorem State.setRing_queues (s : State) (n : Nat) (q : FaultRing) : (s.setRing n q).queues = s.queues := rfl
@[simp] theorem State.setRing_spans (s : State) (n : Nat) (q : FaultRing) : (s.setRing n q).spans = s.spans := rfl
@[simp] theorem State.setRing_events (s : State) (n : Nat) (q : FaultRing) : (s.setRing n q).events = s.events := rfl
@[simp] theorem State.setRing_cores (s : State) (n : Nat) (q : FaultRing) : (s.setRing n q).cores = s.cores := rfl
@[simp] theorem State.setRing_kicks (s : State) (n : Nat) (q : FaultRing) : (s.setRing n q).kicks = s.kicks := rfl
@[simp] theorem State.setRing_kick (s : State) (n : Nat) (q : FaultRing) : (s.setRing n q).kick = s.kick := rfl
@[simp] theorem State.setRing_sems (s : State) (n : Nat) (q : FaultRing) : (s.setRing n q).sems = s.sems := rfl
@[simp] theorem State.setRing_sown (s : State) (n : Nat) (q : FaultRing) : (s.setRing n q).sown = s.sown := rfl
@[simp] theorem State.setRing_copies (s : State) (n : Nat) (q : FaultRing) : (s.setRing n q).copies = s.copies := rfl
@[simp] theorem State.setRing_storage (s : State) (n : Nat) (q : FaultRing) : (s.setRing n q).storage = s.storage := rfl
@[simp] theorem State.setRing_resetting (s : State) (n : Nat) (q : FaultRing) : (s.setRing n q).resetting = s.resetting := rfl
@[simp] theorem State.setRing_namespaces (s : State) (n : Nat) (q : FaultRing) : (s.setRing n q).namespaces = s.namespaces := rfl
@[simp] theorem State.setRing_records (s : State) (n : Nat) (q : FaultRing) : (s.setRing n q).records = s.records := rfl
@[simp] theorem State.setRing_net (s : State) (n : Nat) (q : FaultRing) : (s.setRing n q).net = s.net := rfl
@[simp] theorem State.setRing_power (s : State) (n : Nat) (q : FaultRing) : (s.setRing n q).power = s.power := rfl
@[simp] theorem State.setRing_sec (s : State) (n : Nat) (q : FaultRing) : (s.setRing n q).sec = s.sec := rfl
@[simp] theorem State.setRing_at_seq (s : State) (n : Nat) (q : FaultRing) (m : Nat) : (s.setRing n q).seq m = s.seq m := rfl
@[simp] theorem State.setRing_at_tile (s : State) (n : Nat) (q : FaultRing) (m : Nat) : (s.setRing n q).tile m = s.tile m := rfl
@[simp] theorem State.setRing_at_pctx (s : State) (n : Nat) (q : FaultRing) (m : Nat) : (s.setRing n q).pctx m = s.pctx m := rfl
@[simp] theorem State.setRing_at_arc (s : State) (n : Nat) (q : FaultRing) (m : Nat) : (s.setRing n q).arc m = s.arc m := rfl
@[simp] theorem State.setRing_at_island (s : State) (n : Nat) (q : FaultRing) (m : Nat) : (s.setRing n q).island m = s.island m := rfl
@[simp] theorem State.setRing_at_launch (s : State) (n : Nat) (q : FaultRing) (m : Nat) : (s.setRing n q).launch m = s.launch m := rfl
@[simp] theorem State.setRing_at_item (s : State) (n : Nat) (q : FaultRing) (m : Nat) : (s.setRing n q).item m = s.item m := rfl
@[simp] theorem State.setRing_at_queue (s : State) (n : Nat) (q : FaultRing) (m : Nat) : (s.setRing n q).queue m = s.queue m := rfl
@[simp] theorem State.setRing_at_sem (s : State) (n : Nat) (q : FaultRing) (m : Nat) : (s.setRing n q).sem m = s.sem m := rfl

/-! ### setCur -/

@[simp] theorem State.setCur_turns (s : State) (q : Seq) : (s.setCur q).turns = s.turns := rfl
@[simp] theorem State.setCur_choice (s : State) (q : Seq) : (s.setCur q).choice = s.choice := rfl
@[simp] theorem State.setCur_curSeq (s : State) (q : Seq) : (s.setCur q).curSeq = s.curSeq := rfl
@[simp] theorem State.setCur_curTile (s : State) (q : Seq) : (s.setCur q).curTile = s.curTile := rfl
@[simp] theorem State.setCur_curSlot (s : State) (q : Seq) : (s.setCur q).curSlot = s.curSlot := rfl
@[simp] theorem State.setCur_sent (s : State) (q : Seq) : (s.setCur q).sent = s.sent := rfl
@[simp] theorem State.setCur_powered (s : State) (q : Seq) : (s.setCur q).powered = s.powered := rfl
@[simp] theorem State.setCur_now (s : State) (q : Seq) : (s.setCur q).now = s.now := rfl
@[simp] theorem State.setCur_part (s : State) (q : Seq) : (s.setCur q).part = s.part := rfl
@[simp] theorem State.setCur_ctl (s : State) (q : Seq) : (s.setCur q).ctl = s.ctl := rfl
@[simp] theorem State.setCur_mem (s : State) (q : Seq) : (s.setCur q).mem = s.mem := rfl
@[simp] theorem State.setCur_poison (s : State) (q : Seq) : (s.setCur q).poison = s.poison := rfl
@[simp] theorem State.setCur_frameState (s : State) (q : Seq) : (s.setCur q).frameState = s.frameState := rfl
@[simp] theorem State.setCur_full (s : State) (q : Seq) : (s.setCur q).full = s.full := rfl
@[simp] theorem State.setCur_ctxBase (s : State) (q : Seq) : (s.setCur q).ctxBase = s.ctxBase := rfl
@[simp] theorem State.setCur_edgeTlb (s : State) (q : Seq) : (s.setCur q).edgeTlb = s.edgeTlb := rfl
@[simp] theorem State.setCur_islands (s : State) (q : Seq) : (s.setCur q).islands = s.islands := rfl
@[simp] theorem State.setCur_pctxs (s : State) (q : Seq) : (s.setCur q).pctxs = s.pctxs := rfl
@[simp] theorem State.setCur_agnLast (s : State) (q : Seq) : (s.setCur q).agnLast = s.agnLast := rfl
@[simp] theorem State.setCur_tiles (s : State) (q : Seq) : (s.setCur q).tiles = s.tiles := rfl
@[simp] theorem State.setCur_arcs (s : State) (q : Seq) : (s.setCur q).arcs = s.arcs := rfl
@[simp] theorem State.setCur_links (s : State) (q : Seq) : (s.setCur q).links = s.links := rfl
@[simp] theorem State.setCur_launches (s : State) (q : Seq) : (s.setCur q).launches = s.launches := rfl
@[simp] theorem State.setCur_items (s : State) (q : Seq) : (s.setCur q).items = s.items := rfl
@[simp] theorem State.setCur_queues (s : State) (q : Seq) : (s.setCur q).queues = s.queues := rfl
@[simp] theorem State.setCur_spans (s : State) (q : Seq) : (s.setCur q).spans = s.spans := rfl
@[simp] theorem State.setCur_events (s : State) (q : Seq) : (s.setCur q).events = s.events := rfl
@[simp] theorem State.setCur_cores (s : State) (q : Seq) : (s.setCur q).cores = s.cores := rfl
@[simp] theorem State.setCur_kicks (s : State) (q : Seq) : (s.setCur q).kicks = s.kicks := rfl
@[simp] theorem State.setCur_kick (s : State) (q : Seq) : (s.setCur q).kick = s.kick := rfl
@[simp] theorem State.setCur_sems (s : State) (q : Seq) : (s.setCur q).sems = s.sems := rfl
@[simp] theorem State.setCur_sown (s : State) (q : Seq) : (s.setCur q).sown = s.sown := rfl
@[simp] theorem State.setCur_copies (s : State) (q : Seq) : (s.setCur q).copies = s.copies := rfl
@[simp] theorem State.setCur_storage (s : State) (q : Seq) : (s.setCur q).storage = s.storage := rfl
@[simp] theorem State.setCur_resetting (s : State) (q : Seq) : (s.setCur q).resetting = s.resetting := rfl
@[simp] theorem State.setCur_namespaces (s : State) (q : Seq) : (s.setCur q).namespaces = s.namespaces := rfl
@[simp] theorem State.setCur_records (s : State) (q : Seq) : (s.setCur q).records = s.records := rfl
@[simp] theorem State.setCur_rings (s : State) (q : Seq) : (s.setCur q).rings = s.rings := rfl
@[simp] theorem State.setCur_net (s : State) (q : Seq) : (s.setCur q).net = s.net := rfl
@[simp] theorem State.setCur_power (s : State) (q : Seq) : (s.setCur q).power = s.power := rfl
@[simp] theorem State.setCur_sec (s : State) (q : Seq) : (s.setCur q).sec = s.sec := rfl
@[simp] theorem State.setCur_at_tile (s : State) (q : Seq) (m : Nat) : (s.setCur q).tile m = s.tile m := rfl
@[simp] theorem State.setCur_at_pctx (s : State) (q : Seq) (m : Nat) : (s.setCur q).pctx m = s.pctx m := rfl
@[simp] theorem State.setCur_at_arc (s : State) (q : Seq) (m : Nat) : (s.setCur q).arc m = s.arc m := rfl
@[simp] theorem State.setCur_at_island (s : State) (q : Seq) (m : Nat) : (s.setCur q).island m = s.island m := rfl
@[simp] theorem State.setCur_at_launch (s : State) (q : Seq) (m : Nat) : (s.setCur q).launch m = s.launch m := rfl
@[simp] theorem State.setCur_at_item (s : State) (q : Seq) (m : Nat) : (s.setCur q).item m = s.item m := rfl
@[simp] theorem State.setCur_at_queue (s : State) (q : Seq) (m : Nat) : (s.setCur q).queue m = s.queue m := rfl
@[simp] theorem State.setCur_at_ring (s : State) (q : Seq) (m : Nat) : (s.setCur q).ring m = s.ring m := rfl
@[simp] theorem State.setCur_at_sem (s : State) (q : Seq) (m : Nat) : (s.setCur q).sem m = s.sem m := rfl

/-! ### bump -/

@[simp] theorem State.bump_turns (s : State) : s.bump.turns = s.turns := rfl
@[simp] theorem State.bump_curSeq (s : State) : s.bump.curSeq = s.curSeq := rfl
@[simp] theorem State.bump_curTile (s : State) : s.bump.curTile = s.curTile := rfl
@[simp] theorem State.bump_curSlot (s : State) : s.bump.curSlot = s.curSlot := rfl
@[simp] theorem State.bump_sent (s : State) : s.bump.sent = s.sent := rfl
@[simp] theorem State.bump_powered (s : State) : s.bump.powered = s.powered := rfl
@[simp] theorem State.bump_now (s : State) : s.bump.now = s.now := rfl
@[simp] theorem State.bump_part (s : State) : s.bump.part = s.part := rfl
@[simp] theorem State.bump_ctl (s : State) : s.bump.ctl = s.ctl := rfl
@[simp] theorem State.bump_mem (s : State) : s.bump.mem = s.mem := rfl
@[simp] theorem State.bump_poison (s : State) : s.bump.poison = s.poison := rfl
@[simp] theorem State.bump_frameState (s : State) : s.bump.frameState = s.frameState := rfl
@[simp] theorem State.bump_full (s : State) : s.bump.full = s.full := rfl
@[simp] theorem State.bump_ctxBase (s : State) : s.bump.ctxBase = s.ctxBase := rfl
@[simp] theorem State.bump_edgeTlb (s : State) : s.bump.edgeTlb = s.edgeTlb := rfl
@[simp] theorem State.bump_islands (s : State) : s.bump.islands = s.islands := rfl
@[simp] theorem State.bump_pctxs (s : State) : s.bump.pctxs = s.pctxs := rfl
@[simp] theorem State.bump_agnLast (s : State) : s.bump.agnLast = s.agnLast := rfl
@[simp] theorem State.bump_seqs (s : State) : s.bump.seqs = s.seqs := rfl
@[simp] theorem State.bump_tiles (s : State) : s.bump.tiles = s.tiles := rfl
@[simp] theorem State.bump_arcs (s : State) : s.bump.arcs = s.arcs := rfl
@[simp] theorem State.bump_links (s : State) : s.bump.links = s.links := rfl
@[simp] theorem State.bump_launches (s : State) : s.bump.launches = s.launches := rfl
@[simp] theorem State.bump_items (s : State) : s.bump.items = s.items := rfl
@[simp] theorem State.bump_queues (s : State) : s.bump.queues = s.queues := rfl
@[simp] theorem State.bump_spans (s : State) : s.bump.spans = s.spans := rfl
@[simp] theorem State.bump_events (s : State) : s.bump.events = s.events := rfl
@[simp] theorem State.bump_cores (s : State) : s.bump.cores = s.cores := rfl
@[simp] theorem State.bump_kicks (s : State) : s.bump.kicks = s.kicks := rfl
@[simp] theorem State.bump_kick (s : State) : s.bump.kick = s.kick := rfl
@[simp] theorem State.bump_sems (s : State) : s.bump.sems = s.sems := rfl
@[simp] theorem State.bump_sown (s : State) : s.bump.sown = s.sown := rfl
@[simp] theorem State.bump_copies (s : State) : s.bump.copies = s.copies := rfl
@[simp] theorem State.bump_storage (s : State) : s.bump.storage = s.storage := rfl
@[simp] theorem State.bump_resetting (s : State) : s.bump.resetting = s.resetting := rfl
@[simp] theorem State.bump_namespaces (s : State) : s.bump.namespaces = s.namespaces := rfl
@[simp] theorem State.bump_records (s : State) : s.bump.records = s.records := rfl
@[simp] theorem State.bump_rings (s : State) : s.bump.rings = s.rings := rfl
@[simp] theorem State.bump_net (s : State) : s.bump.net = s.net := rfl
@[simp] theorem State.bump_power (s : State) : s.bump.power = s.power := rfl
@[simp] theorem State.bump_sec (s : State) : s.bump.sec = s.sec := rfl
@[simp] theorem State.bump_at_seq (s : State) (m : Nat) : s.bump.seq m = s.seq m := rfl
@[simp] theorem State.bump_at_tile (s : State) (m : Nat) : s.bump.tile m = s.tile m := rfl
@[simp] theorem State.bump_at_pctx (s : State) (m : Nat) : s.bump.pctx m = s.pctx m := rfl
@[simp] theorem State.bump_at_arc (s : State) (m : Nat) : s.bump.arc m = s.arc m := rfl
@[simp] theorem State.bump_at_island (s : State) (m : Nat) : s.bump.island m = s.island m := rfl
@[simp] theorem State.bump_at_launch (s : State) (m : Nat) : s.bump.launch m = s.launch m := rfl
@[simp] theorem State.bump_at_item (s : State) (m : Nat) : s.bump.item m = s.item m := rfl
@[simp] theorem State.bump_at_queue (s : State) (m : Nat) : s.bump.queue m = s.queue m := rfl
@[simp] theorem State.bump_at_ring (s : State) (m : Nat) : s.bump.ring m = s.ring m := rfl
@[simp] theorem State.bump_at_sem (s : State) (m : Nat) : s.bump.sem m = s.sem m := rfl

/-! ### hold -/

@[simp] theorem State.hold_turns (s : State) : s.hold.turns = s.turns := rfl
@[simp] theorem State.hold_choice (s : State) : s.hold.choice = s.choice := rfl
@[simp] theorem State.hold_curSeq (s : State) : s.hold.curSeq = s.curSeq := rfl
@[simp] theorem State.hold_curTile (s : State) : s.hold.curTile = s.curTile := rfl
@[simp] theorem State.hold_curSlot (s : State) : s.hold.curSlot = s.curSlot := rfl
@[simp] theorem State.hold_sent (s : State) : s.hold.sent = s.sent := rfl
@[simp] theorem State.hold_powered (s : State) : s.hold.powered = s.powered := rfl
@[simp] theorem State.hold_part (s : State) : s.hold.part = s.part := rfl
@[simp] theorem State.hold_ctl (s : State) : s.hold.ctl = s.ctl := rfl
@[simp] theorem State.hold_mem (s : State) : s.hold.mem = s.mem := rfl
@[simp] theorem State.hold_poison (s : State) : s.hold.poison = s.poison := rfl
@[simp] theorem State.hold_frameState (s : State) : s.hold.frameState = s.frameState := rfl
@[simp] theorem State.hold_full (s : State) : s.hold.full = s.full := rfl
@[simp] theorem State.hold_ctxBase (s : State) : s.hold.ctxBase = s.ctxBase := rfl
@[simp] theorem State.hold_edgeTlb (s : State) : s.hold.edgeTlb = s.edgeTlb := rfl
@[simp] theorem State.hold_islands (s : State) : s.hold.islands = s.islands := rfl
@[simp] theorem State.hold_pctxs (s : State) : s.hold.pctxs = s.pctxs := rfl
@[simp] theorem State.hold_agnLast (s : State) : s.hold.agnLast = s.agnLast := rfl
@[simp] theorem State.hold_seqs (s : State) : s.hold.seqs = s.seqs := rfl
@[simp] theorem State.hold_tiles (s : State) : s.hold.tiles = s.tiles := rfl
@[simp] theorem State.hold_arcs (s : State) : s.hold.arcs = s.arcs := rfl
@[simp] theorem State.hold_links (s : State) : s.hold.links = s.links := rfl
@[simp] theorem State.hold_launches (s : State) : s.hold.launches = s.launches := rfl
@[simp] theorem State.hold_items (s : State) : s.hold.items = s.items := rfl
@[simp] theorem State.hold_queues (s : State) : s.hold.queues = s.queues := rfl
@[simp] theorem State.hold_spans (s : State) : s.hold.spans = s.spans := rfl
@[simp] theorem State.hold_events (s : State) : s.hold.events = s.events := rfl
@[simp] theorem State.hold_cores (s : State) : s.hold.cores = s.cores := rfl
@[simp] theorem State.hold_kicks (s : State) : s.hold.kicks = s.kicks := rfl
@[simp] theorem State.hold_kick (s : State) : s.hold.kick = s.kick := rfl
@[simp] theorem State.hold_sems (s : State) : s.hold.sems = s.sems := rfl
@[simp] theorem State.hold_sown (s : State) : s.hold.sown = s.sown := rfl
@[simp] theorem State.hold_copies (s : State) : s.hold.copies = s.copies := rfl
@[simp] theorem State.hold_storage (s : State) : s.hold.storage = s.storage := rfl
@[simp] theorem State.hold_resetting (s : State) : s.hold.resetting = s.resetting := rfl
@[simp] theorem State.hold_namespaces (s : State) : s.hold.namespaces = s.namespaces := rfl
@[simp] theorem State.hold_records (s : State) : s.hold.records = s.records := rfl
@[simp] theorem State.hold_rings (s : State) : s.hold.rings = s.rings := rfl
@[simp] theorem State.hold_net (s : State) : s.hold.net = s.net := rfl
@[simp] theorem State.hold_power (s : State) : s.hold.power = s.power := rfl
@[simp] theorem State.hold_sec (s : State) : s.hold.sec = s.sec := rfl
@[simp] theorem State.hold_at_seq (s : State) (m : Nat) : s.hold.seq m = s.seq m := rfl
@[simp] theorem State.hold_at_tile (s : State) (m : Nat) : s.hold.tile m = s.tile m := rfl
@[simp] theorem State.hold_at_pctx (s : State) (m : Nat) : s.hold.pctx m = s.pctx m := rfl
@[simp] theorem State.hold_at_arc (s : State) (m : Nat) : s.hold.arc m = s.arc m := rfl
@[simp] theorem State.hold_at_island (s : State) (m : Nat) : s.hold.island m = s.island m := rfl
@[simp] theorem State.hold_at_launch (s : State) (m : Nat) : s.hold.launch m = s.launch m := rfl
@[simp] theorem State.hold_at_item (s : State) (m : Nat) : s.hold.item m = s.item m := rfl
@[simp] theorem State.hold_at_queue (s : State) (m : Nat) : s.hold.queue m = s.queue m := rfl
@[simp] theorem State.hold_at_ring (s : State) (m : Nat) : s.hold.ring m = s.ring m := rfl
@[simp] theorem State.hold_at_sem (s : State) (m : Nat) : s.hold.sem m = s.sem m := rfl

/-! ### storeBytes -/

@[simp] theorem State.storeBytes_turns (s : State) (l : Nat) (b : List Byte) : (s.storeBytes l b).turns = s.turns := rfl
@[simp] theorem State.storeBytes_choice (s : State) (l : Nat) (b : List Byte) : (s.storeBytes l b).choice = s.choice := rfl
@[simp] theorem State.storeBytes_curSeq (s : State) (l : Nat) (b : List Byte) : (s.storeBytes l b).curSeq = s.curSeq := rfl
@[simp] theorem State.storeBytes_curTile (s : State) (l : Nat) (b : List Byte) : (s.storeBytes l b).curTile = s.curTile := rfl
@[simp] theorem State.storeBytes_curSlot (s : State) (l : Nat) (b : List Byte) : (s.storeBytes l b).curSlot = s.curSlot := rfl
@[simp] theorem State.storeBytes_sent (s : State) (l : Nat) (b : List Byte) : (s.storeBytes l b).sent = s.sent := rfl
@[simp] theorem State.storeBytes_powered (s : State) (l : Nat) (b : List Byte) : (s.storeBytes l b).powered = s.powered := rfl
@[simp] theorem State.storeBytes_now (s : State) (l : Nat) (b : List Byte) : (s.storeBytes l b).now = s.now := rfl
@[simp] theorem State.storeBytes_part (s : State) (l : Nat) (b : List Byte) : (s.storeBytes l b).part = s.part := rfl
@[simp] theorem State.storeBytes_ctl (s : State) (l : Nat) (b : List Byte) : (s.storeBytes l b).ctl = s.ctl := rfl
@[simp] theorem State.storeBytes_frameState (s : State) (l : Nat) (b : List Byte) : (s.storeBytes l b).frameState = s.frameState := rfl
@[simp] theorem State.storeBytes_full (s : State) (l : Nat) (b : List Byte) : (s.storeBytes l b).full = s.full := rfl
@[simp] theorem State.storeBytes_ctxBase (s : State) (l : Nat) (b : List Byte) : (s.storeBytes l b).ctxBase = s.ctxBase := rfl
@[simp] theorem State.storeBytes_edgeTlb (s : State) (l : Nat) (b : List Byte) : (s.storeBytes l b).edgeTlb = s.edgeTlb := rfl
@[simp] theorem State.storeBytes_islands (s : State) (l : Nat) (b : List Byte) : (s.storeBytes l b).islands = s.islands := rfl
@[simp] theorem State.storeBytes_pctxs (s : State) (l : Nat) (b : List Byte) : (s.storeBytes l b).pctxs = s.pctxs := rfl
@[simp] theorem State.storeBytes_agnLast (s : State) (l : Nat) (b : List Byte) : (s.storeBytes l b).agnLast = s.agnLast := rfl
@[simp] theorem State.storeBytes_seqs (s : State) (l : Nat) (b : List Byte) : (s.storeBytes l b).seqs = s.seqs := rfl
@[simp] theorem State.storeBytes_tiles (s : State) (l : Nat) (b : List Byte) : (s.storeBytes l b).tiles = s.tiles := rfl
@[simp] theorem State.storeBytes_arcs (s : State) (l : Nat) (b : List Byte) : (s.storeBytes l b).arcs = s.arcs := rfl
@[simp] theorem State.storeBytes_links (s : State) (l : Nat) (b : List Byte) : (s.storeBytes l b).links = s.links := rfl
@[simp] theorem State.storeBytes_launches (s : State) (l : Nat) (b : List Byte) : (s.storeBytes l b).launches = s.launches := rfl
@[simp] theorem State.storeBytes_items (s : State) (l : Nat) (b : List Byte) : (s.storeBytes l b).items = s.items := rfl
@[simp] theorem State.storeBytes_queues (s : State) (l : Nat) (b : List Byte) : (s.storeBytes l b).queues = s.queues := rfl
@[simp] theorem State.storeBytes_spans (s : State) (l : Nat) (b : List Byte) : (s.storeBytes l b).spans = s.spans := rfl
@[simp] theorem State.storeBytes_events (s : State) (l : Nat) (b : List Byte) : (s.storeBytes l b).events = s.events := rfl
@[simp] theorem State.storeBytes_cores (s : State) (l : Nat) (b : List Byte) : (s.storeBytes l b).cores = s.cores := rfl
@[simp] theorem State.storeBytes_kicks (s : State) (l : Nat) (b : List Byte) : (s.storeBytes l b).kicks = s.kicks := rfl
@[simp] theorem State.storeBytes_kick (s : State) (l : Nat) (b : List Byte) : (s.storeBytes l b).kick = s.kick := rfl
@[simp] theorem State.storeBytes_sems (s : State) (l : Nat) (b : List Byte) : (s.storeBytes l b).sems = s.sems := rfl
@[simp] theorem State.storeBytes_sown (s : State) (l : Nat) (b : List Byte) : (s.storeBytes l b).sown = s.sown := rfl
@[simp] theorem State.storeBytes_copies (s : State) (l : Nat) (b : List Byte) : (s.storeBytes l b).copies = s.copies := rfl
@[simp] theorem State.storeBytes_storage (s : State) (l : Nat) (b : List Byte) : (s.storeBytes l b).storage = s.storage := rfl
@[simp] theorem State.storeBytes_resetting (s : State) (l : Nat) (b : List Byte) : (s.storeBytes l b).resetting = s.resetting := rfl
@[simp] theorem State.storeBytes_namespaces (s : State) (l : Nat) (b : List Byte) : (s.storeBytes l b).namespaces = s.namespaces := rfl
@[simp] theorem State.storeBytes_records (s : State) (l : Nat) (b : List Byte) : (s.storeBytes l b).records = s.records := rfl
@[simp] theorem State.storeBytes_rings (s : State) (l : Nat) (b : List Byte) : (s.storeBytes l b).rings = s.rings := rfl
@[simp] theorem State.storeBytes_net (s : State) (l : Nat) (b : List Byte) : (s.storeBytes l b).net = s.net := rfl
@[simp] theorem State.storeBytes_power (s : State) (l : Nat) (b : List Byte) : (s.storeBytes l b).power = s.power := rfl
@[simp] theorem State.storeBytes_sec (s : State) (l : Nat) (b : List Byte) : (s.storeBytes l b).sec = s.sec := rfl
@[simp] theorem State.storeBytes_at_seq (s : State) (l : Nat) (b : List Byte) (m : Nat) : (s.storeBytes l b).seq m = s.seq m := rfl
@[simp] theorem State.storeBytes_at_tile (s : State) (l : Nat) (b : List Byte) (m : Nat) : (s.storeBytes l b).tile m = s.tile m := rfl
@[simp] theorem State.storeBytes_at_pctx (s : State) (l : Nat) (b : List Byte) (m : Nat) : (s.storeBytes l b).pctx m = s.pctx m := rfl
@[simp] theorem State.storeBytes_at_arc (s : State) (l : Nat) (b : List Byte) (m : Nat) : (s.storeBytes l b).arc m = s.arc m := rfl
@[simp] theorem State.storeBytes_at_island (s : State) (l : Nat) (b : List Byte) (m : Nat) : (s.storeBytes l b).island m = s.island m := rfl
@[simp] theorem State.storeBytes_at_launch (s : State) (l : Nat) (b : List Byte) (m : Nat) : (s.storeBytes l b).launch m = s.launch m := rfl
@[simp] theorem State.storeBytes_at_item (s : State) (l : Nat) (b : List Byte) (m : Nat) : (s.storeBytes l b).item m = s.item m := rfl
@[simp] theorem State.storeBytes_at_queue (s : State) (l : Nat) (b : List Byte) (m : Nat) : (s.storeBytes l b).queue m = s.queue m := rfl
@[simp] theorem State.storeBytes_at_ring (s : State) (l : Nat) (b : List Byte) (m : Nat) : (s.storeBytes l b).ring m = s.ring m := rfl
@[simp] theorem State.storeBytes_at_sem (s : State) (l : Nat) (b : List Byte) (m : Nat) : (s.storeBytes l b).sem m = s.sem m := rfl

/-! ### setFull -/

@[simp] theorem State.setFull_turns (s : State) (t g : Nat) (v : Bool) : (s.setFull t g v).turns = s.turns := rfl
@[simp] theorem State.setFull_choice (s : State) (t g : Nat) (v : Bool) : (s.setFull t g v).choice = s.choice := rfl
@[simp] theorem State.setFull_curSeq (s : State) (t g : Nat) (v : Bool) : (s.setFull t g v).curSeq = s.curSeq := rfl
@[simp] theorem State.setFull_curTile (s : State) (t g : Nat) (v : Bool) : (s.setFull t g v).curTile = s.curTile := rfl
@[simp] theorem State.setFull_curSlot (s : State) (t g : Nat) (v : Bool) : (s.setFull t g v).curSlot = s.curSlot := rfl
@[simp] theorem State.setFull_sent (s : State) (t g : Nat) (v : Bool) : (s.setFull t g v).sent = s.sent := rfl
@[simp] theorem State.setFull_powered (s : State) (t g : Nat) (v : Bool) : (s.setFull t g v).powered = s.powered := rfl
@[simp] theorem State.setFull_now (s : State) (t g : Nat) (v : Bool) : (s.setFull t g v).now = s.now := rfl
@[simp] theorem State.setFull_part (s : State) (t g : Nat) (v : Bool) : (s.setFull t g v).part = s.part := rfl
@[simp] theorem State.setFull_ctl (s : State) (t g : Nat) (v : Bool) : (s.setFull t g v).ctl = s.ctl := rfl
@[simp] theorem State.setFull_mem (s : State) (t g : Nat) (v : Bool) : (s.setFull t g v).mem = s.mem := rfl
@[simp] theorem State.setFull_poison (s : State) (t g : Nat) (v : Bool) : (s.setFull t g v).poison = s.poison := rfl
@[simp] theorem State.setFull_frameState (s : State) (t g : Nat) (v : Bool) : (s.setFull t g v).frameState = s.frameState := rfl
@[simp] theorem State.setFull_ctxBase (s : State) (t g : Nat) (v : Bool) : (s.setFull t g v).ctxBase = s.ctxBase := rfl
@[simp] theorem State.setFull_edgeTlb (s : State) (t g : Nat) (v : Bool) : (s.setFull t g v).edgeTlb = s.edgeTlb := rfl
@[simp] theorem State.setFull_islands (s : State) (t g : Nat) (v : Bool) : (s.setFull t g v).islands = s.islands := rfl
@[simp] theorem State.setFull_pctxs (s : State) (t g : Nat) (v : Bool) : (s.setFull t g v).pctxs = s.pctxs := rfl
@[simp] theorem State.setFull_agnLast (s : State) (t g : Nat) (v : Bool) : (s.setFull t g v).agnLast = s.agnLast := rfl
@[simp] theorem State.setFull_seqs (s : State) (t g : Nat) (v : Bool) : (s.setFull t g v).seqs = s.seqs := rfl
@[simp] theorem State.setFull_tiles (s : State) (t g : Nat) (v : Bool) : (s.setFull t g v).tiles = s.tiles := rfl
@[simp] theorem State.setFull_arcs (s : State) (t g : Nat) (v : Bool) : (s.setFull t g v).arcs = s.arcs := rfl
@[simp] theorem State.setFull_links (s : State) (t g : Nat) (v : Bool) : (s.setFull t g v).links = s.links := rfl
@[simp] theorem State.setFull_launches (s : State) (t g : Nat) (v : Bool) : (s.setFull t g v).launches = s.launches := rfl
@[simp] theorem State.setFull_items (s : State) (t g : Nat) (v : Bool) : (s.setFull t g v).items = s.items := rfl
@[simp] theorem State.setFull_queues (s : State) (t g : Nat) (v : Bool) : (s.setFull t g v).queues = s.queues := rfl
@[simp] theorem State.setFull_spans (s : State) (t g : Nat) (v : Bool) : (s.setFull t g v).spans = s.spans := rfl
@[simp] theorem State.setFull_events (s : State) (t g : Nat) (v : Bool) : (s.setFull t g v).events = s.events := rfl
@[simp] theorem State.setFull_cores (s : State) (t g : Nat) (v : Bool) : (s.setFull t g v).cores = s.cores := rfl
@[simp] theorem State.setFull_kicks (s : State) (t g : Nat) (v : Bool) : (s.setFull t g v).kicks = s.kicks := rfl
@[simp] theorem State.setFull_kick (s : State) (t g : Nat) (v : Bool) : (s.setFull t g v).kick = s.kick := rfl
@[simp] theorem State.setFull_sems (s : State) (t g : Nat) (v : Bool) : (s.setFull t g v).sems = s.sems := rfl
@[simp] theorem State.setFull_sown (s : State) (t g : Nat) (v : Bool) : (s.setFull t g v).sown = s.sown := rfl
@[simp] theorem State.setFull_copies (s : State) (t g : Nat) (v : Bool) : (s.setFull t g v).copies = s.copies := rfl
@[simp] theorem State.setFull_storage (s : State) (t g : Nat) (v : Bool) : (s.setFull t g v).storage = s.storage := rfl
@[simp] theorem State.setFull_resetting (s : State) (t g : Nat) (v : Bool) : (s.setFull t g v).resetting = s.resetting := rfl
@[simp] theorem State.setFull_namespaces (s : State) (t g : Nat) (v : Bool) : (s.setFull t g v).namespaces = s.namespaces := rfl
@[simp] theorem State.setFull_records (s : State) (t g : Nat) (v : Bool) : (s.setFull t g v).records = s.records := rfl
@[simp] theorem State.setFull_rings (s : State) (t g : Nat) (v : Bool) : (s.setFull t g v).rings = s.rings := rfl
@[simp] theorem State.setFull_net (s : State) (t g : Nat) (v : Bool) : (s.setFull t g v).net = s.net := rfl
@[simp] theorem State.setFull_power (s : State) (t g : Nat) (v : Bool) : (s.setFull t g v).power = s.power := rfl
@[simp] theorem State.setFull_sec (s : State) (t g : Nat) (v : Bool) : (s.setFull t g v).sec = s.sec := rfl
@[simp] theorem State.setFull_at_seq (s : State) (t g : Nat) (v : Bool) (m : Nat) : (s.setFull t g v).seq m = s.seq m := rfl
@[simp] theorem State.setFull_at_tile (s : State) (t g : Nat) (v : Bool) (m : Nat) : (s.setFull t g v).tile m = s.tile m := rfl
@[simp] theorem State.setFull_at_pctx (s : State) (t g : Nat) (v : Bool) (m : Nat) : (s.setFull t g v).pctx m = s.pctx m := rfl
@[simp] theorem State.setFull_at_arc (s : State) (t g : Nat) (v : Bool) (m : Nat) : (s.setFull t g v).arc m = s.arc m := rfl
@[simp] theorem State.setFull_at_island (s : State) (t g : Nat) (v : Bool) (m : Nat) : (s.setFull t g v).island m = s.island m := rfl
@[simp] theorem State.setFull_at_launch (s : State) (t g : Nat) (v : Bool) (m : Nat) : (s.setFull t g v).launch m = s.launch m := rfl
@[simp] theorem State.setFull_at_item (s : State) (t g : Nat) (v : Bool) (m : Nat) : (s.setFull t g v).item m = s.item m := rfl
@[simp] theorem State.setFull_at_queue (s : State) (t g : Nat) (v : Bool) (m : Nat) : (s.setFull t g v).queue m = s.queue m := rfl
@[simp] theorem State.setFull_at_ring (s : State) (t g : Nat) (v : Bool) (m : Nat) : (s.setFull t g v).ring m = s.ring m := rfl
@[simp] theorem State.setFull_at_sem (s : State) (t g : Nat) (v : Bool) (m : Nat) : (s.setFull t g v).sem m = s.sem m := rfl

/-! ### Reading back -/

@[simp] theorem State.setSeq_same (s : State) (n : Nat) (q : Seq) : (s.setSeq n q).seq n = q := tabGet_put_same _ _ _ _
theorem State.setSeq_other (s : State) (n m : Nat) (q : Seq) (h : m ≠ n) : (s.setSeq n q).seq m = s.seq m := tabGet_put_other _ _ _ _ _ h
@[simp] theorem State.setTile_same (s : State) (n : Nat) (q : Tile) : (s.setTile n q).tile n = q := tabGet_put_same _ _ _ _
theorem State.setTile_other (s : State) (n m : Nat) (q : Tile) (h : m ≠ n) : (s.setTile n q).tile m = s.tile m := tabGet_put_other _ _ _ _ _ h
@[simp] theorem State.setPctx_same (s : State) (n : Nat) (q : PCtx) : (s.setPctx n q).pctx n = q := tabGet_put_same _ _ _ _
theorem State.setPctx_other (s : State) (n m : Nat) (q : PCtx) (h : m ≠ n) : (s.setPctx n q).pctx m = s.pctx m := tabGet_put_other _ _ _ _ _ h
@[simp] theorem State.setArc_same (s : State) (n : Nat) (q : Arc) : (s.setArc n q).arc n = q := tabGet_put_same _ _ _ _
theorem State.setArc_other (s : State) (n m : Nat) (q : Arc) (h : m ≠ n) : (s.setArc n q).arc m = s.arc m := tabGet_put_other _ _ _ _ _ h
@[simp] theorem State.setIsland_same (s : State) (n : Nat) (q : Island) : (s.setIsland n q).island n = q := tabGet_put_same _ _ _ _
theorem State.setIsland_other (s : State) (n m : Nat) (q : Island) (h : m ≠ n) : (s.setIsland n q).island m = s.island m := tabGet_put_other _ _ _ _ _ h
@[simp] theorem State.setQueue_same (s : State) (n : Nat) (q : Queue) : (s.setQueue n q).queue n = q := tabGet_put_same _ _ _ _
theorem State.setQueue_other (s : State) (n m : Nat) (q : Queue) (h : m ≠ n) : (s.setQueue n q).queue m = s.queue m := tabGet_put_other _ _ _ _ _ h
@[simp] theorem State.setRing_same (s : State) (n : Nat) (q : FaultRing) : (s.setRing n q).ring n = q := tabGet_put_same _ _ _ _
theorem State.setRing_other (s : State) (n m : Nat) (q : FaultRing) (h : m ≠ n) : (s.setRing n q).ring m = s.ring m := tabGet_put_other _ _ _ _ _ h
@[simp] theorem State.setLaunch_same (s : State) (n : Nat) (q : Launch) : (s.setLaunch n q).launch n = some q := tabFind_put_same _ _ _
theorem State.setLaunch_other (s : State) (n m : Nat) (q : Launch) (h : m ≠ n) : (s.setLaunch n q).launch m = s.launch m := tabFind_put_other _ _ _ _ h
@[simp] theorem State.setItem_same (s : State) (n : Nat) (q : Item) : (s.setItem n q).item n = some q := tabFind_put_same _ _ _
theorem State.setItem_other (s : State) (n m : Nat) (q : Item) (h : m ≠ n) : (s.setItem n q).item m = s.item m := tabFind_put_other _ _ _ _ h
@[simp] theorem State.setCur_cur (s : State) (q : Seq) : (s.setCur q).cur = q := tabGet_put_same _ _ _ _
theorem State.setCur_other (s : State) (q : Seq) (m : Nat) (h : m ≠ s.curSeq) : (s.setCur q).seq m = s.seq m := tabGet_put_other _ _ _ _ _ h
@[simp] theorem State.setCur_same (s : State) (q : Seq) : (s.setCur q).seq s.curSeq = q := tabGet_put_same _ _ _ _

end Sys2Proof.Machine
end

