-- ==== Sys2Proof/Laws/Seq.lean ====
section
/-!
SUPPORT. What the operations that the sequencer's instructions share can do: writing a register, completing, faulting, and
one access.
-/
namespace Sys2Proof.Machine
open Sys2Proof

/-- A register reads as it was written last, and `g0` reads zero (R295). -/
theorem Seq.rd_wr (q : Seq) (d x : Reg) (v : Word) : (q.wr d v).rd x = if x = d ∧ d ≠ 0 then v else q.rd x := by
  unfold Seq.wr Seq.rd
  by_cases hd : d = 0#5
  · subst hd
    by_cases hx : x = 0#5
    · simp [hx]
    · simp [hx]
  · by_cases hx : x = d
    · subst hx
      simp [hd]
    · by_cases h0 : x = 0#5
      · subst h0
        simp [hx]
      · have hn : d.toNat ≠ x.toNat := fun h => hx (BitVec.eq_of_toNat_eq h).symm
        simp [hx, hd, h0, Vector.getElem_set_ne, hn]

/-- A register write changes the general registers alone. -/
theorem Seq.wr_rest (q : Seq) (d : Reg) (v : Word) : { q.wr d v with g := q.g } = q := by
  unfold Seq.wr
  split <;> rfl

theorem Seq.wr_pc (q : Seq) (d : Reg) (v : Word) : (q.wr d v).pc = q.pc := by
  unfold Seq.wr
  split <;> rfl

theorem Seq.wr_sr (q : Seq) (d : Reg) (v : Word) : (q.wr d v).sr = q.sr := by
  unfold Seq.wr
  split <;> rfl

@[simp] theorem State.retire_cur (s : State) (q : Seq) : (s.retire q).cur = { q with pc := q.pc + 4 } :=
  State.setCur_cur _ _

/-- An instruction that completes with a result: the running sequencer's registers and PC, and nothing else. -/
theorem State.result_cur (s : State) (d : Reg) (v : Word) :
    (s.result d v).cur = { s.cur.wr d v with pc := s.cur.pc + 4 } := by
  simp [State.result, Seq.wr_pc]

theorem State.result_rest (s : State) (d : Reg) (v : Word) : { s.result d v with seqs := s.seqs } = s := by
  cases s; rfl

theorem State.result_other (s : State) (d : Reg) (v : Word) (n : Nat) (h : n ≠ s.curSeq) : (s.result d v).seq n = s.seq n :=
  State.setCur_other _ _ _ h

/-- A fault of the running sequencer: one more record, a stop at the instruction, and no register written (R322, R430). -/
theorem State.fault_next (s : State) (c : Cause) (a : Word) :
    s.fault c a = .next (s.seqFault s.curSeq c a) := rfl

theorem State.seqFault_seq (s : State) (n : Nat) (c : Cause) (a : Word) :
    (s.seqFault n c a).seq n =
      { s.seq n with stop := some { cause := c, resume := if c = .seqTrap then (s.seq n).pc + 4 else (s.seq n).pc },
                     waiting := none } := by
  rw [State.seqFault]
  exact State.setSeq_same _ _ _

theorem State.seqFault_records (s : State) (n : Nat) (c : Cause) (a : Word) :
    ∃ r, (s.seqFault n c a).records = s.records ++ [r] ∧ r.cause = c ∧ r.origin = .seq ∧
      r.addr = (if c.addressed = true then a else 0) ∧ r.stop = true ∧ r.pos = s.seqPos n :=
  ⟨_, rfl, rfl, rfl, rfl, rfl, rfl⟩

theorem State.seqFault_rest (s : State) (n : Nat) (c : Cause) (a : Word) :
    { s.seqFault n c a with seqs := s.seqs, records := s.records, rings := s.rings } = s := by
  cases s; rfl

/-- One access that reaches a location of the package is performed there, with the micro-TLB that the check leaves. -/
theorem State.seqAccess_mem (s : State) (act : Pending) (acc : SeqAcc) (a : Word) (n loc : Nat) (tlb : List TlbEntry)
    (h : s.check { ctx := some s.cur.ctxid.toNat, core := true } 32 s.cur.utlb acc.kind a n = (.ok (.mem loc), tlb)) :
    s.seqAccess act acc a n = (s.setCur { s.cur with utlb := tlb }).seqLocal act acc a n loc := by
  simp only [State.seqAccess, h]

/-- One access that a check turns away faults with its cause. -/
theorem State.seqAccess_bad (s : State) (act : Pending) (acc : SeqAcc) (a : Word) (n : Nat) (c : Cause)
    (tlb : List TlbEntry)
    (h : s.check { ctx := some s.cur.ctxid.toNat, core := true } 32 s.cur.utlb acc.kind a n = (.bad c, tlb)) :
    s.seqAccess act acc a n = (s.setCur { s.cur with utlb := tlb }).fault c a := by
  simp only [State.seqAccess, h]

/-- A check of a sequencer's access whose path is good and whose address is not aligned. -/
theorem State.check_misaligned (s : State) (ctx : Option Nat) (cap : Nat) (tlb : List TlbEntry) (k : AccKind) (a : Word)
    (n : Nat) (hp : s.checkPath a = none) (h : a.toNat % n ≠ 0) :
    s.check { ctx := ctx, core := true } cap tlb k a n = (.bad .memMisaligned, tlb) := by
  simp [State.check, hp, h]

end Sys2Proof.Machine
end

