-- ==== Sys2Proof/Tests/Slice0.lean ====
section
/-!
SUPPORT. Small tests: ill-formed terms that WellFormed refuses, words written out from the spec's encodings, results that the spec
states, and for each statement's hypotheses a concrete state that meets them. Each test's source is the rule that it names.
-/
namespace Sys2Proof.Tests
set_option Elab.async false
open Sys2Proof Sys2Proof.Machine Sys2Proof.Claims

/-! ### States -/

/-- Sequencer 0 runs a task of launch 0, which holds the whole mesh. -/
def s0 : State := State.reset.placeSeq 0
def withReg (s : State) (r : Reg) (v : Word) : State := s.setCur (s.cur.wr r v)
def withCur (s : State) (f : Seq → Seq) : State := s.setCur (f s.cur)
def withLaunch (s : State) (f : Launch → Launch) : State := s.setLaunch 0 (f Launch.placed)
/-- A word of local memory of sequencer 0. -/
def withWord (s : State) (off v : Nat) : State := s.storeNat (localLoc 0 off) 8 v
/-- g2 holds the address of byte 4096 of local memory, which holds 0xFFFFFFFFFFFFFFFE; g3 holds 7. -/
def sMem : State := withReg (withReg (withWord s0 4096 0xFFFFFFFFFFFFFFFE) 2 0x4000000000001000) 3 7
def q (s : State) (i : Instr) : State := match exec i s with | .next t => t | _ => s

/-! ### Sequencer: results -/

theorem test_add_wraps : ((q (withReg (withReg s0 1 0xFFFFFFFFFFFFFFFF) 2 1) (.add 5 1 2)).cur.rd 5) = 0 := by decide
theorem test_add_g0 : ((q (withReg s0 1 9) (.add 0 1 1)).cur.rd 0) = 0 := by decide
/-- R326: DIV g6, g6, g0 leaves all ones in g6 with IDZ set. -/
theorem test_div_zero : ((q (withReg s0 6 5) (.div 6 6 0)).cur.rd 6, (q (withReg s0 6 5) (.div 6 6 0)).cur.sr) =
    (0xFFFFFFFFFFFFFFFF, 0x20) := by decide
theorem test_div_least : ((q (withReg (withReg s0 1 0x8000000000000000) 2 0xFFFFFFFFFFFFFFFF) (.div 5 1 2)).cur.rd 5) =
    0x8000000000000000 := by decide
theorem test_rem_sign : ((q (withReg (withReg s0 1 0xFFFFFFFFFFFFFFF9) 2 3) (.rem 5 1 2)).cur.rd 5) = 0xFFFFFFFFFFFFFFFF := by decide
theorem test_mulh_floor : ((q (withReg (withReg s0 1 0xFFFFFFFFFFFFFFFF) 2 1) (.mulh 5 1 2)).cur.rd 5) = 0xFFFFFFFFFFFFFFFF := by decide
theorem test_sra_mod64 : ((q (withReg (withReg s0 1 0x8000000000000000) 2 65) (.sra 5 1 2)).cur.rd 5) = 0xC000000000000000 := by decide
theorem test_lih : ((q (withReg s0 1 0x1234) (.lih 5 1 0xABCD)).cur.rd 5) = 0x1234ABCD := by decide
/-- R328: finite / 0 gives infinity with DZ (bit 1 of SR). -/
theorem test_fdivs_zero : ((q (withReg s0 1 0x3F800000) (.fdivs 5 1 0)).cur.rd 5, (q (withReg s0 1 0x3F800000) (.fdivs 5 1 0)).cur.sr) =
    (0x7F800000, 2) := by decide
theorem test_jalr_same : ((q (withReg s0 1 0x1000) (.jalr 1 1 0xFFFC)).cur.pc, (q (withReg s0 1 0x1000) (.jalr 1 1 0xFFFC)).cur.rd 1) =
    (0xFFC, 516) := by decide
theorem test_blt_signed : ((q (withReg s0 1 0xFFFFFFFFFFFFFFFF) (.blt 1 0 2)).cur.pc, (q (withReg s0 1 0xFFFFFFFFFFFFFFFF) (.bltu 1 0 2)).cur.pc) =
    (520, 516) := by decide
theorem test_ldb_zero_extends : ((q sMem (.ldb 5 2 { ord := 0, sco := 0, off := 1 })).cur.rd 5) = 0xFF := by decide
theorem test_sth : memNat (q sMem (.sth 3 2 { ord := 0, sco := 0, off := 2 })).mem (localLoc 0 4096) 8 = 0xFFFFFFFF0007FFFE := by decide
theorem test_amoadd_word : ((q sMem (.amoadd 5 2 3 { sco := 0, ord := 0, u := false, sz := false })).cur.rd 5,
    memNat (q sMem (.amoadd 5 2 3 { sco := 0, ord := 0, u := false, sz := false })).mem (localLoc 0 4096) 8) =
    (0xFFFFFFFE, 0xFFFFFFFF00000005) := by decide
theorem test_trap_resumes_behind : (q s0 (.trap 9)).cur.stop = some { cause := .seqTrap, resume := 516 } := by decide

/-! ### Hypotheses of the statements: sequencer words, memory and control -/

theorem meets_IntegerInstructionResults : intResult (.rem 5 1 2) s0.cur.rd = some (5, 0) := by decide
theorem meets_FloatInstructionResults : (fpResultOf (.fcvtsi 5 1) s0.cur.rd).isSome = true := by decide
theorem meets_BranchAndJumpTargets : goesTo (.beq 1 2 0x8000) s0.cur = some (s0.cur.pc - 0x20000, none) := by decide
theorem meets_LoadResults : (loadForm (.ldd 5 2 { ord := 0, sco := 0, off := 0 })).isSome = true ∧
    Reaches sMem .read (sMem.cur.rd 2 + 0) 8 (localLoc 0 4096) [] ∧ sMem.dataError (localLoc 0 4096) 8 = none :=
  ⟨rfl, rfl, by decide⟩
theorem meets_StatusBranch : Reaches sMem .read (sMem.cur.rd 2) 8 (localLoc 0 4096) [] ∧
    sMem.dataError (localLoc 0 4096) 8 = none := ⟨rfl, by decide⟩
theorem meets_StoreResults : (storeForm (.std 5 2 { ord := 2, sco := 4, off := 8 })).isSome = true ∧
    Memory.wf sMem.mem = true ∧ Reaches sMem .write (sMem.cur.rd 2 + 8) 8 (localLoc 0 4104) [] := ⟨rfl, by decide, rfl⟩
theorem meets_AtomicResults : (amoForm (.amocas 5 2 3 { sco := 4, ord := 3, u := false, sz := true })).isSome = true ∧
    Memory.wf sMem.mem = true ∧ Reaches sMem .atomic (sMem.cur.rd 2) 8 (localLoc 0 4096) [] ∧
    sMem.dataError (localLoc 0 4096) 8 = none := ⟨rfl, by decide, rfl, by decide⟩
theorem meets_MisalignedAccessStops : sMem.checkPath (sMem.cur.rd 2 + 1) = none ∧ (sMem.cur.rd 2 + 1).toNat % 2 ≠ 0 ∧
    loadForm (.ldh 5 2 { ord := 0, sco := 0, off := 1 }) = some (5, 2, { ord := 0, sco := 0, off := 1 }, 2) := by decide
/-- A host address without a context, a register, a peer without a domain, and an island that is being repartitioned. -/
theorem meets_OtherAccesses :
    let at_ (s : State) (a : Word) := (s.check { ctx := some 0, core := true } 32 s.cur.utlb .read a 8).1
    let dom : State := { s0 with ctl := { s0.ctl with domid := 0x41 },
                                 net := { s0.net with ports := [(3, { Port.reset with up := true, peer := 2 })], routes := [(2, 19)] } }
    let part : State := s0.setIsland 0 { s0.island 0 with busy := true }
    at_ s0 0x7000000000000000 = .bad .xltNoContext ∧ at_ s0 0x5000000000000000 = .ok (.reg 0) ∧
      at_ s0 0x6020000000001000 = .ok (.peer 2 0x1000) ∧ s0.domain = false ∧ dom.domain = true ∧ dom.pkg ≠ 2 ∧
      dom.routeTo 2 = some 3 ∧ dom.routeTo 4 = none ∧ at_ part 0x1000000000000000 = .wait ∧
      accessForm (.ldd 5 2 { ord := 0, sco := 0, off := 0 }) sMem.cur = some (.read, 0x4000000000001000, 8) := by decide
/-- A host page that context 0 maps stands in the micro-TLB of the sequencer. -/
theorem meets_OtherAccesses_host :
    let s := withCur s0 (fun c => { c with utlb := [{ ctx := 0, host := true, va := 0x10000, log2 := 16, base := 0x50000, rd := true,
                                                      wr := true, at_ := true }] })
    s.check { ctx := some 0, core := true } 32 s.cur.utlb .read 0x7000000000010008 8 = (.ok (.host 0x50008), s.cur.utlb) := by decide

def sBar : State := withCur s0 (fun c => { c with barriers := [(3, { Barrier.reset with init := true, rem := 1, count := 1 })] })
/-- One operand of each instruction that SEQ_BAD_OPERAND forbids, at the edge of its range. -/
theorem meets_BadOperandsStop : badOperand (withReg s0 1 0x10000000000) (.wdog 1) ∧ badOperand (withReg s0 1 0x40000) (.sbind 5 1 false 0) ∧
    badOperand (withReg s0 1 0x40000) (.scancel 5 1) ∧ badOperand (withReg s0 1 32) (.cfgld 5 1 0) ∧
    badOperand (withCur s0 (fun c => { c with nch := 4 })) (.reconf 5 4) ∧ badOperand (withReg s0 1 16) (.copy 5 1 0) ∧
    badOperand (withReg s0 1 0x2000000000000000) (.coll 5 1 0) ∧ badOperand (withReg s0 1 0x100000000) (.barinit 1 0) ∧
    badOperand (withReg s0 1 0x100000000) (.barrive 1 0) ∧ badOperand (withReg s0 1 0x4000) (.barbind 1 0) ∧
    badOperand s0 (.chpost 5 29 true 0) ∧ badOperand (withReg s0 5 32) (.chpost 5 1 false 0) := by
  simp only [badOperand]
  decide
theorem meets_TrapAndIllegalStops : ¬ csrListed 0x0B ∧ ¬ csrListed 0x12 ∧ ¬ csrListed 0x1B := by unfold csrListed; decide
theorem meets_ControlRegisterReads : csrListed 0x1A ∧ csrListed 0 ∧ (0x1A : Nat) ≠ 1 := by unfold csrListed; decide
theorem meets_TimebaseReads : NotRecorded s0 := by
  intro k l h1 h2
  have h : some 0 = some k := h1
  cases h
  have h' : some Launch.placed = some l := h2
  cases h'
  rfl
theorem meets_WatchdogAndTaskEnd : ((withReg s0 1 0xFFFFFFFFFF).cur.rd 1).toNat < 2 ^ 40 := by decide
theorem meets_ErrorReturn :
    (withCur s0 (fun c => { c with msginfo := BitVec.ofNat _ (2 ^ 14 * Cause.seqNoHandler.code) })).cur.msginfo.toNat / 2 ^ 14 % 512 =
      Cause.seqNoHandler.code ∧ s0.cur.msginfo.toNat / 2 ^ 14 % 512 ≠ Cause.seqNoHandler.code := by decide
theorem meets_DescriptorRegisterWrites : (15 : Reg).toNat < 16 ∧ (8 : BitVec 8).toNat ≤ 8 := by decide
theorem meets_Steers : Steers s0 0 Launch.placed := ⟨rfl, rfl⟩

/-! ### Hypotheses: streams, configuration, copies, barriers, channels and events of a sequencer -/

/-- Slot 0 of tile 0 is MUL of R96's example, so that target 0 is one of its inputs. -/
def sSlot : State := State.reset.placeSlot 0x0AA3FE04 0x00C00000
/-- Sequencer 0 steers the launch of `sSlot`. -/
def sBoth : State := (sSlot.placeSeq 0).setTile 0 (sSlot.tile 0)
/-- A specification of an affine read of 2 elements of 8 bytes at island scratch, to target 0 of tile 0. -/
def busyPctx (st : PState) : State := s0.setPctx 0 { PCtx.reset with st := st, launch := some 0 }
def specRead : Nat := 0x1000000000000000 + 3 * 2 ^ 68 + 1 * 2 ^ 73 + 2 * 2 ^ 128 + 8 * 2 ^ 152
/-- The launch of `sBoth` with two more slots that feed target 0, and with none. -/
theorem meets_StreamBinding :
    (¬ badOperand s0 (.sbind 5 1 false 0) ∧ (s0.pctx 0).st = .free ∧ s0.specBad Launch.placed false 0 0 0 = true) ∧
    ((busyPctx .running).pctx 0).st ≠ .free ∧ Launch.placed.shadow ≠ .loaded ∧
    sBoth.specBad Launch.placed false 0 0 specRead = false ∧ sBoth.faninBad 0 Launch.placed false 0 0 specRead = false ∧
    (sBoth.setPctx 1 { PCtx.reset with st := .running, launch := some 0, spec := BitVec.ofNat 512 specRead }).faninBad 0
      Launch.placed false 0 0 specRead = true := by
  refine ⟨⟨by simp only [badOperand]; decide, ?_, ?_⟩, ?_, ?_,
    ?_, ?_, ?_⟩ <;> decide +kernel
theorem meets_StreamCancel : ¬ badOperand s0 (.scancel 5 0) ∧ (s0.pctx 0).launch = none ∧
    ((busyPctx .running).pctx 0).st = .running ∧ ((busyPctx .running).pctx 0).launch = (busyPctx .running).cur.launch ∧
    ((busyPctx .stopping).pctx 0).cancelled = false := by
  refine ⟨by simp only [badOperand]; decide, ?_, ?_, ?_, ?_⟩ <;> decide +kernel
theorem meets_ConfigurationInstructions : ¬ badOperand s0 (.cfgld 5 0 63) ∧ ¬ badOperand s0 (.reconf 5 63) ∧
    ¬ badOperand s0 (.drain 5 63) ∧ s0.cur.drainWatch = none ∧ Launch.placed.shadow = .none ∧ Launch.placed.reconf = none ∧
    (∀ f : Launch → Launch, Steers (withLaunch s0 f) 0 (f Launch.placed)) := by
  refine ⟨by simp only [badOperand]; decide, by simp only [badOperand]; decide, by simp only [badOperand]; decide, rfl, rfl, rfl,
    fun _ => ⟨rfl, rfl⟩⟩
/-- A descriptor in local memory: 64 bytes from local memory to local memory. -/
def sCopy : State := withReg (withWord (withWord (withWord s0 4096 0x4000000000001100) 4104 0x4000000000001200) 4112 64) 2 0x4000000000001000
theorem meets_CopyAccepted : ¬ badOperand sCopy (.copy 5 2 0) ∧ sCopy.copies = [] ∧
    (match sCopy.readDesc 0 (sCopy.cur.rd 2) 4 with
     | .bytes bs => (match sCopy.copyPlan 0 (leNat bs) with | .ok _ => true | _ => false)
     | _ => false) = true := by
  refine ⟨by simp only [badOperand]; decide, by decide +kernel, by decide +kernel⟩
theorem meets_CollectiveAccepted : ¬ badOperand sMem (.coll 5 2 0) ∧ sMem.net.colls = [] ∧
    (match sMem.readDesc 0 (sMem.cur.rd 2) 8 with
     | .bytes bs => sMem.collBad Launch.placed (leNat bs)
     | _ => false) = true := by
  refine ⟨by simp only [badOperand]; decide, by decide +kernel, by decide +kernel⟩
theorem meets_BarrierSetup : s0.cur.nb.toNat ≤ (96 : BitVec 8).toNat ∧ (95 : BitVec 8).toNat < s0.cur.nb.toNat ∧
    ¬ badOperand (withReg s0 1 0x3F00000001) (.barinit 1 95) ∧ ((withReg s0 1 1).cur.barrier 95).span = false ∧
    ((withCur s0 (fun c => { c with barriers := [(95, { Barrier.reset with span := true })] })).cur.barrier 95).span = true := by
  refine ⟨by decide +kernel, by decide +kernel, by simp only [badOperand]; decide, by decide +kernel, by decide +kernel⟩
theorem meets_BarrierArrival : ¬ badOperand sBar (.barrive 0 3) ∧ (sBar.cur.barrier 3).init = true ∧ (s0.cur.barrier 3).init = false ∧
    0 < (sBar.cur.barrier 3).rem.toNat ∧ (sBar.cur.barrier 3).rem.toNat ≤ (sBar.cur.barrier 3).count.toNat := by
  refine ⟨by simp only [badOperand]; decide, ?_, ?_, ?_, ?_⟩ <;> decide +kernel
theorem meets_SpanBinding : ¬ badOperand (withReg sBar 1 0x2007) (.barbind 1 3) ∧ ((withReg sBar 1 0x2007).cur.barrier 3).init = true ∧
    tabFind sBar.spans 7 = none ∧
    (let s : State := { withReg sBar 1 0x2007 with spans := [(7, { ctx := 0, m := 32, members := [], done := 0 })] }
     ∃ x, tabFind s.spans 7 = some x ∧ x.ctx = s.cur.ctxid.toNat ∧ x.m = 0x2007 / 2 ^ 8 ∧ x.members.length < x.m) := by
  refine ⟨by simp only [badOperand]; decide, by decide +kernel, by decide +kernel, _, rfl, by decide +kernel, by decide +kernel, by decide +kernel⟩
def fullChannel : State := withCur s0 (fun c => { c with queues := [(2, List.replicate 16 (hardMsg 2 0 0 0 0 0 0))] })
theorem meets_ChannelPost : ¬ badOperand s0 (.chpost 5 28 true 2) ∧ (s0.seq 0).onChannel 2 < 16 ∧
    16 ≤ (fullChannel.seq 0).onChannel 2 ∧ s0.seqCtx 31 ≠ some s0.cur.ctxid.toNat ∧ s0.seqCtx 0 = some s0.cur.ctxid.toNat := by
  refine ⟨by simp only [badOperand]; decide, ?_, ?_, ?_, ?_⟩ <;> decide +kernel
theorem meets_HandlerExchange : ¬ badOperand s0 (.chbind 5 1 63) ∧ Memory.wf s0.mem = true := by
  refine ⟨by simp only [badOperand]; decide, by decide +kernel⟩
/-- Tile 5 of the launch is an event bank with horizon 10. -/
def sBank : State := s0.setTile 5 { Tile.reset with plane := { Plane.empty with mode := 2 }, launch := some 0,
                                                    events := { EventBank.reset with h := 10 } }
/-- A good event for tile 5 at its horizon, one below it, one of kind 3 and one with a group; and a full queue. -/
theorem meets_EventSend :
    let e (stamp kind group : Nat) : Word := BitVec.ofNat 64 (stamp * 2 ^ 32 + 5 * 2 ^ 21 + kind * 2 ^ 7 + group)
    let full := sBank.setBank 5 { sBank.bank 5 with queue := List.replicate 512 (e 10 0 0) }
    s0.eventBank Launch.placed 5 = false ∧ sBank.eventBank Launch.placed 5 = true ∧ evTile (e 10 0 0) = 5 ∧
      evStamp (e 10 0 0) = (sBank.bank 5).h.toNat ∧ evStamp (e 9 0 0) < (sBank.bank 5).h.toNat ∧ evKind (e 10 3 0) = 3 ∧
      evKind (e 10 1 1) ≠ 0 ∧ evGroup (e 10 1 1) ≠ 0 ∧ evKind (e 10 0 1) = 0 ∧ (sBank.bank 5).queue.length < 512 ∧
      512 ≤ (full.bank 5).queue.length ∧ full.eventBank Launch.placed 5 = true := by decide +kernel
theorem meets_HorizonWrite :
    let top := Launch.placed.topLevel
    let c := sBank.startCopy 0 (0x400000 + (0x2000000000028000 + 32 * 2 ^ 64) * 2 ^ 64) 0 sBank.cur.launch sBank.curSeq none none 0
    sBank.copiesInto 5 = false ∧ c.copiesInto 5 = true ∧ c.copiesInto 4 = false ∧ c.eventBank Launch.placed 5 = true ∧
      5 ∈ Launch.placed.subgroup 0 0 ∧
    (let v := top * 2 ^ 32 + (2 ^ top - 1) * 2 ^ 36
     v < 2 ^ 47 ∧ fieldOf v 32 4 ≤ top ∧ fieldOf v 36 11 < 2 ^ fieldOf v 32 4) ∧
    top < fieldOf (15 * 2 ^ 32) 32 4 ∧ 2 ^ fieldOf (2 ^ 36) 32 4 ≤ fieldOf (2 ^ 36) 36 11 := by decide +kernel

/-! ### Slots -/

def slotO (opc : BitVec 7) (w : BitVec 3) (m : BitVec 4) (ext : Word32) : SlotOp × BitVec 7 := ({ w := w, m := m, t1 := 0x1FF, t0 := 4, ext := ext }, opc)
/-- Slot 0 of tile 0 holds an operator whose ports hold the listed tokens; its result goes to port a of slot 1. -/
def slotIn (o : SlotOp × BitVec 7) (inputs : List (Nat × List Token)) : State :=
  let s := (State.reset.placeSlot (fmtSlot o.2 o.1) o.1.ext).atElement 0 0
  { s with arcs := inputs.map (fun p => (p.1, { Arc.reset with queue := p.2 })) }
def dat (v : Word) : Token := Token.mk' v false
def poisoned (v : Word) : Token := Token.mk' v true
/-- The tokens that have been sent to target `g` of tile 0. -/
def sentTo (s : State) (g : Nat) : List Token := (s.arcAt 0 g).queue ++ (s.arcAt 0 g).transit.map (fun p => p.2)

def oMul := slotO 0x05 2 8 0x00C00000
/-- R96's example: port b keeps its token for three more firings. -/
theorem test_mul_sticky :
    let s := slotIn oMul [(0, [dat 6, dat 7]), (1, [dat 5])]
    let t := q s (.mulOperator oMul.1)
    (sentTo t 4, (t.arcAt 0 0).queue, (t.arcAt 0 1).queue, t.slotSt.resB) = ([dat 30], [dat 7], [], some (dat 5, 3)) := by decide +kernel
theorem test_mul_poison :
    sentTo (q (slotIn oMul [(0, [poisoned 6]), (1, [dat 5])]) (.mulOperator oMul.1)) 4 = [poisoned 30] := by decide +kernel
theorem test_mul_end :
    let t := q (slotIn oMul [(0, [Token.eos]), (1, [Token.eos])]) (.mulOperator oMul.1)
    (sentTo t 4, t.slotSt.ended, (t.arcAt 0 0).queue) = ([Token.eos], true, []) := by decide +kernel
def oAdds := slotO 0x03 0 0 0
/-- INT8: 127 + 1 clamps and sets SAT. -/
theorem test_adds_clamps :
    let t := q (slotIn oAdds [(0, [dat 0x7F]), (1, [dat 1])]) (.adds oAdds.1)
    ((sentTo t 4).map Token.data, t.curT.flags != 0) = ([0x7F], true) := by decide +kernel
def oFadd := slotO 0x20 1 0 0
/-- BF16: 1 + 2 = 3. -/
theorem test_fadd_bf16 : (sentTo (q (slotIn oFadd [(0, [dat 0x3F80]), (1, [dat 0x4000])]) (.fadd oFadd.1)) 4).map Token.data =
    [0x4040] := by decide +kernel
def oSel := slotO 0x1F 3 0 0

theorem meets_SlotIntegerResults : (integerSlot (.mulOperator oMul.1)).isSome = true ∧
    CanFire (slotIn oMul [(0, [dat 6]), (1, [dat 5])]) 0x05 oMul.1 (sliceCount oMul.1) := by
  unfold CanFire; decide +kernel
theorem meets_SlotFloatResults : (floatSlot (.fadd oFadd.1)).isSome = true ∧
    CanFire (slotIn oFadd [(0, [dat 6]), (1, [dat 5])]) 0x20 oFadd.1 (2 * sliceCount oFadd.1) := by
  unfold CanFire; decide +kernel
theorem meets_SlotFiringFrame : Memory.wf (slotIn oMul []).mem = true ∧ (slotIn oMul []).curSlot < 64 := by decide +kernel
theorem meets_SlotEndAction : plainEnd (.mulOperator oMul.1) = some (0x05, oMul.1) ∧
    CanEnd (slotIn oMul [(0, [Token.eos]), (1, [Token.eos])]) 0x05 oMul.1 0 0 none := by
  refine ⟨rfl, ?_, ?_, ?_, ?_, fun b h => nomatch h⟩ <;> decide +kernel
theorem meets_SlotEosMismatch :
    let s := slotIn oMul [(0, [dat 1]), (1, [Token.eos])]
    s.slotLive = true ∧ s.allData (slotPorts 5 oMul.1) = false ∧ s.allEos (slotPorts 5 oMul.1) = false ∧
      s.eosMismatch (slotPorts 5 oMul.1) = some 1 := by decide +kernel

/-! ### Quantising, joining and accumulating slots -/

def oQcvt := slotO 0x58 0 0 0
def oQside := slotO 0x59 0 8 0x00000003
theorem meets_SlotQuantiseResults :
    CanFire (slotIn oQcvt [(0, [dat 1]), (1, [dat 2])]) 0x58 oQcvt.1 (2 * sliceCount oQcvt.1) ∧
    (let o := slotO 0x5C 0 0 0
     (packForm (.mxq o.1)).isSome = true ∧ CanFire (slotIn o [(0, [dat 1]), (1, [dat 255])]) 0x5C o.1 (2 * sliceCount o.1)) ∧
    (let o := slotO 0x5B 4 0 0
     CanFire (slotIn o [(0, [dat 1])]) 0x5B o.1 (2 * sliceCount o.1)) ∧
    (let o := slotO 0x5E 4 0 0
     CanFire (slotIn o [(0, [dat 1])]) 0x5E o.1 (2 * sliceCount o.1)) := by
  unfold CanFire; decide +kernel
theorem meets_SlotSideEntries :
    let s := slotIn oQside [(0, [dat 1]), (1, [dat 5])]
    s.slotLive = true ∧ s.allData (slotPorts 0x59 oQside.1) = true ∧ s.slotRoom oQside.1 2 0 = true ∧
      s.canPay (2 * sliceCount oQside.1) = true := by decide +kernel
def oJoin (mode : BitVec 2) (add : BitVec 1) := slotO 0x38 2 (0#1 ++ mode ++ add) 0
/-- R183: equal keys of an intersection add their values; a smaller key is dropped. -/
theorem test_join_adds :
    sentTo (q (slotIn (oJoin 0 1) [(0, [dat 0x00000002_3F800000]), (1, [dat 0x00000002_40000000])]) (.join (oJoin 0 1).1)) 4 =
      [dat 0x00000002_40400000] := by decide +kernel
theorem meets_SlotJoin :
    let ok (ka kb : Token) : Bool :=
      let s := slotIn (oJoin 0 0) [(0, [ka]), (1, [kb])]
      s.slotLive && s.head 0 == some ka && s.head 1 == some kb && !(ka.isEos && kb.isEos) && s.slotRoom (oJoin 0 0).1 1 1 &&
        s.canPay (sliceCount (oJoin 0 0).1)
    ok (dat 0x100000000) (dat 0) = true ∧ ok (dat 0) (dat 0x100000000) = true ∧ ok (dat 0) (dat 0) = true ∧
      ok Token.eos (dat 0) = true ∧ ok (dat 0) Token.eos = true := by decide +kernel
def oAcc := slotO 0x39 3 0 0
theorem meets_SlotLaneAccumulation : (laneForm (.acc oAcc.1)).isSome = true ∧
    CanFire (slotIn oAcc [(0, [dat 1])]) 0x39 oAcc.1 (sliceCount oAcc.1) ∧
    CanEnd (slotIn oAcc [(0, [Token.eos])]) 0x39 oAcc.1 1 1 (some (sliceCount oAcc.1)) := by
  refine ⟨by decide, by unfold CanFire; decide +kernel, ?_, ?_, ?_, ?_, fun b h => ?_⟩ <;> (try cases h) <;> decide +kernel
/-- R184: the accumulator leaves with the end of stream. -/
theorem test_acc_end :
    let s := q (slotIn oAcc [(0, [dat 5, Token.eos])]) (.acc oAcc.1)
    sentTo (q s (.acc oAcc.1)) 4 = [dat 5, Token.eos] := by decide +kernel
def oIota := slotO 0x3C 3 0 0
def oScan := slotO 0x3E 3 0 0
def oHalt := slotO 0x3F 0 0 0
theorem meets_SlotSequences :
    CanFire (slotIn oScan [(0, [dat 1])]) 0x3E oScan.1 (sliceCount oScan.1) ∧
    (let s := slotIn oIota [(0, [dat 2]), (1, [dat 9])]
     let t := q s (.iota oIota.1)
     s.slotSt.iota = none ∧ CanFire s 0x3C oIota.1 (sliceCount oIota.1) ∧ elementA s 0x3C oIota.1 = 2 ∧
       t.slotSt.iota = some (10, 1, false) ∧ t.slotLive = true ∧ t.slotRoom oIota.1 1 1 = true) ∧
    elementA (slotIn oIota [(0, [dat 0])]) 0x3C oIota.1 = 0 ∧
    (let s := slotIn oHalt [(0, [poisoned 2])]
     s.slotLive = true ∧ s.allData (slotPorts 0x3F oHalt.1) = true ∧ s.canPay 1 = true ∧ anyPoison s 0x3F oHalt.1 = true) := by
  unfold CanFire; decide +kernel

/-! ### Local memory operators and control operators -/

/-- Context 0 maps the first 2 GiB of its generic and host paths, with every permission, through tables at 1 MiB. -/
def mapped (s : State) : State :=
  let s1 := (((s.storeNat (dpaLoc 0x100000) 8 0x110001).storeNat (dpaLoc 0x110000) 8 0x1F).storeNat (dpaLoc 0x120000) 8
    0x130001).storeNat (dpaLoc 0x130000) 8 0x1F
  (s1.storeNat (s1.ctxLoc 0) 8 0x100001).storeNat (s1.ctxLoc 0 + 8) 8 0x120001
theorem test_translate : (match (mapped s0).translate 0 false 0x12345678 with | .ok e => e.base + 0x12345678 % 2 ^ e.log2 | .error _ => 0) =
    0x12345678 := by decide +kernel

/-- OWN 1, PRED 62, SUCC 62, offset 16. -/
def oLd := slotO 0x40 3 9 (1#6 ++ 62#6 ++ 62#6 ++ 0#2 ++ 16#12)
def oSt := slotO 0x41 0 8 (1#6 ++ 62#6 ++ 62#6 ++ 0#2 ++ 17#12)
def oLdfe := slotO 0x42 3 8 (1#6 ++ 62#6 ++ 62#6 ++ 2#2 ++ 16#12)
def oStfe := slotO 0x43 3 8 (1#6 ++ 62#6 ++ 62#6 ++ 2#2 ++ 16#12)
def sLd := slotIn oLd [(0, [dat 0])]
def sSt := slotIn oSt [(0, [poisoned 5])]
theorem meets_MemoryOperatorFirings : (memoryForm (.ld oLd.1)).isSome = true ∧ sLd.slotLive = true ∧
    sLd.allData (slotPorts 0x40 oLd.1) = true ∧ sLd.canPay 4 = true ∧ tabGet sLd.curT.reqs 0 [] = [] ∧
    sLd.slotRoom oLd.1 1 1 = true ∧ (slotPorts 0x41 oSt.1).find? (fun p => (sSt.operand 0x41 oSt.1 p).psn) = some 0 ∧
    (memoryForm (.st oSt.1)).isSome = true ∧ sSt.allData (slotPorts 0x41 oSt.1) = true := by decide +kernel
theorem meets_MemoryOperatorEnd :
    let s := slotIn oLd [(0, [Token.eos])]
    memoryEnds s 0x40 oLd.1 ∧ tabGet s.curT.reqs 0 [] = [] ∧
      tabGet (s.setTile 0 { s.curT with reqs := [(0, [{ a := dat 0, b := dat 0, psn := false }])] }).curT.reqs 0 [] ≠ [] := by
  unfold memoryEnds; decide +kernel
/-- The load's request performs and puts the bytes at its offset on its target. -/
theorem test_ld_performs :
    let s := (q sLd (.ld oLd.1)).storeNat (scratchLoc 0 16) 8 0xFFFFFFFFFFFFFF80
    sentTo (q s (.localMemoryRequestPerform 0)) 4 = [dat 0xFFFFFFFFFFFFFF80] := by decide +kernel
theorem meets_MemoryRequestsPerform :
    let s := q sLd (.ld oLd.1)
    let e := q (slotIn oLdfe [(0, [dat 0])]) (.ldfe oLdfe.1)
    let f := (q (slotIn oStfe [(0, [dat 0]), (1, [dat 1])]) (.stfe oStfe.1)).setFull 0 1 true
    (s.tileLaunch 0).isSome = true ∧ Memory.wf s.mem = true ∧ ((s.tile 0).nextReq.map (fun x => x.2.1)) = some 0x40 ∧
      ((e.tile 0).nextReq.map (fun x => x.2.1)) = some 0x42 ∧ e.isFull 0 (offsetOf oLdfe.1 / 16) = false ∧
      ((f.tile 0).nextReq.map (fun x => x.2.1)) = some 0x43 ∧ feTwo oStfe.1 = true ∧ f.isFull 0 1 = true := by decide +kernel

def oGate := slotO 0x68 3 0 0
def sGate (a c : Token) : State := slotIn oGate [(0, [a]), (2, [c])]
/-- R213: a true close predicate puts an end of stream behind the token. -/
theorem test_eosg_closes :
    let t := q (sGate (dat 5) (dat 1)) (.eosg oGate.1)
    (sentTo t 4, t.slotSt.closed) = ([dat 5, Token.eos], true) := by decide +kernel
theorem meets_EndOfStreamGate : (sGate (dat 5) (dat 1)).slotLive = true ∧ (sGate (dat 5) (dat 1)).slotSt.closed = false ∧
    (sGate (dat 5) (dat 1)).canPay 4 = true ∧ (sGate (dat 5) (dat 1)).slotRoom oGate.1 2 2 = true ∧
    (sGate Token.eos (dat 1)).head 0 = some Token.eos ∧ (sGate (dat 1) Token.eos).head 2 = some Token.eos ∧
    (sGate (dat 1) (poisoned 1)).head 2 = some (poisoned 1) ∧ (sGate Token.eos Token.eos).slotRoom oGate.1 1 1 = true := by
  decide +kernel
def oTrap := slotO 0x69 3 8 7
def oBrk := slotO 0x6A 3 8 0xFFFF
def sTrap (c : Token) : State := slotIn oTrap [(0, [dat 5]), (2, [c])]
def sBrk : State :=
  let s := slotIn oBrk [(0, [dat 5])]
  s.setLaunch 0 { Launch.placed with debug := true }
theorem meets_TrapAndBreakSlots : CanFire (sTrap (dat 1)) 0x69 oTrap.1 4 ∧ (sTrap (dat 1)).slotSt.held = false ∧
    CanFire (sTrap (dat 0)) 0x69 oTrap.1 4 ∧ CanFire (sTrap (poisoned 1)) 0x69 oTrap.1 4 ∧
    (let t := q (sTrap (dat 1)) (.trapOperator oTrap.1)
     let u : State := q { t with records := [] } (.release 0)
     let v := (q (t.placeSeq 0) (.release 0)).setTile 0 ((q (t.placeSeq 0) (.release 0)).tile 0)
     t.slotSt.held = true ∧ u.records = [] ∧ v.slotSt.released = true ∧ CanFire t 0x69 oTrap.1 4) ∧
    CanFire sBrk 0x6A oBrk.1 4 ∧ (sBrk.tileLaunch 0).any Launch.debug = true ∧ (oBrk.1.ext.toNat % 65536) = 0xFFFF ∧
    ((slotIn oBrk []).tileLaunch 0).any Launch.debug = false := by
  unfold CanFire; decide +kernel
def oTime := slotO 0x6B 3 0 0
def oPcnt := slotO 0x6C 3 8 5
def oMstat := slotO 0x55 3 0 0
def oSeed := slotO 0x6D 2 0 0
theorem meets_ReadAndSeedSlots : CanFire (slotIn oTime [(0, [dat 1])]) 0x6B oTime.1 4 ∧ CanFire (slotIn oPcnt [(0, [dat 1])]) 0x6C oPcnt.1 4 ∧
    CanFire (slotIn oMstat [(0, [dat 1])]) 0x55 oMstat.1 4 ∧ CanFire (slotIn oSeed [(0, [dat 1])]) 0x6D oSeed.1 4 ∧
    (slotIn oSeed [(0, [poisoned 1])]).operand 0x6D oSeed.1 0 = poisoned 1 ∧ CanFire (slotIn oSeed [(0, [poisoned 1])]) 0x6D oSeed.1 4 ∧
    (slotIn oTime []).tileLaunch 0 = some Launch.placed ∧ Launch.placed.recMode = 0 := by
  unfold CanFire; decide +kernel

/-! ### Tokens and route records -/

def recOf (dst dst2 : BitVec 9) (param : BitVec 8) : RecOp := { dx := 0, dy := 0, dst := dst, dst2 := dst2, param := param }
/-- Record 0 of tile 0 has operation `op`, and its inputs a, b and c hold the listed tokens. -/
def recIn (op : BitVec 4) (r : RecOp) (inputs : List (Nat × List Token)) : State :=
  let s := (State.reset.placeSlot 0x0AA3FE04 0x00C00000).atElement 0 0
  let t := s.tile 0
  { s.setTile 0 { t with plane := { t.plane with recs := [fmtRec op r] } } with
    arcs := inputs.map (fun p => (256 + p.1, { Arc.reset with queue := p.2 })) }
def rPass := recOf 0 0x1FF 0
theorem test_pass : sentTo (q (recIn 0 rPass [(0, [poisoned 5])]) (.pass rPass)) 0 = [poisoned 5] := by decide +kernel
def rSteer := recOf 0 1 0
/-- R197: a false predicate sends the token to DST2. -/
theorem test_steer_false :
    let t := q (recIn 1 rSteer [(0, [dat 5]), (2, [dat 0])]) (.steer rSteer)
    (sentTo t 0, sentTo t 1) = ([], [dat 5]) := by decide +kernel

theorem meets_TokenPlacement :
    let s := mapped (recIn 0 rPass [])
    let r : Ring := { base := 0x200000, slots := 256, wr := 1, rd := 0 }
    let full := s.setArcAt 0 0 { Arc.reset with ring := some r }
    Memory.wf s.mem = true ∧ (s.arcAt 0 0).ring = none ∧ full.ringPlace 0 r 1 .write = some (dpaLoc 0x200010) ∧ r.wr ≠ r.rd ∧
      (recIn 0 rPass []).ringPlace 0 r 1 .write = none ∧
      ((s.setArcAt 0 0 { Arc.reset with ring := some { r with wr := 0 } }).arcAt 0 0).queue.length < 64 := by decide +kernel
theorem meets_RouteForwarding :
    let s := recIn 1 rSteer [(0, [dat 5]), (2, [dat 1])]
    let e := recIn 1 rSteer [(0, [Token.eos]), (1, [Token.eos]), (2, [Token.eos])]
    s.recLive = true ∧ s.recHead 0 = some (dat 5) ∧ isPredicate (dat 1) true ∧ isPredicate (dat 0) false ∧
      s.recRoom rSteer rSteer.dst = true ∧ s.recRoom rSteer rSteer.dst2 = true ∧ e.recHead 0 = some Token.eos ∧
      e.recHead 1 = some Token.eos ∧ e.recHead 2 = some Token.eos := by
  unfold isPredicate; decide +kernel
def rInvar := recOf 0 0x1FF 1
def phased (s : State) (p : RecPhase) (k : Option Token) : State := s.setRecSt { s.recSt with phase := p, held := k }
theorem meets_RouteLoops :
    let s := recIn 3 rPass [(0, [dat 1]), (1, [dat 2]), (2, [dat 1])]
    let z := recIn 3 rPass [(0, [Token.eos]), (1, [Token.eos]), (2, [Token.eos])]
    s.recLive = true ∧ s.recSt.phase = .init ∧ (phased s .loop none).recSt.phase = .loop ∧
      (phased z .ending none).recSt.phase = .ending ∧ s.recHead 1 = some (dat 2) ∧ s.recHead 2 = some (dat 1) ∧
      s.recSt.held = none ∧ z.recHead (repeatInput rInvar) = some Token.eos ∧ repeatInput rPass = 2 ∧
      (phased s .init (some (dat 3))).recSt.held = some (dat 3) ∧ s.recRoom rPass 0 = true := by decide +kernel
def rEdge := recOf 3 0x1FF 0
/-- A write stream of port context 3 whose data comes from record 0 of tile 0. -/
def sEdge : State :=
  let v : Nat := 1 * 2 ^ 64 + 3 * 2 ^ 68 + 1 * 2 ^ 73 + 256 * 2 ^ 78
  (recIn 7 rEdge [(0, [dat 5])]).setPctx 3 { PCtx.reset with st := .running, spec := BitVec.ofNat 512 v, launch := some 0 }
theorem meets_RouteBuffersAndEdges :
    let d := recIn 5 (recOf 0 0x1FF 2) [(0, [dat 5])]
    d.recLive = true ∧ d.recRoom rPass 0 = true ∧ d.recSt.buffer = none ∧
      ((d.setRecSt { d.recSt with buffer := some [] }).recSt.buffer = some []) ∧
      sEdge.recHead 0 = some (dat 5) ∧ sEdge.tileLaunch 0 = some Launch.placed ∧
      (sEdge.pctx 3).launch = sEdge.curT.launch ∧ (sEdge.pctx 3).st = .running ∧
      feedsInput (sEdge.pctx 3).spec.toNat 0 256 = some 0 ∧ (sEdge.pctx 3).inA.length < 2 ∧
      ((sEdge.seq 0).barrier 3).init = false := by decide +kernel
theorem meets_RouteRecordStops :
    let s (a b c : Token) := recIn 2 rPass [(0, [a]), (1, [b]), (2, [c])]
    (s (dat 1) (dat 1) (poisoned 1)).recHead 2 = some (poisoned 1) ∧ (s Token.eos (dat 1) (dat 1)).recHead 0 = some Token.eos ∧
      (s (dat 1) Token.eos (dat 0)).recHead 1 = some Token.eos ∧ (s (dat 1) (dat 1) Token.eos).recHead 2 = some Token.eos ∧
      (phased (s (dat 1) (dat 1) Token.eos) .loop (some (dat 2))).recSt.held = some (dat 2) ∧
      (s (dat 1) (dat 1) (dat 1)).recLive = true := by decide +kernel

/-! ### Matrix and event operators -/

def withMx (s : State) (f : Matrix → Matrix) : State := s.setMatrix 0 (f (s.tile 0).matrix)
/-- BF16 rows of one block: PDST set, 32 columns. -/
def oRow := slotO 0x50 1 8 0x13000000
/-- The same with a gate and partial rows from port b. -/
def oRowIn := slotO 0x50 1 8 0x5B000000
def sRow : State := withMx (slotIn oRow []) (fun m => { m with row := { RowBuf.empty with transfers := [0x3F80, 0] } })
theorem test_row_fires : ((q sRow (.mrow oRow.1)).tile 0).matrix.rows = 1 := by decide +kernel
theorem meets_MatrixRowFirings : rowForm (.mrow oRow.1) = some (0x50, oRow.1) ∧ sRow.slotLive = true ∧
    extPsrc oRow.1.ext = 0 ∧ extPdst oRow.1.ext = true ∧ extGate oRow.1.ext = false ∧ sRow.curT.matrix.row.transfers.length = rowNeed 0x50 oRow.1 ∧
    (sRow.rowGroup oRow.1).isSome = true ∧ sRow.weightHold = false ∧ sRow.canPay 4400 = true ∧ sRow.curT.matrix.outBuf = [] ∧
    sRow.curT.matrix.ending ≠ 1 ∧ extGate oRowIn.1.ext = true ∧ 2 ≤ extPsrc oRowIn.1.ext ∧
    (let s := slotIn oRowIn [(0, [dat 1]), (1, [dat 2])]
     s.head 0 = some (dat 1) ∧ s.head 1 = some (dat 2) ∧ s.curT.matrix.gate = false ∧ s.curT.matrix.partBuf.length < rowN oRowIn.1 / 2 ∧
       (slotIn oRowIn [(0, [poisoned 1])]).head 0 = some (poisoned 1)) ∧
    (let s := withMx sRow (fun m => { m with outBuf := [dat 1] })
     s.curT.matrix.outBuf = [dat 1] ∧ s.slotRoom oRow.1 1 1 = true) := by decide +kernel
theorem meets_MatrixColumnSums : 0 < rowN oRow.1 ∧ rowK oRow.1 ≤ 32 ∧ rowMx oRow.1 = false ∧ rowMx (slotO 0x50 4 8 0).1 = true := by
  decide +kernel
theorem meets_MatrixRowMovement :
    let s := withMx (slotIn oRow []) (fun m => { m with wide := [some (5, false)] })
    let e := withMx (slotIn oRow []) (fun m => { m with wide := [none] })
    let oN := slotO 0x50 1 8 0x33000000
    let n := withMx (slotIn oN []) (fun m => { m with northWide := [(0, false)] })
    let f0 := withMx (slotIn oRow []) (fun m => { m with row := { RowBuf.empty with fired := true } })
    let f := f0.setTile 1 { Tile.reset with launch := some 0 }
    (s.tile 0).plane.matrixSlot.map (fun x => x.1) = some 0 ∧ (s.tileLaunch 0).isSome = true ∧
      (s.tile 0).matrix.wide = [some (5, false)] ∧ (s.tile 0).matrix.row.transfers.length < rowNeed 0x50 oRow.1 ∧
      (e.tile 0).matrix.wide = [none] ∧ (e.tile 0).matrix.row.transfers = [] ∧ extPsrc oN.1.ext = 1 ∧
      rowN oN.1 / 32 ≤ (n.tile 0).matrix.northWide.length ∧ (n.tile 0).matrix.north.length < 2 ∧
      f.inRegion 0 (downChain 0) = some 1 ∧ (f.tile 0).matrix.row.fired = true ∧ (f.tile 1).matrix.row.transfers = [] := by decide +kernel
/-- START 8191, LENM1 0 of the data array. -/
def oMwld := slotO 0x52 3 8 (0#1 ++ 8191#13 ++ 0#13 ++ 0#5)
def oMwrd := slotO 0x53 3 8 (0#1 ++ 8191#13 ++ 0#13 ++ 0#5)
def oMclr := slotO 0x56 3 8 (1#1 ++ 4095#13 ++ 0#13 ++ 0#5)
def oMscl := slotO 0x54 0 0 0
/-- R236: the last unit of the data array is written. -/
theorem test_mwld_last : memNat (q (slotIn oMwld [(0, [dat 77])]) (.mwld oMwld.1)).mem (weightLoc 0 65528) 8 = 77 := by decide +kernel
theorem meets_WeightStoreOperators :
    let s := slotIn oMwld [(0, [dat 77])]
    let past := s.setSlotSt { s.slotSt with aux := 1 }
    Memory.wf s.mem = true ∧ s.slotLive = true ∧ s.allData [0] = true ∧ s.canPay 4 = true ∧ s.slotSt.aux ≤ extLenm1 oMwld.1.ext ∧
      extLenm1 oMwld.1.ext < past.slotSt.aux ∧ (slotIn oMwld [(0, [poisoned 7])]).operand 0x52 oMwld.1 0 = poisoned 7 ∧
      CanFire (slotIn oMwrd [(0, [dat 1])]) 0x53 oMwrd.1 4 ∧ CanFire (slotIn oMclr [(0, [dat 1])]) 0x56 oMclr.1 1024 ∧
      (slotIn oMclr [(0, [poisoned 1])]).operand 0x56 oMclr.1 0 = poisoned 1 ∧ CanFire (slotIn oMscl [(0, [dat 0x87])]) 0x54 oMscl.1 4 ∧
      (slotIn oMscl [(0, [dat 0x87])]).allEos [0] = false ∧ (slotIn oMscl []).curT.matrix.groups.length < 2 ∧
      (slotIn oMwld [(0, [Token.eos])]).allEos (slotPorts 0x52 oMwld.1) = true ∧
      (slotIn oMwld [(0, [Token.eos])]).slotRoom oMwld.1 2 2 = true := by
  unfold CanFire; decide +kernel

/-- The tile is an event bank with the operator in slot 0, at horizon `h`. -/
def evIn (o : SlotOp × BitVec 7) (h : BitVec 32) (inputs : List (Nat × List Token)) : State :=
  let s := slotIn o inputs
  let t := s.tile 0
  s.setTile 0 { t with plane := { t.plane with mode := 2 }, events := { EventBank.reset with h := h } }
/-- The event with the fields of R251. -/
def ev (stamp tile neuron kind group : Nat) : Word :=
  BitVec.ofNat 64 (stamp * 2 ^ 32 + tile * 2 ^ 21 + neuron * 2 ^ 9 + kind * 2 ^ 7 + group)
def oEvq := slotO 0x65 3 0 0
def oEvin := slotO 0x60 3 8 0x00F00000
theorem test_evq_inserts :
    let t := q (evIn oEvq 5 [(0, [dat (ev 7 0 3 0 1)])]) (.evq oEvq.1)
    (t.bank 0).queue = [ev 7 0 3 0 1] := by decide +kernel
theorem meets_EventQueueOperators :
    let s (e : Word) := evIn oEvq 5 [(0, [dat e])]
    let c := evIn oEvin 5 [(0, [Token.eos])]
    let d := q c (.evin oEvin.1)
    (s (ev 5 0 3 0 1)).slotLive = true ∧ (s (ev 5 0 3 0 1)).slotSt.seen = 0 ∧ (s (ev 5 0 3 0 1)).head 0 = some (dat (ev 5 0 3 0 1)) ∧
      (s (ev 5 0 3 0 1)).head 1 = none ∧ (s (ev 5 0 3 0 1)).canPay 4 = true ∧ (s (ev 5 0 3 0 1)).curT.evinEnded = false ∧
      goodKind (ev 5 0 3 0 1) ∧ evTile (ev 5 0 3 0 1) = 0 ∧ evStamp (ev 5 0 3 0 1) = 5 ∧ evStamp (ev 4 0 3 0 1) < 5 ∧
      evTile (ev 5 9 3 0 1) ≠ 0 ∧ evKind (ev 5 0 0 3 0) = 3 ∧ evGroup (ev 5 0 0 3 0) = 0 ∧
      (ev 5 0 0 3 0).toNat / 2 ^ 9 % 2 ^ 23 = 0 ∧ (s 0).slotRoom oEvq.1 1 1 = true ∧
      c.slotSt.closed = false ∧ d.slotSt.closed = true ∧
      (let z := d.setBank 0 { d.bank 0 with marked := some 5 }
       z.slotLive = true ∧ (z.bank 0).markDue = false ∧ (z.bank 0).due 5 = false ∧ (z.bank 0).busy = none ∧ z.slotRoom oEvin.1 1 1 = true) ∧
      (c.tile 0).plane.evin = some (0, oEvin.1) ∧ ((c.bank 0).marked.getD 0).toNat < (c.bank 0).h.toNat ∧ c.weightHold = false := by
  unfold goodKind; decide +kernel
def oEvfr := slotO 0x62 3 0 0
def oEvst := slotO 0x63 3 0 0
def oEvwr := slotO 0x64 3 0 0
def oEvlk := slotO 0x61 3 0 0
theorem meets_EventRecordOperators :
    let f := evIn oEvfr 5 [(0, [dat (ev 7 0 3 0 1)])]
    let g := f.setSlotSt { f.slotSt with iota := some (ev 7 0 3 0 1, 8190, false) }
    let k := evIn oEvlk 5 [(0, [dat 5])]
    f.slotSt.iota = none ∧ evKind (ev 7 0 3 0 1) ≠ 3 ∧ g.slotSt.iota = some (ev 7 0 3 0 1, 8190, false) ∧ g.slotRoom oEvfr.1 1 1 = true ∧
      g.canPay 4 = true ∧ g.fanDescriptor 0 8190 / 2 ^ 16 % 4 ≠ 3 ∧ CanFire (evIn oEvst 5 [(0, [dat 4095])]) 0x63 oEvst.1 4 ∧
      CanFire (evIn oEvwr 5 [(0, [dat 2048]), (1, [dat 9])]) 0x64 oEvwr.1 4 ∧
      anyPoison (evIn oEvwr 5 [(0, [dat 2048]), (1, [dat 9])]) 0x64 oEvwr.1 = false ∧
      k.slotLive = true ∧ (k.bank 0).busy = none ∧ k.head 0 = some (dat 5) ∧ k.allEos [0] = false ∧ (k.bank 0).b.toNat ≤ 5 ∧
      (k.bank 0).due 5 = false ∧ k.slotRoom oEvlk.1 1 1 = true ∧
      (let z := k.setBank 0 { k.bank 0 with busy := some (0, 5, 4096) }
       (z.bank 0).busy = some (z.curSlot, 5, 4096) ∧ z.curT.plane.neurons ≤ 4096) := by
  unfold CanFire; decide +kernel
/-- A spike of weight 0 to neuron 3, a threshold of 0; its neuron is not refractory. -/
theorem meets_EventDeliveries :
    let s0 := evIn oEvin 5 []
    let s (e : Word) := s0.setBank 0 { s0.bank 0 with queue := [e] }
    (s (ev 5 0 3 0 1)).slotLive = true ∧ ((s (ev 5 0 3 0 1)).bank 0).queue.head? = some (ev 5 0 3 0 1) ∧
      evStamp (ev 5 0 3 0 1) ≤ ((s (ev 5 0 3 0 1)).bank 0).h.toNat ∧ evNeuron (ev 5 0 3 0 1) < (s0.tile 0).plane.neurons ∧
      (s0.bring 0 5 (s0.neuron 0 3)).isSome = true ∧ s0.canPay 200 = true ∧ evKind (ev 5 0 3 1 0) = 1 ∧ evKind (ev 5 0 3 2 0) = 2 ∧
      ((s0.bring 0 5 (s0.neuron 0 3)).getD 0) / 2 ^ 32 % 256 = 0 ∧ s0.room 0 4 1 = true ∧
      toSigned 24 (s0.threshold 0 0) ≤ 0 ∧
      ((s0.setNeuron 0 3 (2 ^ 32 * 255)).bring 0 5 ((s0.setNeuron 0 3 (2 ^ 32 * 255)).neuron 0 3)).any
        (fun r => r / 2 ^ 32 % 256 != 0) = true := by decide +kernel

/-! ### Packets and queues -/

def isOk {ε α : Type} [DecidableEq α] (e : Except ε α) (a : α) : Bool := match e with | .ok b => decide (b = a) | .error _ => false
def isErr {ε α : Type} [DecidableEq ε] (e : Except ε α) (a : ε) : Bool := match e with | .error b => decide (b = a) | .ok _ => false

/-- A header with a deadline and the number of packets; its budget is 1000 (R386). -/
def hdr (deadline n : Nat) : Nat := deadline + 1000 * 2 ^ 64 + n * 2 ^ 176
/-- Dwords 8 and up of an entry are one packet: its code, flags and body. -/
def pkt1 (code flags : Nat) (body : List Nat) : List (BitVec 32) :=
  BitVec.ofNat 32 (code * 2 ^ 24 + body.length * 2 ^ 16 + flags) :: body.map (BitVec.ofNat 32)
def pkOf (flags : Nat) (body : List Nat) : Pkt :=
  { item := 0, flags := BitVec.ofNat 16 flags, body := body.map (BitVec.ofNat 32) }
/-- Context 0's queue 0: rings of 4 KiB at 2 MiB and 16 records at 3 MiB. -/
def qOne : Queue :=
  { Queue.reset with v := true, rbase := 0x200000, rlog2 := 12, gen := 3, cbase := 0x300000, clog2 := 4 }
/-- A small launch, one tile at the origin, of sequencer 0. -/
def lOne : Launch := { Launch.placed with whole := false }
def qBase : State := { (mapped s0).setLaunch 0 lOne with queues := [(0, qOne)] }
/-- The entry's first packet is the given one and has been dispatched. -/
def begun (code flags : Nat) (body : List Nat) : State :=
  qBase.setItem 0 { newItem 0 0 0 0 (hdr 900 1) (pkt1 code flags body) with phase := .dispatched, started := true }
def item0 (s : State) : Item := (s.item 0).getD (newItem 0 0 0 0 0 [])
theorem begun_begun (code flags : Nat) (body : List Nat) (f : Nat) (b : List Nat) :
    Begun (begun code flags body) (pkOf f b) (item0 (begun code flags body)) := ⟨rfl, rfl⟩

/-- R391: SIGNAL_ADD of 3 to semaphore 8191 that context 0 owns and that holds 5. -/
def sSem : State :=
  { begun 0x02 1 [8191, 3, 0] with sems := [(8191, 5)], sown := [(8191, 0x1000)] }
theorem test_signal_add : (q sSem (.signalAdd (pkOf 1 [8191, 3, 0]))).sem 8191 = 8 := by decide +kernel
theorem meets_SignalAndInterruptPackets :
    sSem.ownsSem 8191 (sSem.queue 0).ctx = true ∧ (begun 2 0 []).ownsSem 0 0 = false ∧ (pkOf 0 [5]).flags.getLsbD 0 = false ∧
      ((begun 0 0 []).queue 0).func < 17 := by decide +kernel
/-- WAIT_GE of 5 on semaphore 0, satisfied at 5 and not at 4. -/
def sWait (v : Word) : State := { begun 0x03 0 [0, 5, 0] with sems := [(0, v)] }
theorem meets_WaitingPackets :
    let p := pkOf 0 [0, 5, 0]
    (BitVec.ofNat 64 (p.field 32 64)).toNat ≤ ((sWait 5).sem (p.field 0 13)).toNat ∧
      ((sWait 4).sem (p.field 0 13)).toNat < (BitVec.ofNat 64 (p.field 32 64)).toNat ∧
      (item0 (q (sWait 4) (.waitGe p))).waits.isSome = true ∧
      (item0 (begun 8 0 [])).phase = .dispatched ∧ (∀ x, x ∈ (begun 8 0 []).items → x.1 < 0 → x.2.phase = .recorded) ∧
      (let s := (begun 8 0 []).setItem 1 (item0 (begun 8 0 []))
       ¬ ∀ x, x ∈ s.items → x.1 < 1 → x.2.queue = 0 → x.2.phase = .recorded) := by decide +kernel
/-- WRITE of one dword 7 at 4 MiB, and at an address that is not mapped. -/
def pWrite := pkOf 0 [0x400000, 0, 7]
theorem test_write : memNat (q (begun 0x01 0 [0x400000, 0, 7]) (.write pWrite)).mem (dpaLoc 0x400000) 4 = 7 := by decide +kernel
theorem meets_WritingPackets :
    let s := begun 0x01 0 [0x400000, 0, 7]
    (match s.writeUnits 0 4 0x400000 [7] with | .done u => decide (u.item 0 = some (item0 s)) | _ => false) = true ∧
      (match s.writeUnits 0 4 0x80000000 [7] with | .bad u c => decide (u.item 0 = some (item0 s) ∧ c = .xltNotMapped) | _ => false) = true ∧
      Memory.wf s.mem = true ∧
      (s.check { ctx := some 0 } 0 [] .write 0x400000 4).1 = .ok (.mem (dpaLoc 0x400000)) ∧
      (s.hold.check { ctx := some 0 } 0 [] .write 0x400008 8).1 = .ok (.mem (dpaLoc 0x400008)) ∧
      (∃ u, s.writeUnit 0 0x400000 4 7 = .done u) := by
  refine ⟨?_, ?_, ?_, ?_, ?_, ⟨_, rfl⟩⟩ <;> decide +kernel
theorem meets_CopyPacketStarts :
    (match qBase.copyPlan 0 (pkOf 0 [0x400000, 0, 0x500000, 0, 64, 0, 0, 0]).v with | .ok _ => true | _ => false) = true ∧
      (match qBase.copyPlan 0 (pkOf 0 [0x400000, 0, 0x500000, 0, 8, 0, 0, 0]).v with | .bad .memCopyDesc _ => true | _ => false) = true := by
  decide +kernel
/-- BIND of an affine read of 2 elements to port context 5, with a message to channel 1. -/
def pBind : Pkt :=
  let v := 5 + 1 * 2 ^ 11 + 1 * 2 ^ 17 + 2 ^ 64 * (0x400000 + 3 * 2 ^ 68 + 2 * 2 ^ 128 + 8 * 2 ^ 152)
  pkOf 0 ((List.range 18).map (fun n => v / 2 ^ (32 * n) % 2 ^ 32))
def sBind : State := qBase.setItem 0 { item0 (begun 5 0 []) with packets := [.bind pBind] }
/-- An EDGE record of the launch's tile takes the stream. -/
theorem meets_BindPackets :
    let w := sBind.setLaunch 0 { lOne with phase := .waiting }
    let none_ := sBind.setLaunch 0 { lOne with phase := .retired }
    let s1 := sBind.setItem 0 { item0 sBind with phase := .running }
    (item0 sBind).phase = .dispatched ∧ none_.findLaunch 0 (fieldOf (pBind.field 0 64) 18 15) = none ∧
      w.findLaunch 0 (fieldOf (pBind.field 0 64) 18 15) = some (0, { lOne with phase := .waiting }) ∧
      sBind.findLaunch 0 (fieldOf (pBind.field 0 64) 18 15) = some (0, lOne) ∧ (1 : Nat) < lOne.nch ∧
      (sBind.pctx 5).st = .free ∧ (item0 s1).packets[(item0 s1).idx]? = some (.bind pBind) ∧ s1.streamOf 0 = false := by
  decide +kernel
/-- LAUNCH of the small launch, with its save area at 16 MiB, and one whose save area is not page aligned. -/
def sLaunch (savea : Word) : State :=
  (begun 4 0 (List.replicate 17 0)).setLaunch 0 { lOne with phase := .loading, savea := savea } |>.setItem 0
    { item0 (begun 4 0 (List.replicate 17 0)) with launch := some 0 }
theorem meets_LaunchPacketPlaces :
    (item0 (sLaunch 0x1000000)).launch = some 0 ∧ (sLaunch 0x1000000).launch 0 = some { lOne with phase := .loading, savea := 0x1000000 } ∧
      (sLaunch 0x1000000).saveAreaOk { lOne with phase := .loading, savea := 0x1000000 } = true ∧
      (sLaunch 0x1000000).blocksFree lOne = true ∧ (sLaunch 1).saveAreaOk { lOne with phase := .loading, savea := 1 } = false := by
  decide +kernel
/-- RETIRE while no task runs, and while one does. -/
def sRetire : State :=
  let s := (begun 7 0 [0]).setTile 0 { Tile.reset with launch := some 0 }
  s.setSeq 0 { s.seq 0 with running := false }
theorem test_retire : ((q sRetire (.retire (pkOf 0 [0]))).launch 0).map (fun l => l.phase) = some .retired := by decide +kernel
theorem meets_RetirePackets :
    let p := pkOf 0 [0]
    let s1 := sRetire.setItem 0 { item0 sRetire with phase := .running }
    (item0 sRetire).phase = .dispatched ∧ (begun 7 0 [5]).findLaunch 0 ((pkOf 0 [5]).field 0 15) = none ∧
      sRetire.findLaunch 0 (p.field 0 15) = some (0, lOne) ∧ s1.retirable 0 lOne = true ∧ lOne.saved = none ∧
      (∀ c, c ∈ sRetire.pctxs → c.2.item ≠ some 0) ∧ sRetire.placed lOne = true ∧
      s1.actionDue (item0 s1) = false ∧ s1.item lOne.item = some (item0 s1) ∧
      ((begun 7 0 [0]).setItem 0 { item0 sRetire with phase := .running }).retirable 0 lOne = false ∧
      (∃ v, (s1.cancelWork 0).launch 0 = some v ∧ (s1.cancelWork 0).retirable 0 v = true) ∧
      (let b := (begun 7 0 [0]).setItem 0 { item0 sRetire with phase := .running }
       ∃ v, (b.cancelWork 0).launch 0 = some v ∧ (b.cancelWork 0).retirable 0 v = false) := by
  refine ⟨?_, ?_, ?_, ?_, ?_, ?_,
    ?_, ?_, ?_, ?_, ⟨lOne, ?_, ?_⟩, ⟨lOne, ?_, ?_⟩⟩ <;> decide +kernel
theorem meets_InvalidatePackets :
    let s := (begun 0x0B 1 (List.replicate 13 0)).setItem 0 { item0 (begun 0x0B 1 (List.replicate 13 0)) with phase := .running }
    (item0 s).packets[(item0 s).idx]? = some (.invalidate (pkOf 1 (List.replicate 13 0))) := by decide +kernel

/-! ### Queues, admission and records -/

/-- An entry of one NOP stands at dword 0 of the ring; its kick has index 9. -/
def ringed (n : Nat) : State := (qBase.storeNat (dpaLoc 0x200000) 32 (hdr 900 1)).storeNat (dpaLoc (0x200000 + 32)) 4 n
def kick (w gen : Nat) : Word := BitVec.ofNat 64 (w + gen * 2 ^ 32)
theorem test_kick : ((q (ringed 0) (.kick 0 (kick 9 3))).item 0).map (fun i => (i.budget, i.iter, i.packets)) =
    some (1000, 0, [.nop (pkOf 0 [])]) := by decide +kernel
/-- Generation 2 is not honoured, 1025 dwords do not fit 4 KiB, 1024 do, 7 dwords hold no header. -/
theorem meets_KickResults :
    let g := qOne
    let s1 := (ringed 0).setQueue 0 { g with w := 9 }
    let honours (v : Word) : Bool := decide (g.v = true ∧ g.rbusy = false ∧ g.stop = false ∧ fieldOf v.toNat 32 16 = g.gen.toNat)
    let fits (w : BitVec 32) : Bool := decide ((w - g.ridx).toNat ≤ 2 ^ g.rlog2 / 4 ∧
      (w - g.w).toNat ≤ (g.ridx + BitVec.ofNat 32 (2 ^ g.rlog2 / 4) - g.w).toNat)
    (ringed 0).queue 0 = g ∧ ¬ honours (kick 9 2) ∧ honours (kick 9 3) ∧ fits 1024 ∧ ¬ fits 1025 ∧ fits 7 ∧
      (match s1.readRing { g with w := 9 } 0 8 with
       | .ok ds => decide (fieldOf (leNat (ds.flatMap (fun d => leBytes 4 d.toNat))) 176 8 = 1) | .error _ => false) = true ∧
      isOk (s1.readPackets { g with w := 9 } 8 1 1) (some [0]) = true ∧ (9 : BitVec 32) = 0 + 8 + BitVec.ofNat 32 1 := by decide +kernel
theorem meets_KickReadFaults :
    let s := { (ringed 0).setQueue 0 { qOne with w := 9 } with ctxBase := 0x6000000 }
    8 ≤ ((s.queue 0).w - (s.queue 0).ridx).toNat ∧
      isErr (s.readRing (s.queue 0) (s.queue 0).ridx 8) (.xltNoContext, 0x200000) = true := by decide +kernel

/-- An entry that waits for admission, of the given header and packets. -/
def waits (h : Nat) (body : List (BitVec 32)) : State := qBase.setItem 0 (newItem 0 0 0 0 h body)
/-- R405: 0x09 is the code of a deadline that has passed, 2 of an unknown packet, 1 of a budget of zero. -/
theorem test_admission_codes :
    let code (s : State) := (item0 (q s (.entryAdmission 0))).rcode
    (code (waits (hdr 0 1) [0]), code (waits (hdr 900 1) [0x0C000000]), code (waits (900 + 2 ^ 176) [0]),
      (item0 (q (waits (hdr 90000 1) [0]) (.entryAdmission 0))).phase) = (9, 2, 1, .admitted) := by decide +kernel
/-- A LAUNCH entry that no test refuses: a background one with a shape of one tile, whose image is at 8 MiB. -/
def pLaunch : List Nat := (List.range 17).map (fun n =>
  (0x800000 + 0x1000000 * 2 ^ 64) / 2 ^ (32 * n) % 2 ^ 32)
theorem meets_AdmissionResults :
    let s := waits (hdr 0 1) [0]
    let ok := waits (hdr 90000 1) [0]
    let held := { ok.setItem 0 { item0 ok with turn := 1 } with cores := [(3, .kick 1 8 0)] }
    s.oldestPending = some (0, item0 s) ∧ ok.oldestPending = some (0, item0 ok) ∧ s.cores = [] ∧
      held.oldestPending = some (0, item0 held) ∧ held.cores = [(3, .kick 1 8 0)] ∧ 0 < (item0 held).turn ∧
      s.admitCode (item0 s) none (s.entryBound (item0 s) 0) ≠ 0 ∧ ok.admitCode (item0 ok) none (ok.entryBound (item0 ok) 0) = 0 ∧
      (item0 ok).launchPkt = none ∧ ((item0 (waits (hdr 900 1) (pkt1 4 0 pLaunch))).launchPkt).isSome = true := by decide +kernel
theorem meets_AdmissionCodes :
    let i := item0 (waits (hdr 90000 1) [0])
    let s := waits (hdr 90000 1) [0]
    (item0 (waits (900 + 2 ^ 176) [0])).shapeCode = some 1 ∧ i.shapeCode = none ∧ s.entryCodes i = [] ∧ i.background = false ∧
      (item0 (waits (hdr (2 ^ 64 - 1) 1) [0])).background = true ∧ 0x19 ∈ ({ s with ctxBase := 0x6000000 }).entryCodes i ∧
      ({ s with now := 90000 }).entryCodes i = [9] := by decide +kernel
/-- The second entry of a queue waits until the first has begun. -/
def sAdmitted : State :=
  let i := { newItem 0 0 0 0 (hdr 900 1) [0] with phase := .admitted }
  (qBase.setItem 0 i).setItem 1 { i with seqNo := 1 }
/-- A launch of one tile waits for its dispatch, and launch 0 has retired. -/
def sWaiting : State :=
  let s := qBase.setItem 0 { newItem 0 0 0 0 (hdr 900000 1 + 5 * 2 ^ 128) (pkt1 4 0 pLaunch) with phase := .admitted, launch := some 1 }
  (s.setLaunch 0 { lOne with phase := .retired }).setLaunch 1 { lOne with phase := .waiting, x0 := 4, y0 := 4 }
theorem meets_DispatchResults :
    let s := sAdmitted
    let before (k : Nat) : Bool := s.items.all (fun x => !(decide (x.1 < k)) || (x.2.phase != .pending && x.2.phase != .admitted))
    s.actionDue (item0 s) = false ∧ sWaiting.actionDue (item0 sWaiting) = false ∧ before 0 = true ∧ before 1 = false ∧ (item0 s).atLaunch = false ∧ (item0 sWaiting).atLaunch = true ∧
      (sWaiting.clearPick 1).isSome = true ∧ (sWaiting.setLaunch 0 lOne |>.setLaunch 1 { lOne with phase := .waiting }).clearPick 1 = none ∧
      (s.queue 0).putOff = false ∧ (let d := s.setQueue 0 { s.queue 0 with putOff := true }
        (d.queue 0).putOff = true ∧ (∀ x, x ∈ d.items → x.2.queue = 0 → x.2.inPair = false) ∧ (item0 d).phase = .admitted) := by
  decide +kernel
theorem meets_DispatchedRegionIsFree :
    (sWaiting.launches.map (fun x => x.1)).Nodup ∧ (sWaiting.launch 1).map (fun l => l.phase) = some .waiting ∧
      (sWaiting.clearPick 1).isSome = true := by decide +kernel
/-- A finished entry, its record at 3 MiB. -/
def sFinished : State := qBase.setItem 0 { newItem 0 0 0 0 (hdr 900 1) [0] with phase := .finished, state := 2, endTime := 77 }
/-- R401: word 0 holds STATE 2, word 1 the end time. -/
theorem test_completion_record : (memNat (q sFinished (.completionRecord 0)).mem (dpaLoc 0x300000) 8,
    memNat (q sFinished (.completionRecord 0)).mem (dpaLoc 0x300008) 8) = (2 * 2 ^ 49, 77) := by decide +kernel
theorem meets_CompletionRecords :
    let s := sFinished
    (item0 s).phase = .finished ∧ (∀ j, j ∈ s.copies → j.2.item ≠ some 0) ∧ s.streamOf 0 = false ∧ s.actionDue (item0 s) = false ∧
      (match s.writeWords 0 0x300008 [1, 2, 3] with
       | .ok u => (match u.writeWords 0 0x300000 [0] with | .ok _ => true | .error _ => false) | .error _ => false) = true ∧
      (match ({ s with ctxBase := 0x6000000 }).writeWords 0 0x300008 [1] with
       | .error c => decide (c = .xltNoContext) | .ok _ => false) = true := by decide +kernel
theorem meets_RingWords : Memory.wf qBase.mem = true ∧
    (qBase.check { ctx := some 0 } 0 [] .write 0x300000 8).1 = .ok (.mem (dpaLoc 0x300000)) := by decide +kernel
def spent (h : Nat) (f : Item → Item) : State :=
  qBase.setItem 0 (f { newItem 0 0 0 0 h [0] with phase := .dispatched, started := true, cheng := 1001 })
theorem meets_BudgetOverruns :
    let s := spent (hdr 900 1) id
    let a := spent (hdr 900 1 + 2 ^ 171) id
    (item0 s).ovr = false ∧ (item0 s).phase ≠ .pending ∧ (item0 s).budget < s.regCharge (item0 s) + (item0 s).cheng ∧
      (item0 s).abort = false ∧ (spent (hdr 900 1) (fun i => { i with launch := some 0 })).launch 0 = some lOne ∧ lOne.phase = .running ∧
      (item0 a).abort = true ∧ (item0 a).inPair = false ∧ (item0 a).budget < a.regCharge (item0 a) + (item0 a).cheng := by decide +kernel
/-- The deadline is reached at its very tick. -/
theorem meets_DeadlineMisses :
    let s := spent (hdr 900 1) id
    let f := item0 (spent (hdr 900 1) (fun i => { i with phase := .finished, endTime := 900 }))
    ({ s with now := 899 }).inS (item0 s) = true ∧ (item0 s).phase = .dispatched ∧ (item0 s).deadline ≤ 900 ∧
      (899 : Nat) < (item0 s).deadline ∧ (item0 s).background = false ∧ f.phase = .finished ∧ f.rcode = 0 ∧
      f.deadline ≤ f.endTime ∧ (item0 (spent (hdr 900 1) (fun i => { i with phase := .finished, endTime := 899 }))).endTime <
        f.deadline := by decide +kernel
/-- A table entry of a ring of 4 KiB and 16 records at DPA 0, whose context is 5. -/
def sReset : State :=
  let e := 0x200000 + 2 ^ 64 * (12 + 5 * 2 ^ 8 + 2 ^ 26 + 7 * 2 ^ 32) + 0x300000 * 2 ^ 128 + 4 * 2 ^ 192
  let s := (mapped State.reset).storeNat (dpaLoc 0) 64 e
  { s with queues := [(0, { qOne with rbusy := true }), (3, { qOne with func := 2 })] }
theorem test_queue_reset : ((q sReset (.queueReset 0)).queue 0).ctx = 5 ∧ ((q sReset (.queueReset 0)).queue 0).gen = 7 ∧
    ((q sReset (.queueReset 0)).queue 0).rbusy = false := by decide +kernel
theorem meets_QueueResets :
    (sReset.queue 0).rbusy = true ∧ (sReset.queue 3).rbusy = false ∧ (∀ x, x ∈ sReset.items → x.2.queue = 0 → x.2.inPair = false) ∧
      (∀ x, x ∈ sReset.copies → x.2.item = none) ∧ (∀ x, x ∈ sReset.pctxs → x.2.item = none) ∧
      (∀ x, x ∈ sReset.launches → x.2.phase = .retired ∧ x.2.saved = none) ∧ (sReset.queues.map (fun x => x.1)).Nodup ∧
      ((q sReset (.functionLevelReset 1)).queue 3).rbusy = true ∧
      (let p := sReset.setItem 0 { item0 (begun 2 0x8000 [8191, 3, 0]) with phase := .running }
       (p.queue 0).rbusy = true ∧ (item0 p).queue = 0 ∧ (item0 p).inPair = true) := by decide +kernel


/-! ### Streams -/

/-- A specification of 2 elements of 8 bytes, stride 8, to target 0 of tile 0, of the given base and kind. -/
def spec (base kind extra : Nat) : Nat := base + kind * 2 ^ 64 + 3 * 2 ^ 68 + 2 ^ 73 + 2 * 2 ^ 128 + 8 * 2 ^ 152 + extra
/-- Port context 0 runs it for launch 0; memory holds 0x8877665544332211 at its first element. -/
def streamS (v : Nat) (f : PCtx → PCtx) : State :=
  ((mapped s0).storeNat (dpaLoc 0x400000) 8 0x8877665544332211).setPctx 0
    (f { PCtx.reset with st := .running, spec := BitVec.ofNat 512 v, launch := some 0, charged := true })
theorem streamS_runs : StreamRuns (streamS (spec 0x400000 0 0) id) 0 0 Launch.placed (spec 0x400000 0 0) := by
  refine ⟨?_, ?_, ?_, ?_, ?_, ?_, ?_⟩ <;> decide +kernel
theorem test_stream_element :
    sentTo (q (streamS (spec 0x400000 0 0) id) (.streamElementIssue 0)) 0 = [dat 0x8877665544332211] := by decide +kernel
/-- R75: PACK of four 2-byte elements, lowest first. -/
theorem test_stream_packs :
    let v := 0x400000 + 2 ^ 68 + 2 ^ 73 + 2 ^ 76 + 4 * 2 ^ 128 + 2 * 2 ^ 152
    sentTo (q (streamS v id) (.streamElementIssue 0)) 0 = [dat 0x8877665544332211] := by decide +kernel
def outcome (r : TokRes) : Nat := match r with | .ok _ _ _ => 0 | .xlt _ _ => 1 | .stop _ _ => 2 | _ => 3
theorem meets_AffineReads :
    let v := spec 0x400000 0 0
    let s := streamS v id
    let r (v : Nat) := outcome ((streamS v id).readElems 0 (spPath v) (spSize v) false true (spPf v) (spAddr v 0) 0 0 false)
    let wide := 0x400000 + 4 * 2 ^ 68 + 2 ^ 71 + 2 ^ 73 + 2 * 2 ^ 128 + 128 * 2 ^ 152
    ((s.pctx 0).st = .running ∧ ((streamS v (fun p => { p with st := .stopping, pos := 1 })).pctx 0).pos % spOuter v = 0) ∧
      Launch.placed.recMode ≠ 2 ∧ (s.pctx 0).pos < spTotal v ∧ s.streamRoom 0 v = true ∧ s.agnSpill 0 < 64 ∧ r v = 0 ∧
      spAtt v = false ∧ r wide = 0 ∧ spAtt wide = true ∧ spPf wide = 1 ∧ spSign wide = false ∧
      ((streamS wide id).setTile 0 ((slotIn oRow []).tile 0)).streamRoom 0 wide = true ∧ r (spec 0x80000000 0 0) = 1 ∧
      r (spec 0x80000000 0 (2 ^ 72)) = 1 ∧ spReord (spec 0x80000000 0 (2 ^ 72)) = true ∧
      (streamS v id).streamRoom 0 (spec 0x80000000 0 0) = true ∧ r (spec 0x9000000000000000 0 0) = 2 := by decide +kernel
theorem meets_ElementReads :
    let s := streamS (spec 0x400000 0 0) id
    let c (s : State) (path : Nat) (a : Int) := (s.agnCheck 0 path .read a 8).1
    c s 0 0x400000 = .ok (.mem (dpaLoc 0x400000)) ∧ s.dataError (dpaLoc 0x400000) 8 = none ∧
      ({ s with poison := [dpaLoc 0x400000 / 16] }).dataError (dpaLoc 0x400000) 8 = some .memDataError ∧
      c s 0 (-8) = .bad .memNoncanonical ∧ c s 0 (2 ^ 60) = .bad .memNoncanonical ∧ c s 0 0x80000000 = .bad .xltNotMapped ∧
      Cause.isXlt .xltNotMapped = true ∧ c s 9 (9 * 2 ^ 60) = .bad .memBadPath ∧ Cause.isXlt .memBadPath = false := by
  decide +kernel
/-- A write stream with its token from an EDGE. -/
def writer (f : PCtx → PCtx) : State := streamS (spec 0x400000 1 0) (fun p => f { p with inA := [dat 0xABCD] })
theorem test_stream_write : memNat (q (writer id) (.writeStreamElement 0)).mem (dpaLoc 0x400000) 8 = 0xABCD := by decide +kernel
theorem meets_AffineWrites :
    let v := spec 0x400000 1 0
    spKind v = 1 ∧ Memory.wf (writer id).mem = true ∧ (dat 0xABCD).isEos = false ∧ (dat 0xABCD).psn = false ∧
      ((writer id).pctx 0).pos < spTotal v ∧
      ((writer id).agnCheck 0 (spPath v) .write (spAddr v 0) 8).1 = .ok (.mem (dpaLoc 0x400000)) ∧
      spTotal v ≤ ((writer (fun p => { p with pos := 2 })).pctx 0).pos ∧ Token.eos.isEos = true ∧ (poisoned 1).psn = true ∧
      spPath v ≠ 6 := by decide +kernel
/-- A gather of indices below 2, and a scatter of values. -/
def gatherer (k : Token) : State := streamS (spec 0x400000 2 (2 * 2 ^ 192)) (fun p => { p with inA := [k] })
theorem test_gather : sentTo (q (gatherer (dat 0)) (.indirectGather 0)) 0 = [dat 0x8877665544332211] := by decide +kernel
theorem meets_Gathers :
    let v := spec 0x400000 2 (2 * 2 ^ 192)
    spKind v = 2 ∧ spPf v = 1 ∧ spSign v = false ∧ spBound v = 2 ∧ (gatherer (dat 1)).streamRoom 0 v = true ∧
      outcome ((gatherer (dat 1)).readElems 0 (spPath v) 8 false true 1 ((spBase v : Int) + 1 * spStr v 0) 0 0 false) = 0 := by
  decide +kernel
def scatterer (a b : Token) : State := streamS (spec 0x400000 3 (2 * 2 ^ 192)) (fun p => { p with inA := [a], inB := [b] })
theorem test_scatter : memNat (q (scatterer (dat 1) (dat 9)) (.indirectScatter 0)).mem (dpaLoc 0x400008) 8 = 9 := by decide +kernel
theorem meets_Scatters :
    let v := spec 0x400000 3 (2 * 2 ^ 192)
    spKind v = 3 ∧ Memory.wf (scatterer (dat 1) (dat 9)).mem = true ∧ spBound v = 2 ∧ spPath v = 0 ∧
      ((scatterer (dat 1) (dat 9)).agnCheck 0 0 .write ((spBase v : Int) + 1 * spStr v 0) 8).1 = .ok (.mem (dpaLoc 0x400008)) := by
  decide +kernel
/-- A bitmap of one row of 2 positions at 5 MiB, 1 element. -/
def vBits : Nat := spec 0x400000 4 (2 ^ 192 + 0x500000 * 2 ^ 256 + 2 ^ 320 + 2 ^ 352)
def bitmapS (f : PCtx → PCtx) : State := streamS vBits f
theorem meets_BitmapElements :
    let s := bitmapS id
    let at_ (b : Byte) := bitmapS (fun p => { p with bitmap := some (0, b, false) })
    spKind vBits = 4 ∧ spPf vBits = 1 ∧ (s.pctx 0).pos < spTotal vBits ∧ (s.pctx 0).bitmap = none ∧
      outcome (s.readElems 0 (spBmap vBits / 2 ^ 60) 1 false true 1 ((spBmap vBits : Int)) 0 0 false) = 0 ∧
      ((at_ 2).pctx 0).bitmap = some (0 / 8, 2, false) ∧ (2 : Byte).getLsbD 0 = false ∧ (1 : Byte).getLsbD 0 = true ∧
      (at_ 1).streamRoom 0 vBits = true ∧ spLen vBits = 1 ∧
      outcome ((at_ 1).readElems 0 0 8 false true 1 ((spBase vBits : Int)) 0 0 false) = 0 := by decide +kernel
/-- A drained stream whose status word, 16 bytes after its base, holds 3. -/
def drainer (v : Nat) (f : PCtx → PCtx) : State :=
  (streamS v (fun p => f { p with st := .draining, pos := 2, acc := 0x804, eosA := true })).storeNat (dpaLoc 0x400010) 8 3
theorem test_status_or : memNat (q (drainer (spec 0x400000 0 (2 ^ 98 + 16 * 2 ^ 448)) id) (.statusOr 0)).mem (dpaLoc 0x400010) 8 = 0x807 := by
  decide +kernel
theorem meets_StatusOrs :
    let v := spec 0x400000 0 (2 ^ 98 + 16 * 2 ^ 448)
    let s := drainer v id
    Memory.wf s.mem = true ∧ (s.pctx 0).st = .draining ∧ (s.pctx 0).spill = [] ∧ (s.pctx 0).statusDone = false ∧ spReads v = true ∧
      spReads (spec 0x400000 1 0) = false ∧ (s.pctx 0).eosA = true ∧ spStw v = true ∧ spStw (spec 0x400000 0 0) = false ∧
      (match s.agnCheck 0 0 .read 0x400010 8 with
       | (.ok (.mem b), u) => decide (b = dpaLoc 0x400010 ∧ (u.agnCheck 0 0 .write 0x400010 8).1 = .ok (.mem b))
       | _ => false) = true ∧
      (s.agnCheck 0 9 .read (9 * 2 ^ 60) 8).1 = .bad .memBadPath := by decide +kernel
theorem meets_StreamEnds :
    let v := spec 0x400000 0 0
    let s := drainer v (fun p => { p with statusDone := true })
    (s.pctx 0).st = .draining ∧ spReads v = true ∧ (s.pctx 0).statusDone = true ∧ (s.pctx 0).eosSent = false ∧
      s.streamRoom 0 v = true ∧ (drainer vBits (fun p => { p with statusDone := true })).streamRoom 0 vBits = true := by decide +kernel
theorem meets_StreamRetries :
    let v := spec 0x400000 0 (2 ^ 72)
    let e : HeldElement := { n := 0, addr := 0x400000, due := 100 }
    let s := streamS v (fun p => { p with stopped := some e })
    let d := { streamS v (fun p => { p with spill := [e], pos := 2 }) with now := 100 }
    (s.pctx 0).tag = none ∧ (s.pctx 0).stopped = some e ∧ s.now < e.due ∧ Launch.placed.recMode = 0 ∧ (d.pctx 0).spill = [e] ∧
      e.due ≤ d.now ∧ d.streamRoom 0 v = true ∧
      outcome (d.readElems 0 (spPath v) 8 false false 1 (spAddr v 0) 0 0 false) = 0 := by decide +kernel
theorem meets_StreamCompletions :
    let s := drainer (spec 0x400000 0 0) (fun p => { p with statusDone := true, eosSent := true, charged := false, post := some (63, 0) })
    let w := drainer (spec 0x400000 1 0) (fun p => { p with statusDone := true, charged := false })
    s.frameState = [] ∧ (s.pctx 0).item = none ∧ (s.pctx 0).eosSent = true ∧ (s.pctx 0).post = some (63, 0) ∧
      (w.pctx 0).post = none ∧ (w.pctx 0).eosA = true ∧ spKind (spec 0x400000 1 0) ≠ 3 := by decide +kernel


/-! ### Links, rings, islands, storage and copies -/

/-- A token of an arc into target 0 of tile 1 stands at tile 0, and another arc of the same link waits. -/
def linkS (dst : Nat) : State :=
  { s0 with arcs := [(512, { Arc.reset with transit := [(0, dat 7)], key := 128, crossing := false }),
                     (512 * dst + 1, { Arc.reset with transit := [(0, dat 9)], key := 129 })] }
theorem meets_RouterLinks :
    let east := hop 0 1
    let s := { linkS 1 with links := [(4 * 0 + east, 128)] }
    s.linkArcs 0 ((east + 1) % 4) = [] ∧ (nextArc 128 (s.linkArcs 0 east)).map (fun p => p.1) = some 513 ∧
      (nextArc 0 ((linkS 1).linkArcs 0 east)).map (fun p => p.1) = some 512 ∧ nextArc 0 [] = none ∧
      ((linkS 1).arc 512).transit.find? (fun x => x.1 == 0) = some (0, dat 7) ∧ neighbour 0 east = 512 / 512 ∧
      ((linkS 1).arc 512).ring = none ∧ neighbour 0 (hop 0 2) ≠ (512 * 2 + 1) / 512 := by decide +kernel
theorem test_arrival : ((q (linkS 1) (.routerLinkTransfer 0 (hop 0 1))).arcAt 1 0).queue = [dat 7] := by decide +kernel
/-- The ring of target 0 of tile 0 at 2 MiB holds one token, 0x55. -/
def ringS (wr rd : Nat) : State :=
  let s := ((mapped s0).setTile 0 { Tile.reset with launch := some 0 }).storeNat (dpaLoc 0x200000) 8 0x55
  s.setArc 0 { Arc.reset with crossing := true, ring := some { base := 0x200000, slots := 256, wr := wr, rd := rd } }
theorem meets_RingRefills :
    let r (wr rd : Nat) : Ring := { base := 0x200000, slots := 256, wr := wr, rd := rd }
    let s := ringS 1 0
    (s.arcAt 0 0).ring = some (r 1 0) ∧ (s.arcAt 0 0).stopped = false ∧ (r 1 1).wr ≤ (r 1 1).rd ∧ (s.arcAt 0 0).queue.length < 64 ∧
      s.ringPlace 0 (r 1 0) 0 .read = some (dpaLoc 0x200000) ∧ s.dataError (dpaLoc 0x200000) 16 = none ∧
      memNat s.mem (dpaLoc 0x200000 + 8) 1 < 8 ∧ memNat s.mem (dpaLoc 0x200000 + 8) 1 % 4 ≠ 3 ∧
      ({ s with ctxBase := 0x6000000 }).ringPlace 0 (r 1 0) 0 .read = none := by decide +kernel
theorem meets_InvocationStarts :
    ((s0.setTile 0 { Tile.reset with launch := some 0 }).tileLaunch 0).isSome = true ∧ (s0.tile 1).active = false ∧
      s0.tileLaunch 1 = none ∧ Memory.wf s0.mem = true := by decide +kernel
/-- Block 15 of island 3 belongs to a context. -/
def sIsland : State := s0.setIsland 3 { s0.island 3 with scr := 16, own := [(15, 0x1001)] }
theorem test_repartition : ((q (q sIsland (.islandRepartition 4 16)) (.repartitionComplete 4)).island 4).scr = 16 := by decide +kernel
theorem meets_IslandRepartitions :
    (16 : Nat) < (17 : BitVec 5).toNat ∧ (16 : BitVec 5).toNat ≤ 16 ∧ (sIsland.island 3).busy = false ∧
      (∀ b, b < 16 → (16 : BitVec 5).toNat ≤ b → sIsland.reserved 3 b = false) ∧
      ((sIsland.setIsland 3 { sIsland.island 3 with busy := true }).island 3).busy = true := by decide +kernel
/-- A storage copy of 2 pages between 4 MiB and namespace 1, in or out. -/
def jStor (out wci : Nat) : CopyJob :=
  { ctx := 0, launch := none, seqn := 0, item := none, post := none, desc := 0, srca := 0x400000, dsta := 0x400000, len := 0, stor := true,
    done := 0, cause := none, count := 0, failed := false, cancelled := false, stopped := none, firstPsn := false, spanPsn := false,
    clean := [], buf := none, tag := none, page := 0,
    sdesc := BitVec.ofNat 384 (2 * wci + 4 * out + 1 * 2 ^ 16 + wci * 2 ^ 128 + 2 * 2 ^ 160 + 4 * wci * 2 ^ 192) }
def cmdOf (out : Bool) : StorageCmd := { port := 0, copy := 0, nsid := 1, page := 0, write := out, reissued := false, since := 0 }
def storS (out : Bool) : State :=
  { mapped s0 with copies := [(0, jStor out.toNat 0)], storage := [(0, cmdOf out)], namespaces := [(2, (4096, 1000))] }
theorem meets_NvmeCommands :
    tabFind (storS false).storage 0 = some (cmdOf false) ∧ (storS false).copyJob 0 = some (jStor 0 0) ∧
      Memory.wf (storS false).mem = true ∧ (cmdOf false).reissued = false ∧ exOut (jStor 0 0).sdesc.toNat = false ∧
      exOut (jStor 1 0).sdesc.toNat = true ∧ exWci (jStor 0 0).sdesc.toNat = false ∧
      (storS false).pagePlace (jStor 0 0) = .ok (dpaLoc 0x400000) ∧ (storS true).pagePlace (jStor 1 0) = .ok (dpaLoc 0x400000) ∧
      (storS true).dataError (dpaLoc 0x400000) 131072 = none :=
  ⟨rfl, rfl, by decide +kernel, rfl, by decide +kernel, by decide +kernel, by decide +kernel, by decide +kernel, by decide +kernel,
    dataError_clean _ (by decide +kernel) (by decide +kernel) _ _⟩
/-- Island 0 belongs to context 0. -/
def sOwn : State := s0.setIsland 0 { s0.island 0 with scr := 16, own := (List.range 16).map (fun b => (b, 0x1000)) }
theorem sOwn_owns : sOwn.ownsIsland 0 := ⟨by decide +kernel, rfl, rfl, by decide +kernel⟩
/-- Page 1 of a cache image of 4 data pages goes to island scratch, and its tag on the drive is `tag`. -/
def wciJob : CopyJob := { jStor 0 1 with dsta := 0x1000000000000000 }
def wciState (tag : List Byte) : State :=
  let r : State := { sOwn with copies := [(0, wciJob)], storage := [(0, cmdOf false)], namespaces := [(2, (4096, 1000))] }
  { r with mem := memPut r.mem (r.tagLoc wciJob.sdesc.toNat 1) tag }
theorem wci_drive (tag : List Byte) (v p : Nat) : (wciState tag).drivePage v p = (wciState []).drivePage v p := rfl
theorem wci_bytes (tag : List Byte) (x n : Nat) (h : x + n ≤ (wciState []).tagLoc wciJob.sdesc.toNat 1) :
    memBytes (wciState tag).mem x n = memBytes sOwn.mem x n :=
  memBytes_put_outside tag sOwn.mem ((wciState []).tagLoc wciJob.sdesc.toNat 1) x n (by decide) (Or.inl h)
theorem wci_page (tag : List Byte) : memBytes (wciState tag).mem ((wciState tag).drivePage wciJob.sdesc.toNat 1) 131072 =
    memBytes sOwn.mem ((wciState []).drivePage wciJob.sdesc.toNat 1) 131072 := by
  rw [wci_drive, wci_bytes _ _ _ (by decide +kernel)]
theorem pagePlace_owned (s : State) (j : CopyJob) (hs : s.ownsIsland j.ctx) (h : j.pageAddr = word (2 ^ 60 + 0))
    (e : exOut j.sdesc.toNat = false) : s.pagePlace j = .ok (islandLoc 0 0) := by
  unfold State.pagePlace
  rw [h, e]
  exact congrArg memPlace (check_owned_island s j.ctx 0 16 .write hs (by decide) (by decide))
theorem wci_place (tag : List Byte) : (wciState tag).pagePlace wciJob = .ok (islandLoc 0 0) :=
  pagePlace_owned _ _ sOwn_owns (by decide +kernel) (by decide +kernel)
theorem wci_wf (tag : List Byte) : Memory.wf (wciState tag).mem = true :=
  memPut_wf sOwn.mem ((wciState []).tagLoc wciJob.sdesc.toNat 1) tag (by decide)
theorem wci_tag (tag : List Byte) (h : tag.length = 16) :
    memBytes (wciState tag).mem ((wciState tag).tagLoc wciJob.sdesc.toNat 1) 16 = tag := by
  have e := memBytes_put_same tag sOwn.mem ((wciState []).tagLoc wciJob.sdesc.toNat 1) (by decide)
  rw [h] at e
  exact e

/-- Both outcomes of the tag occur: the tag of the page stands on the drive, or another one does. -/
theorem meets_CacheImagePages : (∀ tag, tabFind (wciState tag).storage 0 = some (cmdOf false) ∧
      (wciState tag).copyJob 0 = some wciJob ∧ (wciState tag).pagePlace wciJob = .ok (islandLoc 0 0)) ∧ wciJob.pageNo = 1 ∧
    exWci wciJob.sdesc.toNat = true ∧ wciJob.pageNo ≤ exDpages wciJob.sdesc.toNat ∧
    (∀ tag, ∃ key, (wciState tag).dataKey (exKey wciJob.sdesc.toNat) = some key) ∧ s0.dataKey 5 = none := by
  refine ⟨fun tag => ⟨rfl, rfl, wci_place tag⟩, ?_, ?_, ?_, fun _ => ⟨leBytes 32 Config.dataKey0.toNat, by rw [show exKey wciJob.sdesc.toNat = 0 by decide +kernel]; rfl⟩,
    ?_⟩ <;> decide +kernel
theorem meets_CacheImagePages_good (key : List Byte) : ∃ tag, Memory.wf (wciState tag).mem = true ∧
    pageTag key 0 1 (memBytes (wciState tag).mem ((wciState tag).drivePage wciJob.sdesc.toNat 1) 131072) =
      memBytes (wciState tag).mem ((wciState tag).tagLoc wciJob.sdesc.toNat 1) 16 := by
  refine ⟨pageTag key 0 1 (memBytes sOwn.mem ((wciState []).drivePage wciJob.sdesc.toNat 1) 131072), wci_wf _, ?_⟩
  rw [wci_tag _ (pageTag_length _ _ _ _), wci_page]
theorem meets_CacheImagePages_bad (key : List Byte) : ∃ tag, Memory.wf (wciState tag).mem = true ∧
    pageTag key 0 1 (memBytes (wciState tag).mem ((wciState tag).drivePage wciJob.sdesc.toNat 1) 131072) ≠
      memBytes (wciState tag).mem ((wciState tag).tagLoc wciJob.sdesc.toNat 1) 16 := by
  by_cases h : pageTag key 0 1 (memBytes sOwn.mem ((wciState []).drivePage wciJob.sdesc.toNat 1) 131072) = List.replicate 16 0
  · refine ⟨List.replicate 16 1, wci_wf _, ?_⟩
    rw [wci_tag _ (by decide), wci_page]
    exact fun e => absurd (h.symm.trans e) (by decide)
  · refine ⟨List.replicate 16 0, wci_wf _, ?_⟩
    rw [wci_tag _ (by decide), wci_page]
    exact h
theorem meets_StorageTimeouts :
    let s := storS false
    (s.now < (cmdOf false).since + 2000000000 ∧ s.resetting.contains 0 = false) ∧
      (cmdOf false).since + 2000000000 ≤ ({ s with now := 2000000000 }).now ∧ s.pagePlace (jStor 0 0) = .ok (dpaLoc 0x400000) := by
  decide +kernel
/-- A copy of 16 bytes inside local memory, before and after its granule has moved. -/
def jMove (done : Nat) : CopyJob :=
  { jStor 0 0 with stor := false, srca := 0x400000, dsta := 0x500000, len := 16, done := done, desc := 0x4000000000001000 }
def moveS (j : CopyJob) : State := { (mapped s0).storeNat (dpaLoc 0x400000) 8 0xABC with copies := [(0, j)] }
theorem test_copy_moves : memNat ((moveS (jMove 0)).copyStep 0).mem (dpaLoc 0x500000) 8 = 0xABC := by decide +kernel
theorem meets_CopyCompletions :
    let j := { jMove 16 with launch := some 0, post := some (63, 0) }
    let p := { jMove 16 with item := some 0 }
    let f := { p with failed := true, cause := some Cause.xltNotMapped }
    (moveS (jMove 0)).copyOver 0 (jMove 0) = false ∧ (moveS j).copyOver 0 j = true ∧ (moveS j).launch 0 = some Launch.placed ∧
      Launch.placed.live = true ∧ (moveS p).copyOver 0 p = true ∧ (moveS f).copyOver 0 f = true ∧ p.clean = [] ∧
      ((moveS p).setItem 0 { newItem 0 0 0 0 (hdr 900 1) (pkt1 6 0 []) with phase := .running }).copyJob 0 = some p := by decide +kernel
theorem meets_CopyMoves :
    let s := moveS (jMove 0)
    (jMove 0).done < (jMove 0).len ∧ Memory.wf s.mem = true ∧ s.copyPlace (jMove 0) .read 0x400000 = .ok (.mem (dpaLoc 0x400000)) ∧
      s.copyPlace (jMove 0) .write 0x500000 = .ok (.mem (dpaLoc 0x500000)) ∧ pathOf 0x500000 = 0 ∧
      s.dataError (dpaLoc 0x400000) 16 = none ∧
      ({ s with poison := [dpaLoc 0x400000 / 16] }).dataError (dpaLoc 0x400000) 16 = some .memDataError := by decide +kernel


/-! ### Messages, tasks and launch control -/

def msgTo (ch : BitVec 6) (gen : BitVec 8) : Msg := hardMsg ch gen 1 0x11 0x22 0x33 0x44
/-- The handler entry of a channel: its code at dword `at_`, a priority, V and a generation. -/
def handlerWord (at_ prio gen : Nat) : Nat := at_ + prio * 2 ^ 16 + 2 ^ 19 + gen * 2 ^ 20
/-- Channels 2 (priority 1), 63 (priority 7) and 40 (priority 7) have handlers of generation 9; DEFCH is 2. -/
def sChan (f : Seq → Seq) : State :=
  let s := withWord (withWord (withWord s0 16 (handlerWord 256 1 9)) 504 (handlerWord 257 7 9)) 320 (handlerWord 258 7 9)
  withCur s (fun c => f { c with defch := 2, running := false })
theorem meets_MessageArrivals :
    let e (c : Nat) := entryOfChannel (sChan id) 0 c
    let at_ (m : Msg) := ((sChan (fun c => { c with arriving := [m] })).seq 0).arriving.find? (fun x => x.ch == m.ch)
    at_ (msgTo 63 9) = some (msgTo 63 9) ∧ (e 63).testBit 19 = true ∧ (msgTo 63 9).gen.toNat = fieldOf (e 63) 20 8 ∧
      (msgTo 63 8).gen.toNat ≠ fieldOf (e 63) 20 8 ∧ (e 5).testBit 19 = false ∧ (e 2).testBit 19 = true ∧
      (tabGet ((sChan id).seq 0).queues 2 []).length < 16 ∧ ¬ (tabGet (fullChannel.seq 0).queues 2 []).length < 16 ∧
      (let c := (sChan (fun c => { c with arriving := List.replicate 16 (msgTo 2 9) })).seq 0
       (c.arriving.filter (fun x => x.ch.toNat == c.defch.toNat)).length = 16) ∧
      (entryOfChannel s0 0 0).testBit 19 = false := by decide +kernel
theorem test_default_handler :
    (tabGet ((q (sChan (fun c => { c with arriving := [msgTo 5 3] })) (.messageArrival 0 (msgTo 5 3))).seq 0).queues 2 []).map
      (fun m => (m.gen, m.cause)) = [(9, 0x183)] := by decide +kernel
theorem meets_HardwarePosts :
    let s := sChan (fun c => { c with held := [msgTo 2 9, msgTo 63 9], queues := [(2, List.replicate 16 (msgTo 2 9))] })
    let room (m : Msg) : Bool := decide ((tabGet (s.seq 0).queues m.ch.toNat []).length +
      ((s.seq 0).arriving.filter (fun x => x.ch.toNat == m.ch.toNat)).length < 16)
    (s.seq 0).held.find? room = some (msgTo 63 9) ∧ [msgTo 2 9].find? room = none := by decide +kernel
/-- Three channels hold messages. -/
def sTasks : State := sChan (fun c => { c with queues := [(2, [msgTo 2 9]), (40, [msgTo 40 9]), (63, [msgTo 63 9])] })
/-- R307: of two channels of priority 7 the lower number goes first. -/
theorem test_task_start : (((q sTasks (.taskStart 0)).seq 0).rd 4, ((q sTasks (.taskStart 0)).seq 0).pc,
    fieldOf ((q sTasks (.taskStart 0)).seq 0).msginfo.toNat 0 6) = (0x44, 1032, 40) := by decide +kernel
theorem meets_TaskStarts :
    let s := sTasks
    (s.seq 0).running = false ∧ s.seqFree 0 = true ∧ s.selectChannel 0 = some 40 ∧ tabGet (s.seq 0).queues 40 [] = [msgTo 40 9] ∧
      (entryOfChannel s 0 40).testBit 19 = true ∧ fieldOf (entryOfChannel s 0 40) 20 8 = 9 ∧ (s0.seq 0).running = true ∧
      (sChan (fun c => { c with queues := [(40, [msgTo 40 8])] })).selectChannel 0 = some 40 ∧ (sChan id).selectChannel 0 = none := by
  decide +kernel
theorem meets_ChannelSelection : sTasks.selectChannel 0 = some 40 ∧ sTasks.selectable 0 63 = true := by decide +kernel
/-- Two members of span 7, of launches 0 and 1 on sequencers 0 and 1, have reported a phase. -/
def sSpan (r : Nat) : State :=
  let m (k r : Nat) : SpanMember := { launch := k, bar := 3, ch := 5, gen := 1, reported := r, base := 0 }
  { (s0.setLaunch 1 { lOne with seqn := 1 }) with spans := [(7, { ctx := 0, m := 2, members := [m 0 1, m 1 r], done := 0 })] }
theorem meets_SpanPhases :
    let done (r : Nat) : Bool := match tabFind (sSpan r).spans 7 with
      | some v => decide (v.members.length = v.m ∧ ∀ m, m ∈ v.members → v.done < m.reported ∧ (sSpan r).spanHeld 7 m = false)
      | none => false
    done 1 = true ∧ done 0 = false ∧ ((sSpan 1).launch 0).map (fun l => (l.live, l.seqn)) = some (true, 0) ∧
      ((sSpan 1).launch 1).map (fun l => (l.live, l.seqn)) = some (true, 1) := by decide +kernel
def waitFor (a : Pending) : Waiting := { act := a, bus := 0x9000, bytes := [1, 2], addr := 0x7000000000009000, tag := none, since := 5 }
def sWaitHost (a : Pending) : State := withCur s0 (fun c => { c with waiting := some (waitFor a) })
/-- The answer of a load is the bytes that the host holds there. -/
theorem test_host_answer :
    let s := (sWaitHost (.load 6)).storeNat (hostLoc 0x9000) 2 0x5678
    (((q s (.hostCompletion 0 0x5678)).seq 0).rd 6, ((q s (.hostCompletion 0 0x5679)).seq 0).waiting.isSome) = (0x5678, true) := by
  decide +kernel
theorem meets_SequencerEvents :
    let d := withCur s0 (fun c => { c with wdogDue := true })
    let t := withCur s0 (fun c => { c with stop := some { cause := .seqTrap, resume := 516 } })
    (d.seq 0).wdogDue = true ∧ (d.seq 0).running = true ∧ d.seqFree 0 = true ∧ (s0.seq 0).wdogDue = false ∧
      ((sWaitHost .store).seq 0).waiting = some (waitFor .store) ∧ ((sWaitHost (.load 6)).seq 0).waiting = some (waitFor (.load 6)) ∧
      (waitFor .store).since + 100000 ≤ 100005 ∧ s0.now < (waitFor .store).since + 100000 ∧
      (({ sWaitHost .store with now := 100005 }).seq 0).waiting = some (waitFor .store) ∧ (waitFor .store).tag = none ∧
      (({ waitFor .store with tag := some 9 }).tag).isSome = true ∧
      leNat (memBytes (sWaitHost (.load 6)).mem (hostLoc 0x9000) 2) = 0 ∧
      (t.seq 0).stop = some { cause := .seqTrap, resume := 516 } ∧ t.recordWaits 0 = false ∧ (s0.seq 0).stop = none ∧
      Memory.wf (sWaitHost .store).mem = true := by decide +kernel
/-- Tile 0 of a launch with DEBUG uses target 0; target 300 is not used. -/
theorem meets_LaunchControls :
    let s := sBoth.setLaunch 0 { Launch.placed with debug := true }
    let legal (v : Nat) : Bool := decide (fieldOf v 0 11 < 1536) && (Launch.placed.covers (fieldOf v 0 11)) &&
      (s.tile (fieldOf v 0 11)).plane.used (fieldOf v 11 9)
    s.seqLaunch 0 = some 0 ∧ (s.launch 0).map (fun l => l.debug) = some true ∧ legal 0 = true ∧ legal (300 * 2 ^ 11) = false ∧
      (s0.launch 0).map (fun l => l.debug) = some false := by decide +kernel


/-! ### Loads, swaps, pre-emption and resumption -/

/-- An image of one tile without a block and 512 bytes of tasks at 8 MiB (R128). -/
def imageHead : Nat := 0x0031474643564E52 + 2 ^ 64 + 64 * 2 ^ 96 + 72 * 2 ^ 224 + 512 * 2 ^ 256 + 584 * 2 ^ 288
def lLoad (image : Word) : Launch := { lOne with phase := .loading, image := image, payload := [1, 2, 3, 4] }
def sImage (l : Launch) : State :=
  let s := (begun 4 0 (List.replicate 17 0)).storeNat (dpaLoc 0x800000) 64 imageHead
  (s.setLaunch 0 l).setItem 0 { item0 s with phase := .running, launch := some 0 }
theorem meets_LaunchStarts :
    let l := lLoad 0x800000
    let s := sImage l
    s.biasReady l = true ∧ s.loadRecordWaits l.ctx = false ∧ (item0 s).phase = .running ∧
      (match s.loadImage 0 l 0x800000 with
       | .ok u => decide (u.launch 0 = some l ∧ u.item 0 = s.item 0 ∧ u.pctxs = [] ∧ Memory.wf u.mem = true) &&
          (match u.taskSection l 0x800000 with
           | .ok (len, task) => decide (len = 512 ∧ task.length = 512)
           | .error _ => false)
       | .error _ => false) = true ∧ (∀ x, x ∈ l.tiles → x < 1536) := by decide +kernel
def loadFails (s : State) (l : Launch) (xlt : Bool) : Bool :=
  match s.loadImage 0 l l.image.toNat with | .ok _ => false | .error e => e.cause.isXlt == xlt
theorem meets_LaunchLoadFails :
    loadFails (sImage (lLoad 0x80000000)) (lLoad 0x80000000) true = true ∧
      loadFails (sImage (lLoad 0x900000)) (lLoad 0x900000) false = true ∧ (sImage (lLoad 0x900000)).biasReady (lLoad 0x900000) = true ∧
      ({ (lLoad 0) with loadHeld := true }).loadHeld = true ∧ (sImage (lLoad 0x900000)).loadRecordWaits 0 = false ∧
      (match exec (.imageLoadComplete 0) (sImage (lLoad 0x80000000)) with
       | .next t => t.loadRecordWaits 0
       | _ => false) = true := by decide +kernel
/-- The launch runs and loads a second image. -/
def lShadow : Launch := { lOne with image := 0x800000, shImage := 0x800000, shadow := .loading, shPost := some (5, 1) }
theorem meets_ShadowLoads :
    (match (sImage lShadow).loadImage 0 lShadow lShadow.shImage.toNat with
     | .ok u => decide ((u.launch 0).map (fun v => (v.phase, v.seqn)) = some (.running, 0)) &&
        (match u.taskSection lShadow lShadow.shImage.toNat with | .ok _ => true | .error _ => false)
     | .error _ => false) = true ∧ (sImage lShadow).loadRecordWaits 0 = false := by decide +kernel
/-- Its second plane is loaded and the token is asked for; `stray` is a token at target 0 of its tile. -/
def lReconf : Launch := { lOne with shadow := .loaded, reconf := some (5, 1) }
def sReconf (passed : Bool) (stray : List Token) : State :=
  let s := (s0.setLaunch 0 lReconf).setTile 0 { Tile.reset with launch := some 0, passed := passed, shadow := some Plane.empty }
  s.setArc 0 { Arc.reset with queue := stray }
theorem meets_TokenPasses :
    let s := sReconf false []
    let d := sReconf false [dat 1]
    let busy := s.setPctx 0 { PCtx.reset with st := .running, launch := some 0 }
    lReconf.covers 0 = true ∧ (s.tile 0).passed = false ∧ (s.tile 0).strayed = false ∧ (d.tile 0).launch = some 0 ∧
      d.group lReconf 0 = [0] ∧ s.group lReconf 0 = [0] ∧ s.enginesDrained 0 lReconf = true ∧
      s.mayPass lReconf [0] 0 = true ∧ s.strayAt 0 = none ∧ d.mayPass lReconf [0] 0 = true ∧ d.enginesDrained 0 lReconf = true ∧
      (d.strayAt 0).isSome = true ∧ busy.enginesDrained 0 lReconf = false := by decide +kernel
theorem meets_PlaneSwaps :
    let s := sReconf true []
    s.enginesDrained 0 lReconf = true ∧ (∀ x, x ∈ lReconf.tiles → (s.tile x).passed = true ∧ (s.tile x).settled = true) ∧
      lReconf.tiles.Nodup ∧ ((sReconf false []).tile 0).passed = false ∧
      (let b := s.setTile 0 { s.tile 0 with reqs := [(0, [{ a := dat 0, b := dat 0, psn := false }])] }
       (b.tile 0).passed = true ∧ (b.tile 0).settled = false) := by decide +kernel
theorem meets_SwapsRefused :
    let l := { lReconf with frozen := true, lcause := some Cause.flowTrap }
    let s := (sReconf true []).setLaunch 0 l
    l.tiles.Nodup ∧ l.phase = .running ∧ s.pctxs = [] ∧ (∀ x, x ∈ l.tiles → s.passGroup 0 l x = none) := by decide +kernel
theorem meets_DrainWatches :
    let s := withCur (s0.setLaunch 0 lOne) (fun c => { c with drainWatch := some (5, 1) })
    (s.seq 0).drainWatch = some (5, 1) ∧ s.seqLaunch 0 = some 0 ∧ s.drained 0 lOne = true ∧
      (s.setPctx 0 { PCtx.reset with st := .running, launch := some 0 }).drained 0 lOne = false := by decide +kernel
/-- Packages 1 and 2, INT32, 2 elements, COLLID 7, on engine 0: its root and its kind. -/
def collV (root kind : Nat) : Nat :=
  0x400000 + 0x500000 * 2 ^ 64 + 2 * 2 ^ 128 + 6 * 2 ^ 192 + kind * 2 ^ 256 + 2 * 2 ^ 260 + 2 * 2 ^ 267 + root * 2 ^ 272 + 7 * 2 ^ 304
def collOf (root kind : Nat) : Coll :=
  { ctx := 0, launch := some 0, seqn := 0, post := (5, 1), cfg := 0, desc := BitVec.ofNat 512 (collV root kind), active := true,
    inputs := [CollIn.reset, CollIn.reset], down := CollIn.reset, src := 0, srcLen := none, formed := 0, upUnits := 0, downUnits := 0,
    taken := 0, wrote := 0, needed := 8, status := 0, psn := false, sentUp := false, complete := false, failed := none,
    cancelled := false, told := false }
theorem meets_PreEmptions :
    let s (l : Launch) := (begun 4 0 []).setLaunch 0 l
    let a := { lOne with asked := true }
    let pair := { item0 (begun 2 0x8000 [8191, 3, 0]) with phase := .running }
    let edge := { (collOf 1 0) with desc := BitVec.ofNat 512 (collV 1 0 + 2 ^ 262) }
    let opened := { s a with net := { (s a).net with colls := [(7, edge)] } }
    lOne.tiles.Nodup ∧ (s lOne).mustStop 0 lOne = false ∧ (s a).mustStop 0 a = true ∧ (s a).openColl 0 = false ∧
      (item0 (s a)).inPair = false ∧ (s a).item a.item = some (item0 (s a)) ∧ pair.inPair = true ∧ a.frozen = false ∧
      (s { a with frozen := true }).mustStop 0 { a with frozen := true } = true ∧
      (s { lOne with phase := .stopping, frozen := true }).pctxsOf 0 = [] ∧ (s lOne).copiesOf 0 = [] ∧ (s lOne).collsOf 0 = [] ∧
      opened.openColl 0 = true ∧ (item0 ((s a).setItem 0 { item0 (s a) with phase := .running })).phase = .running := by
  decide +kernel
theorem meets_LaunchesEnd :
    let g := { lOne with phase := .loading, asked := true }
    let c := { lOne with phase := .stopping, endCause := some Cause.schPreemptFrozen }
    let s (l : Launch) := (begun 4 0 []).setLaunch 0 l
    (s g).saving = false ∧ (s g).mustStop 0 g = true ∧ (s g).placed g = true ∧ (s c).placed c = true ∧ (s c).endable 0 c = true ∧
      ((s c).setPctx 0 { PCtx.reset with st := .running, launch := some 0, tag := some 9 }).endable 0 c = false ∧
      (let r := { c with phase := .running }
       let s (l : Launch) := (s l).setSeq 0 { (s l).seq 0 with running := false }
       (s r).retirable 0 r = true ∧ (s r).placed r = true ∧
         ((s r).setPctx 0 { PCtx.reset with st := .running, launch := some 0, tag := some 9 }).retirable 0 r = false) := by
  decide +kernel

/-- The save area of launch 0 lies in it. -/
def keptNone : Saved :=
  { seq := Seq.reset, tiles := [], arcs := [], pctxs := [], bytes := [], poison := [], full := [], load := none, posted := false, img := 0, rcp := none }
def lSave (p : LaunchPhase) : Launch := { lOne with phase := p, savea := 0x1000000000000000, saved := some keptNone }
def sSave (p : LaunchPhase) : State :=
  (sOwn.setLaunch 0 (lSave p)).setItem 0 (item0 (begun 4 0 []))
theorem sSave_owns (p : LaunchPhase) : (sSave p).ownsIsland 0 :=
  sOwn_owns
theorem meets_Saves :
    let s := sSave .stopping
    let l := lSave .stopping
    s.launch 0 = some l ∧ s.saving = false ∧ (s.seq 0).waiting = none ∧ s.quiescent 0 l = true ∧
      (∃ u, s.saveArea l (s.keepLaunch 0 l keptNone) = .ok u ∧ u.placed l = true ∧ u.launches = s.launches ∧ u.pctxs = s.pctxs) ∧
      s.pctxsOf 0 = [] ∧ s.copiesOf 0 = [] ∧ s.collsOf 0 = [] ∧
      (∃ u, s.saveArea { l with savea := 0x9000000000000000 } (s.keepLaunch 0 l keptNone) = .error u ∧ u.launches = s.launches ∧
        u.pctxs = [] ∧ u.copies = [] ∧ u.net.colls = []) ∧
      (let t := { s with copies := [(0, { jMove 0 with launch := some 0, dsta := 0x2000000000000000 })] }
       t.quiescent 0 l = false) := by
  refine ⟨rfl, by decide +kernel, rfl, by decide +kernel, ?_, rfl, rfl, rfl, ?_, by decide +kernel⟩
  · obtain ⟨m, p, n, c, e⟩ := saveArea_owned (sSave .stopping) (lSave .stopping) ((sSave .stopping).keepLaunch 0 (lSave .stopping) keptNone)
      (sSave_owns _) (by decide) (by decide) (by decide)
    refine ⟨_, e, ?_, rfl, rfl⟩
    show (sSave .stopping).placed (lSave .stopping) = true
    decide +kernel
  · have h (s : State) (l : Launch) (v : Saved) (x : Cause)
        (b : ∀ s : State, (s.check { ctx := some l.ctx } 0 [] .write (word (l.savea.toNat + 0)) 8).1 = .bad x) :
        s.saveArea l v = .error s.bump := by
      simp only [State.saveArea, State.saveWords, b]
    exact ⟨_, h _ _ _ .memBadPath (fun _ => rfl), rfl, rfl, rfl, rfl⟩
theorem meets_SaveHeaders : lOne.ctx < 2 ^ 12 ∧ lOne.saveLen = 671744 := by decide +kernel
/-- A header of the area stands for the saved launch, and without one it does not. -/
theorem meets_Resumptions :
    let s := (sSave .saved).setSeq 0 Seq.reset
    let l := lSave .saved
    (∃ (bs : List Byte) (h : Nat), ({ s with mem := memPut s.mem (islandLoc 0 0) bs } : State).savedHeader l = some h ∧ h < 2 ^ 384) ∧
      s.savedHeader l = none ∧
      (s.clearPick 0).isSome = true ∧ s.biasReady l = true ∧ s.blocksFree l = true ∧ l.tiles.Nodup ∧ l.whold = false ∧
      s.pctxsOf 0 = [] ∧ s.copiesOf 0 = [] ∧ s.collsOf 0 = [] ∧ (∀ x, x ∈ keptNone.pctxs → (s.pctx x.1).st = .free) := by
  refine ⟨savedHeader_owned _ (lSave .saved) (sSave_owns .saved) (by decide) (by decide) (by decide) rfl rfl (by decide +kernel) (by decide)
    (by decide) (by decide +kernel),
    savedHeader_magic _ _ (sSave_owns .saved) (by decide) rfl rfl (by decide +kernel), ?_, ?_, ?_, ?_, rfl, rfl, rfl, rfl,
    ?_⟩ <;> decide +kernel


/-! ### The domain -/

/-- Package 1 of a domain; port 3 leads to package 2. -/
def sDom : State :=
  let s := mapped s0
  { s with ctl := { s.ctl with domid := 0x41, bootst := 3 }, net := { s.net with ports := [(3, { Port.reset with up := true, peer := 2 })], routes := [(2, 19)] } }
/-- A flit from package 2 that stands. -/
def flitOf (type dst tag len16 pmask sub addr : Nat) (ws : List Nat) : Flit := (mkFlit type 2 dst 0 tag len16 pmask sub addr ws).seal 1 0 false
/-- R271: the check value of CRC-64/ECMA-182. -/
theorem test_crc64 : crc64 (ascii "123456789") = 0x6C40DF5F0B497347 := by decide +kernel
/-- The port holds a flit that it has sent and has got a NAK, after `n` failed replays. -/
def sNaked (n : Nat) : State :=
  sDom.setPort 3 { sDom.port 3 with buffer := [flitOf 0 1 0 0 0 0 0 []], failed := n, naked := true }
theorem meets_LinkEvents :
    let good := flitOf 8 1 0 0 0 0 0 []
    let bad := { good with trailer := 0 }
    good.crcOk = true ∧ bad.crcOk = false ∧ (sDom.port 3).up = true ∧ 8 ≤ good.type ∧ (flitOf 0 1 0 15 0 0 0 []).len16 = 15 ∧
      good.seqNo % 2 ^ 16 = ((sDom.port 3).received.toNat + 1) % 2 ^ 16 ∧ ((sNaked 7).port 3).up = true ∧
      ((sNaked 7).port 3).naked = true ∧ ((sNaked 7).port 3).buffer ≠ [] ∧ ((sNaked 7).port 3).failed = 7 ∧
      ((sNaked 8).port 3).failed = 8 ∧ (sDom.port 3).naked = false ∧
      (flitOf 7 1 0 14 0 0 0 []).type < 8 ∧ (flitOf 7 1 0 14 0 0 0 []).len16 ≠ 15 ∧
      ((flitOf 8 1 0 0 0 0 0 []).seal 2 0 false).seqNo % 2 ^ 16 ≠ ((sDom.port 3).received.toNat + 1) % 2 ^ 16 ∧
      (11 : Nat) < 12 ∧ sDom.part.ports.getLsbD 11 = true ∧ fieldOf sDom.ctl.bootst.toNat 0 4 = 3 ∧
      fieldOf ({ sDom with ctl := { sDom.ctl with bootst := 1 } }).ctl.bootst.toNat 0 4 = 1 ∧
      (sDom.port 3).pending = [] ∧ ((sDom.port 3).buffer.filter (fun g => g.cls == good.cls)).length < 85 := by decide +kernel
/-- R271: UP stays while the eighth replay goes out, and clears once that has failed too. -/
theorem test_eighth_replay : ((q (sNaked 7) (.flitReplay 3)).port 3).up = true ∧
    ((q (sNaked 8) (.flitReplay 3)).port 3).up = false := by decide +kernel
theorem meets_FlitsForwarded :
    let f := flitOf 1 2 0 1 0 0 0 []
    f.crcOk = true ∧ (sDom.port 3).up = true ∧ f.type < 8 ∧ f.len16 < 15 ∧ f.dstp ≠ sDom.pkg ∧ sDom.routeTo f.dstp = some 3 ∧
      f.seqNo % 2 ^ 16 = ((sDom.port 3).received.toNat + 1) % 2 ^ 16 ∧
      (f.seal 2 0 false).seqNo % 2 ^ 16 ≠ ((sDom.port 3).received.toNat + 1) % 2 ^ 16 ∧ (f.seal 2 0 false).crcOk = true ∧
      sDom.routeTo (flitOf 1 5 0 1 0 0 0 []).dstp = none := by decide +kernel
/-- Read, write and atomic requests of `n` bytes. -/
def readOf (n addr : Nat) : Flit := flitOf 1 1 9 1 0 0 addr [0, n]
def writeOf (n pmask addr : Nat) : Flit := flitOf 2 1 9 2 pmask 0 addr [0x11, 0x22, 0, n]
def atomicOf (n sub addr : Nat) : Flit := flitOf 3 1 9 2 0 sub addr [3, 5, 1, n]
theorem meets_PeerFaults :
    let u (f : Flit) := sDom.acceptOn 3 f
    sDom.routeTo 2 = some 3 ∧ (readOf 0 0).srcp = 2 ∧ sDom.takes 3 (readOf 0 0) 1 = true ∧ (readOf 0 0).lastWord = 0 ∧
      (readOf 224 0x80000000).lastWord = 224 ∧ isErr ((u (readOf 8 0x80000000)).peerPlace 0 0x80000000 .read 8) .xltNotMapped = true ∧
      sDom.takes 3 (writeOf 0 0 0) 2 = true ∧ (writeOf 0 0 0).lastWord = 0 ∧
      isErr ((u (writeOf 8 0 0x80000000)).peerPlace 0 0x80000000 .write 8) .xltNotMapped = true ∧
      sDom.takes 3 (atomicOf 2 0 0) 3 = true ∧ (atomicOf 2 0 0).lastWord = 2 ∧ (atomicOf 8 8 0).sub = 8 ∧ (atomicOf 8 7 4).addr % 8 ≠ 0 ∧
      isErr ((u (atomicOf 4 0 0x80000000)).peerPlace 0 0x80000000 .atomic 4) .xltNotMapped = true := by decide +kernel
theorem meets_PeerReadsAndWrites :
    let u (f : Flit) := sDom.acceptOn 3 f
    Memory.wf sDom.mem = true ∧ sDom.takes 3 (readOf 224 0x400000) 1 = true ∧
      isOk ((u (readOf 224 0x400000)).peerPlace 0 0x400000 .read 224) [(dpaLoc 0x400000, 224)] = true ∧
      isOk ((u (readOf 224 0x43FFF0)).peerPlace 0 0x43FFF0 .read 224) [(dpaLoc 0x43FFF0, 16), (dpaLoc 0x440000, 208)] = true ∧
      (bytePlaces [(dpaLoc 0x400000, 16)]).Nodup ∧ sDom.granulePoison (dpaLoc 0x400000) = false ∧
      ({ sDom with poison := [dpaLoc 0x400000 / 16] }).granulePoison (dpaLoc 0x400000) = true ∧
      sDom.takes 3 (writeOf 16 0 0x400000) 2 = true ∧ (writeOf 16 0 0x400000).pmask = 0 ∧ (writeOf 16 2 0x400000).pmask ≠ 0 ∧
      (writeOf 16 0 0x400000).lastWord = 16 ∧
      isOk ((u (writeOf 16 2 0x400000)).peerPlace 0 0x400000 .write 16) [(dpaLoc 0x400000, 16)] = true := by decide +kernel
theorem test_peer_write : memNat (q sDom (.writeRequest ⟨3, (writeOf 16 0 0x400000)⟩)).mem (dpaLoc 0x400000) 16 = 0x11 + 0x22 * 2 ^ 64 := by
  decide +kernel
theorem meets_PeerAtomics :
    let f := atomicOf 8 7 0x400000
    sDom.takes 3 f 3 = true ∧ f.sub < 8 ∧ f.lastWord = 8 ∧ f.addr % 8 = 0 ∧
      isOk ((sDom.acceptOn 3 f).peerPlace 0 0x400000 .atomic 8) [(dpaLoc 0x400000, 8)] = true ∧ sDom.dataError (dpaLoc 0x400000) 8 = none ∧
      (let p := { sDom with poison := [dpaLoc 0x400000 / 16] }
       p.takes 3 f 3 = true ∧ isOk ((p.acceptOn 3 f).peerPlace 0 0x400000 .atomic 8) [(dpaLoc 0x400000, 8)] = true ∧
        p.dataError (dpaLoc 0x400000) 8 = some .memDataError) := by
  decide +kernel
/-- A sequencer waits for the response of tag 9. -/
def sAsk (a : Pending) : State :=
  let w : Waiting := { act := a, bus := 0, bytes := [1, 2], addr := 0x6020000000001000, tag := some 9, since := 5 }
  let s := sDom.setSeq 0 { sDom.seq 0 with waiting := some w }
  { s with net := { s.net with reqs := [(9, { who := .seq 0, dst := 2, addr := 0x6020000000001000, since := 5 })] } }
theorem meets_PeerAnswers :
    let r (sub pmask : Nat) := flitOf 4 1 9 1 pmask sub 0 [Cause.xltNotMapped.code]
    (((sAsk (.load 6)).seq 0).waiting.map (fun w => w.tag)) = some (some 9) ∧ (sAsk .store).takes 3 (r 0 0) 4 = true ∧ (r 0 0).tag = 9 ∧
      (r 0 0).srcp = 2 ∧ (r 0 1).pmask ≠ 0 ∧ (r 1 0).respCause = some .xltNotMapped ∧
      tabFind sDom.net.reqs 9 = none ∧ (sAsk .store).takes 3 (r 0 1) 4 = true ∧
      ({ sAsk .store with now := 100005 }).takes 3 (r 0 0) 4 = true ∧ 5 + 100000 ≤ ({ sAsk .store with now := 100005 }).now ∧ (sAsk .store).now < 5 + 100000 := by
  decide +kernel
theorem test_response : ((q (sAsk (.load 6)) (.response ⟨3, (flitOf 4 1 9 1 0 0 0 [0x12345678])⟩)).seq 0).rd 6 = 0x5678 := by decide +kernel

/-! ### Collectives -/

def sColl (c : Coll) : State := { sDom with net := { sDom.net with colls := [(7, c)] } }
theorem meets_CollectiveFlits :
    let c := collOf 1 0
    let d := collOf 2 0
    let s := sColl c
    let sum := flitOf 5 1 0 1 0 0 7 [3]
    let ctrl (x : Nat) := flitOf 6 1 0 1 0 0 7 [x, 0]
    let late := { s with net := { s.net with early := [sum] } }
    (s.collById 7).map (fun x => x.1) = some 7 ∧ c.from? s.pkg 2 = some 1 ∧ d.from? s.pkg 2 = some 0 ∧ c.active = true ∧
      s.takes 3 sum 5 = true ∧ sum.addr % 65536 = 7 ∧ Launch.placed.recMode = 0 ∧
      (∀ x, x ∈ List.range 5 → s.takes 3 (ctrl x) 6 = true ∧ (ctrl x).pay 0 = x) ∧ s.net.early = [] ∧
      late.net.early ≠ [] ∧ (∀ f, f ∈ late.net.early → f.addr % 65536 = 7) ∧ late.takes 3 (ctrl 1) 6 = true ∧
      c.failed = none ∧ c.complete = false ∧ (sColl { c with active := false }).collById 7 = some (7, { c with active := false }) ∧
      (c.input 1).met = false ∧ (c.input 1).heard + 1000000 ≤ ({ s with now := 1000000 }).now ∧ s.now < 1000000 ∧
      ({ s with now := 1000000 }).takes 3 sum 5 = true := by decide +kernel
/-- A digest of word `x` for collective 7. -/
def digestOf (x : Word) : Flit := flitOf 6 1 0 1 0 0 7 [0, x.toNat]
theorem digestOf_pay (x : Word) : BitVec.ofNat 64 ((digestOf x).pay 1) = x ∧ (digestOf x).pay 0 = 0 := by
  have p : (digestOf x).payload = BitVec.ofNat 1792 (packWords [0, x.toNat]) := rfl
  have h := x.isLt
  constructor
  · refine BitVec.eq_of_toNat_eq ?_
    simp only [Flit.pay, p, packWords, bits, BitVec.toNat_ofNat]
    omega
  · simp only [Flit.pay, p, packWords, bits, BitVec.toNat_ofNat]
    omega
theorem digestOf_takes (x : Word) : (sColl (collOf 1 0)).takes 3 (digestOf x) 6 = true := by
  have e : (digestOf x).crcOk = true := Flit.crcOk_seal _ _ _ _
  have n : (digestOf x).seqNo = 1 := Flit.seqNo_seal _ _ _ _
  have h : (digestOf x).header = (flitOf 6 1 0 1 0 0 7 []).header := rfl
  simp only [State.takes, e, Flit.type, Flit.len16, Flit.dstp, Flit.field, h, Port.next, n]
  decide +kernel
/-- A digest that agrees, and one that does not, whatever the digest of the collective is. -/
theorem meets_CollectiveFlits_digest :
    let c := collOf 1 0
    (∃ f, (sColl c).takes 3 f 6 = true ∧ f.pay 0 = 0 ∧ BitVec.ofNat 64 (f.pay 1) = Config.collDigest c.shared) ∧
      (∃ f, (sColl c).takes 3 f 6 = true ∧ f.pay 0 = 0 ∧ BitVec.ofNat 64 (f.pay 1) ≠ Config.collDigest c.shared) := by
  intro c
  refine ⟨⟨_, digestOf_takes _, (digestOf_pay _).2, (digestOf_pay _).1⟩,
    ⟨_, digestOf_takes (Config.collDigest c.shared + 1), (digestOf_pay _).2, ?_⟩⟩
  rw [(digestOf_pay _).1]
  intro h
  have e := congrArg (fun v => v - Config.collDigest c.shared) h
  rw [BitVec.add_comm, BitVec.add_sub_cancel, BitVec.sub_self] at e
  exact absurd e (by decide)
theorem meets_CollectiveSteps :
    let c := collOf 1 0
    let s := sColl c
    let idle := sColl { c with active := false }
    let ovr := { c with inputs := [{ CollIn.reset with ended := true }, CollIn.reset], formed := 2,
                         down := { CollIn.reset with units := [(9, false)] }, sentUp := true }
    let bar := { collOf 1 4 with inputs := [CollIn.reset, { CollIn.reset with ended := true }] }
    let two (root kind : Nat) := { collOf root kind with src := 8, inputs := [{ CollIn.reset with units := [(3, false)], ended := true },
      { CollIn.reset with units := [(4, true)] }] }
    let scat := { collOf 1 1 with inputs := ovr.inputs, formed := 2, sentUp := true, down := { CollIn.reset with units := [(9, true)] } }
    (s.coll (65536 * 0 + (7 : BitVec 16).toNat)).isSome = true ∧ clSparse c.v = false ∧ clVt c.v = 2 ∧
      (idle.net.colls.filter (fun x => x.1 / 65536 == 0 && x.2.active)).length < 4 ∧
      (let four := { idle with net := { idle.net with colls := idle.net.colls ++ [(8, c), (9, c), (10, c), (11, c)] } }
       4 ≤ (four.net.colls.filter (fun x => x.1 / 65536 == 0 && x.2.active)).length) ∧
      clKind c.v = 0 ∧ clSrcf c.v = false ∧ (c.input 0).ended = false ∧ c.src + 8 ≤ 4 * clCount c.v ∧ (clSrca c.v + c.src) % 8 = 0 ∧
      s.collPlace c .read (clSrca c.v + c.src) 8 = .ok (dpaLoc 0x400000) ∧ s.dataError (dpaLoc 0x400000) 8 = none ∧
      (ovr.input 0).ended = true ∧ ((sColl ovr).collForm 7 ovr).isNone = true ∧ ovr.reduced 1 = false ∧ Memory.wf s.mem = true ∧
      (sColl ovr).collPlace ovr .write (clDsta ovr.v + 4 * ovr.taken) 4 = .ok (dpaLoc 0x500000) ∧
      s.net.early = [] ∧ (∀ q, q ∈ c.neighbours s.pkg → s.routeTo q ≠ none) ∧ c.inputs ≠ [] ∧ clKind bar.v = 4 ∧ bar.sentUp = false ∧
      (∀ x, x ∈ bar.inputs.drop 1 → x.ended = true) ∧ clRank bar.v 1 = 0 ∧
      (∀ k, k ∈ [0, 2, 3] → ((sColl (two 1 k)).collRead 7 (two 1 k)).isNone = true ∧ (two 1 k).formed < clFormed (two 1 k).v 0) ∧
      clRank (two 2 0).v 1 ≠ 0 ∧ s.routeTo (clPkg (two 2 0).v ((clRank (two 2 0).v 1 - 1) / 2)) = some 3 ∧ (two 2 0).ctx < 4096 ∧
      clInputOf (two 1 2).v 0 0 = 0 ∧ clCount scat.v / clSize scat.v = 1 ∧ clKind scat.v = 1 ∧
      ((sColl scat).collForm 7 scat).isNone = true ∧ ((sColl scat).collRead 7 scat).isNone = true ∧
      (sColl scat).collPlace scat .write (clDsta scat.v) 4 = .ok (dpaLoc 0x500000) ∧
      clVt (collV 1 0 - 2 ^ 260) = 1 ∧ rootValue (collV 1 0 - 2 ^ 260) 0x3F808001 = 0x3F81 := by decide +kernel
/-- The sum clamps at both ends of INT32. -/
theorem meets_CollectiveSums :
    (2 ^ 31 : Int) ≤ toSigned 32 0x7FFFFFFF + toSigned 32 1 ∧ toSigned 32 0x80000000 + toSigned 32 0xFFFFFFFF < -2 ^ 31 ∧
      (-2 ^ 31 : Int) ≤ toSigned 32 0x80000000 + toSigned 32 0 := by decide +kernel
/-- The same tree for sparse records: FILL 1, DCAP 32 and the status at 0x500800. -/
def sparseOf (root kind : Nat) : Coll :=
  { collOf root kind with
    desc := BitVec.ofNat 512 (collV root kind + 2 ^ 259 + 2 ^ 263 + 2 ^ 280 + 32 * 2 ^ 320 + 0x500800 * 2 ^ 384), needed := 0 }
/-- The record of index `i` with value `x`. -/
def recUnit (i x : Nat) (p : Bool := false) : Word × Bool := (BitVec.ofNat 64 (i * 2 ^ 32 + x), p)
def sparseTwo : Coll :=
  let i (us : List (Word × Bool)) : CollIn := { CollIn.reset with units := us, ended := true }
  { sparseOf 1 0 with inputs := [i [recUnit 5 1], i [recUnit 5 2, recUnit 4097 3]] }
def sparseParts : List WinPart := sparseTwo.inputs.map (fun x => CollIn.takeWindow 0 (x.units.length + 1) x)
theorem meets_SparseWindows :
    collItem [recUnit 5 1] = some (.one 5 1 false, []) ∧ (CollItem.one 5 1 false).disorder (some 5) = true ∧
      (CollItem.one 5 1 false).disorder none = false ∧ sparseTwo.nextWindow.map (fun x => (x.1, x.2.length)) = some (0, 2) ∧
      sparseParts.map (fun p => p.vals) = [[(5, 1, false)], [(5, 2, false)]] ∧ sparseParts.map (fun p => p.dense) = [false, false] ∧
      clFill sparseTwo.v = 1 ∧ (clWindow sparseTwo.v 0 sparseParts).1 = [recUnit 5 3] := by decide +kernel
theorem meets_SparseSteps :
    let i (us : List (Word × Bool)) (e : Bool) : CollIn := { CollIn.reset with units := us, ended := e, met := true, settled := true }
    let c := { sparseOf 1 0 with inputs := [i [] false, i [] false] }
    let s := sColl c
    let win := { c with inputs := [i [recUnit 5 1] true, i [recUnit 5 2 true] true] }
    let up := { sparseOf 2 0 with inputs := [i [recUnit 5 1] true] }
    let res (us : List (Word × Bool)) := { c with inputs := [i [] true, i [] true], sentUp := true, down := { i us true with settled := false } }
    let idle (d : Coll) : Bool := ((sColl d).collRead 7 d).isNone && ((sColl d).collForm 7 d).isNone && (d.sentUp || !d.reduced 1)
    s.coll (65536 * 0 + (7 : BitVec 16).toNat) = some c ∧ c.tidied = c ∧ c.active = true ∧ s.net.early = [] ∧ clSparse c.v = true ∧
      clSrcf c.v = false ∧ clSrca c.v % 8 = 0 ∧ s.collPlace c .read (clSrca c.v) 8 = .ok (dpaLoc 0x400000) ∧
      s.collPlace c .read (clSrca c.v + 8) 8 = .ok (dpaLoc 0x400008) ∧
      win.tidied = win ∧ ((sColl win).collRead 7 win).isNone = true ∧ (win.nextWindow.map (fun x => x.1)) = some 0 ∧
      up.tidied = up ∧ ((sColl up).collRead 7 up).isNone = true ∧ (up.nextWindow.map (fun x => x.1)) = some 0 ∧
      s.routeTo (clPkg up.v ((clRank up.v 1 - 1) / clFan up.v)) = some 3 ∧
      (∀ p, p ∈ [false, true] → let d := res [recUnit 5 3 p]; idle d = true ∧ d.tidied = d ∧ d.shares 1 0 = true) ∧
      s.collPlace c .write (clDsta c.v + 8) 8 = .ok (dpaLoc 0x500008) ∧ 0 + 16 ≤ clDcap c.v ∧ clDcap c.v < 24 + 16 ∧
      (let d := res []
       idle d = true ∧ d.down.ended = true ∧ d.down.units = [] ∧ d.allMet 1 = true ∧ d.told = false ∧ 8 ≤ clDcap d.v ∧
        (∀ x, x ∈ d.inputs.drop 1 → x.settled = true) ∧ s.collPlace d .write (clDsta d.v) 8 = .ok (dpaLoc 0x500000)) ∧
      (let d := { res [] with told := true, down := i [] true }
       idle d = true ∧ d.tidied = d ∧ d.allMet 1 = true ∧ clStw d.v = true ∧
        s.collPlace d .read (clSta d.v) 8 = .ok (dpaLoc 0x500800) ∧ s.collPlace d .write (clSta d.v) 8 = .ok (dpaLoc 0x500800)) := by
  decide +kernel
theorem meets_CollectiveTree :
    let v := collV 2 0
    clRoot v ∈ clMembers v ∧ 2 ≤ clFan v ∧ clSize v = 2 ∧ 1 ∈ clChildren v 0 := by decide +kernel
theorem meets_CollectiveEnds :
    let c := collOf 1 0
    let d := collOf 2 0
    let s := { sColl c with now := 1000000 }
    (sColl { c with active := false }).coll 7 = some { c with active := false } ∧ clKind c.v ≤ 2 ∧
      clChildren c.v (clRank c.v s.pkg) = [1] ∧ (c.input 1).heard + 1000000 ≤ s.now ∧ (c.input 1).met = false ∧ s.coll 7 = some c ∧
      clChildren d.v (clRank d.v s.pkg) = [] ∧ clRank d.v s.pkg ≠ 0 ∧ d.down.met = false ∧ d.down.heard + 1000000 ≤ s.now ∧
      c.failed = none ∧ c.complete = false ∧ c.cancelled = false ∧
      (s.launch 0).map (fun l => l.live) = some true ∧ ({ c with complete := true }).complete = true := by decide +kernel


/-! ### Fault records, power, keys and start-up -/

/-- A waiting record of context 0; the ring table stands at 128 KiB and gives context 0 a ring of 16 slots at 2 MiB. -/
def recAt (o : Origin) (refused : Bool) : FaultRec :=
  { cause := .xltNotMapped, origin := o, ctx := some 0, stop := false, seqNo := 5, stamp := 100, pos := 3, cfgw := 0, addr := 0x80000000,
    tok0 := some (poisoned 9), tok1 := none, tok2 := none, refused := refused }
def sRing (g : FaultRing) (o : Origin) (entry : Nat) : State :=
  let s := (mapped s0).storeNat (dpaLoc 0x20000) 32 entry
  { s with ctl := { s.ctl with frtbase := 0x8000000020000 }, rings := [(0, g)], records := [recAt o false] }
def ringEntry : Nat := 0x200000 + (4 + 2 ^ 4 + 2 ^ 5 + 7 * 2 ^ 11) * 2 ^ 64
/-- R425: word 0 of the record holds its cause, origin and number; R427: the interrupt of an empty ring goes out. -/
theorem test_fault_record :
    let t := q (sRing FaultRing.reset .seq ringEntry) (.faultRecordWrite 0)
    memNat t.mem (dpaLoc 0x200000) 8 % 2 ^ 9 = Cause.xltNotMapped.code ∧ memNat t.mem (dpaLoc 0x200000) 8 / 2 ^ 40 = 5 ∧
      memNat t.mem (dpaLoc 0x200020) 8 = 0x80000000 ∧ (t.ring 0).pi = 1 ∧ t.sent = [.msix 0 7] := by decide +kernel
theorem meets_RecordLayout : (recAt .seq false).ctx.getD 0 < 4096 ∧ (recAt .seq false).seqNo < 2 ^ 24 := by decide
theorem meets_RecordWrites :
    let s := sRing FaultRing.reset .seq ringEntry
    let full : FaultRing := { FaultRing.reset with pi := 16 }
    let other : State := { s with records := [{ recAt .seq false with ctx := some 9 }, recAt .copy true] }
    let written (s : State) : Bool := match s.writeWords 0 0x200008 ((recAt .seq false).words 0 |>.drop 1) with
      | .ok u => (match u.writeWords 0 0x200000 ((recAt .seq false).words 0 |>.take 1) with | .ok _ => true | .error _ => false)
      | .error _ => false
    s.records[0]? = some (recAt .seq false) ∧ s.ctl.frtbase.getLsbD 51 = true ∧
      memNat s.mem (dpaLoc (fieldOf s.ctl.frtbase.toNat 17 22 * 2 ^ 17)) 32 = ringEntry ∧ ringEntry.testBit 68 = true ∧
      fieldOf ringEntry 64 4 = 4 ∧ ((s.ring 0).pi - (s.ring 0).ci).toNat < 16 ∧ ¬ (full.pi - full.ci).toNat < 16 ∧ written s = true ∧
      s0.ctl.frtbase.getLsbD 51 = false ∧
      memNat other.mem (dpaLoc (fieldOf other.ctl.frtbase.toNat 17 22 * 2 ^ 17 + 32 * 9)) 32 = 0 ∧ (9 : Nat) ≠ other.mctx ∧
      s.dataError (dpaLoc 0x20000) 32 = none ∧ ({ s with poison := [dpaLoc 0x20000 / 16] }).dataError (dpaLoc 0x20000) 32 ≠ none ∧
      other.records[1]? = some (recAt .copy true) ∧ written { s with ctxBase := 0x6000000 } = false := by decide +kernel
theorem meets_RecordWords : Memory.wf (mapped s0).mem = true ∧
    ((mapped s0).check { ctx := some 0 } 0 [] .write 0x200008 8).1 = .ok (.mem (dpaLoc 0x200008)) := by decide +kernel
/-- PI is 5 ahead of CI: 5 is the last value that CI takes. -/
theorem meets_RingIndices :
    let g : FaultRing := { FaultRing.reset with pi := 5 }
    let ahead (v : BitVec 32) : Bool := decide ((g.pi - g.ci).toNat < (v - g.ci).toNat)
    ahead 5 = false ∧ ahead 6 = true ∧ s0.seqCtx 0 = some 0 ∧ s0.seqCtx 0 ≠ some 4095 := by decide +kernel
theorem meets_TranslationRetries :
    let s := withCur s0 (fun c => { c with stop := some { cause := .xltNotMapped, resume := 512 } })
    let go : BitVec 64 := 0x1000
    go.getLsbD 12 = true ∧ s.seqCtx 0 = some (go.toNat % 4096) ∧ (s.seq 0).ctxid.toNat = go.toNat % 4096 ∧ s.recordWaits 0 = false ∧
      (s.seq 0).stop = some { cause := .xltNotMapped, resume := 512 } ∧ s.seqCtx 0 ≠ some 1 ∧
      ({ s with records := [{ recAt .seq false with pos := 0 }] } : State).records ≠ [] := by decide +kernel
/-- A grant of the interval comes at its fiftieth tick and no later. -/
theorem meets_PowerGrants :
    let s : State := { s0.setTile 0 { Tile.reset with launch := some 0 } with now := 4050 }
    s.now ≤ 2000 * (s.now / 2000) + 50 ∧ (let u : State := { s with now := 4051 }; 2000 * (u.now / 2000) + 50 < u.now) ∧
      (∃ v, tabFind s.tiles 0 = some v ∧ v.granted ≤ 2 ∧ (v.launch.bind s.launch).map (fun l => (l.runs, decide (l.joined ≤ 4000))) =
        some (true, true)) := by
  refine ⟨by decide +kernel, by decide +kernel, _, rfl, by decide +kernel, by decide +kernel⟩
/-- R412: a grant that is in time makes the pool 14,500 (c + 1) for class 15. -/
theorem test_power_grant :
    let s := s0.setTile 0 { Tile.reset with launch := some 0 }
    ((({ s with now := 4050 } : State).grantTile 2 (s.tile 0)).pool, ((q { s with now := 4051 } .powerGrant).tile 0).pool) =
      (232000, 0) := by decide +kernel
theorem meets_MarginsAndBias :
    let s : State := { State.reset with now := 100000 }
    (s.launches = [] ∧ (15 : Nat) ∉ s.power.reverse ∧ tabGet s.power.idle 15 0 + 100000 ≤ s.now) ∧
      State.reset.now < tabGet State.reset.power.idle 15 0 + 100000 ∧ s.ctl.adapt.getLsbD 3 = false ∧
      ({ s.ctl with adapt := 8 }).adapt.getLsbD 3 = true := by decide +kernel
/-- 105 degrees sets WARN and 104 do not; 94 let it clear and 95 do not; 120 trip. -/
def warm (v : BitVec 8) (warn : Bool) : State :=
  { s0 with power := { s0.power with sensors := [(16, v)] }, ctl := { s0.ctl with therm := if warn then 0x10000000000 else 0 } }
theorem meets_Temperatures :
    let warns (s : State) (v : BitVec 8) : Bool := s.ctl.therm.getLsbD 40 == false && decide (105 ≤ v.toNat)
    warns s0 105 = true ∧ warns s0 104 = false ∧ warns (warm 105 true) 105 = false ∧
      (∀ x, x < 17 → (tabGet (warm 94 true).power.sensors x 0).toNat < 95) ∧ (warm 94 true).ctl.therm.getLsbD 40 = true ∧
      95 ≤ (tabGet (warm 95 true).power.sensors 16 0).toNat ∧ tabFind (warm 120 true).power.sensors 16 = some 120 ∧
      (∀ p, p ∈ (warm 119 true).power.sensors → p.2.toNat < 120) ∧ s0.power.trip = none ∧
      (let s : State := { s0 with now := 1005, power := { s0.power with trip := some 1000 } }
       s.powered = true ∧ s.power.trip = some 1000 ∧ 1000 ≤ s.now) := by decide +kernel
theorem test_warn : (q s0 (.thermalWarn 16 105)).ctl.therm = 0x36900000000 := by decide +kernel
/-- A request block at host address 4096: its first two words and its length. -/
def request (w len : Nat) : State :=
  let s := (s0.storeNat (hostLoc 4096) 8 w).storeNat (hostLoc 4112) 16 (8192 + len * 2 ^ 64)
  { s with sec := { s.sec with pending := some 4096 } }
theorem meets_KeyRequests :
    let b (w len : Nat) := memNat (request w len).mem (hostLoc 4096) 64
    let bad (x : Nat) : Bool := decide (fieldOf x 0 8 = 0 ∨ 8 ≤ fieldOf x 0 8 ∨ fieldOf x 24 40 ≠ 0 ∨ (fieldOf x 0 8 ≤ 4 ∧ fieldOf x 8 4 = 0))
    Memory.wf (request 0x501 3764).mem = true ∧ (request 0x501 3764).sec.pending = some 4096 ∧ s0.sec.pending ≠ some 4096 ∧
      bad (b 0 0) = true ∧ bad (b 8 0) = true ∧ bad (b 7 0) = false ∧ bad (b 1 0) = true ∧ bad (b 0x501 0) = false ∧
      fieldOf (b 0x501 3764) 0 8 = 1 ∧ fieldOf (b 0x501 3764) 192 32 = 32 + 3732 ∧ fieldOf (b 0x503 5044) 192 32 = 1312 + 3732 := by
  decide +kernel
/-- A request that the owner has signed with the key of zeros, over the key material of zeros at 8192. -/
def sAsked (w len : Nat) (full : Bool) : State :=
  let s := request w (len + 3732)
  let keys : Tab (List Byte) := if full then [(5, [])] else []
  { s with sec := { s.sec with owner := some (sha3 zeroKey), dataKeys := keys, imageKeys := keys } }
def sOwned (w len : Nat) (full : Bool) : State :=
  (sAsked w len full).storeBytes (hostLoc (8192 + len + 1312))
    (zeroSig (signed (ascii "RNVOWN1") (leBytes 64 (memNat (sAsked w len full).mem (hostLoc 4096) 64) ++
      memBytes (sAsked w len full).mem (hostLoc 8192) len)))
theorem sOwned_reads (w len : Nat) (full : Bool) (wf : Memory.wf (sAsked w len full).mem = true) (x n : Nat)
    (h : x + n ≤ hostLoc (8192 + len + 1312)) :
    memBytes (sOwned w len full).mem x n = memBytes (sAsked w len full).mem x n :=
  memBytes_put_outside _ _ _ _ _ wf (.inl h)
theorem meets_KeyRequests_owned (op len : Nat) (full : Bool)
    (h : (op, len, full) ∈ [(1, 32, false), (2, 32, true), (3, 1312, false), (4, 1312, true)]) :
    let s := sOwned (op + 0x500) len full
    let b := memNat s.mem (hostLoc 4096) 64
    let part (x n : Nat) : List Byte := memBytes s.mem (hostLoc (fieldOf b 128 64 + x)) n
    Memory.wf s.mem = true ∧ s.sec.pending = some 4096 ∧ fieldOf b 0 8 = op ∧ fieldOf b 24 40 = 0 ∧ fieldOf b 8 4 = 5 ∧
      fieldOf b 192 32 = len + 3732 ∧ s.sec.owner = some (sha3 (part len 1312)) ∧
      mlVerify (part len 1312) (signed (ascii "RNVOWN1") (leBytes 64 b ++ part 0 len)) (part (len + 1312) 2420) = true ∧
      (tabFind s.sec.dataKeys 5).isSome = full ∧ (tabFind s.sec.imageKeys 5).isSome = full := by
  have all : ∀ x, x ∈ [(1, 32, false), (2, 32, true), (3, 1312, false), (4, 1312, true)] →
      let s := sAsked (x.1 + 0x500) x.2.1 x.2.2
      let b := memNat s.mem (hostLoc 4096) 64
      Memory.wf s.mem = true ∧ fieldOf b 128 64 = 8192 ∧ memBytes s.mem (hostLoc (8192 + x.2.1)) 1312 = zeroKey ∧ fieldOf b 0 8 = x.1 ∧
        fieldOf b 24 40 = 0 ∧ fieldOf b 8 4 = 5 ∧ fieldOf b 192 32 = x.2.1 + 3732 := by decide +kernel
  obtain ⟨wf, hp, hk, hf⟩ := all _ h
  have hb : memNat (sOwned (op + 0x500) len full).mem (hostLoc 4096) 64 = memNat (sAsked (op + 0x500) len full).mem (hostLoc 4096) 64 :=
    congrArg leNat (sOwned_reads _ _ _ wf _ _ (by simp only [hostLoc, place]; omega))
  have hkey : memBytes (sOwned (op + 0x500) len full).mem (hostLoc (8192 + len)) 1312 = zeroKey :=
    (sOwned_reads _ _ _ wf _ _ (by simp only [hostLoc, place]; omega)).trans hk
  have hsig : memBytes (sOwned (op + 0x500) len full).mem (hostLoc (8192 + (len + 1312))) 2420 =
      zeroSig (signed (ascii "RNVOWN1") (leBytes 64 (memNat (sAsked (op + 0x500) len full).mem (hostLoc 4096) 64) ++
        memBytes (sAsked (op + 0x500) len full).mem (hostLoc 8192) len)) := by
    have e := memBytes_put_same (zeroSig (signed (ascii "RNVOWN1")
      (leBytes 64 (memNat (sAsked (op + 0x500) len full).mem (hostLoc 4096) 64) ++
        memBytes (sAsked (op + 0x500) len full).mem (hostLoc 8192) len))) _ (hostLoc (8192 + len + 1312)) wf
    rw [zeroSig_length] at e
    rw [← Nat.add_assoc]
    exact e
  refine ⟨memPut_wf _ _ _ wf, rfl, ?_⟩
  dsimp only
  rw [hb, hp, hkey, hsig, Nat.add_zero, sOwned_reads _ _ _ wf (hostLoc 8192) len (by simp only [hostLoc, place]; omega)]
  exact ⟨hf.1, hf.2.1, hf.2.2.1, hf.2.2.2, rfl, zeroSig_verifies _, by cases full <;> rfl, by cases full <;> rfl⟩
theorem test_bad_request : memNat (q (request 8 0) (.installDataKey 4096)).mem (hostLoc 4104) 2 = 2 := by decide +kernel
theorem meets_Attestations :
    let b (w len : Nat) := memNat (request w len).mem (hostLoc 4096) 64
    let s := request 7 1312
    s.sec.pending = some 4096 ∧ fieldOf (b 5 32) 24 40 = 0 ∧ fieldOf (b 5 32) 0 8 = 5 ∧ fieldOf (b 5 31) 192 32 < 32 ∧
      32 ≤ fieldOf (b 5 32) 192 32 ∧ (4096 : Word).toNat + 10 ≤ fieldOf (b 5 32) 128 64 ∧ fieldOf (b 6 0) 0 8 = 6 ∧ fieldOf (b 7 1312) 0 8 = 7 ∧
      s.sec.owner = none ∧ fieldOf (b 7 1312) 192 32 = 1312 ∧ ({ s.sec with owner := some [] }).owner ≠ none := by decide +kernel
/-- The report of a device that has booted without firmware of its own is 256 bytes long. -/
theorem meets_Attestations_report (m : List Byte) (h : m.length = 32) (x y z d c n : Nat) :
    (m ++ sha3 identityKey.pub ++ List.replicate 32 (0 : Byte) ++ m ++ leBytes 4 n ++ leBytes 2 c ++ [BitVec.ofNat 8 x] ++
      [BitVec.ofNat 8 y] ++ leBytes 8 z ++ leBytes 8 d ++ List.replicate 104 0).length = 256 := by
  simp [h, sha3_length, leBytes_length]
theorem meets_Boots :
    let at_ (n : Nat) (ok : Bool) : State := { s0 with ctl := { s0.ctl with bootst := BitVec.ofNat 64 n }, turns := [.boot ok] }
    Memory.wf s0.mem = true ∧ fieldOf (at_ 4 true).ctl.bootst.toNat 0 4 = 4 ∧ fieldOf s0.ctl.bootst.toNat 0 4 ≠ 4 ∧
      fieldOf (at_ 1 true).ctl.bootst.toNat 0 4 = 1 ∧ fieldOf (at_ 2 false).ctl.bootst.toNat 0 4 = 2 ∧
      (at_ 2 false).powered = true ∧ (at_ 2 false).turns = .boot false :: [] ∧
      (at_ 2 false).power.trip = none := by decide +kernel
/-- R460: training that fails sets ERR 5 and leaves STAGE 2. -/
theorem test_training_fails :
    (match step { s0 with ctl := { s0.ctl with bootst := 2 }, turns := [.boot false] } with
     | .next t => t.ctl.bootst | _ => 0) = 0x5000002 := by decide +kernel
/-- The corrected errors of a unit are at its threshold, and one above it. -/
def sWorn (u : SvcUnit) (n : Nat) : State := { s0 with sec := { s0.sec with corrected := [(unitKey u, Config.threshold (unitKey u) + n)] } }
theorem meets_ServiceMarks_due (u : SvcUnit) :
    u ∉ (sWorn u 1).sec.marks ∧ Config.threshold (unitKey u) < tabGet (sWorn u 1).sec.corrected (unitKey u) 0 ∧
      ¬ Config.threshold (unitKey u) < tabGet (sWorn u 0).sec.corrected (unitKey u) 0 := by
  have h (n : Nat) : tabGet (sWorn u n).sec.corrected (unitKey u) 0 = Config.threshold (unitKey u) + n := by
    simp [sWorn, tabGet]
  refine ⟨nofun, ?_, ?_⟩ <;> rw [h] <;> omega
theorem meets_ServiceMarks :
    let s : State := { s0 with sec := { s0.sec with spares := [3, 23, 43], marks := [.tileRow 0] } }
    0 ∉ s.sec.spares ∧ (∃ m, m ∈ s.sec.marks ∧ spareOf m = some 0) ∧ spareOf (.tileRow 95) = some 3 ∧ 3 ∉ s0.sec.spares ∧ 95 / 24 ∈ s.sec.spares ∧ 16 + 2 * (255 / 64) + 255 % 64 / 32 ∈ s.sec.spares ∧
      32 + 47 / 4 ∈ s.sec.spares := by decide +kernel
theorem meets_RegisterWrites :
    let s : State := { s0 with sown := [(8191, 0x1000), (5, 0x1001)] }
    s.stage ≠ 4 ∧ ({ s with ctl := { s.ctl with bootst := 4 } }).stage = 4 ∧ s.sec.pending = none ∧ (tabGet s.sown 8191 0).getLsbD 12 = true ∧
      s.seqCtx 0 = some ((tabGet s.sown 8191 0).toNat % 4096) ∧ s.seqCtx 0 ≠ some ((tabGet s.sown 5 0).toNat % 4096) ∧
      (tabGet s.sown 0 0).getLsbD 12 = false := by decide +kernel
theorem test_domid : (q s0 (.registerWrite .pf 0x50 0xFFFF)).ctl.domid = 0x7F := by decide +kernel
/-- The ring of a replay: EVSEND of sequencer 1 put event 0x200000 into tile 1's queue, then EVQ at slot 4 of tile 1 put
the same (R467, R468). -/
def replayRing (s : State) : State :=
  (s.storeBytes (dpaLoc 0x200000) (leBytes 8 (4 + 1 * 16 + noSlot * 2 ^ 15) ++ leBytes 8 0 ++ leBytes 8 0x200000 ++ leBytes 8 0)).storeBytes
    (dpaLoc 0x200020) (leBytes 8 (4 + 1 * 16 + 4 * 2 ^ 15) ++ leBytes 8 0 ++ leBytes 8 0x200000 ++ leBytes 8 0)
theorem test_replay_order :
    let l := { Launch.placed with recMode := 3, recRing := 0x200000 }
    let s := replayRing (mapped s0)
    let o := recOrigin 1 4
    s.arbitersAhead l 1 o 0 2 0 ≠ [] ∧ s.arbitersAhead l 2 o 0 2 0 = [] ∧
      (s.tookRecord l .seq (recOrigin 1 noSlot) { kind := 4, count := 0, value := 0, aux := 0x200000, place := 0 }).arbitersAhead l 1 o 0 2 0 = [] ∧
      s.arbitersAhead l 1 (recOrigin 1 noSlot) 0 2 0 = [] := by decide +kernel
theorem meets_RecorderRecords :
    let l := { Launch.placed with recMode := 1, recRing := 0x200000 }
    let s := mapped s0
    s.recPlace l 0 .write = some (dpaLoc 0x200000) ∧
      tabGet s.sec.recIdx l.recSession 0 < 2 ^ (fieldOf l.recRing.toNat 0 4 + 10) ∧
      2 ^ (fieldOf l.recRing.toNat 0 4 + 10) ≤ tabGet ({ s.sec with recIdx := [(l.recSession, 1024)] }).recIdx l.recSession 0 ∧
      Memory.wf s.mem = true := by decide +kernel


/-! ### Steps -/

theorem meets_StepsStaySound : (∃ t, step { s0 with turns := [.event .powerGrant] } = .next t) ∧ Sound s0 :=
  ⟨⟨_, rfl⟩, by unfold Sound State.memWf ReservedBitsClear; decide +kernel⟩
theorem meets_ControlRegisterWrites : csrListed 0x19 ∧ csrListed 0x1A ∧ csrListed 0x10 ∧ (7 : Nat) ≠ 1 ∧
    (withReg s0 1 95).cur.rd 1 % 128 < 96 := by unfold csrListed; decide
theorem meets_RoutesLead : (0 : Nat) ≠ 1535 ∧ neighbour 0 (hop 0 1535) < 1536 := by decide +kernel
theorem meets_SequencerWordsRoundTrip : (Instr.add 1 2 3).wf = true ∧ encodeSeq (.add 1 2 3) = some 0x04221800 ∧
    decodeSeqWord 0x04221800 = some (.add 1 2 3) := by decide
theorem meets_SlotAndRecordWordsRoundTrip :
    let i := Instr.mulOperator { w := 2, m := 8, t1 := 0x1FF, t0 := 4, ext := 0x00C00000 }
    let r := Instr.pass { dx := 0, dy := 0, dst := 7, dst2 := 0x1FF, param := 0 }
    i.wf = true ∧ (slotParts i).isSome = true ∧ isOk (decodeSlot 0x0AA3FE04 0x00C00000) i = true ∧ r.wf = true ∧
      (recParts r).isSome = true ∧ isOk (decodeRec (0#4 ++ 0#6 ++ 0#6 ++ 7#9 ++ 0x1FF#9 ++ 0#8 ++ 0#22)) r = true := by decide
theorem meets_PacketsRoundTrip :
    let i := Instr.retireCancel { item := 4, flags := 1, body := [0x7FFF] }
    i.wf = true ∧ (packetParts i).isSome = true ∧
      (match decodePacket 4 [0x07#8 ++ 1#8 ++ 1#16, 0x7FFF, 5] with
       | .ok (x, r) => decide (x = i ∧ r = [5]) | .error _ => false) = true := by decide
/-- The turns of a sequencer, a slot, a record, a packet, an event and the passing of time. -/
theorem meets_StepRunsDecoded :
    let s := { s0 with turns := ([] : List Turn) }
    let badPc := withCur s0 (fun c => { c with pc := 514 })
    let atEnd := withCur s0 (fun c => { c with pc := 516 })
    let stored := withWord s0 512 0x04000000
    let p := (sSlot.tile 0).plane
    s.powered = true ∧ s.seqReady 0 = true ∧ s.seqReady 1 = false ∧ (s.seq 0).wdogDue = false ∧
      (withCur s0 (fun c => { c with wdogDue := true })).seqReady 0 = true ∧
      (512 ≤ (s.seq 0).pc.toNat ∧ (s.seq 0).pc.toNat < (s.seq 0).codelim.toNat) ∧ s.dataError (localLoc 0 512) 4 = none ∧
      memNat s.mem (localLoc 0 512) 4 = memNat (s.seq 0).code (localLoc 0 512) 4 ∧
      memNat stored.mem (localLoc 0 512) 4 ≠ memNat (stored.seq 0).code (localLoc 0 512) 4 ∧
      (badPc.seq 0).pc.toNat % 4 ≠ 0 ∧ ¬ (atEnd.seq 0).pc.toNat < (atEnd.seq 0).codelim.toNat ∧
      ({ s with poison := [localLoc 0 512 / 16] }).dataError (localLoc 0 512) 4 ≠ none ∧
      p.slotWord 0 = 0x0AA3FE04 ∧ p.isExt 0 = false ∧ p.isExt 1 = true ∧ p.slotWord 2 = 0 ∧
      isOk (decodeSlot (p.slotWord 0) (p.slotWord 1)) (.mulOperator { w := 2, m := 8, t1 := 0x1FF, t0 := 4, ext := 0x00C00000 }) = true ∧
      (item0 (begun 0 0 [])).packets[(item0 (begun 0 0 [])).idx]? = some (.nop (pkOf 0 [])) ∧
      (((recIn 0 rPass []).tile 0).plane.recs[0]?).isSome = true ∧ s.power.trip = none ∧ (begun 0 0 []).actionDue (item0 (begun 0 0 [])) = false ∧
      ((begun 0 0 []).queue 0).putOff = false ∧
      (let p := begun 2 0x8000 [8191, 3, 0]
       (p.setQueue 0 { p.queue 0 with putOff := true } |>.setItem 0 { item0 p with phase := .running }).pairRuns 0 = true) := by decide +kernel
theorem meets_StepRunsDecoded_powerless : ({ s0 with powered := false }).powered = false := rfl
/-- Two ready slots that the pool does not pay for together. -/
theorem meets_SlotGrants :
    let s := slotIn oMul [(0, [dat 3]), (1, [dat 4])]
    0 < s.readyCost 0 0 ∧ s.readyCost 0 0 ≤ (s.tile 0).pool ∧ (s.tile 0).lastGrant < 64 ∧
      (let poor := s.setTile 0 { s.tile 0 with pool := 0 }; (poor.tile 0).pool < ((List.range 64).map (poor.readyCost 0)).sum) := by
  decide +kernel
theorem test_fetch_word : (match step (State.reset.withFetchWord 32 0x20210005) with
    | .next t => ((t.seq 0).rd 1, (t.seq 0).pc) | _ => (0, 0)) = (5, 516) := by decide +kernel
theorem test_stale_fetch_faults : (match step { (withCur s0 (fun c => { c with pc := 514 })) with turns := [.seq 0] } with
    | .next t => (t.seq 0).stop | _ => none) = some { cause := .seqFetchRange, resume := 514 } := by decide +kernel

/-! ### Words written out from the formats -/

/-- R314, R319 to R329: one word for each major opcode. -/
theorem decodes_sequencer_words :
    [decodeSeq (0b000001#6 ++ 7#5 ++ 8#5 ++ 9#5 ++ 1#11), decodeSeq (0b000010#6 ++ 7#5 ++ 8#5 ++ 9#5 ++ 2#11),
     decodeSeq (0b000011#6 ++ 7#5 ++ 8#5 ++ 9#5 ++ 0#1 ++ 4#3 ++ 3#2 ++ 1#1 ++ 0#1 ++ 0b100#3),
     decodeSeq (0b001001#6 ++ 7#5 ++ 8#5 ++ 0xF00F#16), decodeSeq (0b010101#6 ++ 7#5 ++ 8#5 ++ 0x7FFF#16)] =
    [.sub 7 8 9, .fmuls 7 8 9, .amomin 7 8 9 { sco := 4, ord := 3, u := true, sz := false }, .andi 7 8 0xF00F, .bgeu 7 8 0x7FFF] := by
  decide
/-- R358's example: TIME g5. -/
theorem decodes_time : decodeSeq 0xD4A00400 = .time 5 := by decide
theorem decodes_slot_words :
    isOk (decodeSlot (0x20#7 ++ 0b100#3 ++ 0b0000#4 ++ 0x1FF#9 ++ 8#9) 0) (.fadd { w := 4, m := 0, t1 := 0x1FF, t0 := 8, ext := 0 }) = true ∧
      isOk (decodeSlot (0x38#7 ++ 2#3 ++ 0b0010#4 ++ 0x1FF#9 ++ 8#9) 0) (.join { w := 2, m := 2, t1 := 0x1FF, t0 := 8, ext := 0 }) = true := by
  decide
theorem decodes_record_words :
    isOk (decodeRec (1#4 ++ 0#6 ++ 0#6 ++ 7#9 ++ 9#9 ++ 0#8 ++ 0#22)) (.steer { dx := 0, dy := 0, dst := 7, dst2 := 9, param := 0 }) = true := by
  decide
theorem decodes_packets : (match decodePacket 4 [0x07#8 ++ 1#8 ++ 1#16, 0x7FFF] with
    | .ok (i, r) => decide (i = .retireCancel { item := 4, flags := 1, body := [0x7FFF] } ∧ r = []) | .error _ => false) = true := by decide

/-! ### Ill-formed instructions -/

def amo (sco : BitVec 3) (u : Bool) : AmoFn := { sco := sco, ord := 0, u := u, sz := true }
/-- A scope above 4, and U on an operation that does not compare (R315, R318). -/
theorem refuses_atomics : (Instr.amomax 1 2 3 (amo 5 true)).wf = false ∧ (Instr.amoadd 1 2 3 (amo 0 true)).wf = false ∧
    (Instr.amomax 1 2 3 (amo 4 true)).wf = true := by decide
theorem refuses_scopes : (Instr.ldd 1 2 { ord := 0, sco := 5, off := 0 }).wf = false ∧ (Instr.fence 5).wf = false := by decide
/-- Descriptor registers 0 to 15 and words 0 to 8; word 8 zeroes and has no operand (R336). -/
theorem refuses_descriptors : (Instr.sdset 16 0 0).wf = false ∧ (Instr.sdset 0 0 9).wf = false ∧ (Instr.sdset 0 1 8).wf = false ∧
    (Instr.sdset 15 0 8).wf = true := by decide
theorem refuses_legal_words : (Instr.illegalInstruction 0x04000000).wf = false ∧ (Instr.illegalInstruction 0).wf = true := by decide
/-- An extension word without M[3], a width that the opcode does not have, and a reserved modifier (R134, R136 to R138). -/
theorem refuses_slots : (Instr.mulOperator { w := 2, m := 0, t1 := 0x1FF, t0 := 4, ext := 1 }).wf = false ∧
    (Instr.mulOperator { w := 7, m := 0, t1 := 0x1FF, t0 := 4, ext := 0 }).wf = false ∧
    (Instr.seed { w := 3, m := 7, t1 := 0x1FF, t0 := 4, ext := 0 }).wf = false := by decide
theorem refuses_records : (Instr.pass { dx := 0, dy := 0, dst := 7, dst2 := 0x1FF, param := 1 }).wf = false ∧
    (Instr.delay { dx := 0, dy := 0, dst := 7, dst2 := 0x1FF, param := 33 }).wf = false := by decide
theorem refuses_packets : (Instr.nop (pkOf 1 [])).wf = false ∧ (Instr.waitGe (pkOf 0 [1, 2])).wf = false ∧
    (Instr.retireCancel (pkOf 0 [1])).wf = false := by decide

/-! ### The worked example of R58 to R63 -/

/-- E 128 in format 4; page 20,849 of the image at LBA 0x0010_0000 of namespace 1, and its tag. -/
theorem test_cache_image_example :
    let v := 2 + 3 * 2 ^ 8 + 2 ^ 16 + 0x100000 * 2 ^ 64 + 20849 * 2 ^ 128 + 2 ^ 160 + 46720 * 2 ^ 192
    let s : State := { State.reset with namespaces := [(2, (4096, 0x10000000))] }
    tokenStride 128 4 = 144 ∧ s.drivePage v 20849 = driveLoc 0 1 (0x1A2E20 * 4096) ∧
      s.tagLoc v 20849 = driveLoc 0 1 (0x26D060 * 4096 + 71424) := by decide +kernel

/-! ### Further clauses -/

/-- A valid collective descriptor of packages 1 and 2 in local memory, outside a domain, without a route to package 2, and in it. -/
theorem meets_CollectiveAccepted_routes :
    let l := Launch.placed
    let v := collV 1 0 + 64 * 2 ^ 320
    let lone : State := { sDom with net := { sDom.net with routes := [] } }
    sDom.collBad l v = false ∧ lone.collBad l v = false ∧ lone.domain = true ∧ s0.domain = false ∧ 2 ∈ clMembers v ∧ (2 : Nat) ≠ lone.pkg ∧
      lone.routeTo 2 = none ∧ { s0 with ctl := { s0.ctl with domid := 1 } }.collBad l v = false := by decide +kernel
/-- Sequencer 0 has posted by ERET to its channel 2 while that was full. -/
theorem meets_ChannelPost_held :
    let m : Msg := { msgTo 2 9 with src := 0, sseq := 0 }
    let s := withCur s0 (fun c => { c with held := [m], queues := [(2, List.replicate 15 m)] })
    let mine := (s.seq 0).held.filter (fun h => postedBy h s.curSeq && h.ch.toNat == 2)
    mine = [m] ∧ (s.seq 0).onChannel 2 = 15 ∧ s.seqCtx 0 = some s.cur.ctxid.toNat := by decide +kernel
/-- EOSG has closed: both ends, a data token, a poisoned one. -/
theorem meets_EndOfStreamGate_closed :
    let s (a c : Token) := (sGate a c).setSlotSt { (sGate a c).slotSt with closed := true }
    (s Token.eos Token.eos).slotLive = true ∧ (s Token.eos Token.eos).slotSt.closed = true ∧ (s Token.eos Token.eos).slotSt.seen = 0 ∧
      (s Token.eos Token.eos).head 2 = some Token.eos ∧ (s (poisoned 1) (dat 1)).head 0 = some (poisoned 1) := by decide +kernel
/-- R213: a closed EOSG discards, sets PSEEN for poison and ends when both inputs have. -/
theorem test_eosg_discards :
    let s (a c : Token) := (sGate a c).setSlotSt { (sGate a c).slotSt with closed := true }
    let t := q (s Token.eos Token.eos) (.eosg oGate.1)
    (t.slotSt.ended, sentTo t 4, (q (s (poisoned 1) (dat 1)) (.eosg oGate.1)).curT.flags != 0) = (true, [], true) := by decide +kernel
/-- Collective 7 of engine 3 takes its contribution from record 0 of tile 0; its input holds indices up to `last`. -/
def sFeeds (units : List (Word × Bool)) : State :=
  let c : Coll := { collOf 1 1 with desc := BitVec.ofNat 512 (collV 1 3 + 2 ^ 262 + 2 ^ 259), launch := some 0,
                                     inputs := [{ CollIn.reset with units := units }, CollIn.reset] }
  { recIn 7 rEdge [(0, [dat 0x500000000])] with net := { State.reset.net with colls := [(65536 * 3 + 7, c)] } }
theorem meets_RouteBuffersAndEdges_collective :
    let s := sFeeds []
    let c := (s.coll (65536 * 3 + 7)).getD (collOf 1 0)
    let full := sFeeds (List.replicate 8192 (0, false))
    (65536 * 3 + 7) / 65536 = rEdge.dst.toNat ∧ c.active = true ∧ clSrcf c.v = true ∧ clSparse c.v = true ∧ c.launch = s.curT.launch ∧
      c.launch.isSome = true ∧ (c.input 0).ended = false ∧ s.recHead 0 = some (dat 0x500000000) ∧ (c.input 0).units.length < 8192 ∧
      (((sFeeds [(0x600000000, false)]).coll (65536 * 3 + 7)).map (fun d => (d.input 0).units.getLast?)) = some (some (0x600000000, false)) ∧
      8192 ≤ ((full.coll (65536 * 3 + 7)).map (fun d => (d.input 0).units.length)).getD 0 := by decide +kernel
/-- The row buffer holds an end-of-stream marker: partial tokens or a gate token beside it, a partial row, and none of them. -/
theorem meets_MatrixRowFirings_end :
    let ends (o : SlotOp × BitVec 7) (ins : List (Nat × List Token)) : State :=
      withMx (slotIn o ins) (fun m => { m with row := { RowBuf.empty with eos := true } })
    let s := ends oRowIn [(0, [dat 1]), (1, [dat 2])]
    let g := oRowIn
    s.slotLive = true ∧ extPsrc g.1.ext = 2 ∧ s.curT.matrix.row.eos = true ∧ s.curT.matrix.row.fired = false ∧
      (ends g [(0, [dat 1]), (1, [dat 2])]).head 1 = some (dat 2) ∧ (dat 2).isEos = false ∧ extGate g.1.ext = true ∧
      (ends g [(0, [dat 1])]).head 1 = none ∧ (ends g [(0, [dat 1])]).curT.matrix.partBuf = [] ∧
      extPsrc oRow.1.ext = 0 ∧ extGate oRow.1.ext = false ∧ (ends oRow []).slotRoom oRow.1 1 1 = true := by decide +kernel
/-- A second end of stream waits behind the marker that the row buffer holds. -/
theorem test_second_end_waits :
    let s := withMx (slotIn oRow []) (fun m => { m with wide := [none], row := { RowBuf.empty with eos := true } })
    (((q s (.rowArrival 0)).tile 0).matrix.wide, (q s (.rowArrival 0)).records) = ([none], []) := by decide +kernel
/-- A launch that is being cancelled, and an access to the host of the context whose translations go. -/
theorem meets_RetireAndInvalidate :
    let p := pkOf 0 [0]
    let c := { lOne with endCause := some Cause.schPreemptFrozen }
    let i := { sWaitHost .store with items := (begun 0x0B 1 (List.replicate 13 0)).items }
    (sRetire.setLaunch 0 c).findLaunch 0 (p.field 0 15) = some (0, c) ∧ c.phase = .running ∧ c.endCause.isSome = true ∧
      (∃ x w, x ∈ i.seqs ∧ x.2.waiting = some w ∧ pathOf w.addr = 7 ∧ w.tag = none ∧ x.2.ctxid.toNat = 0) ∧
      (pkOf 4 (List.replicate 13 0)).flags.getLsbD 2 = true ∧ Memory.wf qBase.mem = true := by
  refine ⟨by decide +kernel, rfl, rfl, ⟨(0, (sWaitHost .store).seq 0), waitFor .store, ?_⟩, ?_, ?_⟩ <;> decide +kernel
/-- An entry of an earlier deadline that can start stands before the one at hand. -/
theorem meets_DispatchResults_behind :
    let i := { newItem 0 0 0 0 (hdr 900 1) [0] with phase := .admitted }
    let j := { newItem 1 0 0 0 (hdr 800 1) [0] with phase := .admitted }
    let s := (qBase.setItem 0 i).setItem 1 j
    j.before i = true ∧ j.started = false ∧ s.startable 1 j = true ∧ i.before j = false := by decide +kernel
/-- A message of queue 0's work that has reached no channel. -/
theorem meets_QueueResets_message :
    let m := sReset.setSeq 0 { sReset.seq 0 with held := [{ msgTo 5 3 with work := some 0 }] }
    (m.queue 0).rbusy = true ∧ (m.seq 0).held.map (fun x => x.work) = [some 0] := by decide +kernel
/-- The turn of a stream, no record of it that waits, and a write to this package on path 0x6. -/
theorem meets_Streams_turn :
    let v := spec 0x400000 0 0
    let s := streamS v id
    let own : State := { s with ctl := { s.ctl with domid := 0x41 } }
    let late := { s with records := [{ recAt .agn false with pos := 0 }] }
    s.agnRecordWaits 0 = false ∧ late.agnRecordWaits 0 = true ∧ (∀ i, i < (0 % 512 / 128 + 3 - tabGet s.agnLast 0 3) % 4 → s.agnCan i = false) ∧
      Launch.placed.recMode = 0 ∧ own.domain = true ∧ ((2 ^ 52 * 1 : Nat) / 2 ^ 52 % 64 = own.pkg) := by decide +kernel
/-- A status word of 8 bytes at the end of a 128 KiB span crosses into the next. -/
theorem meets_StatusOrs_spans :
    let a : Nat := 0x41FFFC
    let v := spec 0x400000 0 (2 ^ 98 + 0x1FFFC * 2 ^ 448)
    let s := drainer v id
    min 8 (131072 - a % 131072) = 4 ∧ (s.pctx 0).st = .draining ∧
      (match s.agnCheck 0 0 .read a 4 with
       | (.ok (.mem b), u) => (match u.agnCheck 0 0 .read (a + 4) 4 with
         | (.ok (.mem c), w) => (match w.agnCheck 0 0 .write a 4 with
           | (.ok (.mem b1), x) => (match x.agnCheck 0 0 .write (a + 4) 4 with
             | (.ok (.mem c1), _) => decide (b = dpaLoc 0x41FFFC ∧ c = dpaLoc 0x420000 ∧ b1 = b ∧ c1 = c ∧ b + 4 ≤ c)
             | _ => false)
           | _ => false)
         | _ => false)
       | _ => false) = true := by decide +kernel
/-- Two diverted elements of an AGN are due: the one that came first is tried first. -/
theorem meets_StreamRetries_order :
    let v := spec 0x400000 0 (2 ^ 72)
    let e (o : Nat) : HeldElement := { n := 0, addr := 0x400000, due := 100, ord := o }
    let d := { streamS v (fun p => { p with spill := [e 1], pos := 2 }) with now := 100 }
    let two := d.setPctx 128 { d.pctx 0 with spill := [e 2] }
    two.lateReady 0 = some (e 1) ∧ two.lateReady 128 = some (e 2) ∧ two.agnRecordWaits 0 = false := by decide +kernel
/-- A controller is being reset: what it is asked fails, however early. -/
theorem meets_Storage_resetting :
    let s := { storS false with resetting := [0] }
    s.resetting.contains (cmdOf false).port = true ∧ s.now < (cmdOf false).since + 2000000000 ∧
      (storS false).resetting.contains (cmdOf false).port = false ∧ (s.storage.map (fun x => x.1)).Nodup ∧
      (∀ x, x ∈ s.storage → s.copyJob x.2.copy ≠ none) ∧ (∀ x, x ∈ s.storage → x.2.port = 0 → x.1 = 0) := by decide +kernel
/-- The header page of a cache image whose magic number is zero is refused. -/
theorem meets_CacheImagePages_header :
    (headerCheck wciJob.sdesc.toNat (List.replicate 4096 0)).isSome = true ∧ ({ wciJob with page := 0, sdesc := wciJob.sdesc - 2 ^ 128 }).pageNo = 0 := by
  decide +kernel
/-- A copy of a queue's entry that has been cancelled. -/
theorem meets_CopyCompletions_cancelled :
    let p := { jMove 16 with item := some 0, cancelled := true }
    let s := (moveS p).setItem 0 { newItem 0 0 0 0 (hdr 900 1) (pkt1 6 0 []) with phase := .running }
    s.copyOver 0 p = true ∧ s.copyJob 0 = some p ∧ p.stor = false ∧ p.done % 256 ≠ 0 := by decide +kernel

/-! ### Further ends of slots -/

def ends2 (o : SlotOp × BitVec 7) : State := slotIn o [(0, [Token.eos]), (1, [Token.eos])]
theorem meets_SlotEndAction_breaks :
    let b := slotIn (slotO 0x6A 0 8 7) [(0, [Token.eos])]
    let t := slotIn (slotO 0x69 0 8 7) [(0, [Token.eos]), (2, [Token.eos])]
    plainEnd (.brk (slotO 0x6A 0 8 7).1) = some (0x6A, (slotO 0x6A 0 8 7).1) ∧ CanEnd b 0x6A (slotO 0x6A 0 8 7).1 0 0 none ∧
      CanEnd t 0x69 (slotO 0x69 0 8 7).1 0 0 none := by
  refine ⟨rfl, ⟨?_, ?_, ?_, ?_, fun b h => nomatch h⟩, ?_, ?_, ?_, ?_, fun b h => nomatch h⟩ <;> decide +kernel
theorem meets_SlotEosMismatch_ports :
    let o := slotO 0x43 3 8 0x0FB00010
    let s := slotIn o [(0, [dat 1]), (1, [Token.eos])]
    let z := slotIn (slotO 0x59 0 0 0) [(0, [dat 1]), (1, [Token.eos])]
    let i := slotIn (slotO 0x3C 3 0 0) [(0, [dat 1]), (1, [Token.eos])]
    portedEnd (.stfe o.1) = some (0x43, o.1) ∧ s.eosMismatch (slotPorts 0x43 o.1) = some 1 ∧
      portedEnd (.qside (slotO 0x59 0 0 0).1) = some (0x59, (slotO 0x59 0 0 0).1) ∧ z.eosMismatch [0, 1] = some 1 ∧
      i.slotSt.iota = none ∧ i.eosMismatch (slotPorts 0x3C (slotO 0x3C 3 0 0).1) = some 1 := by
  refine ⟨rfl, ?_, rfl, ?_, ?_, ?_⟩ <;> decide +kernel
/-- QSIDE ends with an odd entry pending, JOIN with poison pending, and IOTA with no sequence. -/
theorem meets_SlotSideEntries_end :
    let o := slotO 0x59 0 0 0
    let s := ends2 o
    let s1 := s.setSlotSt { s.slotSt with pending := some (5, true), aux := 1 }
    let t := q s1 (.qside o.1)
    CanEnd s1 0x59 o.1 1 1 none ∧ sentTo t 4 = [Token.mk' 0xFFFFFFFF00000005 true, Token.eos] ∧ t.slotSt.ended = true := by
  refine ⟨⟨?_, ?_, ?_, ?_, fun b h => nomatch h⟩, ?_, ?_⟩ <;> decide +kernel
theorem meets_SlotJoin_end :
    let o := slotO 0x38 2 0 0
    let s := ends2 o
    let t := q (s.setSlotSt { s.slotSt with psn := true }) (.join o.1)
    s.slotLive = true ∧ s.head 0 = some Token.eos ∧ s.head 1 = some Token.eos ∧ s.slotRoom o.1 1 1 = true ∧
      (t.slotSt.ended, t.curT.flags.getLsbD 6) = (true, true) := by decide +kernel
theorem meets_SlotSequences_end :
    let o := slotO 0x3C 3 0 0
    (ends2 o).slotSt.iota = none ∧ CanEnd (ends2 o) 0x3C o.1 0 0 none := by
  refine ⟨?_, ?_, ?_, ?_, ?_, fun b h => nomatch h⟩ <;> decide +kernel

/-! ### The completion statements and the queue of causes -/

theorem meets_MatrixControlAndSwapsComplete :
    let f0 := withMx (slotIn oRow []) (fun m => { m with row := { RowBuf.empty with fired := true } })
    let f := f0.setTile 1 { Tile.reset with launch := some 0 }
    let s := sReconf false []
    let l := { lReconf with frozen := true }
    let z := (sReconf true []).setLaunch 0 l
    sRow.curT.matrix.row.eos = false ∧ sRow.curT.matrix.row.fired = false ∧ sRow.slotLive = true ∧
      (let o := slotO 0x50 1 8 0x03000000
       extPdst o.1.ext = false ∧ ((sRow.southLink sRow.curTile).filter Option.isSome).length < 2) ∧
      (sGate (dat 5) (dat 1)).slotRoom oGate.1 1 1 = true ∧ CanFire (sTrap (dat 0)) 0x69 oTrap.1 4 ∧
      (sTrap (dat 0)).operand 0x69 oTrap.1 2 = dat 0 ∧ (dat 0).data.getLsbD 0 = false ∧ CanFire (slotIn oBrk [(0, [dat 5])]) 0x6A oBrk.1 4 ∧
      ((slotIn oBrk [(0, [dat 5])]).tileLaunch 0).any Launch.debug = false ∧
      f.inRegion 0 (downChain 0) = some 1 ∧ (f.tile 1).matrix.row.eos = false ∧ (f.tileLaunch 0).isSome = true ∧
      s.passGroup 0 lReconf 0 = some [0] ∧ s.strayAt 0 = none ∧ (∀ x, x ∈ l.tiles → z.passGroup 0 l x = none) := by
  unfold CanFire; decide +kernel
theorem meets_DomainAndSequencerStepsComplete :
    let c := collOf 1 0
    let s := sColl { c with launch := none }
    let t := withCur s0 (fun c => { c with arriving := [msgTo 5 3] })
    let on := flitOf 1 2 0 1 0 0 0 []
    (sDom.port 3).pending = [] ∧ (sDom.port 3).buffer = [] ∧ (sDom.port 3).badflit ≠ 0xFFFF ∧ c.from? s.pkg 2 = some 1 ∧
      ((sDom.acceptOn 3 on).port 3).pending = [] ∧ ((sDom.acceptOn 3 on).port 3).buffer = [] ∧
      (1 : Nat) < c.inputs.length ∧ s.takes 3 (flitOf 5 1 0 1 0 0 7 [3]) 5 = true ∧ s.takes 3 (flitOf 6 1 0 1 0 0 7 [1, 0]) 6 = true ∧
      s.net.early = [] ∧ s.now < (c.input 1).heard + 1000000 ∧ fieldOf sDom.ctl.bootst.toNat 0 4 = 3 ∧
      (writeOf 16 0 0x400000).len16 ≠ 14 ∧ (t.seq 0).arriving.find? (fun x => x.ch == (msgTo 5 3).ch) = some (msgTo 5 3) := by
  decide +kernel
theorem meets_SystemStepsComplete :
    let s := sSave .stopping
    (s.seq 0).waiting = none ∧ (∀ x, x ∈ s.items → x.2.midPair = false) ∧ s0.frtValid = false ∧ (({ s0 with records := [recAt .seq false] } : State).records[0]?).isSome = true ∧
      (0x1000 : BitVec 64).getLsbD 12 = true ∧ (request 7 1312).sec.owner = none ∧ unitOk (.tileRow 95) = true ∧ unitOk (.hbmChannel 255) = true ∧
      (∀ l, l ∈ State.reset.launches → l.2.live = false) ∧ 15 ∉ State.reset.power.reverse ∧ (4050 : Nat) % 2000 ≤ 50 ∧
      (16, 120) ∈ (warm 120 true).power.sensors := by decide +kernel
/-- Causes wait in the queue of events; core 11 handles one of queue 0, so that the other cause of it is locked. -/
def sEvents : State := { sAdmitted with events := [.budget 0, .kick 3 5 0], cores := [(11, .deadline 1)] }
theorem meets_StepRunsEvents :
    let u := { sEvents with turns := ([] : List Turn) }
    let late := spent (hdr 900 1) id
    encode (.add 1 2 3) ≠ [] ∧ encode (.budgetOverrun 0) = [] ∧ encode .powerGrant = [] ∧ u.causeOf .powerGrant = none ∧
      (∀ t, Instr.powerGrant ≠ .eventDelivery t) ∧ u.causeOf (.budgetOverrun 0) = some (.budget 0) ∧
      (∀ x v n, Event.budget 0 ≠ .kick x v n) ∧ (match exec (.budgetOverrun 0) u with | .next t => decide (t = u) | _ => false) = true ∧
      (let t := q late (.budgetOverrun 0)
       { t with curTile := late.curTile, curSlot := late.curSlot } ≠ late) ∧
      tabFind u.cores 11 = some (.deadline 1) ∧ tabFind u.cores 0 = none ∧ u.eventQueue (.budget 0) = some 0 ∧
      (u.eventQueue (.budget 0)).isSome = true ∧ u.eventQueue (.deadline 1) = u.eventQueue (.budget 0) ∧
      u.eventQueue (.kick 3 5 0) = some 3 ∧ u.power.trip = none := by
  refine ⟨?_, ?_, ?_, ?_, nofun, ?_, nofun, ?_, ?_, ?_, ?_, ?_, ?_, ?_, ?_, ?_⟩ <;> decide +kernel
/-- A cause enters the queue once, a free core takes the head, and handles it in its next turn. -/
theorem test_cause_is_handled :
    let late := spent (hdr 900 1) id
    let run (s : State) (x : Turn) : State := match step { s with turns := [x] } with | .next t => t | _ => s
    let a := run (run late (.event (.budgetOverrun 0))) (.event (.budgetOverrun 0))
    let b := run a (.core 0)
    (a.events, b.events, b.cores, (run b (.core 0)).records.map FaultRec.cause) =
      ([.budget 0], [], [(0, .budget 0)], [.schBudgetOverrun]) := by decide +kernel


/-! ### Witnesses of clauses that stand beside others -/

/-- A copy out of local memory into a cache image: data page 1, the header page, without a key, and with a poisoned granule. -/
def jTagged (x : Nat) : CopyJob := { jStor 1 1 with sdesc := BitVec.ofNat 384 ((jStor 1 1).sdesc.toNat + x) }
def tagS (j : CopyJob) : State := { storS true with copies := [(0, j)] }
theorem meets_CacheImageWrites :
    let s := tagS (jTagged 0)
    tabFind s.storage 0 = some (cmdOf true) ∧ s.copyJob 0 = some (jTagged 0) ∧ Memory.wf s.mem = true ∧
      s.now < (cmdOf true).since + 2000000000 ∧ s.resetting.contains 0 = false ∧ s.pagePlace (jTagged 0) = .ok (dpaLoc 0x400000) ∧
      exWci (jTagged 0).sdesc.toNat = true ∧ (jTagged 0).pageNo = 1 ∧ exDpages (jTagged 0).sdesc.toNat = 4 ∧
      exKey (jTagged 0).sdesc.toNat = 0 ∧ s.dataError (dpaLoc 0x400000) 131072 = none ∧
      (let h := BitVec.ofNat 384 ((jStor 1 1).sdesc.toNat - 2 ^ 128)
       ({ jStor 1 1 with sdesc := h }).pageNo = 0 ∧ exWci h.toNat = true ∧
        (tagS { jStor 1 1 with sdesc := h }).pagePlace { jStor 1 1 with sdesc := h } = .ok (dpaLoc 0x400000)) ∧
      s.dataKey (exKey (jTagged (5 * 2 ^ 8)).sdesc.toNat) = none ∧
      ({ s with poison := [dpaLoc 0x400000 / 16] }).dataError (dpaLoc 0x400000) 16 ≠ none ∧ (jTagged 0).firstPsn = false :=
  ⟨rfl, rfl, by decide +kernel, by decide +kernel, by decide +kernel, by decide +kernel, by decide +kernel, by decide +kernel, by decide +kernel,
    by decide +kernel, dataError_clean _ (by decide +kernel) (by decide +kernel) _ _, by decide +kernel, by decide +kernel, by decide +kernel, rfl⟩
theorem meets_CacheImageWrites_key : ∃ key, (tagS (jTagged 0)).dataKey (exKey (jTagged 0).sdesc.toNat) = some key :=
  ⟨leBytes 32 Config.dataKey0.toNat, by rw [show exKey (jTagged 0).sdesc.toNat = 0 by decide +kernel]; rfl⟩
/-- CARRY in its loop and at its end, and INVAR with an end of stream beside a datum. -/
theorem meets_RouteRecordStops_loops :
    let s (a b c : Token) := recIn 3 rPass [(0, [a]), (1, [b]), (2, [c])]
    let l := phased (s (dat 1) Token.eos (dat 1)) .loop none
    let e := phased (s (dat 1) (dat 2) Token.eos) .ending none
    let i := recIn 4 rInvar [(0, [Token.eos]), (repeatInput rInvar, [dat 1])]
    l.recSt.phase = .loop ∧ l.recHead 1 = some Token.eos ∧ l.recHead 2 = some (dat 1) ∧ isPredicate (dat 1) true ∧
      e.recSt.phase = .ending ∧ e.recHead 1 = some (dat 2) ∧ e.recHead 2 = some Token.eos ∧ l.recLive = true ∧
      i.recSt.held = none ∧ i.recHead 0 = some Token.eos ∧ i.recHead (repeatInput rInvar) = some (dat 1) ∧ i.recLive = true := by
  unfold isPredicate; decide +kernel
/-- A write stream that drains and has taken its end of stream. -/
theorem meets_RouteBuffersAndEdges_beyond :
    let s := sEdge.setPctx 3 { sEdge.pctx 3 with st := .draining, eosA := true }
    let w := sEdge.setPctx 3 { sEdge.pctx 3 with eosA := true }
    s.recHead 0 = some (dat 5) ∧ (s.pctx 3).launch = s.curT.launch ∧ feedsInput (s.pctx 3).spec.toNat 0 256 = some 0 ∧
      (s.pctx 3).eosA = true ∧ (s.pctx 3).st = .draining ∧ (s.pctx 3).draining = false ∧ spKind (s.pctx 3).spec.toNat = 1 ∧
      (s.pctx 3).inA = [] ∧ (w.pctx 3).eosA = true ∧ (w.pctx 3).st = .running := by decide +kernel
theorem test_edge_beyond :
    let s := sEdge.setPctx 3 { sEdge.pctx 3 with st := .draining, eosA := true }
    (q s (.edgeAgn rEdge)).records.map FaultRec.cause = [.flowStreamLength] := by decide +kernel
/-- A row operator of PSRC `x` of two transfers, with or without a gate. -/
def oRowOf (x : Nat) (gate : Bool) := slotO 0x50 1 8 (BitVec.ofNat 32 (0x13000000 + x * 2 ^ 29 + (if gate then 2 ^ 27 else 0)))
theorem meets_MatrixRowFirings_ends :
    let o (x : Nat) := oRowOf x false
    let g := oRowOf 0 true
    let whole (o : SlotOp × BitVec 7) (ins : List (Nat × List Token)) (f : Matrix → Matrix) : State :=
      withMx (slotIn o ins) (fun m => f { m with row := { RowBuf.empty with transfers := [0x3F80, 0] } })
    let ended (o : SlotOp × BitVec 7) (ins : List (Nat × List Token)) (f : Matrix → Matrix) : State :=
      withMx (slotIn o ins) (fun m => f { m with row := { RowBuf.empty with eos := true } })
    extPsrc (o 1).1.ext = 1 ∧ extPsrc (o 2).1.ext = 2 ∧ extPsrc (o 3).1.ext = 3 ∧ extGate (o 3).1.ext = false ∧ extGate g.1.ext = true ∧
      extPsrc g.1.ext = 0 ∧
      (let s := whole g [(0, [Token.eos])] id
       s.curT.matrix.gate = false ∧ s.head 0 = some Token.eos ∧ s.slotLive = true ∧
        s.curT.matrix.row.transfers.length = rowNeed 0x50 g.1) ∧
      (let s := whole (o 2) [(1, [Token.eos])] id
       s.curT.matrix.partBuf.length < rowN (o 2).1 / 2 ∧ s.head 1 = some Token.eos ∧ s.slotLive = true) ∧
      (let s := whole (o 1) [] (fun m => { m with north := [none] })
       s.curT.matrix.north.head? = some none ∧ s.slotLive = true) ∧
      (let s := ended (o 1) [] (fun m => { m with north := [some []] })
       s.curT.matrix.row.eos = true ∧ (s.curT.matrix.north.head?).isSome = true ∧ s.slotLive = true) ∧
      (let s := ended (o 1) [] (fun m => { m with north := [none] })
       s.curT.matrix.northWide = [] ∧ s.curT.matrix.north.head? = some none ∧ s.slotRoom (o 1).1 1 1 = true) ∧
      (let s := ended (o 2) [(1, [Token.eos])] id
       s.curT.matrix.partBuf = [] ∧ s.head 1 = some Token.eos ∧ s.slotRoom (o 2).1 1 1 = true) ∧
      (let s := ended g [(0, [Token.eos])] id
       s.head 0 = some Token.eos ∧ s.slotRoom g.1 1 1 = true) ∧
      (let s (k : Token) := withMx (slotIn (o 3) [(1, [k])]) (fun m => { m with ending := 1 })
       (s Token.eos).head 1 = some Token.eos ∧ (s (dat 1)).head 1 = some (dat 1) ∧ (s (dat 1)).curT.matrix.ending = 1 ∧
        (s (dat 1)).curT.matrix.partBuf = [] ∧ (s (dat 1)).slotLive = true) := by decide +kernel
/-- MX rows of too few and too many scales, an exact product, and a sparse row. -/
theorem meets_MatrixColumnSums_mx :
    let o := (slotO 0x50 4 8 0).1
    rowMx o = true ∧ 0 < (rowK o + 31) / 32 ∧ ([] : List (BitVec 8)).length < (rowK o + 31) / 32 ∧
      (∀ p, p ∈ [(FVal.fin false 3 0, FVal.fin true 5 (-1))] → ∃ n m e n' m' e', p = (FVal.fin n m e, FVal.fin n' m' e') ∧ (-1 : Int) ≤ e + e') ∧
      mxBlock (-1) [(FVal.fin false 3 0, FVal.fin true 5 (-1))] 127 127 = (fp32.round .rne true 15 (-1), false) := by
  refine ⟨by decide +kernel, by decide +kernel, by decide +kernel, fun p h => ?_, by decide +kernel⟩
  rw [List.mem_singleton.mp h]
  exact ⟨_, _, _, _, _, _, rfl, by decide⟩
/-- A stream is Bound to launch 0 for its next configuration. -/
theorem meets_PlaneSwaps_bound :
    let s := (sReconf true []).setPctx 7 { PCtx.reset with st := .bound, launch := some 0, cfg := lReconf.cfg + 1 }
    (s.pctx 7).launch = some 0 ∧ (s.pctx 7).st = .bound ∧ (s.pctxs.map (fun x => x.1)).Nodup ∧ s.launch 0 = some lReconf ∧
      s.enginesDrained 0 lReconf = true := by decide +kernel
/-- Another entry stands inside a linked pair; the launch is frozen with a collective open. -/
theorem meets_PreEmptions_pairs :
    let s := begun 4 0 []
    let two : List Instr := [.signalAdd (pkOf 0x8000 [8191, 3, 0]), .nop (pkOf 0 [])]
    let pair := { newItem 0 0 0 0 (hdr 900 1) [0] with phase := .running, idx := 1, packets := two }
    let t := s.setItem 1 pair
    let l := { lOne with phase := .stopping, frozen := true }
    let f := ((s.setLaunch 0 l).setItem 0 { item0 s with phase := .running })
    let opened := { f with net := { f.net with colls := [(7, collOf 1 0)] } }
    (∃ x, x ∈ t.items ∧ x.2.midPair = true) ∧ (item0 f).inPair = false ∧ (∀ x, x ∈ f.items → x.2.midPair = false) ∧
      opened.coll 7 = some (collOf 1 0) ∧ (collOf 1 0).launch = some 0 ∧ (item0 opened).phase = .running := by
  refine ⟨⟨(1, _), List.mem_of_getElem? (i := 1) rfl, ?_⟩, ?_⟩ <;> decide +kernel
theorem meets_Resumptions_kept :
    let y : Tile := { Tile.reset with plane := { Plane.empty with mode := 2 } }
    Memory.wf (sSave .saved).mem = true ∧ Memory.wf keptNone.bytes = true ∧ (lSave .saved).pg ≤ 1536 ∧ (sSave .saved).poison = [] ∧
      (lSave .saved).wsp = false ∧ tabFind ({ keptNone with tiles := [(0, y)] }).tiles 0 = some y ∧ y.plane.mode = 2 := by decide +kernel
/-- The page of the status word may be read and not written. -/
theorem meets_StatusOrs_readOnly :
    let v := spec 0x400000 0 (2 ^ 98 + 16 * 2 ^ 448)
    let s := (drainer v id).storeNat (dpaLoc 0x110000) 8 0x7
    (match s.agnCheck 0 0 .read 0x400010 8 with
     | (.ok (.mem b), u) => decide (b = dpaLoc 0x400010 ∧ (u.agnCheck 0 0 .write 0x400010 8).1 = .bad .xltPermission)
     | _ => false) = true ∧ Cause.xltPermission.isXlt = true ∧ Launch.placed.nrx = false ∧ (s.pctx 0).recorded = false := by
  decide +kernel
/-- The bitmap of a stream of a launch with NRX lies where nothing is mapped. -/
theorem meets_BitmapElements_unmapped :
    let v := spec 0x400000 4 (2 ^ 192 + 0x80000000 * 2 ^ 256 + 2 ^ 320 + 2 ^ 352)
    let s := (streamS v id).setLaunch 0 { Launch.placed with nrx := true }
    (s.launch 0).map (fun l => l.nrx) = some true ∧ spPf v = 1 ∧ (s.pctx 0).bitmap = none ∧
      outcome (s.readElems 0 (spBmap v / 2 ^ 60) 1 false true 1 (spBmap v : Int) 0 0 false) = 1 := by decide +kernel
/-- A message of the poster already stands in the channel. -/
theorem meets_MessageArrivals_behind :
    let s := sChan (fun c => { c with arriving := [msgTo 2 9], queues := [(2, [msgTo 2 9])] })
    ∃ x, x ∈ tabGet (s.seq 0).queues 2 [] ∧ x.src = (msgTo 2 9).src ∧ x.sseq = (msgTo 2 9).sseq :=
  ⟨msgTo 2 9, by decide +kernel, rfl, rfl⟩
theorem meets_SequencerEvents_test :
    let s := sWaitHost (.test 3 5)
    (s.seq 0).waiting = some (waitFor (.test 3 5)) ∧ (waitFor (.test 3 5)).tag = none ∧ s.now < (waitFor (.test 3 5)).since + 100000 := by
  decide +kernel
/-- The ring of a queue holds a poisoned granule. -/
theorem meets_KickReadFaults_poison :
    let s := { (ringed 0).setQueue 0 { qOne with w := 9 } with poison := [dpaLoc 0x200000 / 16] }
    isErr (s.readRing (s.queue 0) (s.queue 0).ridx 8) (.memDataError, 0x200000) = true ∧
      isOk (match (s.check { ctx := some 0 } 0 [] .read 0x200000 4).1 with | .ok (.mem l) => .ok l | _ => .error ()) (dpaLoc 0x200000) = true ∧
      s.granulePoison (dpaLoc 0x200000) = true := by decide +kernel
theorem meets_AdmissionCodes_sequencer :
    let s := waits (hdr 90000 1) (pkt1 1 0 [18 * 2 ^ 18 % 2 ^ 32, 0x40000000, 7])
    let p := { s with part := { s.part with sequencers := 0 } }
    (item0 p).pkts.map (fun x => (x.1, x.2.field 60 4)) = [(1, 4)] ∧ p.part.seqOk (((item0 p).pkts.map (fun x => x.2.field 18 5)).headD 0) = false ∧
      0x0E ∈ p.entryCodes (item0 p) := by decide +kernel

end Sys2Proof.Tests
end

/-!
## Every step keeps the state sound (R6)

`Sound` speaks of two fields alone: memory in its canonical form, and the reserved bits of the registers that are stored whole.
An operation therefore has one rule, `<operation>_sound`, in the order of the model's files: one that touches neither field is
`Sound.frame`, one that writes memory is `Sound.stores`, one that writes a register is `Sound.withCtl` with the rule of that
register. The rule of a larger operation follows its branches and cites the rules of what it calls; `exec_sound` gathers the
instructions, and `step_sound` the turns.
-/

namespace Sys2Proof.Machine
open Sys2Proof Sys2Proof.Claims

/-- Every reserved bit of the registers that are stored whole is zero. -/
structure CtlClear (c : Ctl) : Prop where
  domid : c.domid.toNat < 2 ^ 7
  qtbase : c.qtbase &&& 0x7FFFFC0000 = c.qtbase
  frtbase : c.frtbase &&& 0xFFFFFFFFE0000 = c.frtbase
  stq0 : c.stq0.toNat < 2 ^ 13
  stq1 : c.stq1.toNat < 2 ^ 13
  therm : c.therm.toNat < 2 ^ 42
  svcpend : c.svcpend.toNat < 2 ^ 29
  rpctl : c.rpctl.toNat < 2 ^ 15
  bootst : c.bootst.toNat < 2 ^ 32 ∧ fieldOf c.bootst.toNat 6 10 = 0

/-! ### One rule for each register -/

theorem CtlClear.reset : CtlClear Ctl.reset := by constructor <;> decide

section
variable {c : Ctl} (hc : CtlClear c)
include hc

theorem CtlClear.withDomid {v : Word} (hv : v.toNat < 2 ^ 7) : CtlClear { c with domid := v } := { hc with domid := hv }
theorem CtlClear.withQtbase (v : Word) : CtlClear { c with qtbase := v &&& 0x7FFFFC0000 } :=
  { hc with qtbase := by simp [BitVec.and_assoc] }
theorem CtlClear.withFrtbase (v : Word) : CtlClear { c with frtbase := v &&& 0xFFFFFFFFE0000 } :=
  { hc with frtbase := by simp [BitVec.and_assoc] }
theorem CtlClear.withStq0 {v : Word} (hv : v.toNat < 2 ^ 13) : CtlClear { c with stq0 := v } := { hc with stq0 := hv }
theorem CtlClear.withStq1 {v : Word} (hv : v.toNat < 2 ^ 13) : CtlClear { c with stq1 := v } := { hc with stq1 := hv }
theorem CtlClear.withPcap (v : BitVec 32) : CtlClear { c with pcap := v } := { hc with }
theorem CtlClear.withAdapt (v : BitVec 4) : CtlClear { c with adapt := v } := { hc with }
theorem CtlClear.withTherm {v : Word} (hv : v.toNat < 2 ^ 42) : CtlClear { c with therm := v } := { hc with therm := hv }
theorem CtlClear.withBootst {v : Word} (hv : v.toNat < 2 ^ 32 ∧ fieldOf v.toNat 6 10 = 0) : CtlClear { c with bootst := v } :=
  { hc with bootst := hv }
theorem CtlClear.withSvcpend {v : Word} (hv : v.toNat < 2 ^ 29) : CtlClear { c with svcpend := v } := { hc with svcpend := hv }
theorem CtlClear.withRpctl {v : Word} (hv : v.toNat < 2 ^ 15) : CtlClear { c with rpctl := v } := { hc with rpctl := hv }
theorem CtlClear.withRpring (v : Word) : CtlClear { c with rpring := v } := { hc with }

end

theorem bootWord_reserved {stage copy err : Nat} (svn : Nat) (hs : stage < 16) (hc : copy < 4) (he : err < 256) :
    (bootWord stage copy svn err).toNat < 2 ^ 32 ∧ fieldOf (bootWord stage copy svn err).toNat 6 10 = 0 := by
  simp only [bootWord, word, BitVec.toNat_ofNat, fieldOf]
  omega

theorem and_toNat_lt {n : Nat} (v : Word) {m : Word} (hm : m.toNat < 2 ^ n) : (v &&& m).toNat < 2 ^ n :=
  BitVec.toNat_and v m ▸ Nat.and_lt_two_pow _ hm

end Sys2Proof.Machine

namespace Sys2Proof.Claims
open Sys2Proof Sys2Proof.Machine
variable {s t : State}

theorem sound_iff : Sound s ↔ Memory.wf s.mem = true ∧ CtlClear s.ctl :=
  ⟨fun ⟨hm, hd, hq, hf, h0, h1, ht, hs, hr, hb⟩ => ⟨hm, hd, hq, hf, h0, h1, ht, hs, hr, hb⟩,
   fun ⟨hm, hd, hq, hf, h0, h1, ht, hs, hr, hb⟩ => ⟨hm, hd, hq, hf, h0, h1, ht, hs, hr, hb⟩⟩

theorem Sound.mem (h : Sound s) : Memory.wf s.mem = true := (sound_iff.mp h).1

theorem Sound.ctl (h : Sound s) : CtlClear s.ctl := (sound_iff.mp h).2

/-- An update that touches neither memory nor the registers. -/
theorem Sound.frame (h : Sound s) (hm : t.mem = s.mem) (hc : t.ctl = s.ctl) : Sound t :=
  sound_iff.mpr ⟨hm ▸ h.mem, hc ▸ h.ctl⟩

/-- An update of memory that keeps its canonical form. -/
theorem Sound.stores (h : Sound s) (hm : Memory.wf t.mem = true) (hc : t.ctl = s.ctl) : Sound t :=
  sound_iff.mpr ⟨hm, hc ▸ h.ctl⟩

/-- An update of the registers that keeps their reserved bits zero. -/
theorem Sound.withCtl (h : Sound s) {c : Ctl} (hc : CtlClear c) (p : Power) (x : Sec) :
    Sound { s with ctl := c, power := p, sec := x } :=
  sound_iff.mpr ⟨h.mem, hc⟩

/-- A step of the boot that writes BOOTST from its fields. -/
theorem Sound.withBootWord (h : Sound s) {stage copy err : Nat} (svn : Nat) (hs : stage < 16) (hc : copy < 4) (he : err < 256)
    (x : Sec) : Sound { s with ctl := { s.ctl with bootst := bootWord stage copy svn err }, sec := x } :=
  h.withCtl (h.ctl.withBootst (bootWord_reserved svn hs hc he)) s.power x

end Sys2Proof.Claims

namespace Sys2Proof.Machine
open Sys2Proof Sys2Proof.Claims
variable {s : State}

/-- A turn that answers a next state answers a sound one. -/
structure SoundNext (o : Out) : Prop where
  sound : ∀ t, o = .next t → Sound t

theorem SoundNext.next (h : Sound s) : SoundNext (.next s) := ⟨fun _ ht => by cases ht; exact h⟩

theorem ite_sound {c : Prop} [Decidable c] {a b : State} (ha : Sound a) (hb : Sound b) : Sound (if c then a else b) := by
  split
  · exact ha
  · exact hb

theorem foldl_sound {α : Type} {f : State → α → State} (h : Sound s) {l : List α} (hf : ∀ u x, Sound u → Sound (f u x)) :
    Sound (l.foldl f s) := by
  induction l generalizing s with
  | nil => exact h
  | cons x r ih => exact ih (hf s x h)

theorem foldl_bind_sound {α : Type} {f : State → α → Option State} (hf : ∀ u x t, Sound u → f u x = some t → Sound t)
    {l : List α} {o : Option State} (ho : ∀ t, o = some t → Sound t) {t : State}
    (ht : l.foldl (fun u x => u.bind (f · x)) o = some t) : Sound t := by
  induction l generalizing o with
  | nil => exact ho t ht
  | cons x r ih =>
    refine ih (fun u hu => ?_) ht
    obtain ⟨v, hv, hx⟩ := Option.bind_eq_some_iff.mp hu
    exact hf v x u (ho v hv) hx

theorem getD_sound {o : Option State} (h : Sound s) (ho : ∀ t, o = some t → Sound t) : Sound (o.getD s) := by
  cases o with
  | none => exact h
  | some t => exact ho t rfl

theorem elim_sound {α : Type} {o : Option α} {f : α → State} (h : Sound s) (ho : ∀ x, o = some x → Sound (f x)) :
    Sound (o.elim s f) := by
  cases o with
  | none => exact h
  | some x => exact ho x rfl

theorem orElse_sound {a : Option State} {b : Unit → Option State} (ha : ∀ t, a = some t → Sound t)
    (hb : ∀ t, b () = some t → Sound t) : ∀ t, a.orElse b = some t → Sound t := by
  cases a with
  | none => exact hb
  | some u => exact ha

/-! ### Shared operations -/

theorem State.setSeq_sound (h : Sound s) (n q) : Sound (s.setSeq n q) := h

theorem State.setTile_sound (h : Sound s) (t v) : Sound (s.setTile t v) := h

theorem State.setPctx_sound (h : Sound s) (p v) : Sound (s.setPctx p v) := h

theorem State.setIsland_sound (h : Sound s) (i v) : Sound (s.setIsland i v) := h

theorem State.setLaunch_sound (h : Sound s) (l v) : Sound (s.setLaunch l v) := h

theorem State.setItem_sound (h : Sound s) (i v) : Sound (s.setItem i v) := h

theorem State.setQueue_sound (h : Sound s) (q v) : Sound (s.setQueue q v) := h

theorem State.setRing_sound (h : Sound s) (c v) : Sound (s.setRing c v) := h

theorem State.setCur_sound (h : Sound s) (q) : Sound (s.setCur q) := h

theorem State.arise_sound (h : Sound s) (e) : Sound (s.arise e) := h

theorem State.ariseOnce_sound (h : Sound s) (e) : Sound (s.ariseOnce e) := by
  unfold State.ariseOnce
  grind [State.arise_sound]

theorem State.ariseKick_sound (h : Sound s) (q v) : Sound (s.ariseKick q v) := h

theorem State.bump_sound (h : Sound s) : Sound (s.bump) := h

theorem State.retire_sound (h : Sound s) (q) : Sound (s.retire q) := h

theorem State.result_sound (h : Sound s) (rd v) : Sound (s.result rd v) := h

theorem State.hold_sound (h : Sound s) : Sound (s.hold) := h

theorem State.raise_sound (h : Sound s) (c r) : Sound (s.raise c r) := h

theorem State.freeze_sound (h : Sound s) (l c) : Sound (s.freeze l c) := by
  unfold State.freeze
  grind [State.setLaunch_sound, Sound.frame]

theorem State.seqFault_sound (h : Sound s) (n c addr) : Sound (s.seqFault n c addr) := h

theorem State.fault_sound (h : Sound s) (c addr) : SoundNext (s.fault c addr) := .next h

theorem State.resumeSeq_sound (h : Sound s) (n) : Sound (s.resumeSeq n) := by
  unfold State.resumeSeq
  grind [State.setSeq_sound, Sound.frame]

theorem State.readTime_sound (h : Sound s) (clock) : Sound (s.readTime clock).2 := h

theorem State.post_sound (h : Sound s) (n m) : Sound (s.post n m) := h

theorem State.hardPost_sound (h : Sound s) (n m) : Sound (s.hardPost n m) := h

theorem State.postLaunch_sound (h : Sound s) (l m) : Sound (s.postLaunch l m) := by
  unfold State.postLaunch
  grind [State.hardPost_sound, State.setLaunch_sound, Sound.frame]

/-! ### Stores -/

theorem State.storeBytes_sound (h : Sound s) (loc bs) : Sound (s.storeBytes loc bs) :=
  h.stores (memPut_wf _ _ _ h.mem) rfl

theorem State.storeParts_sound (h : Sound s) (ps bs) : Sound (s.storeParts ps bs) := by
  induction ps generalizing s bs with
  | nil => exact h
  | cons p r ih => exact ih (State.storeBytes_sound h ..) _

theorem State.storeNat_sound (h : Sound s) (loc n v) : Sound (s.storeNat loc n v) := by
  unfold State.storeNat
  grind [State.storeBytes_sound]

theorem State.setFull_sound (h : Sound s) (tile g v) : Sound (s.setFull tile g v) := h

theorem State.islandRecord_sound (h : Sound s) (ctx loc addr) : Sound (s.islandRecord ctx loc addr) := h

theorem State.engineRead_sound (h : Sound s) (ctx loc n addr) : Sound (s.engineRead ctx loc n addr).2.2 := by
  unfold State.engineRead
  grind [State.islandRecord_sound]

theorem State.noteError_sound (h : Sound s) (ctx a n) : Sound (s.noteError ctx a n) := by
  unfold State.noteError
  grind [State.engineRead_sound]

/-! ### Control flow of a sequencer -/

theorem State.branch_sound (h : Sound s) (rs1 rs2 off test) : SoundNext (s.branch rs1 rs2 off test) := by
  unfold State.branch
  grind [State.setCur_sound, State.retire_sound, SoundNext.next, Sound.frame]

theorem State.csrWrite_sound (h : Sound s) (n c v) : Sound (s.csrWrite n c v) := by
  unfold State.csrWrite
  grind [State.setSeq_sound, State.setRing_sound, Sound.frame]

theorem execWdog_sound (h : Sound s) (rs1) : SoundNext (execWdog rs1 s) := by
  unfold execWdog
  grind [State.fault_sound, State.retire_sound, SoundNext.next, Sound.frame]

theorem execEret_sound (h : Sound s) : SoundNext (execEret s) := by
  unfold execEret
  grind [State.fault_sound, State.setCur_sound, State.post_sound, State.hardPost_sound, SoundNext.next]

/-! ### Channels, messages, tasks and barriers -/

theorem State.arrive_sound (h : Sound s) (sq bar n) : Sound (s.arrive sq bar n) := by
  unfold State.arrive
  grind [State.setSeq_sound, State.readTime_sound, State.hardPost_sound, foldl_sound, Sound.frame]

theorem execBarinit_sound (h : Sound s) (rs1 bar) : SoundNext (execBarinit rs1 bar s) := by
  unfold execBarinit
  grind [State.fault_sound, State.retire_sound, SoundNext.next]

theorem execBarrive_sound (h : Sound s) (rs1 bar) : SoundNext (execBarrive rs1 bar s) := by
  unfold execBarrive
  grind [State.fault_sound, State.arrive_sound, State.retire_sound, SoundNext.next]

theorem execBarbind_sound (h : Sound s) (rs1 bar) : SoundNext (execBarbind rs1 bar s) := by
  unfold execBarbind
  grind [State.fault_sound, State.retire_sound, SoundNext.next, Sound.frame]

theorem execSpanPhaseComplete_sound (h : Sound s) (span) : SoundNext (execSpanPhaseComplete span s) := by
  unfold execSpanPhaseComplete
  grind [State.readTime_sound, State.postLaunch_sound, SoundNext.next, foldl_sound, Sound.frame]

theorem State.unbindSpans_sound (h : Sound s) (l) : Sound (s.unbindSpans l) := h

theorem execChpost_sound (h : Sound s) (rd rs1 self ch) : SoundNext (execChpost rd rs1 self ch s) := by
  unfold execChpost
  grind [State.fault_sound, State.result_sound, State.setSeq_sound, State.post_sound, SoundNext.next]

theorem execChbind_sound (h : Sound s) (rd rs1 ch) : SoundNext (execChbind rd rs1 ch s) := by
  unfold execChbind
  grind [State.fault_sound, State.result_sound, State.storeNat_sound, SoundNext.next]

theorem State.noHandler_sound (h : Sound s) (n) : Sound (s.noHandler n) := h

theorem execMessageArrival_sound (h : Sound s) (seq msg) : SoundNext (execMessageArrival seq msg s) := by
  unfold execMessageArrival
  grind [State.setSeq_sound, State.noHandler_sound, SoundNext.next, Sound.frame]

theorem execHardwarePost_sound (h : Sound s) (seq) : SoundNext (execHardwarePost seq s) := by
  unfold execHardwarePost
  grind [State.setSeq_sound, SoundNext.next, Sound.frame]

theorem execTaskStart_sound (h : Sound s) (seq) : SoundNext (execTaskStart seq s) := by
  unfold execTaskStart
  grind [State.setSeq_sound, State.noHandler_sound, SoundNext.next, Sound.frame]

theorem execWatchdogExpiry_sound (h : Sound s) (seq) : SoundNext (execWatchdogExpiry seq s) := by
  unfold execWatchdogExpiry
  grind [State.seqFault_sound, State.setSeq_sound, SoundNext.next, Sound.frame]

theorem execResume_sound (h : Sound s) (seq) : SoundNext (execResume seq s) := by
  unfold execResume
  grind [State.resumeSeq_sound, SoundNext.next]

theorem execHostTimeout_sound (h : Sound s) (seq) : SoundNext (execHostTimeout seq s) := by
  unfold execHostTimeout
  grind [State.seqFault_sound, SoundNext.next]

/-! ### The network -/

theorem State.setPort_sound (h : Sound s) (p v) : Sound (s.setPort p v) := h

theorem State.transmit_sound (h : Sound s) (p f nak) : Sound (s.transmit p f nak) := h

theorem State.sendOn_sound (h : Sound s) (p f nak) : Sound (s.sendOn p f nak) := by
  unfold State.sendOn
  grind [State.transmit_sound, State.setPort_sound, Sound.frame]

theorem State.pump_sound (h : Sound s) (p) : Sound (s.pump p) := by
  unfold State.pump
  grind [State.sendOn_sound, State.setPort_sound, foldl_sound, Sound.frame]

theorem State.sendFlit_sound (h : Sound s) (f) : Sound (s.sendFlit f) := by
  unfold State.sendFlit
  grind [State.sendOn_sound]

theorem State.acceptOn_sound (h : Sound s) (p f) : Sound (s.acceptOn p f) := by
  unfold State.acceptOn
  grind [State.pump_sound, State.setPort_sound, Sound.frame]

theorem execFlitCrcMismatch_sound (h : Sound s) (port flit) : SoundNext (execFlitCrcMismatch port flit s) := by
  unfold execFlitCrcMismatch
  grind [State.sendOn_sound, SoundNext.next]

theorem State.linkTurn_sound (h : Sound s) (port f) : Sound (s.linkTurn port f) := by
  unfold State.linkTurn
  grind [State.acceptOn_sound, SoundNext.next]

theorem execFlitReplay_sound (h : Sound s) (port) : SoundNext (execFlitReplay port s) := by
  unfold execFlitReplay
  grind [State.setPort_sound, SoundNext.next, Sound.frame]

theorem execBadflit_sound (h : Sound s) (port flit) : SoundNext (execBadflit port flit s) := by
  unfold execBadflit
  grind [State.acceptOn_sound, State.setPort_sound, SoundNext.next, Sound.frame]

theorem execFlitForward_sound (h : Sound s) (port flit) : SoundNext (execFlitForward port flit s) := by
  unfold execFlitForward
  grind [State.sendFlit_sound, State.acceptOn_sound, SoundNext.next, Sound.frame]

theorem execLinkRetrained_sound (h : Sound s) (port peer) : SoundNext (execLinkRetrained port peer s) := by
  unfold execLinkRetrained
  grind [State.setPort_sound, SoundNext.next, Sound.frame]

theorem State.sendRequest_sound (h : Sound s) (who type dst ctx va sub pmask len16 ws) : Sound (s.sendRequest who type dst ctx
    va sub pmask len16 ws).2 := by
  unfold State.sendRequest
  grind [State.sendFlit_sound, Sound.frame]

theorem State.dropRequest_sound (h : Sound s) (tag) : Sound (s.dropRequest tag) := h

theorem State.respond_sound (h : Sound s) (f pmask r) : Sound (s.respond f pmask r) := by
  unfold State.respond
  grind [State.sendFlit_sound]

theorem execReadRequest_sound (h : Sound s) (a) : SoundNext (execReadRequest a s) := by
  unfold execReadRequest
  grind [State.acceptOn_sound, State.respond_sound, State.engineRead_sound, foldl_sound, SoundNext.next]

theorem execWriteRequest_sound (h : Sound s) (a) : SoundNext (execWriteRequest a s) := by
  unfold execWriteRequest
  grind [State.acceptOn_sound, State.respond_sound, State.storeParts_sound, State.raise_sound, foldl_sound, SoundNext.next,
    Sound.frame]

theorem execAtomicRequest_sound (h : Sound s) (a) : SoundNext (execAtomicRequest a s) := by
  unfold execAtomicRequest
  grind [State.acceptOn_sound, State.respond_sound, State.engineRead_sound, State.storeNat_sound, SoundNext.next]

/-! ### Fault records -/

theorem State.writeWords_sound (h : Sound s) (ctx a ws) {t} (ht : s.writeWords ctx a ws = .ok t) : Sound t := by
  induction ws generalizing s a with
  | nil => cases ht; exact h
  | cons w r ih =>
    unfold State.writeWords at ht
    grind [State.storeNat_sound]

theorem State.msix_sound (h : Sound s) (func vec) : Sound (s.msix func vec) := by
  unfold State.msix
  grind [Sound.frame]

theorem State.loseRecord_sound (h : Sound s) (x) : Sound (s.loseRecord x) := h

theorem State.writeRing_sound (h : Sound s) (x r) {t} (ht : s.writeRing x r = .done t) : Sound t := by
  unfold State.writeRing at ht
  grind [→ State.writeWords_sound, State.setRing_sound, State.msix_sound]

theorem execFaultRecordWrite_sound (h : Sound s) (idx) : SoundNext (execFaultRecordWrite idx s) := by
  have hg (r : FaultRec) : Sound { s with records := s.records.eraseIdx idx, now := max s.now (r.stamp + 4) } := h
  unfold execFaultRecordWrite
  grind [→ State.writeRing_sound, State.loseRecord_sound, State.raise_sound, SoundNext.next, Sound.frame]

theorem execConsumerIndexWrite_sound (h : Sound s) (ctx value) : SoundNext (execConsumerIndexWrite ctx value s) := by
  unfold execConsumerIndexWrite
  grind [State.setRing_sound, SoundNext.next]

theorem execLostClear_sound (h : Sound s) (ctx) : SoundNext (execLostClear ctx s) := by
  unfold execLostClear
  grind [State.setRing_sound, SoundNext.next]

theorem execRingReset_sound (h : Sound s) (ctx) : SoundNext (execRingReset ctx s) := by
  unfold execRingReset
  grind [State.setRing_sound, SoundNext.next]

theorem State.retry_sound (h : Sound s) (c) : Sound (s.retry c) := by
  unfold State.retry
  grind [State.resumeSeq_sound, foldl_sound, Sound.frame]

theorem execFretry_sound (h : Sound s) (agent value) : SoundNext (execFretry agent value s) := by
  unfold execFretry
  grind [State.retry_sound, SoundNext.next]

/-! ### Queues -/

theorem State.complexRaise_sound (h : Sound s) (ctx c pos addr) : Sound (s.complexRaise ctx c pos addr) := h

theorem State.stopQueue_sound (h : Sound s) (q c addr) : Sound (s.stopQueue q c addr) := h

theorem State.readEntries_sound (h : Sound s) (q fuel) : Sound (s.readEntries q fuel) := by
  induction fuel generalizing s with
  | zero => exact h
  | succ n ih =>
    unfold State.readEntries
    grind [State.stopQueue_sound, State.noteError_sound, State.setItem_sound, State.setQueue_sound]

theorem execKick_sound (h : Sound s) (q value) : SoundNext (execKick q value s) := by
  unfold execKick
  grind [State.stopQueue_sound, State.readEntries_sound, State.setQueue_sound, SoundNext.next]

theorem State.requestReset_sound (h : Sound s) (q) : Sound (s.requestReset q) := by
  unfold State.requestReset
  grind [State.arise_sound, State.setQueue_sound]

/-! ### Islands -/

theorem execIslandRepartition_sound (h : Sound s) (isl scr) : SoundNext (execIslandRepartition isl scr s) := by
  unfold execIslandRepartition
  grind [State.setIsland_sound, SoundNext.next, Sound.frame]

theorem State.zeroRange_sound (h : Sound s) (loc n) : Sound (s.zeroRange loc n) :=
  h.stores (memClear_wf _ _ h.mem) rfl

theorem execRepartitionComplete_sound (h : Sound s) (isl) : SoundNext (execRepartitionComplete isl s) := by
  unfold execRepartitionComplete
  grind [State.zeroRange_sound, State.setIsland_sound, SoundNext.next, foldl_sound]

/-! ### Tiles -/

theorem State.setArcAt_sound (h : Sound s) (t g a) : Sound (s.setArcAt t g a) := h

theorem State.bumpCounter_sound (h : Sound s) (t c n) : Sound (s.bumpCounter t c n) := h

theorem State.adapterFault_sound (h : Sound s) (t g n held) : Sound (s.adapterFault t g n held) := by
  unfold State.adapterFault
  grind [State.raise_sound, State.freeze_sound, State.setArcAt_sound, Sound.frame]

theorem State.arrives_sound (h : Sound s) (t g k) : Sound (s.arrives t g k) := by
  unfold State.arrives
  grind [State.setArcAt_sound, State.adapterFault_sound, State.storeBytes_sound, State.bumpCounter_sound, Sound.frame]

theorem State.send_sound (h : Sound s) (src t g k) : Sound (s.send src t g k) := by
  unfold State.send
  grind [State.arrives_sound, State.setArcAt_sound, Sound.frame]

theorem State.sendAll_sound (h : Sound s) (src t g ks) : Sound (s.sendAll src t g ks) := by
  unfold State.sendAll
  grind [State.send_sound, foldl_sound]

theorem State.setSlotSt_sound (h : Sound s) (v) : Sound (s.setSlotSt v) := h

theorem State.setRecSt_sound (h : Sound s) (v) : Sound (s.setRecSt v) := h

theorem State.orFlags_sound (h : Sound s) (f) : Sound (s.orFlags f) := h

theorem State.pay_sound (h : Sound s) (base) : Sound (s.pay base) := h

theorem State.slotFault_sound (h : Sound s) (c input addr) : SoundNext (s.slotFault c input addr) := by
  unfold State.slotFault
  grind [State.raise_sound, State.freeze_sound, State.setSlotSt_sound, SoundNext.next, Sound.frame]

theorem State.recFault_sound (h : Sound s) (c input) : SoundNext (s.recFault c input) := by
  unfold State.recFault
  grind [State.raise_sound, State.freeze_sound, State.setRecSt_sound, SoundNext.next, Sound.frame]

theorem execRelease_sound (h : Sound s) (seq) : SoundNext (execRelease seq s) := by
  unfold execRelease
  grind [SoundNext.next, Sound.frame]

theorem execWgo_sound (h : Sound s) (seq) : SoundNext (execWgo seq s) := by
  unfold execWgo
  grind [State.setLaunch_sound, SoundNext.next, Sound.frame]

theorem execDholdWrite_sound (h : Sound s) (seq k value) : SoundNext (execDholdWrite seq k value s) := by
  unfold execDholdWrite
  grind [State.setSeq_sound, SoundNext.next, Sound.frame]

/-! ### Power and temperature -/

theorem execPowerGrant_sound (h : Sound s) : SoundNext (execPowerGrant s) := by
  unfold execPowerGrant
  grind [State.bump_sound, SoundNext.next, Sound.frame]

theorem State.grantAll_sound (h : Sound s) (n) : Sound (s.grantAll n) := h

theorem execBodyBiasChange_sound (h : Sound s) (cluster) : SoundNext (execBodyBiasChange cluster s) := by
  unfold execBodyBiasChange
  grind [SoundNext.next, Sound.frame]

theorem State.wakeClusters_sound (h : Sound s) (l) : Sound (s.wakeClusters l) := h

theorem State.setAdapt_sound (h : Sound s) (bits) : Sound (s.setAdapt bits) := h

theorem execAdapt_sound (h : Sound s) (die) : SoundNext (execAdapt die s) := by
  unfold execAdapt
  grind [State.setAdapt_sound, SoundNext.next]

theorem execSupplyAdjust_sound (h : Sound s) (die) : SoundNext (execSupplyAdjust die s) := by
  unfold execSupplyAdjust
  grind [State.raise_sound, State.setAdapt_sound, State.bump_sound, SoundNext.next, Sound.frame]

theorem State.verifyFirmware_error {loc e : Nat} (he : s.verifyFirmware loc = .error e) : e < 256 := by
  unfold State.verifyFirmware at he
  grind

theorem State.hottest_lt (s : State) (l : List Nat) : s.hottest l < 256 := by
  suffices ∀ a, a < 256 → l.foldl (fun a i => max a (tabGet s.power.sensors i 0).toNat) a < 256 from this 0 (by decide)
  induction l with
  | nil => exact fun _ ha => ha
  | cons i r ih => exact fun a ha => ih _ (Nat.max_lt.mpr ⟨ha, BitVec.isLt _⟩)

theorem State.setTherm_sound (h : Sound s) (warn saving : Bool) : Sound (s.setTherm warn saving) := by
  refine h.withCtl (h.ctl.withTherm ?_) s.power s.sec
  have hw := Bool.toNat_lt warn
  have hv := Bool.toNat_lt saving
  have hottest := State.hottest_lt s
  have d0 := hottest [4 * 0, 4 * 0 + 1, 4 * 0 + 2, 4 * 0 + 3]
  have d1 := hottest [4 * 1, 4 * 1 + 1, 4 * 1 + 2, 4 * 1 + 3]
  have d2 := hottest [4 * 2, 4 * 2 + 1, 4 * 2 + 2, 4 * 2 + 3]
  have d3 := hottest [4 * 3, 4 * 3 + 1, 4 * 3 + 2, 4 * 3 + 3]
  have io := hottest [16]
  simp only [word, BitVec.toNat_ofNat]
  omega

theorem execThermalWarn_sound (h : Sound s) (sensor celsius) : SoundNext (execThermalWarn sensor celsius s) := by
  unfold execThermalWarn
  grind [State.setTherm_sound, State.complexRaise_sound, SoundNext.next, foldl_sound, Sound.frame]

theorem execThermalWarnClear_sound (h : Sound s) : SoundNext (execThermalWarnClear s) := by
  unfold execThermalWarnClear
  grind [State.setTherm_sound, SoundNext.next]

/-! ### The boot -/

theorem State.retireUnit_sound (h : Sound s) (u) : Sound (s.retireUnit u) := by
  unfold State.retireUnit
  grind [Sound.frame]

theorem State.spareLanes_sound (h : Sound s) : Sound (s.spareLanes) := by
  unfold State.spareLanes
  grind [State.setPort_sound, foldl_sound]

theorem State.cold_sound (h : Sound s) : Sound s.cold :=
  sound_iff.mpr ⟨memFilter_wf _ h.mem, CtlClear.reset⟩

theorem State.bootFrom_sound (h : Sound s) {copy err : Nat} (hc : copy < 4) (he : err < 256) (fw) : Sound (s.bootFrom copy err
    fw) :=
  h.withBootWord fw.1 (by decide) hc he _

theorem State.boot_sound (h : Sound s) : Sound s.boot := by
  unfold State.boot
  split
  · exact State.bootFrom_sound h (by decide) (by decide) _
  next he =>
    split
    · exact State.bootFrom_sound h (by decide) (State.verifyFirmware_error he) _
    next he => exact h.withBootWord 0 (by decide) (by decide) (State.verifyFirmware_error he) s.sec

theorem State.setStage_sound (h : Sound s) {stage : Nat} (hs : stage < 16) {err : Option Nat} (he : ∀ e, err = some e → e <
    256) :
    Sound (s.setStage stage err) := by
  refine h.withBootWord _ hs (Nat.mod_lt _ (by decide)) ?_ s.sec
  cases err with
  | none => exact Nat.mod_lt _ (by decide)
  | some e => exact he e rfl

theorem State.bootTurn_sound (h : Sound s) (ok) : Sound (s.bootTurn ok) := by
  unfold State.bootTurn
  split
  · have hr : Sound (s.sec.marks.foldl State.retireUnit s).spareLanes :=
      State.spareLanes_sound (foldl_sound h fun _ u hu => State.retireUnit_sound hu u)
    refine State.setStage_sound (hr.withCtl (hr.ctl.withSvcpend (v := 0) (by decide)) _ _) (by decide) ?_
    simp
  · split
    · exact State.setStage_sound (h.frame rfl rfl) (by decide) (by simp)
    · exact State.setStage_sound h (by decide) (by simp)
  · exact h

theorem State.configTurn_sound (h : Sound s) : Sound (s.configTurn) := h

theorem execColdReset_sound (h : Sound s) : SoundNext (execColdReset s) := by
  unfold execColdReset
  grind [State.boot_sound, State.cold_sound, SoundNext.next]

theorem execRecoveryVerify_sound (h : Sound s) : SoundNext (execRecoveryVerify s) := by
  unfold execRecoveryVerify
  split
  · exact .next h
  · split
    · exact .next (State.bootFrom_sound h (by decide) (Nat.mod_lt _ (by decide)) _)
    next he => exact .next (h.withBootWord 0 (by decide) (by decide) (State.verifyFirmware_error he) s.sec)

theorem State.off_sound (h : Sound s) : Sound (s.off) := by
  unfold State.off
  grind [State.cold_sound, Sound.frame]

theorem execThermalTrip_sound (h : Sound s) : SoundNext (execThermalTrip s) := by
  unfold execThermalTrip
  grind [State.off_sound, SoundNext.next]

theorem execPowerGoodLoss_sound (h : Sound s) : SoundNext (execPowerGoodLoss s) := by
  unfold execPowerGoodLoss
  grind [State.off_sound, SoundNext.next]

theorem State.countCorrected_sound (h : Sound s) (u) : Sound (s.countCorrected u) := by
  unfold State.countCorrected
  grind [Sound.frame]

theorem markBits_lt {u : SvcUnit} (hu : unitOk u = true) : markBits u < 2 ^ 28 := by
  cases u <;> simp only [unitOk, decide_eq_true_eq] at hu <;> exact Nat.pow_lt_pow_right (by decide) (by omega)

theorem execServiceMark_sound (h : Sound s) (unit) : SoundNext (execServiceMark unit s) := by
  unfold execServiceMark
  split
  · exact .next h
  next hu =>
    have hm : markBits unit < 2 ^ 28 := markBits_lt (by simp_all)
    refine .next (State.msix_sound (h.withCtl (h.ctl.withSvcpend ?_) s.power _) 0 0)
    rw [BitVec.toNat_or]
    refine Nat.or_lt_two_pow h.ctl.svcpend ?_
    simp only [word, BitVec.toNat_ofNat]
    split <;> omega

/-! ### Security requests -/

theorem State.extendMeasure_sound (h : Sound s) (c msg) : Sound (s.extendMeasure c msg) := h

theorem State.reqDone_sound (h : Sound s) (addr status) : Sound (s.reqDone addr status) := by
  unfold State.reqDone
  grind [State.storeNat_sound, Sound.frame]

theorem State.request_sound (h : Sound s) (addr op) {f : Nat → State} (hf : ∀ b, Sound (f b)) :
    SoundNext (s.request addr op f) := by
  unfold State.request
  grind [State.reqDone_sound, SoundNext.next]

theorem State.ownerRequest_sound (h : Sound s) (addr n b) {f : List Byte → State} (hf : ∀ k, Sound (f k)) :
    Sound (s.ownerRequest addr n b f) := by
  unfold State.ownerRequest
  grind [State.reqDone_sound]

theorem execInstallDataKey_sound (h : Sound s) (addr) : SoundNext (execInstallDataKey addr s) := by
  unfold execInstallDataKey
  grind [State.request_sound, State.ownerRequest_sound, State.reqDone_sound, Sound.frame]

theorem execEraseDataKey_sound (h : Sound s) (addr) : SoundNext (execEraseDataKey addr s) := by
  unfold execEraseDataKey
  grind [State.request_sound, State.ownerRequest_sound, State.reqDone_sound, Sound.frame]

theorem execInstallImageKey_sound (h : Sound s) (addr) : SoundNext (execInstallImageKey addr s) := by
  unfold execInstallImageKey
  grind [State.request_sound, State.ownerRequest_sound, State.reqDone_sound, Sound.frame]

theorem execEraseImageKey_sound (h : Sound s) (addr) : SoundNext (execEraseImageKey addr s) := by
  unfold execEraseImageKey
  grind [State.request_sound, State.ownerRequest_sound, State.reqDone_sound, Sound.frame]

theorem execAttest_sound (h : Sound s) (addr) : SoundNext (execAttest addr s) := by
  unfold execAttest
  grind [State.request_sound, State.reqDone_sound, State.readTime_sound, State.storeBytes_sound, State.bump_sound]

theorem execReadIdentityCertificate_sound (h : Sound s) (addr) : SoundNext (execReadIdentityCertificate addr s) := by
  unfold execReadIdentityCertificate
  grind [State.request_sound, State.reqDone_sound, State.storeBytes_sound]

theorem execTakeOwnership_sound (h : Sound s) (addr) : SoundNext (execTakeOwnership addr s) := by
  unfold execTakeOwnership
  grind [State.request_sound, State.reqDone_sound, Sound.frame]

theorem State.writeSecreq_sound (h : Sound s) (v) : Sound (s.writeSecreq v) := by
  unfold State.writeSecreq
  grind [Sound.frame]

/-! ### Register writes -/

theorem State.andThen_sound (h : Sound s) {f : State → Out} (hf : SoundNext (f s)) : Sound (s.andThen f) := by
  unfold State.andThen
  split
  next ht => exact hf.sound _ ht
  · exact h

theorem State.writeLctl_sound (h : Sound s) (n v) : Sound (s.writeLctl n v) := by
  unfold State.writeLctl
  grind [State.andThen_sound, execResume_sound, execRelease_sound, execWgo_sound]

theorem State.writePage_sound (h : Sound s) (q o v) : Sound (s.writePage q o v) := by
  unfold State.writePage
  grind [State.ariseKick_sound, State.requestReset_sound]

theorem State.putSem_sound (h : Sound s) (n v) : Sound (s.putSem n v) := by
  unfold State.putSem
  grind [State.ariseOnce_sound, foldl_sound, Sound.frame]

theorem State.writeSem_sound (h : Sound s) (agent n v) : Sound (s.writeSem agent n v) := by
  unfold State.writeSem
  grind [State.putSem_sound]

theorem State.writeTrusted_sound (h : Sound s) (off v) : Sound (s.writeTrusted off v) := by
  unfold State.writeTrusted
  dsimp only
  split
  · exact h.withCtl (h.ctl.withDomid (and_toNat_lt v (by decide))) s.power s.sec
  · exact h.withCtl (h.ctl.withQtbase v) s.power s.sec
  · exact h.withCtl (h.ctl.withFrtbase v) s.power s.sec
  · exact State.setAdapt_sound (h.withCtl (h.ctl.withPcap _) s.power s.sec) _
  · refine h.withCtl (h.ctl.withRpctl ?_) s.power _
    rw [BitVec.toNat_or]
    refine Nat.or_lt_two_pow (and_toNat_lt v (by decide)) ?_
    rw [BitVec.toNat_and]
    exact Nat.and_le_left.trans_lt (and_toNat_lt _ (by decide))
  · exact h.withCtl (h.ctl.withRpring v) s.power _
  · repeat' split
    · exact h.frame rfl rfl
    · exact State.andThen_sound h (execIslandRepartition_sound h _ _)
    · exact h.frame rfl rfl
    · exact h
    · exact h.frame rfl rfl
    · exact h

theorem State.writeReg_sound (h : Sound s) (agent off v) : Sound (s.writeReg agent off v) := by
  have stq : (v &&& 0x1FFF).toNat < 2 ^ 13 := and_toNat_lt v (by decide)
  unfold State.writeReg
  split
  · exact elim_sound h fun _ _ => State.writePage_sound h ..
  split
  · exact State.storeNat_sound h ..
  refine ite_sound h <| ite_sound (ite_sound ?bootst h) <| ite_sound ?stq <| ite_sound ?fretry <|
    ite_sound (ite_sound ?secreq h) <| ite_sound ?semaphore <| ite_sound ?kick <| ite_sound (ite_sound ?ring h) <|
    ite_sound (ite_sound h (ite_sound ?lctl (ite_sound ?dhold h))) <| ite_sound ?trusted h
  case bootst => exact State.andThen_sound h (execRecoveryVerify_sound h)
  case stq =>
    split
    · exact ite_sound (h.withCtl (h.ctl.withStq0 stq) s.power s.sec) (h.withCtl (h.ctl.withStq1 stq) s.power s.sec)
    · exact h
  case fretry => exact State.andThen_sound h (execFretry_sound h ..)
  case secreq => exact State.writeSecreq_sound h _
  case semaphore => exact State.writeSem_sound h ..
  case kick => exact State.writePage_sound h ..
  case ring => exact State.setRing_sound h ..
  case lctl => exact State.writeLctl_sound h ..
  case dhold => exact State.andThen_sound h (execDholdWrite_sound h ..)
  case trusted => exact State.writeTrusted_sound h ..

theorem execRegisterWrite_sound (h : Sound s) (agent offset value) : SoundNext (execRegisterWrite agent offset value s) := by
  unfold execRegisterWrite
  grind [State.writeReg_sound, SoundNext.next]

/-! ### Accesses of a sequencer -/

theorem State.settle_sound (h : Sound s) (n act v) : Sound (s.settle n act v) := by
  unfold State.settle
  grind [State.setSeq_sound, Sound.frame]

theorem State.fillGranule_sound (h : Sound s) (a release) : Sound (s.fillGranule a release) := by
  unfold State.fillGranule
  grind [State.setFull_sound]

theorem State.seqLocal_sound (h : Sound s) (act acc a n loc) : SoundNext (s.seqLocal act acc a n loc) := by
  unfold State.seqLocal
  grind [State.fault_sound, State.settle_sound, State.fillGranule_sound, State.storeBytes_sound, State.storeNat_sound,
    SoundNext.next]

theorem State.seqWaits_sound (h : Sound s) (act acc a n bus tag) : Sound (s.seqWaits act acc a n bus tag) := h

theorem State.seqAccess_sound (h : Sound s) (act acc a n) : SoundNext (s.seqAccess act acc a n) := by
  unfold State.seqAccess
  grind [State.fault_sound, State.setCur_sound, State.seqLocal_sound, State.writeReg_sound, State.settle_sound,
    State.seqWaits_sound, State.sendRequest_sound, SoundNext.next, Sound.frame]

theorem State.load_sound (h : Sound s) (data base m n) : SoundNext (s.load data base m n) := by
  unfold State.load
  grind [State.seqAccess_sound]

theorem State.store_sound (h : Sound s) (data base m n) : SoundNext (s.store data base m n) := by
  unfold State.store
  grind [State.seqAccess_sound]

theorem State.amo_sound (h : Sound s) (op rd rs1 rs2 f) : SoundNext (s.amo op rd rs1 rs2 f) := by
  unfold State.amo
  grind [State.seqAccess_sound]

theorem State.seqPeerFault_sound (h : Sound s) (n tag c addr) : Sound (s.seqPeerFault n tag c addr) := h

theorem State.seqResponse_sound (h : Sound s) (n f) : Sound (s.seqResponse n f) := by
  unfold State.seqResponse
  grind [State.seqPeerFault_sound, State.seqFault_sound, State.settle_sound]

theorem State.seqNoResponse_sound (h : Sound s) (n tag) : Sound (s.seqNoResponse n tag) := by
  unfold State.seqNoResponse
  grind [State.seqFault_sound]

theorem execHostCompletion_sound (h : Sound s) (seq data) : SoundNext (execHostCompletion seq data s) := by
  unfold execHostCompletion
  grind [State.settle_sound, State.storeBytes_sound, SoundNext.next]

/-! ### Charges and the ends of packets -/

theorem State.chargeItem_sound (h : Sound s) (k n) : Sound (s.chargeItem k n) := by
  unfold State.chargeItem
  grind [State.setItem_sound, Sound.frame]

theorem State.chargeLaunch_sound (h : Sound s) (l n) : Sound (s.chargeLaunch l n) := by
  unfold State.chargeLaunch
  grind [State.chargeItem_sound]

theorem State.closeItem_sound (h : Sound s) (k i) : Sound (s.closeItem k i) := h

theorem State.packetDone_sound (h : Sound s) (k) : Sound (s.packetDone k) := by
  unfold State.packetDone
  grind [State.setItem_sound, State.closeItem_sound, Sound.frame]

theorem State.entryStops_sound (h : Sound s) (k state c) : Sound (s.entryStops k state c) := by
  unfold State.entryStops
  grind [State.closeItem_sound, Sound.frame]

theorem State.packetFails_sound (h : Sound s) (k c) : Sound (s.packetFails k c) := by
  unfold State.packetFails
  grind [State.entryStops_sound]

theorem State.packetFault_sound (h : Sound s) (k c addr) : Sound (s.packetFault k c addr) := by
  unfold State.packetFault
  grind [State.packetFails_sound, State.complexRaise_sound]

/-! ### The recorder -/

theorem State.record_sound (h : Sound s) (l kind who o v aux clock) {t} (ht : s.record l kind who o v aux clock = some t) :
    Sound t := by
  unfold State.record at ht
  grind [State.readTime_sound, State.storeBytes_sound, Sound.frame]

theorem State.readRecords_sound (h : Sound s) (l n) : Sound (s.readRecords l n) := by
  unfold State.readRecords
  grind [State.noteError_sound, foldl_sound, Sound.frame]

theorem State.tookRecord_sound (h : Sound s) (l who o r) : Sound (s.tookRecord l who o r) := h

theorem State.diverge_sound (h : Sound s) (key) : Sound (s.diverge key) := by
  refine h.withCtl (h.ctl.withRpctl ?_) s.power _
  rw [BitVec.toNat_or]
  exact Nat.or_lt_two_pow h.ctl.rpctl (by decide)

theorem State.arbiterTurn_sound (h : Sound s) (l o r arb) {t} (ht : s.arbiterTurn l o r arb = some t) : Sound t := by
  unfold State.arbiterTurn at ht
  grind [State.diverge_sound, foldl_sound]

theorem State.captured_sound (h : Sound s) (lc kind who num sub live aux clock ok arb) {p}
    (ht : s.captured lc kind who num sub live aux clock ok arb = some p) : Sound p.2 := by
  unfold State.captured at ht
  grind [State.diverge_sound, State.readRecords_sound, State.tookRecord_sound, → State.arbiterTurn_sound, →
    State.record_sound, Option.map_eq_some_iff]

theorem State.recordElement_sound (h : Sound s) (lc num sub v aux clock) {t} (ht : s.recordElement lc num sub v aux clock =
    some t) : Sound t := by
  unfold State.recordElement at ht
  grind [→ State.record_sound]

/-! ### Route records -/

theorem State.recTake_sound (h : Sound s) (p) : Sound (s.recTake p) := h

theorem State.recPut_sound (h : Sound s) (r d k) : Sound (s.recPut r d k) := by
  unfold State.recPut
  grind [State.orFlags_sound, State.send_sound]

theorem State.recFired_sound (h : Sound s) : Sound (s.recFired) := h

theorem State.recEnd_sound (h : Sound s) : Sound (s.recEnd) := h

theorem State.ifRec_sound (h : Sound s) {f : Out} (hf : SoundNext f) : SoundNext (s.ifRec f) := by
  unfold State.ifRec
  grind [SoundNext.next]

theorem execPass_sound (h : Sound s) (r) : SoundNext (execPass r s) := by
  unfold execPass
  grind [State.ifRec_sound, State.recFired_sound, State.recPut_sound, State.recTake_sound, State.recEnd_sound, SoundNext.next]

theorem execFork_sound (h : Sound s) (r) : SoundNext (execFork r s) := by
  unfold execFork
  grind [State.ifRec_sound, State.recFired_sound, State.recPut_sound, State.recTake_sound, State.recEnd_sound, SoundNext.next]

theorem execSteer_sound (h : Sound s) (r) : SoundNext (execSteer r s) := by
  unfold execSteer
  grind [State.ifRec_sound, State.recEnd_sound, State.recFired_sound, State.recPut_sound, State.recTake_sound,
    State.recFault_sound, SoundNext.next]

theorem execMerge_sound (h : Sound s) (r) : SoundNext (execMerge r s) := by
  unfold execMerge
  grind [State.ifRec_sound, State.recEnd_sound, State.recFired_sound, State.recPut_sound, State.recTake_sound,
    State.recFault_sound, SoundNext.next]

theorem execCarry_sound (h : Sound s) (r) : SoundNext (execCarry r s) := by
  unfold execCarry
  grind [State.setRecSt_sound, State.ifRec_sound, State.recFired_sound, State.recPut_sound, State.recTake_sound,
    State.recFault_sound, State.recEnd_sound, SoundNext.next, Sound.frame]

theorem execInvar_sound (h : Sound s) (r) : SoundNext (execInvar r s) := by
  unfold execInvar
  grind [State.setRecSt_sound, State.ifRec_sound, State.recFault_sound, State.recEnd_sound, State.recFired_sound,
    State.recPut_sound, State.recTake_sound, SoundNext.next, Sound.frame]

theorem execDelay_sound (h : Sound s) (r) : SoundNext (execDelay r s) := by
  unfold execDelay
  grind [State.setRecSt_sound, State.recFired_sound, State.recTake_sound, State.ifRec_sound, State.recPut_sound,
    State.recEnd_sound, SoundNext.next, Sound.frame]

theorem execEdgeBarrier_sound (h : Sound s) (r) : SoundNext (execEdgeBarrier r s) := by
  unfold execEdgeBarrier
  grind [State.ifRec_sound, State.recEnd_sound, State.recFired_sound, State.recTake_sound, State.recFault_sound,
    State.arrive_sound, State.orFlags_sound, SoundNext.next]

theorem execRouterLinkTransfer_sound (h : Sound s) (tile dir) : SoundNext (execRouterLinkTransfer tile dir s) := by
  unfold execRouterLinkTransfer
  grind [State.bumpCounter_sound, State.arrives_sound, State.setArcAt_sound, SoundNext.next, Sound.frame]

theorem execSpillRingRefill_sound (h : Sound s) (tile target) : SoundNext (execSpillRingRefill tile target s) := by
  unfold execSpillRingRefill
  grind [State.adapterFault_sound, State.engineRead_sound, State.setArcAt_sound, SoundNext.next, Sound.frame]

theorem State.zeroFrame_sound (h : Sound s) (t) : Sound (s.zeroFrame t) :=
  h.stores (memClear_wf _ _ h.mem) rfl

/-! ### Matrix mode -/

theorem State.setMatrix_sound (h : Sound s) (t m) : Sound (s.setMatrix t m) := h

theorem State.putSouth_sound (h : Sound s) (t r) : Sound (s.putSouth t r) := by
  unfold State.putSouth
  grind [State.setMatrix_sound, Sound.frame]

theorem execInvocationStart_sound (h : Sound s) (tile) : SoundNext (execInvocationStart tile s) := by
  unfold execInvocationStart
  grind [State.setTile_sound, State.zeroFrame_sound, SoundNext.next]

/-! ### Streams -/

theorem State.wireArc_sound (h : Sound s) (die n out t g) : Sound (s.wireArc die n out t g) := h

theorem State.wireStream_sound (h : Sound s) (pc v) : Sound (s.wireStream pc v) := by
  unfold State.wireStream
  grind [State.wireArc_sound]

theorem State.bindStream_sound (h : Sound s) (k pc spec shadow charged post item) {t} (ht : s.bindStream k pc spec shadow
    charged post item = .ok t) : Sound t := by
  unfold State.bindStream at ht
  grind [State.setPctx_sound, State.wireStream_sound, Sound.frame]

theorem State.postStream_sound (h : Sound s) (pc p) : Sound (s.postStream pc p) := by
  unfold State.postStream
  grind [State.readTime_sound, State.postLaunch_sound, Sound.frame]

theorem State.discardBound_sound (h : Sound s) (k) : Sound (s.discardBound k) := by
  unfold State.discardBound
  grind [State.postStream_sound, State.setPctx_sound, foldl_sound, Sound.frame]

theorem State.chargeEnd_sound (h : Sound s) (p) : Sound (s.chargeEnd p) := by
  unfold State.chargeEnd
  grind [State.chargeLaunch_sound]

theorem State.dropStream_sound (h : Sound s) (pc) : Sound (s.dropStream pc) := by
  unfold State.dropStream
  grind [State.chargeEnd_sound, State.setPctx_sound, State.packetFails_sound]

theorem State.haltStream_sound (h : Sound s) (pc) : Sound (s.haltStream pc) := by
  unfold State.haltStream
  grind [State.dropStream_sound, State.setPctx_sound, Sound.frame]

theorem State.cancelStream_sound (h : Sound s) (pc) : Sound (s.cancelStream pc) := by
  unfold State.cancelStream
  grind [State.dropStream_sound, State.postStream_sound, State.setPctx_sound, Sound.frame]

/-! ### Elements of streams -/

theorem State.agnRecord_sound (h : Sound s) (pc c addr stop tok tag) : Sound (s.agnRecord pc c addr stop tok tag) := h

theorem State.agnFault_sound (h : Sound s) (pc c addr tok tag) : Sound (s.agnFault pc c addr tok tag) := by
  unfold State.agnFault
  grind [State.agnRecord_sound, State.freeze_sound, State.setPctx_sound, Sound.frame]

theorem State.agnCheck_sound (h : Sound s) (pc path k a n) : Sound (s.agnCheck pc path k a n).2 := by
  unfold State.agnCheck
  grind [State.setPctx_sound, Sound.frame]

theorem State.emit_sound (h : Sound s) (pc v out k) : Sound (s.emit pc v out k) := by
  unfold State.emit
  grind [State.send_sound]

theorem State.emitWide_sound (h : Sound s) (pc v x) : Sound (s.emitWide pc v x) := by
  unfold State.emitWide
  grind [State.setMatrix_sound, Sound.frame]

theorem State.counted_sound (h : Sound s) (pc n) : Sound (s.counted pc n) := by
  unfold State.counted
  grind [State.setPctx_sound, State.chargeLaunch_sound, Sound.frame]

theorem State.deliver_sound (h : Sound s) (pc n count x psn coord) : Sound (s.deliver pc n count x psn coord) := by
  unfold State.deliver
  grind [State.setPctx_sound, State.counted_sound, State.emitWide_sound, State.emit_sound, Sound.frame]

theorem State.advance_sound (h : Sound s) (pc n) : Sound (s.advance pc n) := h

theorem State.agnStop_sound (h : Sound s) (pc c addr n tok tag) : Sound (s.agnStop pc c addr n tok tag) := by
  unfold State.agnStop
  grind [State.agnRecord_sound, State.setPctx_sound]

theorem State.divert_sound (h : Sound s) (pc n addr due) : Sound (s.divert pc n addr due) := h

theorem State.agnXlt_sound (h : Sound s) (pc c addr n count tag) : Sound (s.agnXlt pc c addr n count tag) := by
  unfold State.agnXlt
  grind [State.agnRecord_sound, State.advance_sound, State.divert_sound, State.agnStop_sound]

theorem State.readElems_sound (h : Sound s) (pc path z nrx loud left a sh x psn) {y b t}
    (ht : s.readElems pc path z nrx loud left a sh x psn = .ok y b t) : Sound t := by
  induction left generalizing s a sh x psn with
  | zero => cases ht; exact h
  | succ n ih =>
    unfold State.readElems at ht
    grind [State.agnCheck_sound, State.engineRead_sound, State.agnRecord_sound, State.bump_sound]

theorem State.agnRequest_sound (h : Sound s) (pc want type sub pkg va pmask len ws) : Sound (s.agnRequest pc want type sub pkg
    va pmask len ws) := by
  unfold State.agnRequest
  grind [State.sendRequest_sound, State.setPctx_sound]

theorem State.served_sound (h : Sound s) (pc) : Sound (s.served pc) := h

theorem State.deliverRecorded_sound (h : Sound s) (pc n count x psn coord) {t}
    (ht : s.deliverRecorded pc n count x psn coord = some t) : Sound t := by
  obtain ⟨u, hu, rfl⟩ := Option.map_eq_some_iff.mp ht
  refine State.deliver_sound (foldl_bind_sound (fun _ _ _ hv he => State.recordElement_sound hv _ _ _ _ _ _ he) ?_ hu) ..
  rintro _ ⟨⟩
  exact h

theorem State.readValue_sound (h : Sound s) (pc path z pf n a) {done : State → State} (hd : ∀ u, Sound u → Sound (done u)) :
    SoundNext (s.readValue pc path z pf n a done) := by
  unfold State.readValue
  dsimp only
  split
  · exact .next (State.advance_sound (State.divert_sound h ..) ..)
  · split
    · exact .next h
    · exact .next (State.agnFault_sound h ..)
    · exact .next (State.agnXlt_sound h ..)
    · exact .next (State.agnRequest_sound h ..)
    next hr =>
      have h1 := State.readElems_sound h _ _ _ _ _ _ _ _ _ _ hr
      exact .next (elim_sound h fun _ hu => hd _ (State.deliverRecorded_sound h1 _ _ _ _ _ _ hu))

theorem execStreamElementIssue_sound (h : Sound s) (pc) : SoundNext (execStreamElementIssue pc s) := by
  unfold execStreamElementIssue
  grind [State.readValue_sound, State.served_sound, State.advance_sound, SoundNext.next]

theorem State.popA_sound (h : Sound s) (pc) : Sound (s.popA pc) := h

theorem State.popB_sound (h : Sound s) (pc) : Sound (s.popB pc) := h

theorem State.deliverPoison_sound (h : Sound s) (pc n) {t} (ht : s.deliverPoison pc n = some t) : Sound t := by
  unfold State.deliverPoison at ht
  grind [→ State.deliverRecorded_sound, State.bump_sound]

theorem execIndirectGather_sound (h : Sound s) (pc) : SoundNext (execIndirectGather pc s) := by
  have hs := State.served_sound h pc
  have pop (t : State) (ht : Sound t) : Sound ((t.popA pc).advance pc 1) := State.advance_sound (State.popA_sound ht _) ..
  have read (path z pf n a) := State.readValue_sound hs pc path z pf n a pop
  unfold execIndirectGather
  dsimp only
  split
  · exact .next h
  split
  · exact .next h
  split
  · exact .next (State.setPctx_sound hs ..)
  split
  · exact .next (elim_sound h fun _ hu => pop _ (State.deliverPoison_sound hs _ _ hu))
  split
  · exact .next h
  split
  next hr => 
    have hu := (read ..).sound _ hr
    split
    · exact .next (State.popA_sound hu _)
    · exact .next hu
  · exact read ..

theorem State.bitmapByte_sound (h : Sound s) (pc x psn) : Sound (s.bitmapByte pc x psn) := h

theorem execBitmapSparseElement_sound (h : Sound s) (pc) : SoundNext (execBitmapSparseElement pc s) := by
  have hs := State.served_sound h pc
  unfold execBitmapSparseElement
  grind [State.agnFault_sound, State.bitmapByte_sound, State.agnStop_sound, State.agnRequest_sound, State.advance_sound,
    State.setPctx_sound, → State.deliverRecorded_sound, State.readValue_sound, → State.readElems_sound, SoundNext.next,
    elim_sound, → SoundNext.sound]

theorem State.writePop_sound (h : Sound s) (pc) : Sound (s.writePop pc) := by
  unfold State.writePop
  grind [State.setMatrix_sound, State.popA_sound, Sound.frame]

theorem State.poisonedWrite_sound (h : Sound s) (pc path x a) : Sound (s.poisonedWrite pc path x a) := by
  unfold State.poisonedWrite
  grind [State.agnFault_sound, State.setPctx_sound, Sound.frame]

theorem State.wrote_sound (h : Sound s) (pc loc) : Sound (s.wrote pc loc) := by
  unfold State.wrote
  grind [State.setPctx_sound, Sound.frame]

theorem State.writeValue_sound (h : Sound s) (pc path n x psn a pos) {after : State → State}
    (hd : ∀ u, Sound u → Sound (after u)) : SoundNext (s.writeValue pc path n x psn a pos after) := by
  unfold State.writeValue
  grind [State.poisonedWrite_sound, State.agnCheck_sound, State.agnStop_sound, State.agnFault_sound, State.setPctx_sound,
    State.agnRequest_sound, State.wrote_sound, State.storeBytes_sound, SoundNext.next]

theorem execWriteStreamElement_sound (h : Sound s) (pc) : SoundNext (execWriteStreamElement pc s) := by
  unfold execWriteStreamElement
  grind [State.served_sound, State.writePop_sound, State.setPctx_sound, State.agnFault_sound, State.advance_sound,
    State.counted_sound, State.writeValue_sound, SoundNext.next]

theorem execIndirectScatter_sound (h : Sound s) (pc) : SoundNext (execIndirectScatter pc s) := by
  unfold execIndirectScatter
  grind [State.served_sound, State.setPctx_sound, State.agnFault_sound, State.writeValue_sound, State.advance_sound,
    State.popB_sound, State.popA_sound, State.counted_sound, SoundNext.next, Sound.frame]

theorem execEdgeAgn_sound (h : Sound s) (r) : SoundNext (execEdgeAgn r s) := by
  unfold execEdgeAgn
  grind [State.ifRec_sound, State.agnFault_sound, State.recFired_sound, State.recTake_sound, State.setPctx_sound,
    State.recEnd_sound, SoundNext.next, Sound.frame]

theorem State.lateValue_sound (h : Sound s) (pc e x psn) : SoundNext (s.lateValue pc e x psn) := by
  unfold State.lateValue
  dsimp only
  split
  · exact .next h
  next hp =>
    have h1 := State.captured_sound h _ _ _ _ _ _ _ _ _ _ hp
    exact .next (getD_sound h fun _ hu => State.deliverRecorded_sound (State.setPctx_sound h1 ..) _ _ _ _ _ _ hu)

theorem execAgnRetry_sound (h : Sound s) (pc) : SoundNext (execAgnRetry pc s) := by
  unfold execAgnRetry
  grind [State.setPctx_sound, State.agnFault_sound, State.lateValue_sound, State.agnRequest_sound, → State.readElems_sound,
    SoundNext.next, Sound.frame]

theorem State.agnCheckBoth_sound (h : Sound s) (pc path a n) : Sound (s.agnCheckBoth pc path a n).2 := by
  unfold State.agnCheckBoth
  grind [State.agnCheck_sound]

theorem State.agnParts_sound (h : Sound s) (pc path as ps) : Sound (s.agnParts pc path as ps).2 := by
  induction as generalizing s ps with
  | nil => exact h
  | cons p r ih =>
    unfold State.agnParts
    grind [State.agnCheckBoth_sound]

theorem execStatusOr_sound (h : Sound s) (pc) : SoundNext (execStatusOr pc s) := by
  unfold execStatusOr
  grind [State.setPctx_sound, State.agnStop_sound, State.agnFault_sound, State.agnParts_sound, State.agnRequest_sound,
    State.engineRead_sound, State.storeParts_sound, SoundNext.next, foldl_sound, Sound.frame]

theorem execEndOfStream_sound (h : Sound s) (pc) : SoundNext (execEndOfStream pc s) := by
  unfold execEndOfStream
  grind [State.setPctx_sound, State.setMatrix_sound, State.emit_sound, SoundNext.next, Sound.frame]

theorem State.cleanFrames_sound (h : Sound s) (p) : Sound (s.cleanFrames p) := by
  unfold State.cleanFrames
  grind [Sound.frame]

theorem execStreamCompletion_sound (h : Sound s) (pc) : SoundNext (execStreamCompletion pc s) := by
  unfold execStreamCompletion
  grind [State.postStream_sound, State.setPctx_sound, State.chargeEnd_sound, State.cleanFrames_sound, State.packetDone_sound,
    SoundNext.next]

theorem State.agnArrived_sound (h : Sound s) (pc x psn) : SoundNext (s.agnArrived pc x psn) := by
  unfold State.agnArrived
  grind [State.bitmapByte_sound, State.lateValue_sound, → State.deliverRecorded_sound, State.setPctx_sound,
    State.advance_sound, State.popA_sound, SoundNext.next]

theorem State.agnWritten_sound (h : Sound s) (pc addr psn) : Sound (s.agnWritten pc addr psn) := by
  unfold State.agnWritten
  grind [State.advance_sound, State.counted_sound, State.popB_sound, State.popA_sound, State.writePop_sound,
    State.agnRequest_sound, State.setPctx_sound, Sound.frame]

theorem State.agnRefused_sound (h : Sound s) (pc tag c addr) : Sound (s.agnRefused pc tag c addr) := by
  unfold State.agnRefused
  grind [State.agnWritten_sound, State.setPctx_sound, State.agnFault_sound, State.andThen_sound, State.bump_sound,
    State.agnArrived_sound, State.agnXlt_sound, State.popA_sound, State.agnStop_sound, State.bitmapByte_sound, Sound.frame]

theorem State.agnResponse_sound (h : Sound s) (pc f addr) : Sound (s.agnResponse pc f addr) := by
  unfold State.agnResponse
  grind [State.setPctx_sound, State.agnRefused_sound, State.andThen_sound, State.agnArrived_sound, State.agnWritten_sound,
    Sound.frame]

theorem State.agnNoResponse_sound (h : Sound s) (pc tag addr) : Sound (s.agnNoResponse pc tag addr) := by
  unfold State.agnNoResponse
  grind [State.setPctx_sound, State.agnFault_sound, Sound.frame]

/-! ### Copies -/

theorem State.startCopy_sound (h : Sound s) (ctx d sdesc launch seqn item post desc) : Sound (s.startCopy ctx d sdesc launch
    seqn item post desc) := h

theorem execCopy_sound (h : Sound s) (rd rs1 ch) : SoundNext (execCopy rd rs1 ch s) := by
  unfold execCopy
  grind [State.fault_sound, State.result_sound, State.startCopy_sound, SoundNext.next]

theorem State.setCopy_sound (h : Sound s) (k j) : Sound (s.setCopy k j) := h

theorem State.copyRecord_sound (h : Sound s) (j c addr stop) : Sound (s.copyRecord j c addr stop) := h

theorem State.copyFail_sound (h : Sound s) (j k c addr) : Sound (s.copyFail j k c addr) := h

theorem State.copyBad_sound (h : Sound s) (k c addr) : Sound (s.copyBad k c addr) := by
  unfold State.copyBad
  grind [State.copyRecord_sound, State.setCopy_sound, State.copyFail_sound, Sound.frame]

theorem State.chargeCopy_sound (h : Sound s) (j n) : Sound (s.chargeCopy j n) := by
  unfold State.chargeCopy
  grind [State.chargeItem_sound, State.chargeLaunch_sound]

theorem State.copyNext_sound (h : Sound s) (k loc) : Sound (s.copyNext k loc) := by
  unfold State.copyNext
  grind [State.chargeCopy_sound, State.setCopy_sound, Sound.frame]

theorem State.copyPoisoned_sound (h : Sound s) (k j dst) : Sound (s.copyPoisoned k j dst) := by
  unfold State.copyPoisoned
  grind [State.copyRecord_sound, State.copyNext_sound, State.setCopy_sound]

theorem State.copyRequest_sound (h : Sound s) (k j type pkg va pmask len ws) : Sound (s.copyRequest k j type pkg va pmask len
    ws) := by
  unfold State.copyRequest
  grind [State.sendRequest_sound, State.setCopy_sound, Sound.frame]

theorem State.copyWrite_sound (h : Sound s) (k j bs mask) : Sound (s.copyWrite k j bs mask) := by
  unfold State.copyWrite
  grind [State.copyPoisoned_sound, State.setCopy_sound, State.copyBad_sound, State.copyRequest_sound, State.storeBytes_sound,
    State.setFull_sound, State.copyNext_sound, Sound.frame]

theorem State.copyGranule_sound (h : Sound s) (k j) : Sound (s.copyGranule k j) := by
  unfold State.copyGranule
  grind [State.copyWrite_sound, State.copyBad_sound, State.copyRequest_sound, State.engineRead_sound]

theorem State.copyResponse_sound (h : Sound s) (k f) : Sound (s.copyResponse k f) := by
  unfold State.copyResponse
  grind [State.setCopy_sound, State.copyFail_sound, State.copyNext_sound, Sound.frame]

theorem State.copyNoResponse_sound (h : Sound s) (k tag addr) : Sound (s.copyNoResponse k tag addr) := by
  unfold State.copyNoResponse
  grind [State.setCopy_sound, State.copyBad_sound, Sound.frame]

theorem State.cleanFrame_sound (h : Sound s) (f) : Sound (s.cleanFrame f) := h

theorem State.failFrame_sound (h : Sound s) (f v) : Sound (s.failFrame f v) := h

theorem execCopyCompletion_sound (h : Sound s) (copy) : SoundNext (execCopyCompletion copy s) := by
  unfold execCopyCompletion
  grind [State.chargeCopy_sound, State.cleanFrame_sound, State.packetFails_sound, State.setItem_sound, State.packetDone_sound,
    State.readTime_sound, State.postLaunch_sound, SoundNext.next, foldl_sound, Sound.frame]

theorem State.cancelCopy_sound (h : Sound s) (k) : Sound (s.cancelCopy k) := by
  unfold State.cancelCopy
  grind [State.setCopy_sound, Sound.frame]

/-! ### The firing rule -/

theorem State.take_sound (h : Sound s) (p) : Sound (s.take p) := h

theorem State.takePort_sound (h : Sound s) (opc o p) : Sound (s.takePort opc o p) := by
  unfold State.takePort
  grind [State.setSlotSt_sound, State.take_sound]

theorem State.put_sound (h : Sound s) (o k0 k1) : Sound (s.put o k0 k1) := by
  unfold State.put
  grind [State.sendAll_sound]

theorem State.endAction_sound (h : Sound s) (o ports e) : SoundNext (s.endAction o ports e) := by
  unfold State.endAction
  grind [State.pay_sound, State.take_sound, State.setSlotSt_sound, State.put_sound, State.orFlags_sound, SoundNext.next,
    foldl_sound, Sound.frame]

theorem State.fireRule_sound (h : Sound s) (opc o) {f : Token → Token → Token → Firing}
    (hf : ∀ a b c u, Sound u → Sound ((f a b c).run u).1) (e) : SoundNext (s.fireRule opc o f e) := by
  unfold State.fireRule
  grind [State.slotFault_sound, State.pay_sound, State.takePort_sound, State.orFlags_sound, State.put_sound,
    State.endAction_sound, foldl_sound, SoundNext.next]

theorem State.pureOp_sound (h : Sound s) (opc o base f) : SoundNext (s.pureOp opc o base f) :=
  State.fireRule_sound h _ _ (fun _ _ _ _ hu => State.orFlags_sound hu _) _

theorem State.elemOp_sound (h : Sound s) (opc o base f) : SoundNext (s.elemOp opc o base f) := by
  unfold State.elemOp
  grind [State.pureOp_sound]

/-! ### Integer operators -/

theorem State.intOp_sound (h : Sound s) (opc o f sat) : SoundNext (s.intOp opc o f sat) := by
  unfold State.intOp
  grind [State.elemOp_sound]

theorem State.predOp_sound (h : Sound s) (opc o f) : SoundNext (s.predOp opc o f) := by
  unfold State.predOp
  grind [State.elemOp_sound]

theorem execShl_sound (h : Sound s) (o) : SoundNext (execShl o s) := by
  unfold execShl
  grind [State.intOp_sound]

theorem execShr_sound (h : Sound s) (o) : SoundNext (execShr o s) := by
  unfold execShr
  grind [State.intOp_sound]

theorem execClz_sound (h : Sound s) (o) : SoundNext (execClz o s) := by
  unfold execClz
  grind [State.intOp_sound]

theorem execPopc_sound (h : Sound s) (o) : SoundNext (execPopc o s) := by
  unfold execPopc
  grind [State.intOp_sound, foldl_sound]

theorem execSel_sound (h : Sound s) (o) : SoundNext (execSel o s) := by
  unfold execSel
  grind [State.elemOp_sound]

/-! ### Control operators -/

theorem State.closedTake_sound (h : Sound s) (p k) : Sound (s.closedTake p k) := by
  unfold State.closedTake
  grind [State.take_sound, State.setSlotSt_sound, State.orFlags_sound, Sound.frame]

theorem execEosg_sound (h : Sound s) (o) : SoundNext (execEosg o s) := by
  unfold execEosg
  grind [State.closedTake_sound, State.setSlotSt_sound, State.endAction_sound, State.slotFault_sound, State.take_sound,
    State.pay_sound, State.orFlags_sound, State.put_sound, SoundNext.next, Sound.frame]

theorem State.slotHold_sound (h : Sound s) (c input addr) : Sound (s.slotHold c input addr) := h

theorem State.orHold_sound (h : Sound s) (o hold c input addr) {go : Out} (hg : SoundNext go) :
    SoundNext (s.orHold o hold c input addr go) := by
  unfold State.orHold
  grind [State.slotHold_sound, SoundNext.next]

theorem execTrapOperator_sound (h : Sound s) (o) : SoundNext (execTrapOperator o s) := by
  refine State.orHold_sound h _ _ _ _ _ (State.fireRule_sound h _ _ (fun a b c u hu => ?_) _)
  split
  · exact hu
  · exact State.setSlotSt_sound hu _

theorem execBrk_sound (h : Sound s) (o) : SoundNext (execBrk o s) :=
  State.orHold_sound h _ _ _ _ _ (State.fireRule_sound h _ _ (fun _ _ _ _ hu => State.setSlotSt_sound hu _) _)

theorem State.capturedOp_sound (h : Sound s) (opc o) {cap : State → Option (Word × State)}
    (hc : ∀ u p, Sound u → cap u = some p → Sound p.2) : SoundNext (s.capturedOp opc o cap) := by
  unfold State.capturedOp
  split
  · exact .next h
  refine State.fireRule_sound h _ _ (fun a b c u hu => ?_) _
  dsimp only
  split
  · exact hu
  next hp => exact hc _ _ hu hp

theorem execTimeOperator_sound (h : Sound s) (o) : SoundNext (execTimeOperator o s) := by
  unfold execTimeOperator
  refine State.capturedOp_sound h _ _ fun u p hu hp => ?_
  exact State.captured_sound (s := u.hold) hu _ _ _ _ _ _ _ _ _ _ hp

theorem execPcnt_sound (h : Sound s) (o) : SoundNext (execPcnt o s) := by
  unfold execPcnt
  refine State.capturedOp_sound h _ _ fun u p hu hp => ?_
  exact State.captured_sound hu _ _ _ _ _ _ _ _ _ _ hp

theorem execSeed_sound (h : Sound s) (o) : SoundNext (execSeed o s) := by
  unfold execSeed
  grind [State.fireRule_sound, State.setTile_sound, SoundNext.next, Sound.frame]

/-! ### Matrix operators -/

theorem State.setMx_sound (h : Sound s) (m) : Sound (s.setMx m) := h

theorem State.rowFiring_sound (h : Sound s) (opc o) : SoundNext (s.rowFiring opc o) := by
  unfold State.rowFiring
  grind [State.orFlags_sound, State.pay_sound, State.setMx_sound, State.putSouth_sound, SoundNext.next, Sound.frame]

theorem State.rowEnd_sound (h : Sound s) (o) : SoundNext (s.rowEnd o) := by
  unfold State.rowEnd
  grind [State.slotFault_sound, State.take_sound, State.orFlags_sound, State.setMx_sound, State.put_sound,
    State.putSouth_sound, State.setSlotSt_sound, SoundNext.next, Sound.frame]

theorem State.rowRest_sound (h : Sound s) (opc o) : SoundNext (s.rowRest opc o) := by
  unfold State.rowRest
  grind [State.rowEnd_sound, State.slotFault_sound, State.rowFiring_sound, SoundNext.next]

theorem State.rowOp_sound (h : Sound s) (opc o) : SoundNext (s.rowOp opc o) := by
  unfold State.rowOp
  grind [State.put_sound, State.setMx_sound, State.slotFault_sound, State.take_sound, State.setSlotSt_sound,
    State.rowRest_sound, SoundNext.next, Sound.frame]

theorem execRowArrival_sound (h : Sound s) (tile) : SoundNext (execRowArrival tile s) := by
  unfold execRowArrival
  grind [State.setMatrix_sound, State.slotFault_sound, SoundNext.next, Sound.frame]

theorem execRowForward_sound (h : Sound s) (tile) : SoundNext (execRowForward tile s) := by
  unfold execRowForward
  grind [State.setMatrix_sound, SoundNext.next, Sound.frame]

theorem execMscl_sound (h : Sound s) (o) : SoundNext (execMscl o s) := by
  unfold execMscl
  grind [State.endAction_sound, State.setMx_sound, State.fireRule_sound, State.orFlags_sound, SoundNext.next, Sound.frame]

theorem State.nextUnit_sound (h : Sound s) : Sound (s.nextUnit) := h

theorem execMwld_sound (h : Sound s) (o) : SoundNext (execMwld o s) := by
  unfold execMwld
  grind [State.fireRule_sound, State.nextUnit_sound, State.storeNat_sound, SoundNext.next]

theorem execMwrd_sound (h : Sound s) (o) : SoundNext (execMwrd o s) := by
  unfold execMwrd
  grind [State.fireRule_sound, State.nextUnit_sound, SoundNext.next]

theorem execMclr_sound (h : Sound s) (o) : SoundNext (execMclr o s) :=
  State.fireRule_sound h _ _ (fun _ _ _ _ hu => hu.stores (memClear_wf _ _ hu.mem) rfl) _

theorem execMstat_sound (h : Sound s) (o) : SoundNext (execMstat o s) := by
  unfold execMstat
  refine State.capturedOp_sound h _ _ fun u p hu hp => ?_
  exact State.captured_sound hu _ _ _ _ _ _ _ _ _ _ hp

/-! ### Event operators -/

theorem State.setNeuron_sound (h : Sound s) (t n v) : Sound (s.setNeuron t n v) := by
  unfold State.setNeuron
  grind [State.storeNat_sound]

theorem State.setBank_sound (h : Sound s) (t b) : Sound (s.setBank t b) := h

theorem State.evqPort_sound (h : Sound s) {p} (ht : s.evqPort = some p) : Sound p.2 := by
  unfold State.evqPort at ht
  grind [State.bump_sound, → State.captured_sound]

theorem State.evqTake_sound {waits : State} (h : Sound s) (hw : Sound waits) (o p k) : SoundNext (s.evqTake o p k waits) := by
  unfold State.evqTake
  grind [State.take_sound, State.pay_sound, State.orFlags_sound, State.slotFault_sound, State.put_sound, State.setBank_sound,
    SoundNext.next]

theorem execEvq_sound (h : Sound s) (o) : SoundNext (execEvq o s) := by
  unfold execEvq
  grind [State.endAction_sound, → State.evqPort_sound, State.take_sound, State.setSlotSt_sound, State.evqTake_sound,
    SoundNext.next, Sound.frame]

theorem execEvin_sound (h : Sound s) (o) : SoundNext (execEvin o s) := by
  unfold execEvin
  grind [State.endAction_sound, State.setBank_sound, State.take_sound, State.setSlotSt_sound, State.orFlags_sound,
    SoundNext.next, Sound.frame]

theorem State.evinFault_sound (h : Sound s) (c e j) : Sound (s.evinFault c e j) := by
  unfold State.evinFault
  grind [State.raise_sound, State.setBank_sound, State.freeze_sound, State.setSlotSt_sound, Sound.frame]

theorem State.deliverEntry_sound (h : Sound s) (o e j) : Sound (s.deliverEntry o e j) := by
  unfold State.deliverEntry
  extract_lets t b nn kind w m ej bankNow
  have hb (more) {u} (hu : Sound u) : Sound (bankNow more u) := State.setBank_sound hu ..
  clear_value bankNow
  split
  · exact State.evinFault_sound (hb _ h) ..
  split
  · exact State.evinFault_sound (hb _ h) ..
  split
  · exact h
  split
  · split
    split
    · exact h
    · grind [State.orFlags_sound, State.setNeuron_sound, State.pay_sound, State.sendAll_sound]
  split
  · exact hb _ (State.setNeuron_sound (State.pay_sound h _) ..)
  split
  · exact h
  · exact hb _ (State.sendAll_sound (State.setNeuron_sound (State.pay_sound h _) ..) ..)

theorem execEventDelivery_sound (h : Sound s) (tile) : SoundNext (execEventDelivery tile s) := by
  unfold execEventDelivery
  grind [State.deliverEntry_sound, SoundNext.next, Sound.frame]

theorem execMarkEmit_sound (h : Sound s) (tile) : SoundNext (execMarkEmit tile s) := by
  unfold execMarkEmit
  grind [State.sendAll_sound, State.setBank_sound, SoundNext.next, Sound.frame]

theorem State.evfrEmit_sound (h : Sound s) (o f u psn) : SoundNext (s.evfrEmit o f u psn) := by
  unfold State.evfrEmit
  grind [State.slotFault_sound, State.pay_sound, State.setSlotSt_sound, State.put_sound, State.orFlags_sound, SoundNext.next,
    Sound.frame]

theorem execEvfr_sound (h : Sound s) (o) : SoundNext (execEvfr o s) := by
  unfold execEvfr
  grind [State.evfrEmit_sound, State.endAction_sound, State.take_sound, State.pay_sound, State.put_sound, State.orFlags_sound,
    State.setSlotSt_sound, SoundNext.next, Sound.frame]

theorem State.evlkStep_sound (h : Sound s) (o x m) : SoundNext (s.evlkStep o x m) := by
  unfold State.evlkStep
  extract_lets t b time
  split
  · exact .next (State.put_sound (State.setBank_sound h ..) ..)
  split
  · exact .next h
  rename_i r last go _ _
  have hg (v) : SoundNext (go v) := .next (State.setBank_sound (State.setNeuron_sound (State.pay_sound h _) ..) ..)
  split
  · split
    · exact State.slotFault_sound (State.setBank_sound h ..) _ _ _
    · exact hg _
  · exact hg _

theorem execEvlk_sound (h : Sound s) (o) : SoundNext (execEvlk o s) := by
  unfold execEvlk
  grind [State.evlkStep_sound, State.endAction_sound, State.slotFault_sound, State.take_sound, State.setBank_sound,
    SoundNext.next, Sound.frame]

theorem execEvst_sound (h : Sound s) (o) : SoundNext (execEvst o s) := by
  unfold execEvst
  split
  · exact .next h
  · exact State.fireRule_sound h _ _ (fun _ _ _ _ hu => State.orFlags_sound hu _) _

theorem execEvwr_sound (h : Sound s) (o) : SoundNext (execEvwr o s) := by
  unfold execEvwr
  grind [State.fireRule_sound, State.setNeuron_sound, SoundNext.next]

/-! ### Stream and event instructions -/

theorem execSbind_sound (h : Sound s) (rd rs1 shadow sd) : SoundNext (execSbind rd rs1 shadow sd s) := by
  unfold execSbind
  grind [State.fault_sound, State.result_sound, → State.bindStream_sound, SoundNext.next]

theorem execScancel_sound (h : Sound s) (rd rs1) : SoundNext (execScancel rd rs1 s) := by
  unfold execScancel
  grind [State.fault_sound, State.result_sound, State.cancelStream_sound, SoundNext.next]

theorem execCfgld_sound (h : Sound s) (rd rs1 ch) : SoundNext (execCfgld rd rs1 ch s) := by
  unfold execCfgld
  grind [State.fault_sound, State.result_sound, State.setLaunch_sound, SoundNext.next, Sound.frame]

theorem State.resetPassed_sound (h : Sound s) (k) : Sound (s.resetPassed k) := h

theorem execReconf_sound (h : Sound s) (rd ch) : SoundNext (execReconf rd ch s) := by
  unfold execReconf
  grind [State.fault_sound, State.result_sound, State.resetPassed_sound, State.setLaunch_sound, SoundNext.next, Sound.frame]

theorem execDrain_sound (h : Sound s) (rd ch) : SoundNext (execDrain rd ch s) := by
  unfold execDrain
  grind [State.fault_sound, State.result_sound, State.setCur_sound, SoundNext.next, Sound.frame]

theorem execEvsend_sound (h : Sound s) (rd rs1) : SoundNext (execEvsend rd rs1 s) := by
  unfold execEvsend
  grind [State.result_sound, State.fault_sound, → State.captured_sound, State.setBank_sound, SoundNext.next]

theorem State.applyHorizon_sound (h : Sound s) (t h) : Sound (s.applyHorizon t h) := by
  unfold State.applyHorizon
  grind [State.raise_sound, State.setBank_sound, Sound.frame]

theorem execEvhz_sound (h : Sound s) (rs1) : SoundNext (execEvhz rs1 s) := by
  unfold execEvhz
  grind [State.fault_sound, State.applyHorizon_sound, State.retire_sound, SoundNext.next, foldl_sound]

/-! ### Collectives -/

theorem State.setColl_sound (h : Sound s) (k c) : Sound (s.setColl k c) := h

theorem execColl_sound (h : Sound s) (rd rs1 ch) : SoundNext (execColl rd rs1 ch s) := by
  unfold execColl
  grind [State.fault_sound, State.result_sound, State.setColl_sound, SoundNext.next]

theorem State.collFlit_sound (h : Sound s) (c type dest seq psn a b) : Sound (s.collFlit c type dest seq psn a b) := by
  unfold State.collFlit
  grind [State.sendFlit_sound]

theorem State.editColl_sound (h : Sound s) (k f) : Sound (s.editColl k f) := by
  unfold State.editColl
  grind [State.setColl_sound]

theorem State.collFail_sound (h : Sound s) (k why pkg addr) : Sound (s.collFail k why pkg addr) := by
  unfold State.collFail
  grind [State.raise_sound, State.collFlit_sound, State.setColl_sound, foldl_sound, Sound.frame]

theorem State.collStep_sound (h : Sound s) (k type dest seq psn a b) : Sound (s.collStep k type dest seq psn a b) := by
  unfold State.collStep
  grind [State.collFail_sound, State.collFlit_sound]

theorem State.collKids_sound (h : Sound s) (k c type seq psn a b) : Sound (s.collKids k c type seq psn a b) := by
  unfold State.collKids
  grind [State.collStep_sound, foldl_sound]

theorem State.sendUp_sound (h : Sound s) (k u) : Sound (s.sendUp k u) := by
  unfold State.sendUp
  grind [State.editColl_sound, State.collStep_sound, Sound.frame]

theorem State.sendDown_sound (h : Sound s) (k u) : Sound (s.sendDown k u) := by
  unfold State.sendDown
  grind [State.editColl_sound, State.collKids_sound, Sound.frame]

theorem State.sendRelease_sound (h : Sound s) (k status) : Sound (s.sendRelease k status) := by
  unfold State.sendRelease
  grind [State.editColl_sound, State.collKids_sound, Sound.frame]

theorem State.sendSettled_sound (h : Sound s) (k status) : Sound (s.sendSettled k status) := by
  unfold State.sendSettled
  grind [State.editColl_sound, State.collKids_sound, Sound.frame]

theorem State.cancelColl_sound (h : Sound s) (k) : Sound (s.cancelColl k) := by
  unfold State.cancelColl
  grind [State.collFail_sound, State.setColl_sound, Sound.frame]

theorem execCollectiveTimeout_sound (h : Sound s) (eng collid) : SoundNext (execCollectiveTimeout eng collid s) := by
  unfold execCollectiveTimeout
  grind [State.collFail_sound, SoundNext.next]

theorem State.collData_sound (h : Sound s) (k c flit) {t} (ht : s.collData k c flit = some t) : Sound t := by
  unfold State.collData at ht
  grind [State.sendDown_sound, State.setColl_sound, → State.captured_sound, Option.map_eq_some_iff]

theorem State.collControl_sound (h : Sound s) (k c flit) : Sound (s.collControl k c flit) := by
  unfold State.collControl
  grind [State.collFail_sound, State.setColl_sound, State.sendRelease_sound, State.sendSettled_sound, Sound.frame]

theorem State.collEarly_sound (h : Sound s) (flit) : Sound (s.collEarly flit) := by
  unfold State.collEarly
  grind [Sound.frame]

theorem State.collHeard_sound (h : Sound s) (flit) : Sound (s.collHeard flit) := by
  unfold State.collHeard
  grind [State.collFail_sound, State.setColl_sound, Sound.frame]

theorem execCollectiveData_sound (h : Sound s) (a) : SoundNext (execCollectiveData a s) := by
  unfold execCollectiveData
  dsimp only
  have hs := State.collHeard_sound (State.acceptOn_sound h a.port a.flit) a.flit
  repeat' split
  · exact .next h
  · exact .next (State.collEarly_sound hs _)
  · exact .next (getD_sound h fun _ hu => State.collData_sound hs _ _ _ hu)

theorem execCollectiveControl_sound (h : Sound s) (a) : SoundNext (execCollectiveControl a s) := by
  unfold execCollectiveControl
  grind [State.collHeard_sound, State.acceptOn_sound, State.collEarly_sound, State.collControl_sound, SoundNext.next]

theorem execEdgeIndigo_sound (h : Sound s) (r) : SoundNext (execEdgeIndigo r s) := by
  unfold execEdgeIndigo
  grind [State.ifRec_sound, State.recFired_sound, State.recTake_sound, State.recEnd_sound, State.setColl_sound,
    SoundNext.next, Sound.frame]

theorem State.collEmit_sound (h : Sound s) (k c us f) : Sound (s.collEmit k c us f) := by
  unfold State.collEmit
  grind [State.sendDown_sound, State.setColl_sound, State.sendUp_sound, foldl_sound]

theorem State.collElement_sound (h : Sound s) (k c) {t} (ht : s.collElement k c = some t) : Sound t := by
  unfold State.collElement at ht
  grind [State.collEmit_sound, State.bump_sound, foldl_sound, Option.map_eq_some_iff]

theorem State.collForm_sound (h : Sound s) (k c) {t} (ht : s.collForm k c = some t) : Sound t := by
  unfold State.collForm at ht
  grind [State.collEmit_sound, → State.collElement_sound, SoundNext.next, Sound.frame, Option.map_eq_some_iff]

theorem State.collRead_sound (h : Sound s) (k c) {t} (ht : s.collRead k c = some t) : Sound t := by
  unfold State.collRead at ht
  grind [State.setColl_sound, State.collFail_sound, State.engineRead_sound, Sound.frame]

theorem State.collPoison_sound (h : Sound s) (k addr) : Sound (s.collPoison k addr) := by
  unfold State.collPoison
  grind [State.raise_sound, State.setColl_sound]

theorem State.collStore_sound (h : Sound s) (k off n parts) {t} (ht : s.collStore k off n parts = some t) : Sound t := by
  unfold State.collStore at ht
  split at ht
  · cases ht; exact h
  extract_lets a at ht
  split at ht
  · cases ht
  · cases ht; exact State.collFail_sound h ..
  extract_lets put s1 at ht
  have hput (u) (hu : Sound u) (p) : Sound (put u p) := by
    grind [State.collPoison_sound, State.storeBytes_sound]
  have h1 : Sound s1 := by
    show Sound (if _ then _ else _)
    split
    · exact State.storeBytes_sound h ..
    · exact foldl_sound h fun u p hu => hput u hu p
  clear_value s1
  grind [State.setColl_sound, State.chargeLaunch_sound]

theorem State.collUnit_sound (h : Sound s) (k parts) {t} (ht : s.collUnit k parts = some t) : Sound t := by
  unfold State.collUnit at ht
  grind [State.setColl_sound, → State.collStore_sound, Sound.frame]

theorem State.collPairs_sound (h : Sound s) (k v vals) {t} (ht : s.collPairs k v vals = some t) : Sound t := by
  fun_induction State.collPairs s k v vals <;> grind [→ State.collUnit_sound]

theorem State.collTake_sound (h : Sound s) (k c) {t} (ht : s.collTake k c = some t) : Sound t := by
  unfold State.collTake at ht
  grind [State.setColl_sound, → State.collUnit_sound, → State.collPairs_sound, → State.collStore_sound, Sound.frame]

theorem State.collLength_sound (h : Sound s) (k c) {t} (ht : s.collLength k c = some t) : Sound t := by
  unfold State.collLength at ht
  grind [State.setColl_sound, State.collFail_sound, State.storeNat_sound]

theorem State.collStatus_sound (h : Sound s) (k) {t} (ht : s.collStatus k = some t) : Sound t := by
  unfold State.collStatus at ht
  grind [State.setColl_sound, State.engineRead_sound, State.storeNat_sound, State.collFail_sound, Sound.frame]

theorem State.collBegin_sound (h : Sound s) (k c) : Sound (s.collBegin k c) := by
  unfold State.collBegin
  grind [State.setColl_sound, State.collStep_sound, foldl_sound, Sound.frame]

theorem State.collCatchUp_sound (h : Sound s) (k c) {t} (ht : s.collCatchUp k c = some t) : Sound t := by
  unfold State.collCatchUp at ht
  split at ht
  · cases ht
  extract_lets _ s1 at ht
  have h1 : Sound s1 := h
  split at ht
  · exact State.collData_sound h1 _ _ _ ht
  · cases ht; exact State.collControl_sound h1 ..

theorem State.collReduced_sound (h : Sound s) (k c) : Sound (s.collReduced k c) := by
  unfold State.collReduced
  grind [State.setColl_sound, State.sendRelease_sound, State.collStep_sound, Sound.frame]

theorem State.collSettle_sound (h : Sound s) (k c) {t} (ht : s.collSettle k c = some t) : Sound t := by
  obtain ⟨u, hu, rfl⟩ := Option.map_eq_some_iff.mp ht
  have hu := State.collLength_sound h _ _ hu
  grind [State.setColl_sound, State.sendSettled_sound, State.collStep_sound]

theorem State.collEnd_sound (h : Sound s) (k c) {t} (ht : s.collEnd k c = some t) : Sound t := by
  unfold State.collEnd at ht
  grind [→ State.collStatus_sound, → State.collSettle_sound]

theorem execCollectiveWindowMerge_sound (h : Sound s) (eng collid) : SoundNext (execCollectiveWindowMerge eng collid s) := by
  unfold execCollectiveWindowMerge
  dsimp only
  split
  · exact .next h
  split
  · exact .next h
  split
  · split
    · exact .next (State.collBegin_sound h ..)
    · exact .next h
  refine .next (getD_sound h (orElse_sound (orElse_sound (orElse_sound (orElse_sound (orElse_sound ?_ ?_) ?_) ?_) ?_) ?_))
  · exact fun _ => State.collCatchUp_sound h _ _
  · exact fun _ => State.collRead_sound h _ _
  · exact fun _ => State.collForm_sound h _ _
  · grind [State.collReduced_sound]
  · exact fun _ => State.collTake_sound h _ _
  · exact fun _ => State.collEnd_sound h _ _

theorem execCollectiveCompletion_sound (h : Sound s) (eng collid) : SoundNext (execCollectiveCompletion eng collid s) := by
  unfold execCollectiveCompletion
  grind [State.chargeLaunch_sound, State.readTime_sound, State.postLaunch_sound, SoundNext.next, Sound.frame]

/-! ### Image loads -/

theorem State.loadStreams_sound (h : Sound s) (k l j seen es) {t} (ht : s.loadStreams k l j seen es = .ok t) : Sound t := by
  induction es generalizing s j seen with
  | nil => cases ht; exact h
  | cons e r ih =>
    unfold State.loadStreams at ht
    grind [State.setPctx_sound]

theorem State.putShadows_sound (h : Sound s) (ps) : Sound (s.putShadows ps) := by
  unfold State.putShadows
  grind [State.setTile_sound, foldl_sound]

theorem State.loadImage_sound (h : Sound s) (k l a) {t} (ht : s.loadImage k l a = .ok t) : Sound t := by
  unfold State.loadImage at ht
  iterate 6
    split at ht
    · cases ht
  split at ht
  · cases ht
  next hs =>
    have h1 := State.loadStreams_sound (State.putShadows_sound h _) _ _ _ _ _ hs
    grind [State.setLaunch_sound, State.extendMeasure_sound]

theorem State.loadRecord_sound (h : Sound s) (ctx e) : Sound (s.loadRecord ctx e) := h

theorem State.dropShadows_sound (h : Sound s) (l) : Sound (s.dropShadows l) := by
  unfold State.dropShadows
  grind [State.setTile_sound, foldl_sound]

/-! ### Residency of launches -/

theorem State.prepareTile_sound (h : Sound s) (k l t) : Sound (s.prepareTile k l t) :=
  h.stores (memClear_wf _ _ (memClear_wf _ _ h.mem)) rfl

theorem State.wireTile_sound (h : Sound s) (t) : Sound (s.wireTile t) := by
  unfold State.wireTile
  grind [State.setArcAt_sound, foldl_sound]

theorem State.swapTile_sound (h : Sound s) (t) : Sound (s.swapTile t) := by
  unfold State.swapTile
  dsimp only
  split
  · exact h.stores (memClear_wf _ _ (memClear_wf _ _ h.mem)) rfl
  · exact h

theorem State.makeResident_sound (h : Sound s) (k) : Sound (s.makeResident k) := by
  unfold State.makeResident
  grind [State.swapTile_sound, State.wireTile_sound, State.setArcAt_sound, State.setLaunch_sound, State.wireStream_sound,
    State.setPctx_sound, foldl_sound, Sound.frame]

theorem State.freeSeq_sound (h : Sound s) (n) : Sound (s.freeSeq n) := h

theorem State.freeBlocks_sound (h : Sound s) (l) : Sound (s.freeBlocks l) := by
  unfold State.freeBlocks
  grind [State.setIsland_sound, foldl_sound, Sound.frame]

theorem State.freeRegion_sound (h : Sound s) (l) : Sound (s.freeRegion l) := by
  unfold State.freeRegion
  grind [State.setItem_sound, State.freeBlocks_sound, State.freeSeq_sound, foldl_sound, Sound.frame]

theorem State.settleSaving_sound (h : Sound s) : Sound (s.settleSaving) := by
  unfold State.settleSaving
  grind [State.setTherm_sound]

theorem State.overLaunch_sound (h : Sound s) (k phase cause) : Sound (s.overLaunch k phase cause) := by
  unfold State.overLaunch
  grind [State.unbindSpans_sound, State.packetFails_sound, State.freeRegion_sound, State.settleSaving_sound,
    State.setLaunch_sound, foldl_sound, Sound.frame]

theorem State.postConfig_sound (h : Sound s) (k l post kind cause image) : Sound (s.postConfig k l post kind cause image) := by
  unfold State.postConfig
  grind [State.readTime_sound, State.postLaunch_sound]

theorem State.dropShadow_sound (h : Sound s) (k l) : Sound (s.dropShadow k l) := by
  unfold State.dropShadow
  grind [State.discardBound_sound, State.dropShadows_sound, State.setLaunch_sound, Sound.frame]

theorem State.refuseSwap_sound (h : Sound s) (k c) : Sound (s.refuseSwap k c) := by
  unfold State.refuseSwap
  grind [State.dropShadow_sound, State.postConfig_sound, State.setLaunch_sound, Sound.frame]

theorem State.startLaunch_sound (h : Sound s) (k len task) : Sound (s.startLaunch k len task) := by
  unfold State.startLaunch
  grind [State.storeBytes_sound, State.zeroRange_sound, State.setSeq_sound, State.makeResident_sound, State.setLaunch_sound,
    State.packetDone_sound, State.hardPost_sound, Sound.frame]

theorem State.launchFails_sound (h : Sound s) (k c) : Sound (s.launchFails k c) := by
  unfold State.launchFails
  grind [State.dropStream_sound, State.packetFails_sound, State.overLaunch_sound, foldl_sound]

theorem State.loadFails_sound (h : Sound s) (k l e) : Sound (s.loadFails k l e) := by
  unfold State.loadFails
  grind [State.loadRecord_sound, State.setLaunch_sound, State.launchFails_sound, State.dropShadow_sound,
    State.postConfig_sound, State.refuseSwap_sound, Sound.frame]

theorem execImageLoadComplete_sound (h : Sound s) (launch) : SoundNext (execImageLoadComplete launch s) := by
  unfold execImageLoadComplete
  split
  · exact .next h
  split
  · exact .next h
  split
  · grind [→ State.loadImage_sound, State.loadFails_sound, State.startLaunch_sound, SoundNext.next]
  split
  · split
    · exact .next (State.loadFails_sound h ..)
    next hi =>
      have h1 := State.loadImage_sound h _ _ _ hi
      grind [State.loadFails_sound, State.setLaunch_sound, State.postConfig_sound, SoundNext.next]
  · exact .next h

theorem State.strayFault_sound (h : Sound s) (t code target) : Sound (s.strayFault t code target) := by
  unfold State.strayFault
  grind [State.raise_sound, State.setTile_sound, State.freeze_sound, Sound.frame]

theorem execTokenPass_sound (h : Sound s) (tile) : SoundNext (execTokenPass tile s) := by
  unfold execTokenPass
  dsimp only
  repeat' split
  · exact .next h
  · exact .next h
  · exact .next h
  · exact .next (foldl_sound h fun _ _ hu => State.setTile_sound hu ..)
  · exact .next (foldl_sound (foldl_sound h fun _ _ hu => State.strayFault_sound hu ..) fun _ _ hu => State.setTile_sound hu ..)

theorem execPlaneSwap_sound (h : Sound s) (launch) : SoundNext (execPlaneSwap launch s) := by
  unfold execPlaneSwap
  grind [State.setLaunch_sound, State.postConfig_sound, State.makeResident_sound, SoundNext.next, Sound.frame]

theorem execSwapRefused_sound (h : Sound s) (launch) : SoundNext (execSwapRefused launch s) := by
  unfold execSwapRefused
  grind [State.refuseSwap_sound, SoundNext.next]

theorem execDrainWatchPost_sound (h : Sound s) (seq) : SoundNext (execDrainWatchPost seq s) := by
  unfold execDrainWatchPost
  grind [State.setSeq_sound, State.readTime_sound, State.postLaunch_sound, SoundNext.next]

/-! ### Admission and dispatch -/

theorem State.abortEntry_sound (h : Sound s) (k c) : Sound (s.abortEntry k c) := by
  unfold State.abortEntry
  grind [State.entryStops_sound]

theorem execEntryAdmission_sound (h : Sound s) (q) : SoundNext (execEntryAdmission q s) := by
  unfold execEntryAdmission
  grind [State.closeItem_sound, State.setItem_sound, State.setLaunch_sound, SoundNext.next, Sound.frame]

theorem execDispatch_sound (h : Sound s) (item) : SoundNext (execDispatch item s) := by
  unfold execDispatch
  grind [State.setItem_sound, State.setLaunch_sound, SoundNext.next, Sound.frame]

/-! ### Floating-point operators -/

theorem State.floatBits_sound (h : Sound s) (opc o k f) : SoundNext (s.floatBits opc o k f) := by
  unfold State.floatBits
  grind [State.elemOp_sound]

theorem State.floatOp_sound (h : Sound s) (opc o f) : SoundNext (s.floatOp opc o f) := by
  unfold State.floatOp
  grind [State.floatBits_sound]

theorem execFclass_sound (h : Sound s) (o) : SoundNext (execFclass o s) := by
  unfold execFclass
  grind [State.pureOp_sound]

theorem State.convert_sound (h : Sound s) (opc o dw f) : SoundNext (s.convert opc o dw f) := by
  unfold State.convert
  grind [State.pureOp_sound]

theorem execCvti_sound (h : Sound s) (o) : SoundNext (execCvti o s) := by
  unfold execCvti
  grind [State.convert_sound]

/-! ### Conversions -/

theorem execQcvt_sound (h : Sound s) (o) : SoundNext (execQcvt o s) := by
  unfold execQcvt
  grind [State.fireRule_sound, State.orFlags_sound, foldl_sound]

theorem execQside_sound (h : Sound s) (o) : SoundNext (execQside o s) := by
  unfold execQside
  grind [State.fireRule_sound, State.orFlags_sound, State.setSlotSt_sound, foldl_sound, Sound.frame]

theorem execPack_sound (h : Sound s) (o) : SoundNext (execPack o s) :=
  State.fireRule_sound h _ _ (fun _ _ _ _ hu => State.orFlags_sound hu _) _

theorem execUnpk_sound (h : Sound s) (o) : SoundNext (execUnpk o s) := by
  unfold execUnpk
  grind [State.fireRule_sound]

theorem execMxq_sound (h : Sound s) (o) : SoundNext (execMxq o s) :=
  State.fireRule_sound h _ _ (fun _ _ _ _ hu => State.orFlags_sound hu _) _

theorem execDeq_sound (h : Sound s) (o) : SoundNext (execDeq o s) :=
  State.fireRule_sound h _ _ (fun _ _ _ _ hu => State.orFlags_sound hu _) _

theorem execSrnd_sound (h : Sound s) (o) : SoundNext (execSrnd o s) := by
  unfold execSrnd
  grind [State.fireRule_sound, State.orFlags_sound, State.setSlotSt_sound, Sound.frame]

/-! ### Local memory operators -/

theorem State.memOp_sound (h : Sound s) (opc o poison) : SoundNext (s.memOp opc o poison) := by
  unfold State.memOp
  grind [State.slotFault_sound, State.take_sound, State.pay_sound, State.setTile_sound, State.endAction_sound, SoundNext.next,
    foldl_sound, Sound.frame]

theorem State.perform_sound (h : Sound s) (t opc o r) {p} (ht : s.perform t opc o r = some p) : Sound p.1 := by
  unfold State.perform at ht
  grind [State.storeNat_sound, State.setFull_sound, State.storeBytes_sound]

theorem execLocalMemoryRequestPerform_sound (h : Sound s) (tile) : SoundNext (execLocalMemoryRequestPerform tile s) := by
  unfold execLocalMemoryRequestPerform
  dsimp only
  split
  · exact .next h
  split
  · exact .next h
  split
  · exact .next h
  next hp =>
    have h1 := State.perform_sound (s := { s with curTile := tile, curSlot := _ }) h _ _ _ _ hp
    refine .next (State.put_sound ?_ ..)
    split
    · exact State.orFlags_sound (State.setTile_sound h1 ..) _
    · exact State.setTile_sound h1 ..

/-! ### Stream operators -/

theorem execJoin_sound (h : Sound s) (o) : SoundNext (execJoin o s) := by
  unfold execJoin
  grind [State.endAction_sound, State.pay_sound, State.take_sound, State.setSlotSt_sound, State.orFlags_sound,
    State.put_sound, SoundNext.next, Sound.frame]

theorem State.laneOp_sound (h : Sound s) (opc o cost f e) : SoundNext (s.laneOp opc o cost f e) := by
  unfold State.laneOp
  grind [State.fireRule_sound, State.orFlags_sound, State.setSlotSt_sound, Sound.frame]

theorem execAcc_sound (h : Sound s) (o) : SoundNext (execAcc o s) := by
  unfold execAcc
  grind [State.laneOp_sound, Sound.frame]

theorem execScan_sound (h : Sound s) (o) : SoundNext (execScan o s) := by
  unfold execScan
  grind [State.fireRule_sound, State.orFlags_sound, State.setSlotSt_sound, Sound.frame]

theorem execAmax_sound (h : Sound s) (o) : SoundNext (execAmax o s) := by
  unfold execAmax
  grind [State.laneOp_sound, Sound.frame]

theorem execArgm_sound (h : Sound s) (o) : SoundNext (execArgm o s) := by
  unfold execArgm
  grind [State.laneOp_sound, Sound.frame]

theorem execCnt_sound (h : Sound s) (o) : SoundNext (execCnt o s) := by
  unfold execCnt
  grind [State.laneOp_sound, Sound.frame]

theorem execIota_sound (h : Sound s) (o) : SoundNext (execIota o s) := by
  unfold execIota
  grind [State.pay_sound, State.setSlotSt_sound, State.put_sound, State.orFlags_sound, State.fireRule_sound, SoundNext.next,
    Sound.frame]

theorem execHalt_sound (h : Sound s) (o) : SoundNext (execHalt o s) := by
  unfold execHalt
  grind [State.fireRule_sound]

/-! ### Element operators -/

theorem State.atElement_sound (h : Sound s) (t i) : Sound (s.atElement t i) := h

/-! ### Pre-emption and resumption -/

theorem State.cancelEngines_sound (h : Sound s) (k) : Sound (s.cancelEngines k) := by
  unfold State.cancelEngines
  grind [State.cancelCopy_sound, State.cancelColl_sound, foldl_sound]

theorem State.cancelWork_sound (h : Sound s) (k) : Sound (s.cancelWork k) := by
  unfold State.cancelWork
  grind [State.cancelEngines_sound, State.cancelStream_sound, foldl_sound]

theorem State.dropWork_sound (h : Sound s) (k) : Sound (s.dropWork k) := by
  unfold State.dropWork
  grind [State.cancelEngines_sound, State.haltStream_sound, foldl_sound]

theorem State.discardLaunch_sound (h : Sound s) (k phase c) : Sound (s.discardLaunch k phase c) := by
  unfold State.discardLaunch
  grind [State.overLaunch_sound, State.dropStream_sound, foldl_sound]

theorem State.cancelLaunch_sound (h : Sound s) (k c) : Sound (s.cancelLaunch k c) := by
  unfold State.cancelLaunch
  grind [State.cancelWork_sound, State.complexRaise_sound, State.setLaunch_sound, State.overLaunch_sound, Sound.frame]

theorem State.unbegin_sound (h : Sound s) (k l) : Sound (s.unbegin k l) := by
  unfold State.unbegin
  grind [State.setLaunch_sound, State.freeRegion_sound, State.setItem_sound, Sound.frame]

theorem State.stopLaunch_sound (h : Sound s) (k l) : Sound (s.stopLaunch k l) := by
  unfold State.stopLaunch
  grind [State.dropShadows_sound, State.setLaunch_sound, Sound.frame]

theorem State.cancelFrozen_sound (h : Sound s) (k l) : Sound (s.cancelFrozen k l) := by
  unfold State.cancelFrozen
  grind [State.cancelLaunch_sound, State.abortEntry_sound]

theorem execPreEmption_sound (h : Sound s) (launch) : SoundNext (execPreEmption launch s) := by
  unfold execPreEmption
  grind [State.discardLaunch_sound, State.settleSaving_sound, State.unbegin_sound, State.cancelFrozen_sound,
    State.stopLaunch_sound, SoundNext.next]

theorem State.saveWords_sound (h : Sound s) (ctx a f n off) {t} (ht : s.saveWords ctx a f n off = .ok t ∨ s.saveWords ctx a f
    n off = .error t) :
    Sound t := by
  induction n generalizing s off with
  | zero => grind [State.saveWords]
  | succ n ih =>
    unfold State.saveWords at ht
    grind [State.storeNat_sound]

theorem State.saveArea_sound (h : Sound s) (l sv) {t} (ht : s.saveArea l sv = .ok t ∨ s.saveArea l sv = .error t) : Sound t :=
    by
  unfold State.saveArea at ht
  grind [→ State.saveWords_sound, State.bump_sound, State.readTime_sound]

theorem execSaveCommit_sound (h : Sound s) (launch) : SoundNext (execSaveCommit launch s) := by
  unfold execSaveCommit
  dsimp only
  split
  · exact .next h
  split
  · exact .next h
  split
  · exact .next h
  split
  next he => exact .next (State.cancelLaunch_sound (State.saveArea_sound h _ _ (.inr he)) ..)
  next s1 he =>
    have h0 : Sound s1 := State.saveArea_sound h _ _ (.inl he)
    have h1 (x) : Sound { s1 with pctxs := x } := h0
    exact .next (State.settleSaving_sound (State.setLaunch_sound (State.freeRegion_sound (h1 _) _) ..))

theorem State.noteSaved_sound (h : Sound s) (ctx a n) : Sound (s.noteSaved ctx a n) := by
  unfold State.noteSaved
  grind [State.noteError_sound]

theorem State.takeBlocks_sound (h : Sound s) (l) : Sound (s.takeBlocks l) := by
  unfold State.takeBlocks
  grind [State.setIsland_sound, foldl_sound, Sound.frame]

theorem State.restoreLaunch_sound (h : Sound s) (k l sv) : Sound (s.restoreLaunch k l sv) := by
  have h1 := foldl_sound (l := l.tiles) (State.takeBlocks_sound h l) fun _ t hu => State.prepareTile_sound hu k l t
  have h2 := foldl_sound (l := sv.tiles) h1 fun _ t hu => State.setTile_sound hu t.1 { t.2 with launch := some k, pool := 0 }
  have h3 := State.zeroRange_sound h2 (localLoc l.seqn 0) 262144
  refine State.setSeq_sound (foldl_sound ?_ fun _ p hu => State.setPctx_sound hu ..) ..
  exact h3.stores (memCells_wf _ _ h3.mem) rfl

theorem State.holdWeights_sound (h : Sound s) (k l) : Sound (s.holdWeights k l) := by
  unfold State.holdWeights
  grind [State.readTime_sound, State.hardPost_sound, State.setLaunch_sound, Sound.frame]

theorem State.resumeEnds_sound (h : Sound s) (k l) : Sound (s.resumeEnds k l) := by
  unfold State.resumeEnds
  grind [State.setItem_sound, State.cancelWork_sound, Sound.frame]

theorem execLaunchResume_sound (h : Sound s) (launch) : SoundNext (execLaunchResume launch s) := by
  unfold execLaunchResume
  grind [State.wakeClusters_sound, State.cancelLaunch_sound, State.noteSaved_sound, State.resumeEnds_sound,
    State.holdWeights_sound, State.setLaunch_sound, State.restoreLaunch_sound, SoundNext.next]

/-! ### Packets -/

theorem State.begins_sound (h : Sound s) (p) {f : Item → Queue → Out} (hf : ∀ i q, SoundNext (f i q)) :
    SoundNext (s.begins p f) := by
  unfold State.begins
  grind [SoundNext.next]

theorem State.waitsOn_sound (h : Sound s) (k i) : Sound (s.waitsOn k i) := h

theorem execNop_sound (h : Sound s) (p) : SoundNext (execNop p s) := by
  unfold execNop
  grind [State.begins_sound, State.packetDone_sound, SoundNext.next]

theorem State.afterWrites_sound (h : Sound s) (k) {w : Wrote} (hw : ∀ t, (w = .done t ∨ ∃ c, w = .bad t c) → Sound t) :
    SoundNext (s.afterWrites k w) := by
  cases w with
  | done t => exact .next (State.packetDone_sound (hw t (.inl rfl)) k)
  | bad t c => exact .next (State.packetFails_sound (hw t (.inr ⟨c, rfl⟩)) k c)
  | wait => exact .next h

theorem State.writeUnit_sound (h : Sound s) (ctx a n v) {t} (ht : s.writeUnit ctx a n v = .done t ∨ ∃ c, s.writeUnit ctx a n v
    = .bad t c) :
    Sound t := by
  unfold State.writeUnit at ht
  grind [State.writeReg_sound, State.storeNat_sound]

theorem State.writeUnits_sound (h : Sound s) (ctx n a vs) {t}
    (ht : s.writeUnits ctx n a vs = .done t ∨ ∃ c, s.writeUnits ctx n a vs = .bad t c) : Sound t := by
  induction vs generalizing s a with
  | nil => grind [State.writeUnits]
  | cons v r ih =>
    unfold State.writeUnits at ht
    grind [→ State.writeUnit_sound]

theorem execWrite_sound (h : Sound s) (p) : SoundNext (execWrite p s) := by
  refine State.begins_sound h p fun i g => State.afterWrites_sound h _ fun t ht => ?_
  split at ht
  · exact State.writeUnits_sound h _ _ _ _ ht
  · exact State.writeUnits_sound h _ _ _ _ ht

theorem execTimestamp_sound (h : Sound s) (p) : SoundNext (execTimestamp p s) := by
  refine State.begins_sound h p fun i g => ?_
  have h1 := State.readTime_sound h s.coreClock
  dsimp only
  split
  · exact .next h
  · exact State.afterWrites_sound h1 _ fun t ht => State.writeUnit_sound h1 _ _ _ _ ht

theorem State.signal_sound (h : Sound s) (p f) : SoundNext (s.signal p f) := by
  unfold State.signal
  grind [State.begins_sound, State.packetDone_sound, State.hold_sound, State.putSem_sound, SoundNext.next]

theorem execWaitGe_sound (h : Sound s) (p) : SoundNext (execWaitGe p s) := by
  unfold execWaitGe
  grind [State.begins_sound, State.packetDone_sound, State.setItem_sound, SoundNext.next, Sound.frame]

theorem execWaitGeComplete_sound (h : Sound s) (item) : SoundNext (execWaitGeComplete item s) := by
  unfold execWaitGeComplete
  grind [State.packetDone_sound, SoundNext.next]

theorem State.placeLaunch_sound (h : Sound s) (k l) : Sound (s.placeLaunch k l) := by
  unfold State.placeLaunch
  grind [State.setRing_sound, State.wakeClusters_sound, State.takeBlocks_sound, State.prepareTile_sound,
    State.setLaunch_sound, State.setSeq_sound, foldl_sound, Sound.frame]

theorem execLaunch_sound (h : Sound s) (p) : SoundNext (execLaunch p s) := by
  unfold execLaunch
  grind [State.begins_sound, State.launchFails_sound, State.complexRaise_sound, State.placeLaunch_sound, State.waitsOn_sound,
    SoundNext.next]

theorem State.tryBind_sound (h : Sound s) (p g) : Sound (s.tryBind p g) := by
  unfold State.tryBind
  grind [State.packetFault_sound, → State.bindStream_sound]

theorem execBind_sound (h : Sound s) (p) : SoundNext (execBind p s) := by
  unfold execBind
  grind [State.begins_sound, State.tryBind_sound, State.waitsOn_sound, SoundNext.next]

theorem execDeferredBind_sound (h : Sound s) (item) : SoundNext (execDeferredBind item s) := by
  unfold execDeferredBind
  grind [State.tryBind_sound, SoundNext.next]

theorem execCopyPacket_sound (h : Sound s) (p) : SoundNext (execCopyPacket p s) := by
  unfold execCopyPacket
  grind [State.begins_sound, State.packetFault_sound, State.packetFails_sound, State.raise_sound, State.startCopy_sound,
    State.waitsOn_sound, SoundNext.next]

theorem State.reportRest_sound (h : Sound s) (k from_) : Sound (s.reportRest k from_) := by
  unfold State.reportRest
  grind [State.setItem_sound, Sound.frame]

theorem State.retireTurn_sound (h : Sound s) (p cancel) : SoundNext (s.retireTurn p cancel) := by
  unfold State.retireTurn
  grind [State.packetFault_sound, State.reportRest_sound, State.setLaunch_sound, State.packetFails_sound, State.waitsOn_sound,
    State.cancelWork_sound, State.discardLaunch_sound, State.packetDone_sound, SoundNext.next, Sound.frame]

theorem execFencePacket_sound (h : Sound s) (p) : SoundNext (execFencePacket p s) := by
  unfold execFencePacket
  grind [State.packetDone_sound, State.waitsOn_sound, SoundNext.next]

theorem State.writeRecord_sound (h : Sound s) (k) : Sound (s.writeRecord k) := by
  unfold State.writeRecord
  grind [State.setItem_sound, State.complexRaise_sound, → State.writeWords_sound, Sound.frame]

theorem execCompletionRecord_sound (h : Sound s) (item) : SoundNext (execCompletionRecord item s) := by
  unfold execCompletionRecord
  grind [State.writeRecord_sound, SoundNext.next]

theorem execInterrupt_sound (h : Sound s) (p) : SoundNext (execInterrupt p s) := by
  unfold execInterrupt
  grind [State.begins_sound, State.packetDone_sound, State.writeRecord_sound, State.msix_sound, SoundNext.next]

theorem State.setCtx_sound (h : Sound s) (ctx v) : Sound (s.setCtx ctx v) := by
  unfold State.setCtx
  grind [State.storeNat_sound, foldl_sound]

theorem execInvalidate_sound (h : Sound s) (p) : SoundNext (execInvalidate p s) := by
  unfold execInvalidate
  grind [State.begins_sound, State.setCtx_sound, State.waitsOn_sound, SoundNext.next]

theorem State.flushTlbs_sound (h : Sound s) (p) : Sound (s.flushTlbs p) := h

theorem execInvalidateComplete_sound (h : Sound s) (item) : SoundNext (execInvalidateComplete item s) := by
  unfold execInvalidateComplete
  grind [State.flushTlbs_sound, State.packetDone_sound, State.retry_sound, SoundNext.next, foldl_sound]

theorem State.cancelPacket_sound (h : Sound s) (k) : Sound (s.cancelPacket k) := by
  unfold State.cancelPacket
  grind [State.cancelCopy_sound, State.cancelStream_sound, foldl_sound]

theorem State.abortLaunch_sound (h : Sound s) (k l) : Sound (s.abortLaunch k l) := by
  unfold State.abortLaunch
  grind [State.setLaunch_sound, State.cancelWork_sound, State.dropStream_sound, State.overLaunch_sound, foldl_sound,
    Sound.frame]

theorem execBudgetOverrun_sound (h : Sound s) (item) : SoundNext (execBudgetOverrun item s) := by
  unfold execBudgetOverrun
  grind [State.complexRaise_sound, State.cancelPacket_sound, State.setItem_sound, State.abortLaunch_sound,
    State.abortEntry_sound, State.setLaunch_sound, SoundNext.next, Sound.frame]

theorem execDeadlineMiss_sound (h : Sound s) (item) : SoundNext (execDeadlineMiss item s) := by
  unfold execDeadlineMiss
  grind [State.complexRaise_sound, State.setItem_sound, SoundNext.next, Sound.frame]

theorem State.dropItems_sound (h : Sound s) (q) : Sound (s.dropItems q) := by
  unfold State.dropItems
  grind [State.cancelCopy_sound, State.haltStream_sound, foldl_sound, Sound.frame]

theorem State.resetLaunch_sound (h : Sound s) (k) : Sound (s.resetLaunch k) := by
  unfold State.resetLaunch
  grind [State.overLaunch_sound, State.dropStream_sound, State.dropWork_sound, State.setLaunch_sound,
    State.discardLaunch_sound, foldl_sound, Sound.frame]

theorem State.takeEntry_sound (h : Sound s) (q) : Sound (s.takeEntry q) := h

theorem execQueueReset_sound (h : Sound s) (q) : SoundNext (execQueueReset q s) := by
  unfold execQueueReset
  grind [State.setQueue_sound, State.dropItems_sound, State.resetLaunch_sound, State.takeEntry_sound, SoundNext.next,
    foldl_sound]

theorem execFunctionLevelReset_sound (h : Sound s) (vf) : SoundNext (execFunctionLevelReset vf s) := by
  unfold execFunctionLevelReset
  grind [State.requestReset_sound, SoundNext.next, foldl_sound]

/-! ### Responses of peers -/

theorem State.answered_sound (h : Sound s) (r f) : Sound (s.answered r f) := by
  unfold State.answered
  grind [State.seqResponse_sound, State.agnResponse_sound, State.copyResponse_sound]

theorem State.unanswered_sound (h : Sound s) (r tag) : Sound (s.unanswered r tag) := by
  unfold State.unanswered
  grind [State.seqNoResponse_sound, State.agnNoResponse_sound, State.copyNoResponse_sound]

theorem execResponse_sound (h : Sound s) (a) : SoundNext (execResponse a s) := by
  unfold execResponse
  grind [State.acceptOn_sound, State.answered_sound, State.dropRequest_sound, SoundNext.next]

theorem execNetTimeout_sound (h : Sound s) (tag) : SoundNext (execNetTimeout tag s) := by
  unfold execNetTimeout
  grind [State.unanswered_sound, State.dropRequest_sound, SoundNext.next]

/-! ### Integer instructions -/

theorem State.alu_sound (h : Sound s) (rd rs1 rs2 f) : SoundNext (s.alu rd rs1 rs2 f) := .next h

theorem State.aluImm_sound (h : Sound s) (rd rs1 f) : SoundNext (s.aluImm rd rs1 f) := .next h

theorem State.divide_sound (h : Sound s) (rd rs1 rs2 pick) : SoundNext (s.divide rd rs1 rs2 pick) := .next h

/-! ### Floating-point instructions -/

theorem State.fpBinary_sound (h : Sound s) (rd rs1 rs2 f) : SoundNext (s.fpBinary rd rs1 rs2 f) := .next h

theorem State.fpUnary_sound (h : Sound s) (rd rs1 f) : SoundNext (s.fpUnary rd rs1 f) := .next h

/-! ### Control and status registers -/

theorem State.seqTime_sound (h : Sound s) {p} (ht : s.seqTime = some p) : Sound p.2 := by
  unfold State.seqTime at ht
  grind [State.readTime_sound, → State.captured_sound]

theorem State.csrRead_sound (h : Sound s) (c) {p} (ht : s.csrRead c = some (some p)) : Sound p.2 := by
  unfold State.csrRead at ht
  grind [→ State.seqTime_sound]

theorem execCsrr_sound (h : Sound s) (rd csr) : SoundNext (execCsrr rd csr s) := by
  unfold execCsrr
  grind [→ State.csrRead_sound, State.fault_sound, State.result_sound, SoundNext.next]

theorem execCsrw_sound (h : Sound s) (rd rs1 csr) : SoundNext (execCsrw rd rs1 csr s) := by
  unfold execCsrw
  grind [→ State.csrRead_sound, State.fault_sound, State.csrWrite_sound, State.result_sound, SoundNext.next]

theorem execTime_sound (h : Sound s) (rd) : SoundNext (execTime rd s) := by
  unfold execTime
  grind [→ State.seqTime_sound, State.result_sound, SoundNext.next]

/-! ### Storage -/

theorem State.putTag_sound (h : Sound s) (v p tag) : Sound (s.putTag v p tag) := by
  unfold State.putTag
  apply State.storeBytes_sound
  split
  · exact h.stores (memClear_wf _ _ h.mem) rfl
  · exact h

theorem State.pageOver_sound (h : Sound s) (k moved) : Sound (s.pageOver k moved) := by
  unfold State.pageOver
  grind [State.chargeCopy_sound, State.setCopy_sound, Sound.frame]

theorem State.pageFails_sound (h : Sound s) (k c moved) : Sound (s.pageFails k c moved) := by
  unfold State.pageFails
  grind [State.pageOver_sound, State.setCopy_sound]

theorem State.commandFails_sound (h : Sound s) (k c) : Sound (s.commandFails k c) := by
  unfold State.commandFails
  grind [State.raise_sound, State.putTag_sound, State.failFrame_sound, State.pageFails_sound]

theorem State.pageNoKey_sound (h : Sound s) (k j) : Sound (s.pageNoKey k j) := by
  unfold State.pageNoKey
  grind [State.pageFails_sound, State.copyRecord_sound]

theorem State.pageIn_sound (h : Sound s) (k j l) : Sound (s.pageIn k j l) := by
  unfold State.pageIn
  grind [State.pageOver_sound, State.setCopy_sound, State.storeBytes_sound, State.pageFails_sound, State.copyRecord_sound,
    State.failFrame_sound, State.pageNoKey_sound, Sound.frame]

theorem State.pageRecords_sound (h : Sound s) (j l) : Sound (s.pageRecords j l) := by
  unfold State.pageRecords
  grind [State.islandRecord_sound, foldl_sound]

theorem State.pageOut_sound (h : Sound s) (k j l) : Sound (s.pageOut k j l) := by
  unfold State.pageOut
  grind [State.putTag_sound, State.pageRecords_sound, State.copyRecord_sound, State.pageFails_sound, State.setCopy_sound,
    State.pageOver_sound, State.storeBytes_sound, State.pageNoKey_sound, Sound.frame]

theorem State.issueCommand_sound (h : Sound s) (k j) : Sound (s.issueCommand k j) := by
  unfold State.issueCommand
  grind [State.copyBad_sound, State.commandFails_sound, State.setCopy_sound, Sound.frame]

theorem State.copyStep_sound (h : Sound s) (k) : Sound (s.copyStep k) := by
  unfold State.copyStep
  grind [State.issueCommand_sound, State.copyGranule_sound]

theorem State.copyTurn_sound (h : Sound s) (k n) : SoundNext (s.copyTurn k n) := by
  unfold State.copyTurn
  grind [State.copyStep_sound, SoundNext.next, foldl_sound]

theorem State.portTimesOut_sound (h : Sound s) (port) : Sound (s.portTimesOut port) := by
  unfold State.portTimesOut
  grind [State.commandFails_sound, foldl_sound, Sound.frame]

theorem execNvmeCompletion_sound (h : Sound s) (cmd ok dnr) : SoundNext (execNvmeCompletion cmd ok dnr s) := by
  unfold execNvmeCompletion
  grind [State.portTimesOut_sound, State.commandFails_sound, State.copyBad_sound, State.pageOut_sound, State.pageIn_sound,
    SoundNext.next, Sound.frame]

theorem execStorageCommandTimeout_sound (h : Sound s) (cmd) : SoundNext (execStorageCommandTimeout cmd s) := by
  unfold execStorageCommandTimeout
  grind [State.portTimesOut_sound, SoundNext.next]

/-! ### Every instruction -/

theorem exec_sound (h : Sound s) (i) : SoundNext (exec i s) := by
  cases i with
  | add | sub | and | or | xor | sll | srl | sra | mul | mulh =>
    dsimp only [exec, execAdd, execSub, execAnd, execOr, execXor, execSll, execSrl, execSra, execMul, execMulh]
    exact State.alu_sound h ..
  | div | rem =>
    dsimp only [exec, execDiv, execRem]
    exact State.divide_sound h ..
  | min | max | slt | sltu | jalr | jal | fence | fenceio | sdset | tend | storageControllerResetDone | bodyBiasSettled =>
    exact .next h
  | fadds | fsubs | fmuls | fdivs | feqs | flts | fles =>
    dsimp only [exec, execFadds, execFsubs, execFmuls, execFdivs, execFeqs, execFlts, execFles]
    exact State.fpBinary_sound h ..
  | fsqrts | fcvtis | fcvtsi =>
    dsimp only [exec, execFsqrts, execFcvtis, execFcvtsi]
    exact State.fpUnary_sound h ..
  | amoadd | amoand | amoor | amoxor | amomin | amomax | amoswp | amocas =>
    dsimp only [exec, execAmoadd, execAmoand, execAmoor, execAmoxor, execAmomin, execAmomax, execAmoswp, execAmocas]
    exact State.amo_sound h ..
  | addi | andi | ori | xori | slli | srli | srai | lih =>
    dsimp only [exec, execAddi, execAndi, execOri, execXori, execSlli, execSrli, execSrai, execLih]
    exact State.aluImm_sound h ..
  | beq | bne | blt | bge | bltu | bgeu =>
    dsimp only [exec, execBeq, execBne, execBlt, execBge, execBltu, execBgeu]
    exact State.branch_sound h ..
  | bstat =>
    dsimp only [exec, execBstat]
    exact State.seqAccess_sound h ..
  | ldb | ldh | ldw | ldd =>
    dsimp only [exec, execLdb, execLdh, execLdw, execLdd]
    exact State.load_sound h ..
  | stb | sth | stw | std =>
    dsimp only [exec, execStb, execSth, execStw, execStd]
    exact State.store_sound h ..
  | sbind => exact execSbind_sound h ..
  | scancel => exact execScancel_sound h ..
  | cfgld => exact execCfgld_sound h ..
  | reconf => exact execReconf_sound h ..
  | drain => exact execDrain_sound h ..
  | copy => exact execCopy_sound h ..
  | coll => exact execColl_sound h ..
  | barinit => exact execBarinit_sound h ..
  | barrive => exact execBarrive_sound h ..
  | barbind => exact execBarbind_sound h ..
  | chpost => exact execChpost_sound h ..
  | chbind => exact execChbind_sound h ..
  | evsend => exact execEvsend_sound h ..
  | evhz => exact execEvhz_sound h ..
  | trap | illegalInstruction =>
    dsimp only [exec, execTrap, execIllegalInstruction]
    exact State.fault_sound h ..
  | eret => exact execEret_sound h
  | csrr => exact execCsrr_sound h ..
  | csrw => exact execCsrw_sound h ..
  | time => exact execTime_sound h ..
  | wdog => exact execWdog_sound h ..
  | addOperator | subOperator | adds | subs | mulOperator | mulhOperator | mad | abs | neg | minOperator | maxOperator | minu
    | maxu | andOperator | orOperator | xorOperator | andn | not | sar | rol =>
    dsimp only [exec, execAddOperator, execSubOperator, execAdds, execSubs, execMulOperator, execMulhOperator, execMad, execAbs,
      execNeg, execMinOperator, execMaxOperator, execMinu, execMaxu, execAndOperator, execOrOperator, execXorOperator, execAndn,
      execNot, execSar, execRol]
    exact State.intOp_sound h ..
  | shl => exact execShl_sound h ..
  | shr => exact execShr_sound h ..
  | clz => exact execClz_sound h ..
  | popc => exact execPopc_sound h ..
  | cmpeq | cmpne | cmplt | cmple | cmpltu | cmpleu =>
    dsimp only [exec, execCmpeq, execCmpne, execCmplt, execCmple, execCmpltu, execCmpleu]
    exact State.predOp_sound h ..
  | sel => exact execSel_sound h ..
  | fadd | fsub | fmul | fma | fcmpeq | fcmplt | fcmple | fcmpun =>
    dsimp only [exec, execFadd, execFsub, execFmul, execFma, execFcmpeq, execFcmplt, execFcmple, execFcmpun]
    exact State.floatOp_sound h ..
  | fmin | fmax | fabs | fneg | rcp | rsq | sqrt | exp2 | log2 | tanh | sigm | frnd =>
    dsimp only [exec, execFmin, execFmax, execFabs, execFneg, execRcp, execRsq, execSqrt, execExp2, execLog2, execTanh,
      execSigm, execFrnd]
    exact State.floatBits_sound h ..
  | fclass => exact execFclass_sound h ..
  | cvtf | cvtif =>
    dsimp only [exec, execCvtf, execCvtif]
    exact State.convert_sound h ..
  | cvti => exact execCvti_sound h ..
  | join => exact execJoin_sound h ..
  | acc => exact execAcc_sound h ..
  | amax => exact execAmax_sound h ..
  | argm => exact execArgm_sound h ..
  | iota => exact execIota_sound h ..
  | cnt => exact execCnt_sound h ..
  | scan => exact execScan_sound h ..
  | halt => exact execHalt_sound h ..
  | ld | st | ldfe | stfe | atadd | atmin | atmax | atcas | atxch | empty =>
    dsimp only [exec, execLd, execSt, execLdfe, execStfe, execAtadd, execAtmin, execAtmax, execAtcas, execAtxch, execEmpty]
    exact State.memOp_sound h ..
  | mrow | mrows =>
    dsimp only [exec, execMrow, execMrows]
    exact State.rowOp_sound h ..
  | mwld => exact execMwld_sound h ..
  | mwrd => exact execMwrd_sound h ..
  | mscl => exact execMscl_sound h ..
  | mstat => exact execMstat_sound h ..
  | mclr => exact execMclr_sound h ..
  | qcvt => exact execQcvt_sound h ..
  | qside => exact execQside_sound h ..
  | pack => exact execPack_sound h ..
  | unpk => exact execUnpk_sound h ..
  | mxq => exact execMxq_sound h ..
  | deq => exact execDeq_sound h ..
  | srnd => exact execSrnd_sound h ..
  | evin => exact execEvin_sound h ..
  | evlk => exact execEvlk_sound h ..
  | evfr => exact execEvfr_sound h ..
  | evst => exact execEvst_sound h ..
  | evwr => exact execEvwr_sound h ..
  | evq => exact execEvq_sound h ..
  | eosg => exact execEosg_sound h ..
  | trapOperator => exact execTrapOperator_sound h ..
  | brk => exact execBrk_sound h ..
  | timeOperator => exact execTimeOperator_sound h ..
  | pcnt => exact execPcnt_sound h ..
  | seed => exact execSeed_sound h ..
  | pass => exact execPass_sound h ..
  | fork => exact execFork_sound h ..
  | steer => exact execSteer_sound h ..
  | merge => exact execMerge_sound h ..
  | carry => exact execCarry_sound h ..
  | invar => exact execInvar_sound h ..
  | delay => exact execDelay_sound h ..
  | edgeAgn => exact execEdgeAgn_sound h ..
  | edgeBarrier => exact execEdgeBarrier_sound h ..
  | edgeIndigo => exact execEdgeIndigo_sound h ..
  | nop => exact execNop_sound h ..
  | write => exact execWrite_sound h ..
  | signalSet | signalAdd =>
    dsimp only [exec, execSignalSet, execSignalAdd]
    exact State.signal_sound h ..
  | waitGe => exact execWaitGe_sound h ..
  | launch => exact execLaunch_sound h ..
  | bind => exact execBind_sound h ..
  | copyPacket => exact execCopyPacket_sound h ..
  | retire | retireCancel =>
    dsimp only [exec, execRetire, execRetireCancel]
    exact State.retireTurn_sound h ..
  | fencePacket => exact execFencePacket_sound h ..
  | interrupt => exact execInterrupt_sound h ..
  | timestamp => exact execTimestamp_sound h ..
  | invalidate => exact execInvalidate_sound h ..
  | localMemoryRequestPerform => exact execLocalMemoryRequestPerform_sound h ..
  | rowArrival => exact execRowArrival_sound h ..
  | rowForward => exact execRowForward_sound h ..
  | eventDelivery => exact execEventDelivery_sound h ..
  | markEmit => exact execMarkEmit_sound h ..
  | routerLinkTransfer => exact execRouterLinkTransfer_sound h ..
  | spillRingRefill => exact execSpillRingRefill_sound h ..
  | invocationStart => exact execInvocationStart_sound h ..
  | streamElementIssue => exact execStreamElementIssue_sound h ..
  | writeStreamElement => exact execWriteStreamElement_sound h ..
  | indirectGather => exact execIndirectGather_sound h ..
  | indirectScatter => exact execIndirectScatter_sound h ..
  | bitmapSparseElement => exact execBitmapSparseElement_sound h ..
  | statusOr => exact execStatusOr_sound h ..
  | endOfStream => exact execEndOfStream_sound h ..
  | agnRetry => exact execAgnRetry_sound h ..
  | islandRepartition => exact execIslandRepartition_sound h ..
  | repartitionComplete => exact execRepartitionComplete_sound h ..
  | nvmeCompletion => exact execNvmeCompletion_sound h ..
  | storageCommandTimeout => exact execStorageCommandTimeout_sound h ..
  | copyCompletion => exact execCopyCompletion_sound h ..
  | streamCompletion => exact execStreamCompletion_sound h ..
  | imageLoadComplete => exact execImageLoadComplete_sound h ..
  | tokenPass => exact execTokenPass_sound h ..
  | planeSwap => exact execPlaneSwap_sound h ..
  | swapRefused => exact execSwapRefused_sound h ..
  | drainWatchPost => exact execDrainWatchPost_sound h ..
  | messageArrival => exact execMessageArrival_sound h ..
  | hardwarePost => exact execHardwarePost_sound h ..
  | taskStart => exact execTaskStart_sound h ..
  | spanPhaseComplete => exact execSpanPhaseComplete_sound h ..
  | watchdogExpiry => exact execWatchdogExpiry_sound h ..
  | hostTimeout => exact execHostTimeout_sound h ..
  | flitCrcMismatch => exact execFlitCrcMismatch_sound h ..
  | flitReplay => exact execFlitReplay_sound h ..
  | badflit => exact execBadflit_sound h ..
  | flitForward => exact execFlitForward_sound h ..
  | readRequest => exact execReadRequest_sound h ..
  | writeRequest => exact execWriteRequest_sound h ..
  | atomicRequest => exact execAtomicRequest_sound h ..
  | response => exact execResponse_sound h ..
  | netTimeout => exact execNetTimeout_sound h ..
  | collectiveData => exact execCollectiveData_sound h ..
  | collectiveControl => exact execCollectiveControl_sound h ..
  | collectiveWindowMerge => exact execCollectiveWindowMerge_sound h ..
  | collectiveTimeout => exact execCollectiveTimeout_sound h ..
  | collectiveCompletion => exact execCollectiveCompletion_sound h ..
  | waitGeComplete => exact execWaitGeComplete_sound h ..
  | deferredBind => exact execDeferredBind_sound h ..
  | invalidateComplete => exact execInvalidateComplete_sound h ..
  | kick => exact execKick_sound h ..
  | queueReset => exact execQueueReset_sound h ..
  | entryAdmission => exact execEntryAdmission_sound h ..
  | dispatch => exact execDispatch_sound h ..
  | completionRecord => exact execCompletionRecord_sound h ..
  | budgetOverrun => exact execBudgetOverrun_sound h ..
  | deadlineMiss => exact execDeadlineMiss_sound h ..
  | preEmption => exact execPreEmption_sound h ..
  | saveCommit => exact execSaveCommit_sound h ..
  | launchResume => exact execLaunchResume_sound h ..
  | resume => exact execResume_sound h ..
  | release => exact execRelease_sound h ..
  | wgo => exact execWgo_sound h ..
  | dholdWrite => exact execDholdWrite_sound h ..
  | fretry => exact execFretry_sound h ..
  | consumerIndexWrite => exact execConsumerIndexWrite_sound h ..
  | lostClear => exact execLostClear_sound h ..
  | ringReset => exact execRingReset_sound h ..
  | faultRecordWrite => exact execFaultRecordWrite_sound h ..
  | installDataKey => exact execInstallDataKey_sound h ..
  | eraseDataKey => exact execEraseDataKey_sound h ..
  | installImageKey => exact execInstallImageKey_sound h ..
  | eraseImageKey => exact execEraseImageKey_sound h ..
  | attest => exact execAttest_sound h ..
  | readIdentityCertificate => exact execReadIdentityCertificate_sound h ..
  | takeOwnership => exact execTakeOwnership_sound h ..
  | recoveryVerify => exact execRecoveryVerify_sound h
  | adapt => exact execAdapt_sound h ..
  | registerWrite => exact execRegisterWrite_sound h ..
  | coldReset => exact execColdReset_sound h
  | functionLevelReset => exact execFunctionLevelReset_sound h ..
  | powerGrant => exact execPowerGrant_sound h
  | supplyAdjust => exact execSupplyAdjust_sound h ..
  | bodyBiasChange => exact execBodyBiasChange_sound h ..
  | thermalWarn => exact execThermalWarn_sound h ..
  | thermalTrip => exact execThermalTrip_sound h
  | serviceMark => exact execServiceMark_sound h ..
  | thermalWarnClear => exact execThermalWarnClear_sound h
  | linkRetrained => exact execLinkRetrained_sound h ..
  | hostCompletion => exact execHostCompletion_sound h ..
  | powerGoodLoss => exact execPowerGoodLoss_sound h

/-! ### Turns and time -/

theorem State.fetchFault_sound (h : Sound s) (n c) : Sound (s.fetchFault n c) := h

theorem State.seqTurn_sound (h : Sound s) (n) : SoundNext (s.seqTurn n) := by
  unfold State.seqTurn
  grind [execWatchdogExpiry_sound, State.fetchFault_sound, exec_sound, SoundNext.next, Sound.frame]

theorem State.slotTurn_sound (h : Sound s) (t i) : SoundNext (s.slotTurn t i) := by
  unfold State.slotTurn
  grind [exec_sound, State.atElement_sound, SoundNext.next]

theorem State.recordTurn_sound (h : Sound s) (t q) : SoundNext (s.recordTurn t q) := by
  unfold State.recordTurn
  grind [exec_sound, State.atElement_sound, SoundNext.next]

theorem State.packetTurn_sound (h : Sound s) (k) : SoundNext (s.packetTurn k) := by
  unfold State.packetTurn
  grind [exec_sound, SoundNext.next]

theorem State.handle_sound (h : Sound s) (e) : SoundNext (s.handle e) := by
  unfold State.handle
  grind [execKick_sound, execQueueReset_sound, execWaitGeComplete_sound, execDeadlineMiss_sound, execBudgetOverrun_sound,
    exec_sound, Sound.frame]

theorem State.coreTurn_sound (h : Sound s) (c) : SoundNext (s.coreTurn c) := by
  unfold State.coreTurn
  grind [State.handle_sound, SoundNext.next, Sound.frame]

theorem State.tickSeq_sound (h : Sound s) (n k) : Sound (s.tickSeq n k) := by
  unfold State.tickSeq
  grind [State.setSeq_sound, Sound.frame]

theorem State.tickTile_sound (h : Sound s) (t k) : Sound (s.tickTile t k) := by
  unfold State.tickTile
  grind [State.bumpCounter_sound]

theorem State.elapse_sound (h : Sound s) (k) : Sound (s.elapse k) := by
  unfold State.elapse
  grind [State.tickTile_sound, State.tickSeq_sound, foldl_sound]

theorem State.lapse_sound (h : Sound s) (fuel a b) : Sound (State.lapse fuel s a b) := by
  induction fuel generalizing s a with
  | zero => exact State.grantAll_sound (State.elapse_sound h _) _
  | succ n ih =>
    unfold State.lapse
    grind [State.elapse_sound, State.grantAll_sound]

theorem State.notice_sound (h : Sound s) : Sound (s.notice) := by
  unfold State.notice
  grind [State.ariseOnce_sound, foldl_sound]

theorem State.since_sound (h : Sound s) (a) : Sound (s.since a) := by
  unfold State.since
  grind [State.notice_sound, State.lapse_sound]

theorem State.passTime_sound (h : Sound s) (k) : Sound (s.passTime k) := h

theorem State.upsetAt_sound (h : Sound s) (loc) : Sound (s.upsetAt loc) := by
  unfold State.upsetAt
  grind [Sound.frame]

theorem State.attach_sound (h : Sound s) (key size count) : Sound (s.attach key size count) := by
  unfold State.attach
  grind [Sound.frame]

theorem State.trustedStore_sound (h : Sound s) (agent a bs) : Sound (s.trustedStore agent a bs) := by
  unfold State.trustedStore
  grind [State.storeBytes_sound, State.writeReg_sound]

theorem State.replayAt_sound (h : Sound s) (t) : Sound (s.replayAt t) := by
  unfold State.replayAt
  grind [State.bumpCounter_sound]

theorem State.eventTurn_sound (h : Sound s) (i) : SoundNext (s.eventTurn i) := by
  unfold State.eventTurn
  grind [State.ariseKick_sound, exec_sound, State.ariseOnce_sound, SoundNext.next]

theorem State.turn_sound (h : Sound s) (t) : SoundNext (s.turn t) := by
  unfold State.turn
  grind [State.seqTurn_sound, State.slotTurn_sound, State.recordTurn_sound, State.packetTurn_sound, State.eventTurn_sound,
    State.coreTurn_sound, State.passTime_sound, State.copyTurn_sound, State.upsetAt_sound, State.slotFault_sound,
    State.atElement_sound, State.recFault_sound, State.seqFault_sound, State.countCorrected_sound, State.replayAt_sound,
    State.bootTurn_sound, State.configTurn_sound, State.linkTurn_sound, State.storeBytes_sound, State.trustedStore_sound,
    State.attach_sound, SoundNext.next]

theorem State.act_sound (h : Sound s) (t) : SoundNext (s.act t) := by
  unfold State.act
  split
  next hu => exact .next (State.since_sound ((State.turn_sound h t).sound _ hu) _)
  · exact State.turn_sound h t

/-! ### The step -/

theorem State.nextTurn_sound (h : Sound s) : Sound s.nextTurn.2 := by
  unfold State.nextTurn
  split
  · exact h
  · exact State.bump_sound h

theorem step_sound (h : Sound s) : SoundNext (step s) := by
  unfold step
  split
  · exact ⟨nofun⟩
  split
  · exact .next (State.off_sound h)
  · exact State.act_sound (State.nextTurn_sound h) _

end Sys2Proof.Machine

namespace Sys2Proof.Claims
open Sys2Proof Sys2Proof.Machine

/-- Settles O60: a trip leaves what a cold reset keeps, and every other turn keeps the invariant. -/
theorem stepsStaySound : Obligations.StepsStaySound := fun _ t h ht => (step_sound h).sound t ht

end Sys2Proof.Claims

/-!
## The registers of the device and the replay recorder

A write of a register is told apart first by its agent, then by its offset: each rule below says what one kind of offset does,
and the statement puts the rules together (R6, R26, R390, R463, R466).
-/

namespace Sys2Proof.Claims
open Sys2Proof Sys2Proof.Machine

/-! ### Offsets of the control path -/

section
variable {s : State} {a : Agent} {off : Nat} (v : Word)

theorem exec_registerWrite (h : off < 2 ^ 64) :
    exec (.registerWrite a (BitVec.ofNat 64 off) v) s = .next (s.writeReg a off v) :=
  calc
    exec (.registerWrite a (BitVec.ofNat 64 off) v) s = .next (s.writeReg a (BitVec.ofNat 64 off).toNat v) := rfl
    _ = .next (s.writeReg a off v) := by rw [BitVec.toNat_ofNat, Nat.mod_eq_of_lt h]

theorem pages_of_trusted (h : a = .pf ∨ a = .firmware) : a.pages = none := by rcases h with rfl | rfl <;> rfl

theorem pages_of_bar0 (h : a ≠ .pfPages ∧ ∀ n, a ≠ .vf n) : a.pages = none := by
  cases a with
  | pfPages => exact absurd rfl h.1
  | vf n => exact absurd rfl (h.2 n)
  | pf | firmware | sequencer => rfl

theorem trusted_of (h : a = .pf ∨ a = .firmware) : a.trusted = true := by rcases h with rfl | rfl <;> rfl

theorem recoveryAt_below (h : off < 0x3000000) : s.recoveryAt a off = none :=
  if_neg fun hw => Nat.not_le_of_lt h hw.2.2.1

theorem closed_of_stage (h : s.stage ≠ 4) : s.closed a off = false := by simp [State.closed, h]

theorem closed_of_agent (h : a ≠ .pf) : s.closed a off = false := by simp [State.closed, h]

theorem closed_in_recovery (hs : s.stage = 4) (h : off ≠ 0x38) : s.closed .pf off = true := by simp [State.closed, hs, h]

/-- A write that stage 4 closes, or that is not aligned, is ignored. -/
theorem writeReg_ignored (hp : a.pages = none) (hb : off < 0x3000000) (h : off % 8 ≠ 0 ∨ s.closed a off = true) :
    s.writeReg a off v = s := by
  have hc : (decide (off % 8 ≠ 0) || s.closed a off) = true := by simpa using h
  unfold State.writeReg
  simp only [hp, recoveryAt_below hb]
  exact if_pos hc

/-- An offset below the kick pages that no rule of its own decides. -/
structure Ordinary (off : Nat) : Prop where
  below : off < 0x1000000
  aligned : off % 8 = 0
  unruled : off ∉ [0x38, 0x40, 0x48, 0x58, 0xE0]
  notValue : off < 0x800000 ∨ 0x820000 ≤ off ∨ off % 16 = 8

/-- An ordinary register takes the writes of firmware and of the physical function alone. -/
theorem writeReg_ordinary (hp : a.pages = none) (hc : s.closed a off = false) (h : Ordinary off) :
    s.writeReg a off v = if a.trusted then s.writeTrusted off v else s := by
  obtain ⟨hb, h8, hu, hv⟩ := h
  simp only [List.mem_cons, List.not_mem_nil, not_or, or_false] at hu
  obtain ⟨h38, h40, h48, h58, hE0⟩ := hu
  unfold State.writeReg
  simp only [hp, recoveryAt_below (Nat.lt_trans hb (by decide)), hc]
  rw [if_neg (by simp [h8]), if_neg h38, if_neg (by omega), if_neg h58, if_neg hE0, if_neg (by omega), if_neg (by omega),
    if_neg (by omega), if_neg (by omega)]

theorem writeReg_trusted (ha : a = .pf ∨ a = .firmware) (hs : s.stage ≠ 4) (h : Ordinary off) :
    s.writeReg a off v = s.writeTrusted off v := by
  rw [writeReg_ordinary v (pages_of_trusted ha) (closed_of_stage hs) h, if_pos (trusted_of ha)]

theorem writeReg_secreq (hp : a.pages = none) (hc : s.closed a 0xE0 = false) :
    s.writeReg a 0xE0 v = if a = .pf then s.writeSecreq v else s := by
  unfold State.writeReg
  simp only [hp, recoveryAt_below (show 0xE0 < 0x3000000 by decide), hc]
  rw [if_neg (by decide), if_neg (by decide), if_neg (by decide), if_neg (by decide), if_pos trivial]

theorem writeReg_value (hp : a.pages = none) {n : Nat} (hn : n < 8192) (hc : s.closed a (0x800000 + 16 * n) = false) :
    s.writeReg a (0x800000 + 16 * n) v = s.writeSem a n v := by
  unfold State.writeReg
  simp only [hp, recoveryAt_below (show 0x800000 + 16 * n < 0x3000000 by omega), hc]
  rw [if_neg (by simp; omega), if_neg (by omega), if_neg (by omega), if_neg (by omega), if_neg (by omega), if_pos (by omega),
    show (0x800000 + 16 * n - 0x800000) / 16 = n by omega]

end

end Sys2Proof.Claims

namespace Sys2Proof.Claims
open Sys2Proof Sys2Proof.Machine

/-! ### What the trusted agents write -/

section
variable {s : State} (v : Word)

theorem ordinary_of_mem {off : Nat} (h : off ∈ [0x50, 0x60, 0x68, 0x70, 0xF0, 0xF8]) : Ordinary off := by
  simp only [List.mem_cons, List.not_mem_nil, or_false] at h
  rcases h with rfl | rfl | rfl | rfl | rfl | rfl <;> constructor <;> decide

theorem ordinary_route {n : Nat} (h : n < 64) : Ordinary (0x1000 + 8 * n) where
  below := by omega
  aligned := by omega
  unruled := by simp; omega
  notValue := by omega

theorem ordinary_sown {n : Nat} (h : n < 8192) : Ordinary (0x800008 + 16 * n) where
  below := by omega
  aligned := by omega
  unruled := by simp; omega
  notValue := by omega

theorem writeTrusted_route {n : Nat} (h : n < 64) :
    s.writeTrusted (0x1000 + 8 * n) v = { s with net := { s.net with routes := tabPut s.net.routes n (v.setWidth 5) } } := by
  have hn : (0x1000 + 8 * n - 0x1000) / 8 = n := by omega
  unfold State.writeTrusted
  split
  case h_7 => rw [if_pos (by omega), hn]
  all_goals omega

theorem writeTrusted_sown {n : Nat} (h : n < 8192) :
    s.writeTrusted (0x800008 + 16 * n) v = { s with sown := tabPut s.sown n (v.setWidth 13) } := by
  have hn : (0x800008 + 16 * n - 0x800000) / 16 = n := by omega
  unfold State.writeTrusted
  split
  case h_7 => rw [if_neg (by omega), if_neg (by omega), if_pos (by omega), hn]
  all_goals omega

theorem setAdapt_of_stage (b : BitVec 4) (hs : s.stage ≠ 4) : s.setAdapt b =
    { s with ctl := { s.ctl with adapt := b },
             power := { s.power with supply := s.power.supply.filter (fun p => b.getLsbD p.1) } } := by
  unfold State.setAdapt
  rw [if_neg hs]

/-- PCAP and ADAPT stand in one register (R416). -/
theorem writeTrusted_margins (hs : s.stage ≠ 4) :
    (s.writeTrusted 0x70 v).ctl = { s.ctl with pcap := v.setWidth 32, adapt := v.extractLsb' 32 4 } ∧
      { s.writeTrusted 0x70 v with ctl := s.ctl, power := s.power } = s := by
  have h : s.writeTrusted 0x70 v = _ :=
    setAdapt_of_stage (s := { s with ctl := { s.ctl with pcap := v.setWidth 32 } }) (v.extractLsb' 32 4) hs
  rw [h]
  exact ⟨rfl, rfl⟩

theorem getLsbD_lowOnes (n i : Nat) : (BitVec.ofNat 64 (2 ^ n - 1)).getLsbD i = (decide (i < 64) && decide (i < n)) := by
  rw [BitVec.getLsbD_ofNat, Nat.testBit_two_pow_sub_one]

/-- RPCTL keeps DIVERGED unless a one is written to it, and takes every field below it (R466). -/
theorem rpctl_fields (r : Word) :
    let t := (v &&& 0x3FFF) ||| (r &&& 0x4000 &&& ~~~ v)
    t.toNat % 2 ^ 14 = v.toNat % 2 ^ 14 ∧ (t.getLsbD 14 = true ↔ r.getLsbD 14 = true ∧ v.getLsbD 14 = false) ∧ t.toNat < 2 ^ 15 := by
  have hlow (i : Nat) : (0x3FFF : Word).getLsbD i = (decide (i < 64) && decide (i < 14)) := getLsbD_lowOnes 14 i
  have hdiv (i : Nat) : (0x4000 : Word).getLsbD i = (decide (i < 64) && decide (i = 14)) := by
    rw [show (0x4000 : Word) = BitVec.twoPow 64 14 from rfl, BitVec.getLsbD_twoPow]
    by_cases h : i = 14 <;> simp [h, eq_comm]
  have hbit (i : Nat) : ((v &&& 0x3FFF) ||| (r &&& 0x4000 &&& ~~~ v)).getLsbD i =
      (v.getLsbD i && decide (i < 14) || (r.getLsbD i && decide (i = 14) && !v.getLsbD i)) := by
    rw [BitVec.getLsbD_or, BitVec.getLsbD_and, BitVec.getLsbD_and, BitVec.getLsbD_and, BitVec.getLsbD_not, hlow, hdiv]
    by_cases h : i < 64
    · simp [h]
    · simp [h, BitVec.getLsbD_of_ge v i (by omega), BitVec.getLsbD_of_ge r i (by omega)]
  refine ⟨?_, by simp only [hbit]; simp, ?_⟩
  · apply Nat.eq_of_testBit_eq
    intro i
    rw [Nat.testBit_mod_two_pow, Nat.testBit_mod_two_pow, BitVec.testBit_toNat, hbit, BitVec.testBit_toNat]
    by_cases h : i < 14
    · simp [h, Nat.ne_of_lt h]
    · simp [h]
  · apply Nat.lt_pow_two_of_testBit
    intro i h
    rw [BitVec.testBit_toNat, hbit, decide_eq_false (by omega : ¬ i < 14), decide_eq_false (by omega : ¬ i = 14)]
    simp

/-- The low six bits of an address of SECREQ act as zero. -/
theorem clearLowSix_toNat : (v &&& ~~~ 0x3F#64).toNat = v.toNat / 64 * 64 := by
  have hlow (i : Nat) : (0x3F#64).getLsbD i = (decide (i < 64) && decide (i < 6)) := getLsbD_lowOnes 6 i
  apply Nat.eq_of_testBit_eq
  intro i
  rw [show v.toNat / 64 * 64 = v.toNat / 2 ^ 6 * 2 ^ 6 from rfl, Nat.testBit_mul_two_pow, Nat.testBit_div_two_pow,
    BitVec.testBit_toNat, BitVec.getLsbD_and, BitVec.getLsbD_not, hlow, BitVec.testBit_toNat]
  by_cases h : 6 ≤ i
  · rw [Nat.sub_add_cancel h]
    by_cases hw : i < 64
    · simp [h, hw]
    · simp [BitVec.getLsbD_of_ge v i (by omega)]
  · simp [h]
    omega

end
end Sys2Proof.Claims

namespace Sys2Proof.Claims
open Sys2Proof Sys2Proof.Machine

/-! ### Tables -/

theorem tabFind_map {α β : Type} (f : α → β) (t : Tab α) (k : Nat) :
    tabFind (t.map fun p => (p.1, f p.2)) k = (tabFind t k).map f := by
  induction t with
  | nil => rfl
  | cons p r ih =>
    simp only [List.map_cons, tabFind, ih]
    split <;> rfl

theorem mem_of_tabFind {α : Type} {t : Tab α} {k : Nat} {x : α} (h : tabFind t k = some x) : (k, x) ∈ t := by
  induction t with
  | nil => cases h
  | cons p r ih =>
    obtain ⟨j, y⟩ := p
    simp only [tabFind] at h
    split at h
    case isTrue hj => cases h; subst hj; exact List.mem_cons_self
    case isFalse => exact List.mem_cons_of_mem _ (ih h)

/-! ### VALUE of a semaphore (R390, R391) -/

/-- A cause of work waits for the command complex, or one of its cores handles it. -/
def Arisen (s : State) (e : Event) : Prop := e ∈ s.events ∨ ∃ c, c ∈ s.cores ∧ c.2 = e

theorem ariseOnce_frame (s : State) (e : Event) : { s.ariseOnce e with events := s.events } = s := by
  unfold State.ariseOnce
  split <;> rfl

theorem ariseOnce_arisen (s : State) (e : Event) : Arisen (s.ariseOnce e) e := by
  unfold State.ariseOnce
  split
  case isTrue h => simpa [Arisen] using h
  case isFalse => exact .inl (by simp [State.arise])

theorem Arisen.ariseOnce {s : State} {e : Event} (h : Arisen s e) (e' : Event) : Arisen (s.ariseOnce e') e := by
  unfold State.ariseOnce
  split
  · exact h
  · exact h.imp_left fun he => List.mem_append_left _ he

section
variable {κ : Type} (f : κ → Event)

theorem foldl_ariseOnce_frame (ks : List κ) (s : State) :
    { ks.foldl (fun st k => st.ariseOnce (f k)) s with events := s.events } = s := by
  induction ks generalizing s with
  | nil => rfl
  | cons k r ih =>
    have hk := ariseOnce_frame s (f k)
    have hr := congrArg (fun t : State => { t with events := s.events }) (ih (s.ariseOnce (f k)))
    exact hr.trans hk

theorem Arisen.foldl_ariseOnce {s : State} {e : Event} (h : Arisen s e) (ks : List κ) :
    Arisen (ks.foldl (fun st k => st.ariseOnce (f k)) s) e := by
  induction ks generalizing s with
  | nil => exact h
  | cons k r ih => exact ih (h.ariseOnce (f k))

theorem foldl_ariseOnce_arisen {ks : List κ} {k : κ} (h : k ∈ ks) (s : State) :
    Arisen (ks.foldl (fun st k => st.ariseOnce (f k)) s) (f k) := by
  induction ks generalizing s with
  | nil => cases h
  | cons j r ih =>
    rcases List.mem_cons.mp h with rfl | h
    · exact (ariseOnce_arisen s (f k)).foldl_ariseOnce f r
    · exact ih h _

end

/-- What a work item has seen once semaphore `n` holds `v`. -/
def seesSem (n : Nat) (v : Word) (i : Item) : Item :=
  match i.waits with
  | some (m, w) => if m = n ∧ w ≤ v.toNat then { i with met := true } else i
  | none => i

theorem seesSem_of_waits {n m w : Nat} {i : Item} (v : Word) (h : i.waits = some (m, w)) :
    seesSem n v i = if m = n ∧ w ≤ v.toNat then { i with met := true } else i := by
  simp only [seesSem, h]

theorem seesSem_of_none {i : Item} (n : Nat) (v : Word) (h : i.waits = none) : seesSem n v i = i := by
  simp only [seesSem, h]

/-- The items that wait on semaphore `n`. -/
def watching (s : State) (n : Nat) : List Nat :=
  (s.items.filter (fun p => p.2.waits.any (fun w => w.1 == n))).map (fun p => p.1)

theorem mem_watching {s : State} {n x w : Nat} {j : Item} (hj : s.item x = some j) (hw : j.waits = some (n, w)) :
    x ∈ watching s n :=
  List.mem_map.mpr ⟨(x, j), List.mem_filter.mpr ⟨mem_of_tabFind hj, by simp [hw]⟩, rfl⟩

theorem putSem_eq (s : State) (n : Nat) (v : Word) :
    s.putSem n v = (watching s n).foldl (fun st k => st.ariseOnce (.semaphore k))
      { s with sems := tabPut s.sems n v, items := s.items.map (fun p => (p.1, seesSem n v p.2)) } := rfl

theorem putSem_frame (s : State) (n : Nat) (v : Word) :
    { s.putSem n v with events := s.events } =
      { s with sems := tabPut s.sems n v, items := s.items.map (fun p => (p.1, seesSem n v p.2)) } := by
  rw [putSem_eq]
  exact foldl_ariseOnce_frame Event.semaphore (watching s n) { s with
    sems := tabPut s.sems n v, items := s.items.map (fun p => (p.1, seesSem n v p.2)) }

theorem putSem_sem (s : State) (n x : Nat) (v : Word) : (s.putSem n v).sem x = tabGet (tabPut s.sems n v) x 0 :=
  congrArg (fun t : State => t.sem x) (putSem_frame s n v)

theorem putSem_item (s : State) (n x : Nat) (v : Word) : (s.putSem n v).item x = (s.item x).map (seesSem n v) :=
  (congrArg (fun t : State => t.item x) (putSem_frame s n v)).trans (tabFind_map _ _ _)

theorem putSem_now (s : State) (n : Nat) (v : Word) : (s.putSem n v).now = s.now := by
  have h := congrArg (fun t : State => t.now) (putSem_frame s n v)
  exact h

theorem putSem_semSet (s : State) (n : Nat) (v : Word) : SemSet s (s.putSem n v) n v := by
  refine ⟨?_, fun x hx => ?_, fun x hx => ?_, fun x j hj hw => ?_, fun x j m w hj hw => ?_, fun x j w hj hw => ?_, ?_⟩
  · rw [putSem_sem, tabGet_put_same]
  · rw [putSem_sem, tabGet_put_other _ _ _ _ _ hx]
    rfl
  · rw [putSem_item, hx]
    rfl
  · rw [putSem_item, hj, Option.map_some, seesSem_of_none n v hw]
  · rw [putSem_item, hj, Option.map_some, seesSem_of_waits v hw]
  · exact foldl_ariseOnce_arisen Event.semaphore (mem_watching hj hw) _
  · exact congrArg (fun t : State => { t with sems := s.sems, items := s.items, now := s.now }) (putSem_frame s n v)

/-- A sequencer's store to VALUE takes effect when it steers a launch of the context that owns the semaphore. -/
theorem writeSem_of_owner {s : State} {q n : Nat} (v : Word) (ho : (tabGet s.sown n 0).getLsbD 12 = true)
    (hc : s.seqCtx q = some ((tabGet s.sown n 0).toNat % 4096)) : s.writeSem (.sequencer q) n v = s.putSem n v := by
  refine if_pos ?_
  rw [ho, hc]
  simp [bits]

theorem writeSem_of_other {s : State} {q n : Nat} (v : Word)
    (h : (tabGet s.sown n 0).getLsbD 12 = false ∨ s.seqCtx q ≠ some ((tabGet s.sown n 0).toNat % 4096)) :
    s.writeSem (.sequencer q) n v = s := by
  refine if_neg ?_
  rcases h with h | h <;> simp_all [bits]

theorem writeSem_of_trusted {s : State} {a : Agent} (n : Nat) (v : Word) (h : a = .pf ∨ a = .firmware) :
    s.writeSem a n v = s := by
  rcases h with rfl | rfl <;> rfl

end Sys2Proof.Claims

namespace Sys2Proof.Claims
open Sys2Proof Sys2Proof.Machine

/-! ### The registers, put together -/

section
variable {s : State} {a : Agent} (v : Word)

theorem stageFour_ignores (hs : s.stage = 4) {off : Nat}
    (h : off ∈ [0x40, 0x48, 0x50, 0x60, 0x68, 0x70, 0xE0, 0xF0, 0xF8]) : s.writeReg .pf off v = s := by
  have hoff : off < 0x3000000 ∧ off ≠ 0x38 := by simp at h; omega
  exact writeReg_ignored v rfl hoff.1 (.inr (closed_in_recovery hs hoff.2))

/-- The capability registers are read only (R26). -/
theorem capabilities_take_no_write (hp : a.pages = none) {off : Nat} (h : off < 0x38) : s.writeReg a off v = s := by
  by_cases h8 : off % 8 = 0
  case neg => exact writeReg_ignored v hp (by omega) (.inl h8)
  cases hc : s.closed a off
  case true => exact writeReg_ignored v hp (by omega) (.inr hc)
  rw [writeReg_ordinary v hp hc ⟨by omega, h8, by simp; omega, by omega⟩]
  split
  case isFalse => rfl
  unfold State.writeTrusted
  split
  case h_7 => rw [if_neg (by omega), if_neg (by omega), if_neg (by omega)]
  all_goals omega

theorem secreq_taken (hs : s.stage ≠ 4) (hn : s.sec.pending = none) :
    s.writeReg .pf 0xE0 v = { s with sec := { s.sec with pending := some (v &&& ~~~ 0x3F#64) } } := by
  rw [writeReg_secreq v rfl (closed_of_stage hs), if_pos rfl, State.writeSecreq, hn]
  rfl

theorem secreq_ignored (hp : a.pages = none) (h : a ≠ .pf ∨ s.sec.pending ≠ none) : s.writeReg a 0xE0 v = s := by
  cases hc : s.closed a 0xE0
  case true => exact writeReg_ignored v hp (by decide) (.inr hc)
  rw [writeReg_secreq v hp hc]
  split
  case isFalse => rfl
  case isTrue ha =>
    have hn : s.sec.pending.isSome = true := Option.isSome_iff_ne_none.mpr (h.resolve_left (not_not.mpr ha))
    exact if_pos hn

theorem sequencer_writes_none {q off : Nat} (h : Ordinary off) : s.writeReg (.sequencer q) off v = s := by
  rw [writeReg_ordinary v (a := .sequencer q) rfl (closed_of_agent nofun) h]
  rfl

end

theorem registerWrites : RegisterWrites := by
  intro s a v writes bar0
  have hw {off : Nat} {t : State} (hb : off < 2 ^ 64) (h : s.writeReg a off v = t) : writes off t :=
    h ▸ exec_registerWrite v hb
  refine ⟨fun hs ha off hoff => ?_, fun hs ha => ?_, fun ha off hoff => ?_, fun hs ha hn => ?_, fun h ha => ?_,
    fun q ha => ?_⟩
  · subst ha
    exact hw (by simp at hoff; omega) (stageFour_ignores v hs hoff)
  · have ht {off : Nat} (h : Ordinary off) : writes off (s.writeTrusted off v) :=
      hw (Nat.lt_trans h.below (by decide)) (writeReg_trusted v ha hs h)
    have hreg {off : Nat} (h : off ∈ [0x50, 0x60, 0x68, 0x70, 0xF0, 0xF8]) : writes off (s.writeTrusted off v) :=
      ht (ordinary_of_mem h)
    refine ⟨hreg (by simp), hreg (by simp), hreg (by simp), ⟨_, hreg (by simp), ?_⟩, ⟨_, hreg (by simp), ?_⟩,
      ⟨_, hreg (by simp), rfl, rfl⟩, fun n hn => ?_, fun n hn => ?_, fun n hn => ?_⟩
    · exact writeTrusted_margins v hs
    · obtain ⟨hlow, hdiv, hlt⟩ := rpctl_fields v s.ctl.rpctl
      exact ⟨hlow, hdiv, hlt, rfl, rfl⟩
    · exact writeTrusted_route (s := s) v hn ▸ ht (ordinary_route hn)
    · exact writeTrusted_sown (s := s) v hn ▸ ht (ordinary_sown hn)
    · exact hw (by omega) ((writeReg_value v (pages_of_trusted ha) hn (closed_of_stage hs)).trans (writeSem_of_trusted n v ha))
  · exact hw (by omega) (capabilities_take_no_write v (pages_of_bar0 ha) hoff)
  · subst ha
    exact ⟨_, clearLowSix_toNat v, hw (by decide) (secreq_taken v hs hn)⟩
  · exact hw (by decide) (secreq_ignored v (pages_of_bar0 ha) h)
  · subst ha
    refine ⟨fun off hoff => ?_, fun n hn => ⟨fun ho hc => ?_, fun h => ?_⟩⟩
    · have h := ordinary_of_mem hoff
      exact hw (Nat.lt_trans h.below (by decide)) (sequencer_writes_none v h)
    all_goals have hv := writeReg_value (s := s) v (a := .sequencer q) rfl hn (closed_of_agent nofun)
    · exact ⟨_, hw (by omega) (hv.trans (writeSem_of_owner v ho hc)), putSem_semSet s n v, putSem_now s n v⟩
    · exact hw (by omega) (hv.trans (writeSem_of_other v h))

end Sys2Proof.Claims

namespace Sys2Proof.Claims
open Sys2Proof Sys2Proof.Machine

/-! ### Records of the replay recorder (R466, R467) -/

theorem memPut_append (m : List Host.Cell) (a : Nat) (xs ys : List Byte) :
    memPut m a (xs ++ ys) = memPut (memPut m a xs) (a + xs.length) ys := by
  induction xs generalizing m a with
  | nil => rfl
  | cons x r ih =>
    simp only [List.cons_append, memPut, ih, List.length_cons]
    rw [show a + 1 + r.length = a + (r.length + 1) by omega]

/-- Words stored one behind the other read back. -/
theorem memNat_put_words {m : List Host.Cell} (wf : Memory.wf m = true) (a : Nat) (ws : List Nat) (i : Nat) (h : i < ws.length) :
    memNat (memPut m a (ws.flatMap (leBytes 8))) (a + 8 * i) 8 = ws[i] % 2 ^ 64 := by
  induction ws generalizing m a i with
  | nil => cases h
  | cons w r ih =>
    rw [List.flatMap_cons, memPut_append, leBytes_length]
    have wf' : Memory.wf (memPut m a (leBytes 8 w)) = true := memPut_wf m a _ wf
    cases i with
    | zero =>
      rw [memNat, memBytes_put_outside _ _ _ _ _ wf' (.inl (by omega))]
      exact memNat_putNat m a 8 w wf
    | succ i =>
      rw [show a + 8 * (i + 1) = a + 8 + 8 * i by omega]
      exact ih wf' (a + 8) i (Nat.lt_of_succ_lt_succ h)

theorem tabGet_tabPut {α : Type} (t : Tab α) (k x : Nat) (v d : α) :
    tabGet (tabPut t k v) x d = if x = k then v else tabGet t x d := by
  split
  case isTrue h => rw [h, tabGet_put_same]
  case isFalse h => rw [tabGet_put_other _ _ _ _ _ h]

/-- Word 0 of a record: its kind, its origin and its count (R467). -/
def recordWord (kind o n : Nat) : Nat := kind + o * 2 ^ 4 + n % 2 ^ 40 * 2 ^ 24

theorem recordWord_lt {kind o : Nat} (n : Nat) (hk : kind < 8) (ho : o < 2 ^ 20) : recordWord kind o n < 2 ^ 64 := by
  unfold recordWord
  omega

/-- The four words of a record. -/
def recordWords (s : State) (l : Launch) (kind : Nat) (who : Origin) (o : Nat) (v aux : Word) (c : Nat) : List Nat :=
  [recordWord kind o (tabGet s.sec.recCount (l.recKey who o) 0), v.toNat, aux.toNat, s.replica c % 2 ^ 64]

/-- The state once a record of its origin stands in place `loc` of the ring. -/
def recorded (s : State) (l : Launch) (kind : Nat) (who : Origin) (o : Nat) (v aux : Word) (c loc : Nat) : State :=
  let t := s.hold.storeBytes loc ((recordWords s l kind who o v aux c).flatMap (leBytes 8))
  { t with sec := { t.sec with
      recIdx := tabPut s.sec.recIdx l.recSession (s.recUsed l + 1),
      recCount := tabPut s.sec.recCount (l.recKey who o) (tabGet s.sec.recCount (l.recKey who o) 0 + 1) } }

section
variable {s : State} {l : Launch} {kind o c loc : Nat} {who : Origin} {v aux : Word}

theorem record_full (h : l.recSlots ≤ s.recUsed l) : s.record l kind who o v aux c = none := if_pos h

theorem record_placed (h : s.recUsed l < l.recSlots) (hp : s.recPlace l (s.recUsed l) .write = some loc) :
    s.record l kind who o v aux c = some (recorded s l kind who o v aux c loc) := by
  have hw : (recordWords s l kind who o v aux c).flatMap (leBytes 8) =
      leBytes 8 (recordWord kind o (tabGet s.sec.recCount (l.recKey who o) 0)) ++ leBytes 8 v.toNat ++ leBytes 8 aux.toNat ++
        leBytes 8 (word (s.replica c)).toNat := by
    simp only [recordWords, List.flatMap_cons, List.flatMap_nil, List.append_nil, List.append_assoc, word, BitVec.toNat_ofNat]
  unfold State.record recorded
  rw [if_neg (Nat.not_le_of_lt h), hp, hw]
  rfl

theorem recorded_mem : (recorded s l kind who o v aux c loc).mem =
    memPut s.mem loc ((recordWords s l kind who o v aux c).flatMap (leBytes 8)) := by
  simp only [recorded, State.storeBytes, State.hold]

theorem recorded_word (wf : Memory.wf s.mem = true) (i : Nat) (h : i < (recordWords s l kind who o v aux c).length) :
    memNat (recorded s l kind who o v aux c loc).mem (loc + 8 * i) 8 = (recordWords s l kind who o v aux c)[i] % 2 ^ 64 := by
  rw [recorded_mem]
  exact memNat_put_words wf loc _ i h

theorem recorded_outside (wf : Memory.wf s.mem = true) {y : Nat} (h : y < loc ∨ loc + 32 ≤ y) :
    memRead (recorded s l kind who o v aux c loc).mem y = memRead s.mem y := by
  rw [recorded_mem]
  exact memRead_put_outside _ s.mem loc y wf (by simpa [recordWords] using h)

end

theorem recorderRecords : RecorderRecords := by
  intro s l kind o c loc who v aux wf hk ho size key n used
  refine ⟨record_full, fun hlt hp => ⟨recorded s l kind who o v aux c loc, record_placed hlt hp, ?_, ?_, ?_, ?_, rfl,
    fun x => tabGet_tabPut _ _ _ _ _, fun x => tabGet_tabPut _ _ _ _ _, fun y hy => recorded_outside wf hy⟩⟩
  · exact (recorded_word wf 0 (by simp [recordWords])).trans (Nat.mod_eq_of_lt (recordWord_lt _ hk ho))
  · exact (recorded_word wf 1 (by simp [recordWords])).trans (Nat.mod_eq_of_lt v.isLt)
  · exact (recorded_word wf 2 (by simp [recordWords])).trans (Nat.mod_eq_of_lt aux.isLt)
  · exact (recorded_word wf 3 (by simp [recordWords])).trans (Nat.mod_mod _ _)

/-- Settles O51: the rules of the offsets, of VALUE and of the record's words. -/
theorem registersAndRecorder : Obligations.RegistersAndRecorder := ⟨registerWrites, recorderRecords⟩

end Sys2Proof.Claims

/-!
## The state after reset

The registers of the reset state are closed values; its tables are empty, so every thing in them has its default.
-/

namespace Sys2Proof.Claims
open Sys2Proof Sys2Proof.Machine

/-- The capability registers show a full part, and PCAP its reset value (R26, R416). -/
theorem reset_capabilities : State.reset.readReg .pf 0x00 = 0x3FFFFFFFFFF10 ∧ State.reset.readReg .pf 0x08 = 0xFFFFFFFF ∧
    (∀ off, off ∈ [0x10, 0x18, 0x20, 0x28] → State.reset.readReg .pf off = 0xFFFFFFFFFFFFFFFF) ∧
    State.reset.readReg .pf 0x70 = 0x153D8000 := by decide

theorem reset_zero_registers : ∀ off, off ∈ [0x30, 0x38, 0x40, 0x48, 0x50, 0x60, 0x68, 0x78, 0xE8, 0xF0, 0xF8] →
    State.reset.readReg .pf off = 0 := by decide

theorem resetValues : ResetValues := by
  obtain ⟨dcap, seqs, islmap, pcap⟩ := reset_capabilities
  exact ⟨dcap, seqs, islmap, pcap, rfl, reset_zero_registers, fun _ => rfl, fun _ => rfl, fun _ => ⟨rfl, rfl⟩,
    fun _ => ⟨rfl, rfl⟩, rfl, rfl, rfl, rfl, rfl, rfl, rfl, rfl⟩

theorem resetIsSound : ResetIsSound := sound_iff.mpr ⟨rfl, CtlClear.reset⟩

/-- Settles O55: closed values of the reset state, and the invariant of the registers at reset. -/
theorem resetState : Obligations.ResetState := ⟨resetValues, resetIsSound⟩

end Sys2Proof.Claims

/-!
## Tokens, and the records that forward them

A token is placed in one of five ways: discarded, on its way at its producer, in the queue of its arc, in the next slot of the
arc's ring, or held by an adapter that stops. `State.send` and `State.arrives` have one rule for each way, and the statements
about records, links and rings cite these rules (R16, R90, R103).
-/

namespace Sys2Proof.Machine
open Sys2Proof Sys2Proof.Claims

/-! ### One arc of a state -/

@[simp] theorem State.setArcAt_same (s : State) (t g : Nat) (a : Arc) : (s.setArcAt t g a).arcAt t g = a :=
  s.setArc_same _ a

theorem State.setArcAt_other (s : State) (t g : Nat) (a : Arc) {y : Nat} (h : y ≠ 512 * t + g) :
    (s.setArcAt t g a).arc y = s.arc y :=
  s.setArc_other _ _ a h

/-- A key of the table of arcs is a tile and a target of it. -/
theorem State.arcAt_key (s : State) (key : Nat) : s.arcAt (key / 512) (key % 512) = s.arc key :=
  congrArg s.arc (Nat.div_add_mod key 512)

@[simp] theorem State.bumpCounter_arc (s : State) (t c n y : Nat) : (s.bumpCounter t c n).arc y = s.arc y := rfl

/-! ### Stops of the die adapter (R104, R430, R431) -/

theorem State.freeze_frame (s : State) (l : Option Nat) (c : Cause) : { s.freeze l c with launches := s.launches } = s := by
  unfold State.freeze
  split
  · rfl
  · split <;> rfl

/-- What a freeze leaves: every part of the state but the launches. -/
theorem State.freeze_keeps {α : Type} (f : State → α) (hf : ∀ (u : State) l, f { u with launches := l } = f u) (s : State)
    (l : Option Nat) (c : Cause) : f (s.freeze l c) = f s :=
  (hf _ _).symm.trans (congrArg f (s.freeze_frame l c))

section
variable (s : State) (t g n : Nat) (held : Option Token)

theorem State.adapterFault_arcs :
    (s.adapterFault t g n held).arcs = tabPut s.arcs (512 * t + g) { s.arcAt t g with stopped := true } :=
  State.freeze_keeps State.arcs (fun _ _ => rfl) _ _ _

theorem State.adapterFault_same : (s.adapterFault t g n held).arcAt t g = { s.arcAt t g with stopped := true } := by
  rw [State.arcAt, State.arc, adapterFault_arcs, tabGet_put_same]

theorem State.adapterFault_other {y : Nat} (h : y ≠ 512 * t + g) : (s.adapterFault t g n held).arc y = s.arc y := by
  rw [State.arc, adapterFault_arcs, tabGet_put_other _ _ _ _ _ h]
  rfl

theorem State.adapterFault_mem : (s.adapterFault t g n held).mem = s.mem :=
  State.freeze_keeps State.mem (fun _ _ => rfl) _ _ _

/-- The adapter's record: its cause, the token that it holds, and the address of the slot of the arc's ring. -/
theorem State.adapterFault_record {r : Ring} (hr : (s.arcAt t g).ring = some r) :
    ∃ x, (s.adapterFault t g n held).records = s.records ++ [x] ∧ x.cause = .memSpillFault ∧ x.origin = .adapter ∧
      x.stop = true ∧ x.tok0 = held ∧ x.addr = addrOf .memSpillFault (r.base + BitVec.ofNat 64 (16 * (n % r.slots))) := by
  refine ⟨_, State.freeze_keeps State.records (fun _ _ => rfl) _ _ _, rfl, rfl, rfl, rfl, ?_⟩
  simp only [hr]
  rfl

end

/-! ### A token at the consumer's die (R90, R103) -/

/-- Bytes in memory, an arc and a counter of a tile: nothing else changes. -/
theorem State.ringWrite_frame (s : State) (l t g x c n : Nat) (bs : List Byte) (a : Arc) :
    { ((s.storeBytes l bs).setArcAt t g a).bumpCounter x c n with
        arcs := s.arcs, mem := s.mem, poison := s.poison, tiles := s.tiles } = s := rfl

/-- The words of a ring slot that holds a token (R89). -/
def slotWords (k : Token) : List Nat := [k.data.toNat, k.kindBits]

theorem TokKind.code_lt (k : TokKind) : k.code < 3 := by cases k <;> decide

theorem Token.kindBits_lt (k : Token) : k.kindBits < 8 := by
  have hcode := k.kind.code_lt
  unfold Token.kindBits
  split <;> omega

section
variable {s : State} {t g : Nat} (k : Token)

/-- The FIFO takes the token: the arc has no ring, or an empty one with room before it. -/
theorem State.arrives_queue (h : (s.arcAt t g).ring = none ∨
      ∃ r, (s.arcAt t g).ring = some r ∧ r.wr = r.rd ∧ (s.arcAt t g).queue.length < 64) :
    s.arrives t g k = s.setArcAt t g { s.arcAt t g with queue := (s.arcAt t g).queue ++ [k] } := by
  rcases h with hn | ⟨r, hr, hroom⟩
  · simp only [State.arrives, hn]
  · simp only [State.arrives, hr]
    exact if_pos hroom

variable {r : Ring} (hr : (s.arcAt t g).ring = some r) (hfull : ¬ (r.wr = r.rd ∧ (s.arcAt t g).queue.length < 64))
include hr hfull

/-- The ring takes the token in its next slot. -/
theorem State.arrives_ring {l : Nat} (hp : s.ringPlace t r r.wr .write = some l) :
    s.arrives t g k = ((s.storeBytes l ((slotWords k).flatMap (leBytes 8))).setArcAt t g
      { s.arcAt t g with ring := some { r with wr := r.wr + 1 } }).bumpCounter ((s.arcAt t g).key / 128) 5 1 := by
  simp only [State.arrives, hr, hp]
  exact if_neg hfull

theorem State.arrives_ring_mem {l : Nat} (hp : s.ringPlace t r r.wr .write = some l) :
    (s.arrives t g k).mem = memPut s.mem l ((slotWords k).flatMap (leBytes 8)) :=
  congrArg State.mem (State.arrives_ring k hr hfull hp)

theorem State.arrives_ring_same {l : Nat} (hp : s.ringPlace t r r.wr .write = some l) :
    (s.arrives t g k).arcAt t g = { s.arcAt t g with ring := some { r with wr := r.wr + 1 } } := by
  rw [State.arrives_ring k hr hfull hp]
  exact State.setArcAt_same ..

theorem State.arrives_ring_frame {l : Nat} (hp : s.ringPlace t r r.wr .write = some l) :
    { s.arrives t g k with arcs := s.arcs, mem := s.mem, poison := s.poison, tiles := s.tiles } = s := by
  rw [State.arrives_ring k hr hfull hp]
  exact State.ringWrite_frame ..

/-- The ring's next slot has no place: the adapter stops with the token. -/
theorem State.arrives_fault (hp : s.ringPlace t r r.wr .write = none) :
    s.arrives t g k = s.adapterFault t g r.wr (some k) := by
  simp only [State.arrives, hr, hp]
  exact if_neg hfull

end

/-- A token arrives in the FIFO or at the ring. -/
theorem State.arrives_cases (s : State) (t g : Nat) :
    ((s.arcAt t g).ring = none ∨ ∃ r, (s.arcAt t g).ring = some r ∧ r.wr = r.rd ∧ (s.arcAt t g).queue.length < 64) ∨
      ∃ r, (s.arcAt t g).ring = some r ∧ ¬ (r.wr = r.rd ∧ (s.arcAt t g).queue.length < 64) := by
  cases hr : (s.arcAt t g).ring with
  | none => exact .inl (.inl rfl)
  | some r =>
    by_cases h : r.wr = r.rd ∧ (s.arcAt t g).queue.length < 64
    · exact .inl (.inr ⟨r, rfl, h⟩)
    · exact .inr ⟨r, rfl, h⟩

/-- An arrival changes no other arc. -/
theorem State.arrives_other (s : State) (t g : Nat) (k : Token) {y : Nat} (h : y ≠ 512 * t + g) :
    (s.arrives t g k).arc y = s.arc y := by
  rcases s.arrives_cases t g with hq | ⟨r, hr, hfull⟩
  · rw [State.arrives_queue k hq, State.setArcAt_other _ _ _ _ h]
  · cases hp : s.ringPlace t r r.wr .write with
    | some l => rw [State.arrives_ring k hr hfull hp, State.bumpCounter_arc, State.setArcAt_other _ _ _ _ h,
        State.storeBytes_at_arc]
    | none => rw [State.arrives_fault k hr hfull hp, State.adapterFault_other _ _ _ _ _ h]

/-! ### Placing a token on a target -/

section
variable (s : State) {src t g : Nat} (k : Token)

theorem State.send_discarded (h : g = 0x1FF) : s.send src t g k = s := if_pos h

theorem State.send_home (hg : g ≠ 0x1FF) (h : src = t) : s.send src t g k = s.arrives t g k :=
  (if_neg hg).trans (if_pos h)

theorem State.send_abroad (hg : g ≠ 0x1FF) (h : src ≠ t) :
    s.send src t g k = s.setArcAt t g { s.arcAt t g with transit := (s.arcAt t g).transit ++ [(src, k)] } :=
  (if_neg hg).trans (if_neg h)

theorem State.send_other {y : Nat} (h : y ≠ 512 * t + g) : (s.send src t g k).arc y = s.arc y := by
  by_cases hg : g = 0x1FF
  · rw [s.send_discarded k hg]
  · by_cases hs : src = t
    · rw [s.send_home k hg hs, s.arrives_other t g k h]
    · rw [s.send_abroad k hg hs, s.setArcAt_other t g _ h]

end

end Sys2Proof.Machine

namespace Sys2Proof.Claims
open Sys2Proof Sys2Proof.Machine

/-- The two words of a slot read back, and every byte outside it is as before. -/
theorem slotWords_stored {m u : List Host.Cell} (wf : Memory.wf m = true) {l : Nat} {k : Token}
    (hu : u = memPut m l ((slotWords k).flatMap (leBytes 8))) :
    memNat u l 8 = k.data.toNat ∧ memNat u (l + 8) 8 = k.kindBits ∧
      ∀ x, x < l ∨ l + 16 ≤ x → memRead u x = memRead m x := by
  subst hu
  refine ⟨?_, ?_, fun x hx => memRead_put_outside _ m l x wf (by simpa [slotWords] using hx)⟩
  · exact (memNat_put_words wf l (slotWords k) 0 (by simp [slotWords])).trans (Nat.mod_eq_of_lt k.data.isLt)
  · exact (memNat_put_words wf l (slotWords k) 1 (by simp [slotWords])).trans
      (Nat.mod_eq_of_lt (Nat.lt_trans k.kindBits_lt (by decide)))

theorem tokenPlacement : TokenPlacement := by
  intro s src t g k wf u a
  refine ⟨s.send_discarded k, fun hg h => ?_, fun hg h hq => ?_, fun r l hg h hr hfull hp => ?_,
    fun r hg h hr hfull hp => ?_, fun y hy => s.send_other k hy⟩
  · rw [show u = _ from s.send_abroad k hg h]
    exact ⟨s.setArcAt_same .., rfl⟩
  all_goals have hu : u = s.arrives t g k := s.send_home k hg h
  · rw [hu, State.arrives_queue k hq]
    exact ⟨s.setArcAt_same .., rfl⟩
  · obtain ⟨hdata, hkind, hrest⟩ := slotWords_stored wf (State.arrives_ring_mem k hr hfull hp)
    rw [hu]
    exact ⟨State.arrives_ring_same k hr hfull hp, hdata, hkind, hrest, State.arrives_ring_frame k hr hfull hp⟩
  · obtain ⟨x, hx, hcause, -, -, htok, haddr⟩ := s.adapterFault_record t g r.wr (some k) hr
    rw [hu, State.arrives_fault k hr hfull hp]
    exact ⟨s.adapterFault_same .., ⟨x, hx, hcause, htok, haddr⟩, s.adapterFault_mem ..⟩

/-! ### PASS, FORK, STEER and MERGE (R196 to R198) -/

section
variable {s : State} {r : RecOp} (live : s.recLive = true)
include live

theorem ifRec_live (o : Out) : s.ifRec o = o := if_pos live

theorem pass_forwards {t : Token} (h : s.recHead 0 = some t) (hd : s.recRoom r r.dst = true) :
    let u := ((s.recTake 0).recPut r r.dst t).recFired
    exec (.pass r) s = .next (if t.isEos then u.recEnd else u) := by
  change execPass r s = _
  simp [execPass, ifRec_live live, h, hd]

theorem fork_forwards {t : Token} (h : s.recHead 0 = some t) (hd : s.recRoom r r.dst = true)
    (hd2 : s.recRoom r r.dst2 = true) :
    let u := (((s.recTake 0).recPut r r.dst t).recPut r r.dst2 t).recFired
    exec (.fork r) s = .next (if t.isEos then u.recEnd else u) := by
  change execFork r s = _
  simp [execFork, ifRec_live live, h, hd, hd2]

theorem steer_forwards {a c : Token} {b : Bool} (ha : s.recHead 0 = some a) (hc : s.recHead 2 = some c)
    (hdata : a.isEos = false) (hp : isPredicate c b) (hd : s.recRoom r (if b then r.dst else r.dst2) = true) :
    exec (.steer r) s = .next ((((s.recTake 2).recTake 0).recPut r (if b then r.dst else r.dst2) a).recFired) := by
  obtain ⟨hce, hcp, hcb⟩ := hp
  change execSteer r s = _
  simp only [execSteer, ifRec_live live, ha, hc, hdata, hce, hcp, hcb, hd]
  rfl

theorem steer_ends {a c : Token} (ha : s.recHead 0 = some a) (hc : s.recHead 2 = some c) (hae : a.isEos = true)
    (hce : c.isEos = true) (hd : s.recRoom r r.dst = true) (hd2 : s.recRoom r r.dst2 = true) :
    exec (.steer r) s =
      .next (((((s.recTake 0).recTake 2).recPut r r.dst .eos).recPut r r.dst2 .eos).recFired.recEnd) := by
  change execSteer r s = _
  simp [execSteer, ifRec_live live, ha, hc, hae, hce, hd, hd2]

theorem merge_forwards {c t : Token} {b : Bool} (hc : s.recHead 2 = some c) (hp : isPredicate c b)
    (ht : s.recHead (if b then 0 else 1) = some t) (hdata : t.isEos = false) (hd : s.recRoom r r.dst = true) :
    exec (.merge r) s = .next ((((s.recTake 2).recTake (if b then 0 else 1)).recPut r r.dst t).recFired) := by
  obtain ⟨hce, hcp, hcb⟩ := hp
  change execMerge r s = _
  simp only [execMerge, ifRec_live live, hc, hce, hcp, hcb, ht, hdata, hd]
  rfl

theorem merge_ends {a b c : Token} (ha : s.recHead 0 = some a) (hb : s.recHead 1 = some b) (hc : s.recHead 2 = some c)
    (hae : a.isEos = true) (hbe : b.isEos = true) (hce : c.isEos = true) (hd : s.recRoom r r.dst = true) :
    exec (.merge r) s = .next (((((s.recTake 0).recTake 1).recTake 2).recPut r r.dst .eos).recFired.recEnd) := by
  change execMerge r s = _
  simp [execMerge, ifRec_live live, ha, hb, hc, hae, hbe, hce, hd]

end

theorem routeForwarding : RouteForwarding := fun _ _ live =>
  ⟨fun _ => pass_forwards live, fun _ => fork_forwards live, fun _ _ _ => steer_forwards live, fun _ _ => steer_ends live,
    fun _ _ _ => merge_forwards live, fun _ _ _ => merge_ends live⟩

/-- Settles O21: the five ways of placing a token, and each forwarding record on its inputs. -/
theorem tokensAndForwarding : Obligations.TokensAndForwarding := ⟨tokenPlacement, routeForwarding⟩

end Sys2Proof.Claims

/-!
## Router links and the routes of tokens (R16)

A link serves the arc of least key above the last one served, and the least of all when there is none: a minimum of the library
on each side. A hop moves a token along one coordinate of the mesh.
-/

namespace Sys2Proof.Machine
open Sys2Proof Sys2Proof.Claims

/-! ### The arc that a link serves next -/

/-- A fold that keeps the lesser of what it holds and what comes next is the library's least element. -/
theorem foldl_eq_argmin {α : Type} (key : α → Nat) {f : Option α → α → Option α} (hfirst : ∀ p, f none p = some p)
    (hnext : ∀ q p, f (some q) p = if key p < key q then some p else some q) (l : List α) :
    l.foldl f none = l.argmin key := by
  have hf : f = List.argAux fun p q => key p < key q := by
    funext b p
    cases b with
    | none => exact hfirst p
    | some q => exact hnext q p
  rw [hf]
  rfl

theorem nextArc_eq (last : Nat) (l : List (Nat × Arc)) : nextArc last l =
    ((l.filter fun p => last < p.2.key).argmin fun p => p.2.key).orElse fun _ => l.argmin fun p => p.2.key := by
  simp only [nextArc]
  rw [foldl_eq_argmin (fun p => p.2.key) (fun _ => rfl) (fun _ _ => rfl),
    foldl_eq_argmin (fun p => p.2.key) (fun _ => rfl) (fun _ _ => rfl)]
  cases (l.filter fun p => last < p.2.key).argmin fun p => p.2.key <;> rfl

section
variable {last : Nat} {l : List (Nat × Arc)}

theorem nextArc_spec {p : Nat × Arc} (h : nextArc last l = some p) :
    p ∈ l ∧ (last < p.2.key → ∀ q, q ∈ l → last < q.2.key → p.2.key ≤ q.2.key) ∧
      (p.2.key ≤ last → ∀ q, q ∈ l → q.2.key ≤ last ∧ p.2.key ≤ q.2.key) := by
  rw [nextArc_eq] at h
  cases ha : (l.filter fun p => last < p.2.key).argmin fun p => p.2.key with
  | some r =>
    rw [ha] at h
    cases h
    obtain ⟨hmem, hlast⟩ := List.mem_filter.mp (List.argmin_mem ha)
    have hlast : last < p.2.key := of_decide_eq_true hlast
    exact ⟨hmem, fun _ q hq hl => List.le_of_mem_argmin (f := fun p : Nat × Arc => p.2.key)
      (List.mem_filter.mpr ⟨hq, decide_eq_true hl⟩) ha, fun hle => absurd hlast (Nat.not_lt_of_le hle)⟩
  | none =>
    rw [ha] at h
    have hnone : ∀ q, q ∈ l → q.2.key ≤ last := fun q hq =>
      Nat.le_of_not_lt fun hl => List.filter_eq_nil_iff.mp (List.argmin_eq_none.mp ha) q hq (decide_eq_true hl)
    have hmem : p ∈ l := List.argmin_mem h
    exact ⟨hmem, fun hl => absurd hl (Nat.not_lt_of_le (hnone p hmem)),
      fun _ q hq => ⟨hnone q hq, List.le_of_mem_argmin (f := fun p : Nat × Arc => p.2.key) hq h⟩⟩

theorem nextArc_none (h : nextArc last l = none) : l = [] := by
  rw [nextArc_eq] at h
  cases ha : (l.filter fun p => last < p.2.key).argmin fun p => p.2.key with
  | some r => rw [ha] at h; cases h
  | none => rw [ha] at h; exact List.argmin_eq_none.mp h

end

theorem moveToken_tokens (t n : Nat) (l : List (Nat × Token)) :
    (moveToken t n l).map (fun x => x.2) = l.map (fun x => x.2) := by
  induction l with
  | nil => rfl
  | cons p r ih =>
    obtain ⟨q, k⟩ := p
    simp only [moveToken]
    split
    · rfl
    · simp only [List.map_cons, ih]

/-! ### One transfer -/

theorem State.setArcAt_key (s : State) (key : Nat) (a : Arc) : s.setArcAt (key / 512) (key % 512) a = s.setArc key a :=
  congrArg (s.setArc · a) (Nat.div_add_mod key 512)

/-- The link from `tile` in direction `dir` has carried one token of the arc of key `k`. -/
def State.linkServes (s : State) (tile dir k : Nat) : State :=
  { s with links := tabPut s.links (4 * tile + dir) k }.bumpCounter tile 4 1

theorem State.linkServes_link (s : State) (tile dir k : Nat) : tabGet (s.linkServes tile dir k).links (4 * tile + dir) 0 = k :=
  tabGet_put_same ..

theorem State.linkServes_frame (s : State) (tile dir k : Nat) :
    { s.linkServes tile dir k with arcs := s.arcs, links := s.links, tiles := s.tiles } = s := rfl

/-- A token has come over the last link of its way: it arrives, and leaves the way unless the adapter has stopped. -/
def State.lands (s : State) (tile t g : Nat) (k : Token) : State :=
  let u := s.arrives t g k
  let b := u.arcAt t g
  if b.stopped then u else u.setArcAt t g { b with transit := dropToken tile b.transit }

theorem State.lands_queue {s : State} {tile t g : Nat} {a : Arc} (k : Token) (ha : s.arcAt t g = a) (hr : a.ring = none)
    (hs : a.stopped = false) : s.lands tile t g k = (s.setArcAt t g { a with queue := a.queue ++ [k] }).setArcAt t g
      { a with queue := a.queue ++ [k], transit := dropToken tile a.transit } := by
  subst ha
  unfold State.lands
  rw [State.arrives_queue k (.inl hr)]
  simp only [State.setArcAt_same]
  exact if_neg (by simp [hs])

section
variable {s : State} {tile dir key : Nat} {a : Arc} {k : Token}

theorem stopped_of_linkArcs (h : (key, a) ∈ s.linkArcs tile dir) : a.stopped = false := by
  have := (List.mem_filter.mp h).2
  simp only [Bool.and_eq_true, Bool.not_eq_true'] at this
  exact this.1

theorem exec_routerLink_idle (h : s.linkArcs tile dir = []) : exec (.routerLinkTransfer tile dir) s = .next s := by
  change execRouterLinkTransfer tile dir s = _
  unfold execRouterLinkTransfer
  rw [h]
  rfl

variable (hn : nextArc (tabGet s.links (4 * tile + dir) 0) (s.linkArcs tile dir) = some (key, a))
  (ht : a.transit.find? (fun x => x.1 == tile) = some (tile, k))
include hn ht

theorem exec_routerLink : exec (.routerLinkTransfer tile dir) s = .next
    (if neighbour tile dir = key / 512 then (s.linkServes tile dir a.key).lands tile (key / 512) (key % 512) k
    else (s.linkServes tile dir a.key).setArcAt (key / 512) (key % 512)
      { a with transit := moveToken tile (neighbour tile dir) a.transit }) := by
  change execRouterLinkTransfer tile dir s = _
  simp only [execRouterLinkTransfer, hn, ht]
  split <;> rfl

/-- The token moves on to the next tile of its way. -/
theorem exec_routerLink_moves (h : neighbour tile dir ≠ key / 512) :
    exec (.routerLinkTransfer tile dir) s = .next ((s.linkServes tile dir a.key).setArc key
      { a with transit := moveToken tile (neighbour tile dir) a.transit }) := by
  rw [exec_routerLink hn ht, if_neg h, State.setArcAt_key]

/-- The token reaches its consumer's tile and joins the queue of an arc without a ring. -/
theorem exec_routerLink_arrives (ha : s.arc key = a) (h : neighbour tile dir = key / 512) (hr : a.ring = none) :
    exec (.routerLinkTransfer tile dir) s = .next (((s.linkServes tile dir a.key).setArc key
      { a with queue := a.queue ++ [k] }).setArc key
      { a with queue := a.queue ++ [k], transit := dropToken tile a.transit }) := by
  have hat : (s.linkServes tile dir a.key).arcAt (key / 512) (key % 512) = a := (State.arcAt_key _ key).trans ha
  rw [exec_routerLink hn ht, if_pos h, State.lands_queue k hat hr (stopped_of_linkArcs (nextArc_spec hn).1),
    State.setArcAt_key, State.setArcAt_key]

end

end Sys2Proof.Machine

namespace Sys2Proof.Claims
open Sys2Proof Sys2Proof.Machine

theorem routerLinks : RouterLinks := by
  refine ⟨fun _ _ _ => nextArc_spec, fun _ _ => nextArc_none, moveToken_tokens, fun _ _ _ => exec_routerLink_idle,
    fun s tile dir key a k hn ha ht => ⟨fun h => ?_, fun h hr => ?_⟩⟩
  · exact ⟨_, exec_routerLink_moves hn ht h, State.setArc_same .., fun x hx => State.setArc_other _ _ _ _ hx,
      State.linkServes_link .., s.linkServes_frame tile dir a.key⟩
  · exact ⟨_, exec_routerLink_arrives hn ht ha h hr, State.setArc_same ..,
      fun x hx => (State.setArc_other _ _ _ _ hx).trans (State.setArc_other _ _ _ _ hx),
      State.linkServes_link .., s.linkServes_frame tile dir a.key⟩

/-! ### Hops on the mesh -/

theorem coords_east {t : Nat} (h : tileX t < 31) : tileX (t + 1) = tileX t + 1 ∧ tileY (t + 1) = tileY t := by
  unfold tileX tileY at *
  omega

theorem coords_west {t : Nat} (h : 0 < tileX t) : tileX (t - 1) = tileX t - 1 ∧ tileY (t - 1) = tileY t := by
  unfold tileX tileY at *
  omega

theorem coords_south (t : Nat) : tileX (t + 32) = tileX t ∧ tileY (t + 32) = tileY t + 1 := by
  unfold tileX tileY
  omega

theorem coords_north {t : Nat} (h : 0 < tileY t) : tileX (t - 32) = tileX t ∧ tileY (t - 32) = tileY t - 1 := by
  unfold tileX tileY at *
  omega

theorem on_mesh_iff (t : Nat) : t < 1536 ↔ tileY t < 48 := by
  unfold tileY
  omega

theorem tile_ext {t d : Nat} (hx : tileX t = tileX d) (hy : tileY t = tileY d) : t = d := by
  unfold tileX tileY at *
  omega

theorem tileX_lt (t : Nat) : tileX t < 32 := Nat.mod_lt t (by decide)

theorem routesLead : RoutesLead := by
  intro t d ht hd hne n gap
  have hdx := tileX_lt d
  simp only [n, gap]
  rw [on_mesh_iff] at *
  unfold hop
  split
  case isTrue heast =>
    obtain ⟨hx, hy⟩ := coords_east (t := t) (by omega)
    simp only [neighbour, hx, hy]
    omega
  case isFalse heast =>
  split
  case isTrue hwest =>
    obtain ⟨hx, hy⟩ := coords_west (t := t) (by omega)
    simp only [neighbour, hx, hy]
    omega
  case isFalse hwest =>
  have hcol : tileX t = tileX d := by omega
  split
  case isTrue hsouth =>
    obtain ⟨hx, hy⟩ := coords_south t
    simp only [neighbour, hx, hy]
    omega
  case isFalse hsouth =>
    have hrow : tileY t ≠ tileY d := fun hy => hne (tile_ext hcol hy)
    obtain ⟨hx, hy⟩ := coords_north (t := t) (by omega)
    simp only [neighbour, hx, hy]
    omega

end Sys2Proof.Claims

/-!
## Spill rings, the invocations of a launch, and the repartition of an island

A refill takes the oldest token of a ring (R88, R89, R103, R104), an invocation begins with a zero frame and fresh operators
(R100, R119, R160, R193), and a repartition zeroes the blocks that move (R66, R67).
-/

namespace Sys2Proof.Machine
open Sys2Proof Sys2Proof.Claims

/-! ### Reads that meet no error -/

theorem granulePoison_of_dataError {s : State} {n l i : Nat} (h : s.dataError l n = none) (hi : i < n) :
    s.granulePoison (l + i) = false := by
  induction n generalizing l i with
  | zero => cases hi
  | succ n ih =>
    simp only [State.dataError] at h
    split at h
    case isTrue => cases h
    case isFalse hp =>
      cases i with
      | zero => exact Bool.eq_false_iff.mpr hp
      | succ i =>
        split at h
        case h_1 => cases h
        case h_2 => cases h
        case h_3 => exact Nat.add_right_comm l 1 i ▸ ih h (Nat.lt_of_succ_lt_succ hi)

/-- A read that meets no error leaves no record. -/
theorem engineRead_clean {s : State} {l n : Nat} (ctx : Nat) (a : Word) (h : s.dataError l n = none) :
    (s.engineRead ctx l n a).2.2 = s := by
  refine if_neg ?_
  simp only [List.any_eq_true, List.mem_range, not_exists, not_and, Bool.not_eq_true]
  exact fun i hi => granulePoison_of_dataError h hi

/-! ### The token in a ring slot (R88, R89) -/

theorem leNat_lt (bs : List Byte) : leNat bs < 256 ^ bs.length := by
  induction bs with
  | nil => exact Nat.one_pos
  | cons b r ih =>
    have hb := b.isLt
    simp only [leNat, List.length_cons, Nat.pow_succ]
    omega

theorem memNat_one (m : List Host.Cell) (a : Nat) : memNat m a 1 = (memRead m a).toNat := rfl

theorem ringToken_data (s : State) (l : Nat) : (s.ringToken l).data.toNat = leNat (memBytes s.mem l 8) := by
  have hlt : leNat (memBytes s.mem l 8) < 256 ^ 8 := by
    have := leNat_lt (memBytes s.mem l 8)
    rwa [memBytes_length] at this
  exact (BitVec.toNat_ofNat ..).trans (Nat.mod_eq_of_lt hlt)

/-- The kind of a token is in the low two bits, and only a data token keeps its poison bit. -/
theorem ringToken_kindBits {s : State} {l : Nat} (hclean : s.dataError l 16 = none) (hb : memNat s.mem (l + 8) 1 < 8)
    (hk : memNat s.mem (l + 8) 1 % 4 ≠ 3) :
    (s.ringToken l).kindBits =
      if memNat s.mem (l + 8) 1 % 4 = 0 then memNat s.mem (l + 8) 1 else memNat s.mem (l + 8) 1 % 4 := by
  rw [memNat_one] at *
  generalize hv : (memRead s.mem (l + 8)).toNat = b at *
  have hcases : b = 0 ∨ b = 1 ∨ b = 2 ∨ b = 4 ∨ b = 5 ∨ b = 6 := by omega
  rcases hcases with rfl | rfl | rfl | rfl | rfl | rfl <;>
    simp [State.ringToken, hv, hclean, Token.kindBits, TokKind.code]

/-! ### A refill (R103, R104) -/

section
variable {s : State} {tile : Nat} {g : BitVec 9} {r : Ring} (hr : (s.arcAt tile g.toNat).ring = some r)
include hr

theorem exec_refill_idle (h : r.wr ≤ r.rd ∨ 64 ≤ (s.arcAt tile g.toNat).queue.length) :
    exec (.spillRingRefill tile g) s = .next s := by
  change execSpillRingRefill tile g s = _
  simp only [execSpillRingRefill, hr]
  exact if_pos (by rcases h with h | h <;> simp [h])

variable (hs : (s.arcAt tile g.toNat).stopped = false) (hrd : r.rd < r.wr)
  (hroom : (s.arcAt tile g.toNat).queue.length < 64)
include hs hrd hroom

theorem exec_refill_takes {l : Nat} (hp : s.ringPlace tile r r.rd .read = some l) (hclean : s.dataError l 16 = none) :
    exec (.spillRingRefill tile g) s = .next (s.setArcAt tile g.toNat
      { s.arcAt tile g.toNat with queue := (s.arcAt tile g.toNat).queue ++ [s.ringToken l],
                                  ring := some { r with rd := r.rd + 1 } }) := by
  change execSpillRingRefill tile g s = _
  simp only [execSpillRingRefill, hr, hp, engineRead_clean _ _ hclean]
  exact if_neg (by simp [hs, hrd, hroom])

theorem exec_refill_stops (hp : s.ringPlace tile r r.rd .read = none) :
    exec (.spillRingRefill tile g) s = .next (s.adapterFault tile g.toNat r.rd none) := by
  change execSpillRingRefill tile g s = _
  simp only [execSpillRingRefill, hr, hp]
  exact if_neg (by simp [hs, hrd, hroom])

end

end Sys2Proof.Machine

namespace Sys2Proof.Claims
open Sys2Proof Sys2Proof.Machine

theorem ringRefills : RingRefills := by
  intro s tile g r hr hs a
  refine ⟨exec_refill_idle hr, ?_, fun hrd hroom hp => ?_⟩
  · intro l hrd hroom hp hclean b hb hk
    exact ⟨_, s.ringToken l, exec_refill_takes hr hs hrd hroom hp hclean, ringToken_data s l, ringToken_kindBits hclean hb hk, s.setArcAt_same ..,
      fun x hx => s.setArcAt_other _ _ _ hx, rfl⟩
  · obtain ⟨f, hf, hcause, horigin, hstop, htok, haddr⟩ := s.adapterFault_record tile g.toNat r.rd none hr
    exact ⟨_, f, exec_refill_stops hr hs hrd hroom hp, hf, hcause, horigin, hstop, htok, haddr, s.adapterFault_same ..,
      s.adapterFault_mem ..⟩

end Sys2Proof.Claims

namespace Sys2Proof.Machine
open Sys2Proof Sys2Proof.Claims

/-! ### The beginning of an invocation (R100, R119, R160, R193) -/

theorem tabGet_map {α : Type} {f : α → α} {d : α} (hd : f d = d) (t : Tab α) (k : Nat) :
    tabGet (t.map fun p => (p.1, f p.2)) k d = f (tabGet t k d) := by
  rw [tabGet_eq_find, tabGet_eq_find, tabFind_map]
  cases tabFind t k with
  | none => exact hd.symm
  | some x => rfl

/-- What a slot and a record keep when an invocation begins: whether they have stopped for good. -/
def SlotState.fresh (v : SlotState) : SlotState := { SlotState.reset with stopped := v.stopped }
def RecState.fresh (v : RecState) : RecState := { RecState.reset with stopped := v.stopped }

theorem Tile.begin_slotSt (v : Tile) (i : Nat) : v.begin.slotSt i = (v.slotSt i).fresh :=
  tabGet_map (f := SlotState.fresh) rfl v.slots i

theorem Tile.begin_recSt (v : Tile) (i : Nat) : v.begin.recSt i = (v.recSt i).fresh :=
  tabGet_map (f := RecState.fresh) rfl v.recs i

/-- A tile of a running launch begins an invocation: none has begun, or the last one has ended and a stub is fed again. -/
def State.startDue (s : State) (t : Nat) : Prop :=
  (s.tileLaunch t).isSome = true ∧
    ((s.tile t).active = false ∨ (s.invocationEnded t = true ∧ s.stubWaits t = true))

section
variable {s : State} {t : Nat}

theorem exec_invocationStart_idle (h : ¬ s.startDue t) : exec (.invocationStart t) s = .next s := by
  change execInvocationStart t s = _
  exact if_neg (by simpa [State.startDue] using h)

theorem exec_invocationStart (h : s.startDue t) :
    exec (.invocationStart t) s = .next ((s.zeroFrame t).setTile t (s.tile t).begin) := by
  change execInvocationStart t s = _
  exact if_pos (by simpa [State.startDue] using h)

end

theorem State.zeroFrame_full (s : State) (t g : Nat) :
    (s.zeroFrame t).full.contains g = (s.full.contains g &&
      !(decide (1536 * t ≤ g) && decide (g < 1536 * t + (s.tile t).plane.fsize.toNat))) := by
  rw [Bool.eq_iff_iff]
  simp [State.zeroFrame]

end Sys2Proof.Machine

namespace Sys2Proof.Claims
open Sys2Proof Sys2Proof.Machine

theorem invocationStarts : InvocationStarts := by
  intro s tile wf v n begins
  refine ⟨exec_invocationStart_idle, fun h => ⟨_, exec_invocationStart h, fun x hx hlt => ?_, fun x hx => ?_,
    fun g => ?_, ?_⟩⟩
  · exact memRead_clear_inside _ _ _ x hx hlt
  · exact memRead_clear_outside _ _ _ x wf hx
  · exact s.zeroFrame_full tile g
  · rw [State.setTile_same]
    exact ⟨v.begin_slotSt, v.begin_recSt, rfl, rfl, rfl, rfl, rfl, rfl, rfl, rfl, rfl,
      fun x hx => State.setTile_other _ _ _ _ hx, rfl⟩

end Sys2Proof.Claims

namespace Sys2Proof.Machine
open Sys2Proof Sys2Proof.Claims

/-! ### Blocks that a repartition zeroes (R67) -/

/-- Location `x` stands in block `b` of island `n`. -/
def inBlock (n x b : Nat) : Bool := decide (islandLoc n (65536 * b) ≤ x) && decide (x < islandLoc n (65536 * b) + 65536)

theorem islandLoc_eq (n off : Nat) : islandLoc n off = 2 ^ 64 + n * 2 ^ 20 + off := by
  unfold islandLoc place
  omega

theorem inBlock_self (n : Nat) {b o c : Nat} (ho : o < 65536) :
    inBlock n (islandLoc n (65536 * b) + o) c = decide (c = b) := by
  simp only [inBlock, islandLoc_eq, ← Bool.decide_and]
  exact decide_eq_decide.mpr (by omega)

theorem inBlock_outside {n x c : Nat} (hc : c < 16) (h : x < islandLoc n 0 ∨ islandLoc n 0 + 2 ^ 20 ≤ x) :
    inBlock n x c = false := by
  simp only [inBlock, islandLoc_eq, ← Bool.decide_and, decide_eq_false_iff_not] at *
  omega

/-- Blocks of island `n` become zero bytes, free of poison. -/
def State.zeroBlocks (s : State) (n : Nat) (bs : List Nat) : State :=
  bs.foldl (fun u b => u.zeroRange (islandLoc n (65536 * b)) 65536) s

theorem State.zeroBlocks_frame (s : State) (n : Nat) (bs : List Nat) :
    { s.zeroBlocks n bs with mem := s.mem, poison := s.poison } = s := by
  induction bs generalizing s with
  | nil => rfl
  | cons b r ih =>
    exact congrArg (fun u : State => { u with mem := s.mem, poison := s.poison })
      (ih (s.zeroRange (islandLoc n (65536 * b)) 65536))

theorem State.zeroBlocks_island (s : State) (n : Nat) (bs : List Nat) (x : Nat) : (s.zeroBlocks n bs).island x = s.island x := by
  have h := congrArg (fun u : State => u.island x) (s.zeroBlocks_frame n bs)
  exact h

theorem zeroRange_read {s : State} (wf : Memory.wf s.mem = true) (n b x : Nat) :
    memRead (s.zeroRange (islandLoc n (65536 * b)) 65536).mem x = if inBlock n x b then 0 else memRead s.mem x := by
  split
  case isTrue h =>
    simp only [inBlock, Bool.and_eq_true, decide_eq_true_eq] at h
    exact memRead_clear_inside _ _ _ x h.1 h.2
  case isFalse h =>
    simp only [inBlock, Bool.and_eq_true, decide_eq_true_eq] at h
    exact memRead_clear_outside _ _ _ x wf (by omega)

theorem State.zeroBlocks_read {s : State} (wf : Memory.wf s.mem = true) (n : Nat) (bs : List Nat) (x : Nat) :
    memRead (s.zeroBlocks n bs).mem x = if bs.any (inBlock n x) then 0 else memRead s.mem x := by
  induction bs generalizing s with
  | nil => rfl
  | cons b r ih =>
    have hstep := ih (s := s.zeroRange (islandLoc n (65536 * b)) 65536) (memClear_wf _ _ wf)
    rw [zeroRange_read wf] at hstep
    refine hstep.trans ?_
    rw [List.any_cons]
    cases inBlock n x b <;> cases r.any (inBlock n x) <;> rfl

/-- The blocks that enter or leave island scratch as its size goes from `old` to `new`. -/
def movedBlocks (old new : Nat) : List Nat := (List.range 16).filter fun b => decide (b < old) != decide (b < new)

theorem any_movedBlocks {old new b : Nat} (n : Nat) {o : Nat} (hb : b < 16) (ho : o < 65536) :
    (movedBlocks old new).any (inBlock n (islandLoc n (65536 * b) + o)) = (decide (b < old) != decide (b < new)) := by
  rw [Bool.eq_iff_iff]
  simp [movedBlocks, inBlock_self n ho, hb]

theorem any_movedBlocks_outside {old new n x : Nat} (h : x < islandLoc n 0 ∨ islandLoc n 0 + 2 ^ 20 ≤ x) :
    (movedBlocks old new).any (inBlock n x) = false := by
  refine List.any_eq_false.mpr fun c hc => ?_
  rw [inBlock_outside (List.mem_range.mp (List.mem_filter.mp hc).1) h]
  decide

/-! ### Owners of the blocks that leave (R66, R67) -/

/-- A block leaves island scratch as its size goes from `old` to `new`. -/
def leaves (old new b : Nat) : Bool := decide (new ≤ b) && decide (b < old)

/-- A block that leaves loses its owner. -/
def dropOwner (old new : Nat) (t : Tab (BitVec 13)) (b : Nat) : Tab (BitVec 13) :=
  if leaves old new b then tabPut t b (tabGet t b 0 &&& 0xFFF) else t

theorem dropOwner_ownBit (old new : Nat) (t : Tab (BitVec 13)) (c b : Nat) :
    (tabGet (dropOwner old new t c) b 0).getLsbD 12 =
      (!(decide (b = c) && leaves old new b) && (tabGet t b 0).getLsbD 12) := by
  unfold dropOwner
  by_cases hc : b = c
  · subst hc
    cases leaves old new b <;> simp
  · split <;> simp [hc, tabGet_put_other]

theorem dropOwners_ownBit (old new : Nat) (bs : List Nat) (t : Tab (BitVec 13)) (b : Nat) :
    (tabGet (bs.foldl (dropOwner old new) t) b 0).getLsbD 12 =
      (!(decide (b ∈ bs) && leaves old new b) && (tabGet t b 0).getLsbD 12) := by
  induction bs generalizing t with
  | nil => simp
  | cons c r ih =>
    rw [List.foldl_cons, ih, dropOwner_ownBit]
    simp only [List.mem_cons, Bool.decide_or]
    cases decide (b = c) <;> cases decide (b ∈ r) <;> cases leaves old new b <;> rfl

/-! ### The two steps of a repartition -/

section
variable {s : State} {n : Nat}

theorem exec_islandRepartition_ignored {scr : BitVec 5} (h : 16 < scr.toNat ∨ (s.island n).busy = true ∨
    ∃ b, b < 16 ∧ scr.toNat ≤ b ∧ s.reserved n b = true) : exec (.islandRepartition n scr) s = .next s := by
  change execIslandRepartition n scr s = _
  refine if_pos (.inr (h.imp_right (.imp_right fun ⟨b, hb, hscr, hres⟩ => ?_)))
  exact List.any_eq_true.mpr ⟨b, List.mem_range.mpr hb, by simp [hres, hscr]⟩

theorem exec_islandRepartition {scr : BitVec 5} (hn : n < 256) (hscr : scr.toNat ≤ 16) (hbusy : (s.island n).busy = false)
    (hres : ∀ b, b < 16 → scr.toNat ≤ b → s.reserved n b = false) :
    exec (.islandRepartition n scr) s = .next (s.setIsland n { s.island n with busy := true, next := scr }) := by
  change execIslandRepartition n scr s = _
  have hany : ((List.range 16).any fun b => s.reserved n b && decide (scr.toNat ≤ b)) = false := by
    refine List.any_eq_false.mpr fun b hb => ?_
    simpa using fun hr hle => Bool.eq_false_iff.mp (hres b (List.mem_range.mp hb) hle) hr
  refine if_neg ?_
  simp only [hany, hbusy, Bool.false_eq_true, or_false]
  omega

theorem exec_repartitionComplete_idle (h : (s.island n).busy = false) : exec (.repartitionComplete n) s = .next s := by
  change execRepartitionComplete n s = _
  exact if_pos (by simp [h])

theorem exec_repartitionComplete (h : (s.island n).busy = true) :
    let i := s.island n
    exec (.repartitionComplete n) s = .next ((s.zeroBlocks n (movedBlocks i.scr.toNat i.next.toNat)).setIsland n
      { scr := i.next, busy := false, next := i.next,
        own := (List.range 16).foldl (dropOwner i.scr.toNat i.next.toNat) i.own }) := by
  change execRepartitionComplete n s = _
  exact if_neg (by simp [h])

end

end Sys2Proof.Machine

namespace Sys2Proof.Claims
open Sys2Proof Sys2Proof.Machine

theorem islandRepartitions : IslandRepartitions := by
  intro s n hn wf i
  refine ⟨fun scr => exec_islandRepartition_ignored, fun scr hscr hbusy hres => ⟨_, exec_islandRepartition hn hscr hbusy hres,
    s.setIsland_same .., fun x hx => s.setIsland_other _ _ _ hx, rfl⟩, exec_repartitionComplete_idle, fun hbusy => ?_⟩
  refine ⟨_, exec_repartitionComplete hbusy, ?_, ?_, fun b hb => ?_, fun b o hb ho => ?_, fun x hx => ?_, fun x hx => ?_, ?_⟩
  · rw [State.setIsland_same]
  · rw [State.setIsland_same]
  · rw [State.setIsland_same, dropOwners_ownBit]
    simp [leaves, hb, i]
  · rw [State.setIsland_mem, State.zeroBlocks_read wf, any_movedBlocks n hb ho]
    by_cases h1 : b < i.scr.toNat <;> by_cases h2 : b < i.next.toNat <;> simp [h1, h2, i]
  · rw [State.setIsland_mem, State.zeroBlocks_read wf, any_movedBlocks_outside hx]
    rfl
  · rw [State.setIsland_other _ _ _ _ hx]
    exact s.zeroBlocks_island ..
  · exact congrArg (fun u : State => { u with islands := s.islands })
      (s.zeroBlocks_frame n (movedBlocks i.scr.toNat i.next.toNat))

/-- Settles O37: the rules of links, hops, rings, invocations and islands, put together. -/
theorem linksRingsInvocationsAndIslands : Obligations.LinksRingsInvocationsAndIslands :=
  ⟨routerLinks, routesLead, ringRefills, invocationStarts, islandRepartitions⟩

end Sys2Proof.Claims

/-!
## Streams: their reads, deliveries, stops and ends

A read of a stream changes the TLBs, the records and the free choices alone, and a delivery the port context, the charges of the
launch's entry and the place where the token goes; these two frames carry the statements about elements, retries and ends
(R45 to R49, R72 to R77, R85, R343).
-/

namespace Sys2Proof.Machine
open Sys2Proof Sys2Proof.Claims

/-! ### A token on its way does not look at the port contexts -/

/-- The state with other port contexts and work items. -/
def State.withStreams (s : State) (p : Tab PCtx) (i : Tab Item) : State := { s with pctxs := p, items := i }

section
variable (s : State) (p : Tab PCtx) (i : Tab Item)

theorem State.withStreams_dataError (l n : Nat) : (s.withStreams p i).dataError l n = s.dataError l n := by
  induction n generalizing l with
  | zero => rfl
  | succ n ih =>
    simp only [State.dataError, ih]
    rfl

theorem State.withStreams_walk (host : Bool) (va table : Nat) (levels : List (Nat × Nat × Nat)) :
    (s.withStreams p i).walk host va table levels = s.walk host va table levels := by
  induction levels generalizing table with
  | nil => rfl
  | cons x rest ih =>
    simp only [State.walk, ih, withStreams_dataError]
    rfl

theorem State.withStreams_ringPlace (t : Nat) (r : Ring) (n : Nat) (k : AccKind) :
    (s.withStreams p i).ringPlace t r n k = s.ringPlace t r n k := by
  simp only [State.ringPlace, State.translate, State.root, withStreams_walk, withStreams_dataError]
  rfl

theorem State.withStreams_freeze (l : Option Nat) (c : Cause) :
    (s.withStreams p i).freeze l c = (s.freeze l c).withStreams p i := by
  cases l with
  | none => rfl
  | some k =>
    have hl : (s.withStreams p i).launch k = s.launch k := rfl
    simp only [State.freeze, hl]
    cases s.launch k <;> rfl

theorem State.withStreams_adapterFault (t g n : Nat) (held : Option Token) :
    (s.withStreams p i).adapterFault t g n held = (s.adapterFault t g n held).withStreams p i := by
  have hraise (c : Cause) (r : Report) : (s.withStreams p i).raise c r = (s.raise c r).withStreams p i := rfl
  have hset (u : State) (a : Arc) : (u.withStreams p i).setArcAt t g a = (u.setArcAt t g a).withStreams p i := rfl
  have harc : (s.withStreams p i).arcAt t g = s.arcAt t g := rfl
  have hctx : (s.withStreams p i).tileCtx t = s.tileCtx t := rfl
  have htile : (s.withStreams p i).tile t = s.tile t := rfl
  simp only [State.adapterFault, hraise, hset, harc, hctx, htile, withStreams_freeze]

theorem State.withStreams_arrives (t g : Nat) (k : Token) :
    (s.withStreams p i).arrives t g k = (s.arrives t g k).withStreams p i := by
  rcases s.arrives_cases t g with hq | ⟨r, hr, hfull⟩
  · rw [State.arrives_queue k hq, State.arrives_queue (s := s.withStreams p i) k hq]
    rfl
  · have hplace := s.withStreams_ringPlace p i t r r.wr .write
    cases hp : s.ringPlace t r r.wr .write with
    | some l =>
      rw [State.arrives_ring k hr hfull hp, State.arrives_ring (s := s.withStreams p i) k hr hfull (hplace.trans hp)]
      rfl
    | none =>
      rw [State.arrives_fault k hr hfull hp, State.arrives_fault (s := s.withStreams p i) k hr hfull (hplace.trans hp)]
      exact s.withStreams_adapterFault ..

theorem State.withStreams_send (src t g : Nat) (k : Token) :
    (s.withStreams p i).send src t g k = (s.send src t g k).withStreams p i := by
  by_cases hg : g = 0x1FF
  · rw [s.send_discarded k hg, State.send_discarded _ k hg]
  · by_cases hs : src = t
    · rw [s.send_home k hg hs, State.send_home _ k hg hs, withStreams_arrives]
    · rw [s.send_abroad k hg hs, State.send_abroad _ k hg hs]
      rfl

theorem State.send_pctxs (src t g : Nat) (k : Token) : (s.send src t g k).pctxs = s.pctxs :=
  (congrArg State.pctxs (s.withStreams_send s.pctxs s.items src t g k) :)

theorem State.send_items (src t g : Nat) (k : Token) : (s.send src t g k).items = s.items :=
  (congrArg State.items (s.withStreams_send s.pctxs s.items src t g k) :)

end

/-! ### Emission and delivery (R75, R77, R343, R402) -/

section
variable (s : State) (pc v : Nat)

theorem State.emit_pctxs (out : Nat) (k : Token) : (s.emit pc v out k).pctxs = s.pctxs := s.send_pctxs ..

theorem State.emit_items (out : Nat) (k : Token) : (s.emit pc v out k).items = s.items := s.send_items ..

/-- A transfer changes a matrix state of the stream's tile alone. -/
theorem State.emitWide_frame (x : BitVec 1024 × Bool) : { s.emitWide pc v x with tiles := s.tiles } = s := by
  unfold State.emitWide
  split <;> rfl

/-- The row buffer or the north input of a tile takes a transfer. -/
theorem State.emitWide_matrix (x : BitVec 1024 × Bool) :
    ((s.emitWide pc v x).tile (spDtile v)).matrix =
      if wideInput (pc % 512) v = 1 then
        { (s.tile (spDtile v)).matrix with northWide := (s.tile (spDtile v)).matrix.northWide ++ [x] }
      else { (s.tile (spDtile v)).matrix with wide := (s.tile (spDtile v)).matrix.wide ++ [some x] } := by
  unfold State.emitWide State.setMatrix
  split <;> simp

end

/-- A port context whose accumulator marks a poisoned element (R82). -/
def PCtx.marked (q : PCtx) (bad : Bool) : PCtx := { q with acc := if bad then q.acc ||| stPELEM else q.acc }

/-- A port context once `n` elements more have been delivered. -/
def PCtx.delivered (q : PCtx) (n : Nat) (bad : Bool) : PCtx := { q.marked bad with count := q.count + n }

/-- The state once the delivery of `n` elements more is counted and charged, before the value sets out. -/
def State.tallied (s : State) (pc n : Nat) (bad : Bool) : State :=
  (s.setPctx pc ((s.pctx pc).marked bad)).counted pc n

section
variable (s : State) (k n : Nat)

theorem State.chargeItem_frame : { s.chargeItem k n with items := s.items } = s := by
  unfold State.chargeItem
  split <;> rfl

theorem State.chargeLaunch_frame : { s.chargeLaunch k n with items := s.items } = s := by
  unfold State.chargeLaunch
  split
  · rfl
  · exact s.chargeItem_frame ..

theorem State.chargeItem_same {i : Item} (h : s.item k = some i) :
    (s.chargeItem k n).item k = some { i with cheng := i.cheng + n } := by
  simp only [State.chargeItem, h, State.setItem_same]

theorem State.chargeItem_other {x : Nat} (h : x ≠ k) : (s.chargeItem k n).item x = s.item x := by
  unfold State.chargeItem
  split
  · rfl
  · exact s.setItem_other _ _ _ h

end

section
variable (s : State) (pc n : Nat) (bad : Bool)

/-- The count changes the port context and, through its charge, work items. -/
theorem State.counted_frame :
    { s.counted pc n with items := s.items } = s.setPctx pc { s.pctx pc with count := (s.pctx pc).count + n } := by
  unfold State.counted
  dsimp only
  split
  · split
    · exact State.chargeLaunch_frame ..
    · rfl
  · rfl

theorem State.counted_pctxs :
    (s.counted pc n).pctxs = tabPut s.pctxs pc { s.pctx pc with count := (s.pctx pc).count + n } :=
  congrArg State.pctxs (s.counted_frame pc n)

theorem State.tallied_pctx : (s.tallied pc n bad).pctx pc = (s.pctx pc).delivered n bad := by
  simp only [State.tallied, State.pctx, State.counted_pctxs, tabGet_put_same, State.setPctx]
  rfl

theorem State.tallied_other : OtherStreams s (s.tallied pc n bad) pc := fun x hx => by
  simp only [State.tallied, State.pctx, State.counted_pctxs, tabGet_put_other _ _ _ _ _ hx, State.setPctx]

theorem State.tallied_withStreams :
    s.tallied pc n bad = s.withStreams (s.tallied pc n bad).pctxs (s.tallied pc n bad).items :=
  (congrArg (State.withStreams · (s.tallied pc n bad).pctxs (s.tallied pc n bad).items)
    (State.counted_frame (s.setPctx pc ((s.pctx pc).marked bad)) pc n) :)

end

/-- A delivery charges one engine tick for each 128 bytes reached (R402). -/
theorem State.counted_charged {k : Nat} {l : Launch} {q : PCtx} (s : State) {pc : Nat} (n : Nat) (hp : s.pctx pc = q)
    (hq : q.launch = some k) (hl : s.launch k = some l) : Charged s (s.counted pc n) l q (spSize q.spec.toNat) n := by
  subst hp
  cases hc : (s.pctx pc).charged with
  | false =>
    have h : s.counted pc n = s.setPctx pc { s.pctx pc with count := (s.pctx pc).count + n } := by
      simp [State.counted, hq, hc]
    rw [h]
    exact ⟨fun _ => rfl, fun _ hn => (Bool.false_ne_true (hc.symm.trans hn)).elim, fun _ _ => rfl⟩
  | true =>
    have h : s.counted pc n = (s.setPctx pc { s.pctx pc with count := (s.pctx pc).count + n }).chargeItem l.item
        (unitsReached 128 ((s.pctx pc).count * spSize (s.pctx pc).spec.toNat)
          (((s.pctx pc).count + n) * spSize (s.pctx pc).spec.toNat)) := by
      simp [State.counted, hq, hc, State.chargeLaunch, hl]
    rw [h]
    exact ⟨fun hn => (Bool.false_ne_true (hn.symm.trans hc)).elim, fun i _ hi => State.chargeItem_same _ _ _ hi,
      fun x hx => State.chargeItem_other _ _ _ hx⟩

section
variable (s : State) (pc m n x : Nat) (bad coord : Bool)

/-- What a delivery sends, once it is tallied: a transfer on the wide port, or a token and, for a bitmap, a coordinate. -/
theorem State.deliver_eq :
    let v := (s.pctx pc).spec.toNat
    let u := s.tallied pc n bad
    let w := u.emit pc v 0 (valueToken x bad)
    s.deliver pc m n x bad coord =
      if spAtt v then u.emitWide pc v (BitVec.ofNat 1024 x, bad)
      else if spKind v = 4 then w.emit pc v 1 (valueToken (m / spCnt v 0 * 2 ^ 32 + m % spCnt v 0) coord) else w := rfl

/-- The value itself changes neither a port context nor a work item. -/
theorem State.deliver_tables : (s.deliver pc m n x bad coord).pctxs = (s.tallied pc n bad).pctxs ∧
    (s.deliver pc m n x bad coord).items = (s.tallied pc n bad).items := by
  have wide (v : Nat) := (s.tallied pc n bad).emitWide_frame pc v (BitVec.ofNat 1024 x, bad)
  rw [State.deliver_eq]
  split
  · exact ⟨(congrArg State.pctxs (wide _) :), (congrArg State.items (wide _) :)⟩
  · split <;> simp only [State.emit_pctxs, State.emit_items, and_self]

theorem State.deliver_pctx : (s.deliver pc m n x bad coord).pctx pc = (s.pctx pc).delivered n bad := by
  rw [State.pctx, (s.deliver_tables ..).1]
  exact s.tallied_pctx ..

theorem State.deliver_other : OtherStreams s (s.deliver pc m n x bad coord) pc := fun y hy => by
  rw [State.pctx, (s.deliver_tables ..).1]
  exact s.tallied_other _ _ _ y hy

theorem State.deliver_charged {k : Nat} {l : Launch} (hk : (s.pctx pc).launch = some k) (hl : s.launch k = some l) :
    Charged s (s.deliver pc m n x bad coord) l (s.pctx pc) (spSize (s.pctx pc).spec.toNat) n := by
  have hitems := (s.deliver_tables pc m n x bad coord).2
  have h : Charged s (s.tallied pc n bad) l (s.pctx pc) (spSize (s.pctx pc).spec.toNat) n :=
    State.counted_charged (q := (s.pctx pc).marked bad) _ n (s.setPctx_same ..) hk hl
  simpa only [Charged, State.item, hitems] using h

variable {v : Nat} (hv : (s.pctx pc).spec.toNat = v)
include hv

/-- A token sets out as it would before the delivery is tallied. -/
theorem State.deliver_sends (hatt : spAtt v = false) (hkind : spKind v ≠ 4) :
    let w := s.send (entryOf pc) (spDtile v) (spDest v) (valueToken x bad)
    (s.deliver pc m n x bad coord).arcs = w.arcs ∧ (s.deliver pc m n x bad coord).mem = w.mem := by
  subst hv
  have h := s.withStreams_send (s.tallied pc n bad).pctxs (s.tallied pc n bad).items (entryOf pc)
    (spDtile (s.pctx pc).spec.toNat) (spDest (s.pctx pc).spec.toNat) (valueToken x bad)
  rw [← s.tallied_withStreams] at h
  rw [State.deliver_eq, if_neg (by simp [hatt]), if_neg hkind]
  exact ⟨(congrArg State.arcs h :), (congrArg State.mem h :)⟩

/-- A transfer joins the row buffer or the north input, and no token sets out. -/
theorem State.deliver_transfers (hatt : spAtt v = true) :
    let m0 := (s.tile (spDtile v)).matrix
    ((s.deliver pc m n x bad coord).tile (spDtile v)).matrix =
      (if wideInput (pc % 512) v = 1 then { m0 with northWide := m0.northWide ++ [(BitVec.ofNat 1024 x, bad)] }
       else { m0 with wide := m0.wide ++ [some (BitVec.ofNat 1024 x, bad)] }) ∧
    (s.deliver pc m n x bad coord).arcs = s.arcs ∧ (s.deliver pc m n x bad coord).mem = s.mem := by
  subst hv
  have h := (s.tallied pc n bad).emitWide_frame pc (s.pctx pc).spec.toNat (BitVec.ofNat 1024 x, bad)
  rw [State.deliver_eq, if_pos hatt, State.emitWide_matrix]
  rw [s.tallied_withStreams] at h ⊢
  exact ⟨rfl, (congrArg State.arcs h :), (congrArg State.mem h :)⟩

end

/-- Elements issued or taken: the position moves on, and the last element begins the drain (R83, R85). -/
def PCtx.moved (q : PCtx) (n : Nat) : PCtx :=
  { q with pos := q.pos + n, outer := (q.pos + n) / spOuter q.spec.toNat, recorded := false,
           st := if spIndirect q.spec.toNat = false ∧ spTotal q.spec.toNat ≤ q.pos + n ∧ q.st ≠ .frozen then .draining
                 else q.st }

theorem PCtx.moved_delivered (q : PCtx) (n : Nat) (bad : Bool) :
    (q.delivered n bad).moved n = advanced q.spec.toNat n bad q := rfl

theorem State.advance_eq (s : State) (pc n : Nat) : s.advance pc n = s.setPctx pc ((s.pctx pc).moved n) := by
  simp [State.advance, PCtx.moved, and_assoc]

/-! ### What reading elements leaves (R32, R39, R40, R49) -/

/-- A record changes nothing but the list of records and the count of its ring (R425). -/
theorem State.raise_frame (s : State) (c : Cause) (r : Report) :
    { s.raise c r with records := s.records, rings := s.rings } = s := rfl

theorem State.engineRead_frame (s : State) (ctx l n : Nat) (a : Word) :
    { (s.engineRead ctx l n a).2.2 with records := s.records, rings := s.rings } = s := by
  simp only [State.engineRead]
  split
  · exact s.raise_frame ..
  · rfl

/-- Bytes arrive poisoned when an error or a frame marks them (R32, R57). -/
theorem State.engineRead_poisoned (s : State) (ctx l n : Nat) (a : Word) :
    (s.engineRead ctx l n a).2.1 = (s.dataError l n).isSome := rfl

/-- Only reads of port context `pc` lie between two states: its TLB, the edge TLBs, the records and the free choices. -/
structure OnlyReads (s u : State) (pc : Nat) : Prop where
  same : u.pctx pc = { s.pctx pc with tlb := (u.pctx pc).tlb }
  others : OtherStreams s u pc
  frame : { u with pctxs := s.pctxs, edgeTlb := s.edgeTlb, records := s.records, rings := s.rings, choice := s.choice } = s

section
variable {s u w : State} {pc : Nat}

/-- Nothing but records, their rings and free choices lies between the states. -/
theorem OnlyReads.ofFrame (hp : u.pctxs = s.pctxs)
    (h : { u with edgeTlb := s.edgeTlb, records := s.records, rings := s.rings, choice := s.choice } = s) : OnlyReads s u pc where
  same := by
    rw [State.pctx, hp]
    rfl
  others x _ := by
    rw [State.pctx, hp]
    rfl
  frame := hp ▸ h

theorem OnlyReads.ofRecords (hp : u.pctxs = s.pctxs) (h : { u with records := s.records, rings := s.rings } = s) :
    OnlyReads s u pc :=
  .ofFrame hp (congrArg (fun v : State => { v with edgeTlb := s.edgeTlb, choice := s.choice }) h)

theorem OnlyReads.refl (s : State) (pc : Nat) : OnlyReads s s pc := .ofFrame rfl rfl

theorem OnlyReads.trans (h : OnlyReads s u pc) (h' : OnlyReads u w pc) : OnlyReads s w pc where
  same := by rw [h'.same, h.same]
  others x hx := (h'.others x hx).trans (h.others x hx)
  frame := (congrArg (fun v : State => { v with
    pctxs := s.pctxs, edgeTlb := s.edgeTlb, records := s.records, rings := s.rings, choice := s.choice }) h'.frame).trans h.frame

theorem OnlyReads.launches (h : OnlyReads s u pc) : u.launches = s.launches := (congrArg State.launches h.frame :)

theorem OnlyReads.agnRecord (c : Cause) (a : Word) (stop : Bool) : OnlyReads s (s.agnRecord pc c a stop) pc :=
  .ofRecords rfl (s.raise_frame c _)

theorem OnlyReads.bump (s : State) (pc : Nat) : OnlyReads s s.bump pc := .ofFrame rfl rfl

theorem OnlyReads.engineRead (ctx l n : Nat) (a : Word) : OnlyReads s (s.engineRead ctx l n a).2.2 pc :=
  have h := s.engineRead_frame ctx l n a
  .ofRecords (congrArg State.pctxs h :) h

theorem OnlyReads.agnCheck (path : Nat) (k : AccKind) (a : Int) (n : Nat) : OnlyReads s (s.agnCheck pc path k a n).2 pc := by
  unfold State.agnCheck
  extract_lets p who
  split
  · exact .refl s pc
  next run a' _ =>
    have hrun (x : Word) : OnlyReads s (run x).2 pc := by
      dsimp only [run]
      split
      · exact .ofFrame rfl rfl
      · exact ⟨by simp [p], fun y hy => s.setPctx_other _ _ _ hy, rfl⟩
    have ha := hrun a'
    split
    next hr =>
      rw [hr] at ha
      split
      · exact .refl s pc
      split
      · exact hrun _
      split
      · exact .refl s pc
      · exact ha
    · exact ha

end

theorem State.agnCheck_noncanonical (s : State) (pc path : Nat) (k : AccKind) {a : Int} (n : Nat)
    (h : a < 0 ∨ a / 2 ^ 60 ≠ (path : Int)) : s.agnCheck pc path k a n = (.bad .memNoncanonical, s) := if_pos h

/-! ### One element (R32, R49, R75, R76) -/

section
variable {s : State} {pc path z left sh x : Nat} {nrx loud bad : Bool} {a : Int}

/-- An element in a store of this package is read there. -/
theorem readElems_read {p : Place} {l : Nat} {u : State} (h : s.agnCheck pc path .read a z = (.ok p, u))
    (hl : p.loc? = some l) :
    let e := u.engineRead (s.pctxCtx (s.pctx pc)) l z (wordZ a)
    s.readElems pc path z nrx loud (left + 1) a sh x bad =
      e.2.2.readElems pc path z nrx loud left (a + z) (sh + 8 * z) (x + leNat e.1 * 2 ^ sh) (bad || e.2.1) := by
  cases p with
  | peer g v => cases hl
  | _ => simp only [State.readElems, h, hl]

/-- A check whose verdict is known leaves some state. -/
theorem exists_eq_mk_of_fst {α β : Type} {p : α × β} {a : α} (h : p.1 = a) : ∃ b, p = (a, b) := ⟨_, Prod.ext h rfl⟩

/-- The free data of an element that is delivered poisoned without an access (R49, R76). -/
def State.freeElem (s : State) (z : Nat) : Nat := (Config.poisonData s.choice).toNat % 2 ^ (8 * z)

theorem readElems_noncanonical (h : (s.agnCheck pc path .read a z).1 = .bad .memNoncanonical) :
    let w := (if loud then s.agnRecord pc .memNoncanonical (wordZ a) false else s).bump
    s.readElems pc path z nrx loud (left + 1) a sh x bad =
      w.readElems pc path z nrx loud left (a + z) (sh + 8 * z) (x + s.freeElem z * 2 ^ sh) true := by
  obtain ⟨u, hc⟩ := exists_eq_mk_of_fst h
  simp only [State.readElems, hc]
  rfl

section
variable {e : Cause} (h : (s.agnCheck pc path .read a z).1 = .bad e)
include h

theorem readElems_open (hx : e.isXlt = true) : s.readElems pc path z true loud (left + 1) a sh x bad =
    s.bump.readElems pc path z true loud left (a + z) (sh + 8 * z) (x + s.freeElem z * 2 ^ sh) true := by
  have hne : e ≠ .memNoncanonical := by rintro rfl; cases hx
  obtain ⟨u, hc⟩ := exists_eq_mk_of_fst h
  simp [State.readElems, hc, hne, hx, State.freeElem]

theorem readElems_xlt (hx : e.isXlt = true) : s.readElems pc path z false loud (left + 1) a sh x bad = .xlt e a := by
  have hne : e ≠ .memNoncanonical := by rintro rfl; cases hx
  obtain ⟨u, hc⟩ := exists_eq_mk_of_fst h
  simp [State.readElems, hc, hne, hx]

theorem readElems_stop (hx : e.isXlt = false) (hne : e ≠ .memNoncanonical) :
    s.readElems pc path z nrx loud (left + 1) a sh x bad = .stop e a := by
  obtain ⟨u, hc⟩ := exists_eq_mk_of_fst h
  simp [State.readElems, hc, hne, hx]

end

/-- What reading the first element of a token comes to: it goes on with the next one, or the read ends there, at a good address
when it stops for good. -/
theorem readElems_succ_cases (s : State) (pc path z : Nat) (nrx loud : Bool) (left : Nat) (a : Int) (sh x : Nat) (bad : Bool) :
    let r := s.readElems pc path z nrx loud (left + 1) a sh x bad
    (∃ w y b, OnlyReads s w pc ∧ r = w.readElems pc path z nrx loud left (a + z) (sh + 8 * z) y b) ∨
      (∃ c, r = .stop c a ∧ 0 ≤ a) ∨ (∃ c, r = .xlt c a) ∨ (∃ g v, r = .peer g v) ∨ r = .wait := by
  intro r
  have hreads : OnlyReads s (s.agnCheck pc path .read a z).2 pc := .agnCheck ..
  have hnonneg : (s.agnCheck pc path .read a z).1 ≠ .bad .memNoncanonical → 0 ≤ a := fun h => by
    by_contra hneg
    exact h (congrArg Prod.fst (s.agnCheck_noncanonical pc path .read z (.inl (not_le.mp hneg))))
  rcases hc : s.agnCheck pc path .read a z with ⟨c, u⟩
  rw [hc] at hreads hnonneg
  match c with
  | .ok (.mem l) => exact .inl ⟨_, _, _, hreads.trans (.engineRead ..), readElems_read hc rfl⟩
  | .ok (.host b) => exact .inl ⟨_, _, _, hreads.trans (.engineRead ..), readElems_read hc rfl⟩
  | .ok (.reg o) => exact .inr (.inl ⟨.memBadPath, by simp [r, State.readElems, hc, Place.loc?], hnonneg nofun⟩)
  | .ok (.peer g v) => exact .inr (.inr (.inr (.inl ⟨g, v, by simp [r, State.readElems, hc]⟩)))
  | .wait => exact .inr (.inr (.inr (.inr (by simp [r, State.readElems, hc]))))
  | .bad e =>
    have h : (s.agnCheck pc path .read a z).1 = .bad e := congrArg Prod.fst hc
    by_cases hne : e = .memNoncanonical
    · subst hne
      refine .inl ⟨_, _, _, .trans ?_ (.bump _ pc), readElems_noncanonical h⟩
      split
      · exact .agnRecord ..
      · exact .refl ..
    cases hx : e.isXlt with
    | false => exact .inr (.inl ⟨e, readElems_stop h hx hne, hnonneg (by simpa using hne)⟩)
    | true =>
      cases nrx with
      | false => exact .inr (.inr (.inl ⟨e, readElems_xlt h hx⟩))
      | true => exact .inl ⟨_, _, _, .bump s pc, readElems_open h hx⟩

end

section
variable {s u : State} {pc path z : Nat} {nrx loud : Bool} {left : Nat} {a : Int} {sh x y : Nat} {bad b : Bool}

/-- A token that is read leaves the machine as it was, but for what its reads leave. -/
theorem readElems_reads (h : s.readElems pc path z nrx loud left a sh x bad = .ok y b u) : OnlyReads s u pc := by
  induction left generalizing s a sh x bad with
  | zero =>
    cases h
    exact .refl ..
  | succ left ih =>
    obtain ⟨w, _, _, hw, hr⟩ | ⟨_, hr, -⟩ | ⟨_, hr⟩ | ⟨_, _, hr⟩ | hr :=
      readElems_succ_cases s pc path z nrx loud left a sh x bad
    · exact hw.trans (ih (hr.symm.trans h))
    all_goals cases hr.symm.trans h

/-- A read that stops for good stops at an address that is not below zero. -/
theorem readElems_stop_nonneg {c : Cause} {a' : Int} (h : s.readElems pc path z nrx loud left a sh x bad = .stop c a') :
    0 ≤ a' := by
  induction left generalizing s a sh x bad with
  | zero => cases h
  | succ left ih =>
    obtain ⟨w, _, _, hw, hr⟩ | ⟨_, hr, ha⟩ | ⟨_, hr⟩ | ⟨_, _, hr⟩ | hr :=
      readElems_succ_cases s pc path z nrx loud left a sh x bad
    · exact ih (hr.symm.trans h)
    · cases hr.symm.trans h
      exact ha
    all_goals cases hr.symm.trans h

end

end Sys2Proof.Machine

namespace Sys2Proof.Claims
open Sys2Proof Sys2Proof.Machine

theorem elementReads : ElementReads := by
  intro s pc path z nrx loud left a sh x bad r c
  have hfree (u : State) : u.freeElem z < 2 ^ (8 * z) := Nat.mod_lt _ (Nat.two_pow_pos _)
  refine ⟨fun l u hc hclean => ?_, fun l u e hc herr => ?_, fun h => ?_, fun h => ?_, fun e h hx hn => ?_, fun e h hx hn => ?_,
    fun e h hx hne => readElems_stop h hx hne⟩
  · rw [show r = _ from readElems_read hc rfl, engineRead_clean _ _ hclean, u.engineRead_poisoned, hclean, Option.isSome_none,
      Bool.or_false]
    rfl
  · refine ⟨(u.engineRead (s.pctxCtx (s.pctx pc)) l z (wordZ a)).2.2, (readElems_read hc rfl).trans ?_, u.engineRead_frame ..⟩
    rw [u.engineRead_poisoned, herr, Option.isSome_some, Bool.or_true]
    rfl
  · exact congrArg Prod.fst (s.agnCheck_noncanonical pc path .read z h)
  · refine ⟨_, _, hfree s, ?_, readElems_noncanonical h, ?_⟩
    · split <;> rfl
    · rintro rfl
      exact ⟨_, rfl, rfl, rfl, rfl⟩
  · subst hn
    exact ⟨s.bump, _, hfree s, rfl, rfl, readElems_open h hx⟩
  · subst hn
    exact readElems_xlt h hx

end Sys2Proof.Claims

namespace Sys2Proof.Machine
open Sys2Proof Sys2Proof.Claims

/-! ### Records and stops of an AGN (R45, R46, R85, R425, R430) -/

section
variable (s : State) (pc : Nat) (c : Cause)

theorem State.agnRecord_record (a : Word) (stop : Bool) :
    ∃ f, (s.agnRecord pc c a stop).records = s.records ++ [f] ∧ f.cause = c ∧ f.origin = .agn ∧ f.stop = stop ∧
      f.addr = addrOf c a :=
  ⟨_, rfl, rfl, rfl, rfl, rfl⟩

theorem State.agnRecord_frame (a : Word) (stop : Bool) :
    { s.agnRecord pc c a stop with records := s.records, rings := s.rings } = s := s.raise_frame c _

theorem State.freeze_frozen {k : Nat} {l : Launch} (hl : s.launch k = some l) :
    ∃ v, (s.freeze (some k) c).launch k = some v ∧ v.frozen = true := by
  simp only [State.freeze, hl]
  exact ⟨_, s.setLaunch_same .., rfl⟩

/-- A fault that stops an AGN for good: its record, its port context and its launch. -/
theorem State.agnFault_stops {k : Nat} {l : Launch} (a : Word) (hk : (s.pctx pc).launch = some k)
    (hl : s.launch k = some l) : AgnStops s (s.agnFault pc c a) pc k c a := by
  have keeps {α : Type} (f : State → α) (hf : ∀ (u : State) ls, f { u with launches := ls } = f u) :
      f (s.agnFault pc c a) = f ((s.agnRecord pc c a true).setPctx pc { s.pctx pc with st := .frozen, tag := none }) :=
    State.freeze_keeps f hf ..
  refine ⟨⟨_, keeps State.records fun _ _ => rfl, rfl, rfl, rfl, rfl⟩, ?_, fun x hx => ?_, ?_, keeps State.mem fun _ _ => rfl,
    keeps State.arcs fun _ _ => rfl⟩
  · rw [keeps (·.pctx pc) fun _ _ => rfl, State.setPctx_same]
  · rw [keeps (·.pctx x) fun _ _ => rfl, State.setPctx_other _ _ _ _ hx]
    rfl
  · have h : (s.agnFault pc c a) =
        ((s.agnRecord pc c a true).setPctx pc { s.pctx pc with st := .frozen, tag := none }).freeze (some k) c :=
      congrArg (State.freeze _ · c) hk
    rw [h]
    exact State.freeze_frozen _ c hl

end

section
variable {s : State} {pc n : Nat} (c : Cause) (a : Int) (hrec : (s.pctx pc).recorded = false)
include hrec

/-- A translation fault stops a stream that does not reorder, with a record. -/
theorem State.agnXlt_stopped (count : Nat) (hr : spReord (s.pctx pc).spec.toNat = false) :
    s.agnXlt pc c a n count = (s.agnRecord pc c (wordZ a) true).setPctx pc
      { s.pctx pc with stopped := some { n := n, addr := a.toNat, due := s.now + 65536 }, recorded := true } := by
  simp only [State.agnXlt, State.agnStop, hr, hrec]
  rfl

/-- A stream that reorders passes the elements over, with a record. -/
theorem State.agnXlt_diverted (count : Nat) (hr : spReord (s.pctx pc).spec.toNat = true) :
    s.agnXlt pc c a n count =
      ((s.agnRecord pc c (wordZ a) false).divert pc n a (s.now + 65536)).advance pc count := by
  simp only [State.agnXlt, hr, hrec]
  rfl

end

section
variable (s : State) (pc n due count : Nat) (a : Int)

/-- A diverted element joins the spill queue, and the stream moves on. -/
theorem State.advance_divert_pctx :
    ((s.divert pc n a due).advance pc count).pctx pc = ({ s.pctx pc with spill := (s.pctx pc).spill ++
      [{ n := n, addr := a.toNat, due := due, ord := s.agnOrd pc + 1, bad := (s.pctx pc).bitmapBad }] } : PCtx).moved count := by
  rw [State.advance_eq, State.setPctx_same, State.divert, State.setPctx_same]

theorem State.advance_divert_other :
    OtherStreams s ((s.divert pc n a due).advance pc count) pc := fun x hx => by
  rw [State.advance_eq, State.setPctx_other _ _ _ _ hx, State.divert, State.setPctx_other _ _ _ _ hx]

end

/-! ### A running stream and its turn (R72, R84, R429) -/

section
variable {s : State} {pc k : Nat} {l : Launch}

theorem State.pctxLaunch_some {p : PCtx} (hk : p.launch = some k) (hl : s.launch k = some l) (hruns : l.runs = true) :
    s.pctxLaunch p = some l := by simp [State.pctxLaunch, hk, hl, hruns]

theorem State.agnActs_true (hk : (s.pctx pc).launch = some k) (hl : s.launch k = some l) (hruns : l.runs = true)
    (hw : s.agnRecordWaits pc = false) : s.agnActs pc = true := by
  simp [State.agnActs, State.pctxLaunch_some hk hl hruns, hw]

theorem State.nrx_eq (hk : (s.pctx pc).launch = some k) (hl : s.launch k = some l) (hruns : l.runs = true) :
    s.nrx (s.pctx pc) = l.nrx := by simp [State.nrx, State.pctxLaunch_some hk hl hruns]

/-- A port context that issues does not stand at an outer-iteration boundary on its way to a save. -/
theorem State.agnReady_true (hi : Issues s pc) (ha : s.agnActs pc = true) (hst : (s.pctx pc).stopped = none) :
    s.agnReady pc = true := by
  rcases hi with h | ⟨h, hpos⟩
  · simp [State.agnReady, PCtx.boundary, ha, hst, h]
  · simp [State.agnReady, PCtx.boundary, ha, hst, h, hpos]

theorem State.readFree_true {v : Nat} (hv : (s.pctx pc).spec.toNat = v) (htag : (s.pctx pc).tag = none)
    (hpart : (s.pctx pc).part = []) (hroom : s.streamRoom pc v = true) (hspill : spReord v = true → s.agnSpill pc < 64) :
    s.readFree pc = true := by
  cases hr : spReord v with
  | false => simp [State.readFree, hv, htag, hpart, hroom, hr]
  | true => simp [State.readFree, hv, htag, hpart, hroom, hspill hr]

/-- In the turn of a port context that can issue, its AGN serves it. -/
theorem State.agnTurn_true {kind : Nat} (ht : InTurn s pc) (hkind : spKind (s.pctx pc).spec.toNat = kind)
    (hcan : s.agnCan pc = true) : s.agnTurn pc kind = true := by
  simp only [State.agnTurn, hkind, hcan, beq_self_eq_true, Bool.and_self, Bool.true_and, List.all_eq_true, List.mem_range,
    Bool.not_eq_true']
  exact ht

end

/-! ### The recorder stands aside (R467, R468) -/

section
variable {s : State} {pc k : Nat} {l : Launch} (hk : (s.pctx pc).launch = some k) (hl : s.launch k = some l)
include hk hl

theorem State.deliverRecorded_live (n count x : Nat) (bad coord : Bool) (hmode : l.recMode ≠ 2) :
    s.deliverRecorded pc n count x bad coord = some (s.deliver pc n count x bad coord) := by
  have hlive (v aux : Word) : s.recordElement (s.pctx pc).launch (pc / 512) (pc % 512) v aux (4 * (pc / 512)) = some s := by
    simp only [State.recordElement, hk, hl, Option.bind_some]
    exact if_neg hmode
  unfold State.deliverRecorded
  dsimp only
  rw [List.foldl_fixed' fun i => hlive _ _]
  rfl

theorem State.wasLate_false (n : Nat) (hmode : l.recMode ≠ 3) : s.wasLate pc n = false := by
  have h : l.recMode.toNat ≠ 3 := fun h => hmode (BitVec.eq_of_toNat_eq h)
  simp [State.wasLate, State.replays, hk, hl, h]

end

/-! ### The value of a token is read (R45, R75) -/

/-- A token carries the bits that are read, and those of a lone signed element sign-extended (R75). -/
theorem tokenBits_eq (v x : Nat) : (if spPf v = 1 then extended v x else x) =
    if spPf v = 1 ∧ spSign v = true then (BitVec.ofInt 64 (toSigned (8 * spSize v) x)).toNat else x := by
  by_cases hpf : spPf v = 1 <;> by_cases hs : spSign v = true <;> simp [extended, hpf, hs, wrapNat]

/-- A port context with specification `v`, of a launch that runs and neither records nor replays its elements. -/
structure LiveStream (s : State) (pc k : Nat) (l : Launch) (v : Nat) : Prop where
  launch : (s.pctx pc).launch = some k
  found : s.launch k = some l
  runs : l.runs = true
  spec : (s.pctx pc).spec.toNat = v
  live : ReadsLive l v

section
variable {s u : State} {pc k : Nat} {l : Launch} {v path z n : Nat} {a : Int} {done : State → State}
  (h : LiveStream s pc k l v)
include h

theorem LiveStream.after (hu : OnlyReads s u pc) : LiveStream u pc k l v where
  launch := (congrArg PCtx.launch hu.same).trans h.launch
  found := (congrArg (tabFind · k) hu.launches).trans h.found
  runs := h.runs
  spec := (congrArg (fun q : PCtx => q.spec.toNat) hu.same).trans h.spec
  live := h.live

/-- No replay diverts the next token. -/
theorem LiveStream.notLate : (spReord v && (s.pctx pc).part.isEmpty && s.wasLate pc n) = false := by
  cases hre : spReord v with
  | false => rfl
  | true => rw [State.wasLate_false h.launch h.found n (h.live.2 hre), Bool.and_false]

theorem LiveStream.readValue_ok {x : Nat} {bad : Bool}
    (hr : s.readElems pc path z l.nrx true (spPf v) a 0 0 false = .ok x bad u) :
    s.readValue pc path z (spPf v) n a done =
      .next (done (u.deliver pc n (spPf v) (if spPf v = 1 then extended v x else x) bad (s.pctx pc).bitmapBad)) := by
  have hu := h.after (readElems_reads hr)
  simp only [State.readValue, h.spec, h.notLate, State.nrx_eq h.launch h.found h.runs, hr,
    State.deliverRecorded_live hu.launch hu.found _ _ _ _ _ h.live.1]
  rfl

theorem LiveStream.readValue_xlt {c : Cause} {x : Int}
    (hr : s.readElems pc path z l.nrx true (spPf v) a 0 0 false = .xlt c x) :
    s.readValue pc path z (spPf v) n a done = .next (s.agnXlt pc c x n (spPf v)) := by
  simp only [State.readValue, h.spec, h.notLate, State.nrx_eq h.launch h.found h.runs, hr]
  rfl

theorem LiveStream.readValue_stop {c : Cause} {x : Int}
    (hr : s.readElems pc path z l.nrx true (spPf v) a 0 0 false = .stop c x) :
    s.readValue pc path z (spPf v) n a done = .next (s.agnFault pc c (BitVec.ofInt 64 x)) := by
  have hx : word x.toNat = BitVec.ofInt 64 x := by
    rw [word, ← BitVec.ofInt_natCast, Int.toNat_of_nonneg (readElems_stop_nonneg hr)]
  simp only [State.readValue, h.spec, h.notLate, State.nrx_eq h.launch h.found h.runs, hr, hx]
  rfl

end

/-- STREAM_ELEMENT_ISSUE reads the token of an affine stream in its turn (R72, R75). -/
theorem exec_streamElementIssue {s : State} {pc k : Nat} {l : Launch} {v : Nat} (hs : StreamRuns s pc k l v)
    (hi : Issues s pc) (hw : s.agnRecordWaits pc = false) (ht : InTurn s pc) (hkind : spKind v = 0)
    (hpos : (s.pctx pc).pos < spTotal v) (hroom : s.streamRoom pc v = true) (hspill : spReord v = true → s.agnSpill pc < 64) :
    exec (.streamElementIssue pc) s = (turned s pc).readValue pc (spPath v) (spSize v) (spPf v) (s.pctx pc).pos
      (spAddr v (s.pctx pc).pos) fun t => t.advance pc (spPf v) := by
  obtain ⟨hk, hl, hruns, hv, hst, htag, hpart⟩ := hs
  have hready := State.agnReady_true hi (State.agnActs_true hk hl hruns hw) hst
  have hfree := State.readFree_true hv htag hpart hroom hspill
  have hturn : s.agnTurn pc 0 = true :=
    State.agnTurn_true ht (by rw [hv, hkind]) (by simp [State.agnCan, hv, hkind, hready, hfree, hpos])
  change execStreamElementIssue pc s = _
  simp only [execStreamElementIssue, hturn, hv]
  rfl

/-! ### A delivery moves its stream on -/

section
variable (s : State) (pc m n x : Nat) (bad coord : Bool)

theorem State.advance_deliver_pctx {v : Nat} (hv : (s.pctx pc).spec.toNat = v) :
    ((s.deliver pc m n x bad coord).advance pc n).pctx pc = advanced v n bad (s.pctx pc) := by
  rw [State.advance_eq, State.setPctx_same, State.deliver_pctx, PCtx.moved_delivered, hv]

theorem State.advance_deliver_other : OtherStreams s ((s.deliver pc m n x bad coord).advance pc n) pc := fun y hy =>
  (State.setPctx_other _ _ _ _ hy).trans (s.deliver_other _ _ _ _ _ _ y hy)

theorem State.advance_deliver_charged {k : Nat} {l : Launch} (hk : (s.pctx pc).launch = some k) (hl : s.launch k = some l) :
    Charged s ((s.deliver pc m n x bad coord).advance pc n) l (s.pctx pc) (spSize (s.pctx pc).spec.toNat) n :=
  s.deliver_charged pc m n x bad coord hk hl

end

end Sys2Proof.Machine

namespace Sys2Proof.Claims
open Sys2Proof Sys2Proof.Machine

theorem affineReads : AffineReads := by
  intro s pc k l v hs hi hw ht hlive hkind p s1 hpos hroom hspill r held poisoned
  have hexec := exec_streamElementIssue hs hi hw ht hkind hpos hroom hspill
  obtain ⟨hk, hl, hruns, hv, -, -, -⟩ := hs
  have now : LiveStream s1 pc k l v := ⟨hk, hl, hruns, hv, hlive⟩
  refine ⟨fun x bad u hr hatt => ?_, fun x bad u hr hatt hpf hsign => ?_, fun c a hr hrec hre => ?_,
    fun c a hr hrec hre => ?_, fun c a hr => ?_⟩
  · intro y w
    have hu := now.after (readElems_reads hr)
    obtain ⟨harcs, hmem⟩ := u.deliver_sends pc p.pos (spPf v) y bad p.bitmapBad hu.spec hatt (by rw [hkind]; decide)
    have hcharged := u.advance_deliver_charged pc p.pos (spPf v) y bad p.bitmapBad hu.launch hu.found
    rw [hu.spec] at hcharged
    rw [now.readValue_ok hr, tokenBits_eq] at hexec
    exact ⟨_, hexec, u.advance_deliver_pctx _ _ _ _ _ _ hu.spec, u.advance_deliver_other _ _ _ _ _ _, hcharged, harcs, hmem⟩
  · intro m
    have hu := now.after (readElems_reads hr)
    obtain ⟨hmatrix, harcs, hmem⟩ := u.deliver_transfers pc p.pos 1 x bad p.bitmapBad hu.spec hatt
    rw [now.readValue_ok hr, tokenBits_eq, hsign, hpf] at hexec
    exact ⟨_, hexec, u.advance_deliver_pctx _ _ _ _ _ _ hu.spec, u.advance_deliver_other _ _ _ _ _ _, hmatrix, harcs, hmem⟩
  · have hstop := State.agnXlt_stopped (s := s1) (n := p.pos) c a hrec (spPf v) (by rw [now.spec, hre])
    obtain ⟨f, hf, hcause, horigin, hfstop, haddr⟩ := s1.agnRecord_record pc c (wordZ a) true
    rw [now.readValue_xlt hr, hstop] at hexec
    refine ⟨_, f, hexec, hf, hcause, horigin, hfstop, haddr, ?_, ?_, ?_⟩
    · exact State.setPctx_same _ _ _
    · exact fun x hx => State.setPctx_other _ _ _ _ hx
    · exact congrArg (fun u : State => { u with pctxs := s.pctxs }) (s1.agnRecord_frame pc c (wordZ a) true)
  · have hpass := State.agnXlt_diverted (s := s1) (n := p.pos) c a hrec (spPf v) (by rw [now.spec, hre])
    obtain ⟨f, hf, hcause, horigin, hfstop, haddr⟩ := s1.agnRecord_record pc c (wordZ a) false
    have hpctx := State.advance_divert_pctx (s1.agnRecord pc c (wordZ a) false) pc p.pos (s1.now + 65536) (spPf v) a
    have hother := State.advance_divert_other (s1.agnRecord pc c (wordZ a) false) pc p.pos (s1.now + 65536) (spPf v) a
    rw [now.readValue_xlt hr, hpass] at hexec
    refine ⟨_, f, hexec, hf, hcause, horigin, hfstop, haddr, ?_, ?_, ?_, hother, ?_⟩
    · exact (congrArg PCtx.spill hpctx :)
    · exact (congrArg PCtx.pos hpctx :)
    · exact (congrArg PCtx.count hpctx :)
    · exact congrArg (fun u : State => { u with pctxs := s.pctxs }) (s1.agnRecord_frame pc c (wordZ a) false)
  · rw [now.readValue_stop hr] at hexec
    exact ⟨_, hexec, s1.agnFault_stops pc c _ hk hl⟩

/-- Settles O33: the element rules, and the outcomes of reading the token of a stream in its turn. -/
theorem streamReads : Obligations.StreamReads := ⟨affineReads, elementReads⟩

end Sys2Proof.Claims

namespace Sys2Proof.Machine
open Sys2Proof Sys2Proof.Claims

/-! ### The end of stream (R47, R77) -/

/-- The end of a stream goes to DEST, and to CDEST for a bitmap stream. -/
def State.ends (s : State) (pc v : Nat) : State :=
  let d := s.emit pc v 0 .eos
  if spKind v = 4 then d.emit pc v 1 .eos else d

theorem State.ends_pctx (s : State) (pc v x : Nat) : (s.ends pc v).pctx x = s.pctx x := by
  unfold State.ends
  dsimp only
  split <;> simp only [State.pctx, State.emit_pctxs]

theorem exec_endOfStream {s : State} {pc k : Nat} {l : Launch} {v : Nat} (hs : StreamRuns s pc k l v)
    (hw : s.agnRecordWaits pc = false) (hst : (s.pctx pc).st = .draining) (hreads : spReads v = true)
    (hdone : (s.pctx pc).statusDone = true) (hsent : (s.pctx pc).eosSent = false) (hatt : spAtt v = false)
    (hroom : s.streamRoom pc v = true) :
    exec (.endOfStream pc) s = .next ((s.ends pc v).setPctx pc { s.pctx pc with eosSent := true }) := by
  obtain ⟨hk, hl, hruns, hv, -, -, -⟩ := hs
  have hacts := State.agnActs_true hk hl hruns hw
  rw [← s.ends_pctx pc v pc]
  change execEndOfStream pc s = _
  simp [execEndOfStream, hacts, hst, hv, hreads, hdone, hsent, hatt, hroom, State.ends]

/-! ### Retries (R46, R429) -/

section
variable {s : State} {pc k : Nat} {l : Launch} (hk : (s.pctx pc).launch = some k) (hl : s.launch k = some l)
  (hruns : l.runs = true) (htag : (s.pctx pc).tag = none)

/-- While a record of the stream waits to be written, a retry does nothing (R429). -/
theorem exec_agnRetry_waits (hw : s.agnRecordWaits pc = true) : exec (.agnRetry pc) s = .next s := by
  have hacts : s.agnActs pc = false := by simp [State.agnActs, hw]
  change execAgnRetry pc s = _
  cases hst : (s.pctx pc).stopped with
  | none => simp [execAgnRetry, State.lateReady, hst, hacts]
  | some h => simp [execAgnRetry, hst, hacts]

theorem exec_agnRetry_early {h : HeldElement} (hst : (s.pctx pc).stopped = some h) (hdue : s.now < h.due) :
    exec (.agnRetry pc) s = .next s := by
  change execAgnRetry pc s = _
  simp [execAgnRetry, hst, hdue]

include hk hl hruns htag

theorem exec_agnRetry_resumes (hw : s.agnRecordWaits pc = false) {h : HeldElement} (hst : (s.pctx pc).stopped = some h)
    (hdue : h.due ≤ s.now) : exec (.agnRetry pc) s = .next (s.setPctx pc { s.pctx pc with stopped := none }) := by
  have hacts := State.agnActs_true hk hl hruns hw
  change execAgnRetry pc s = _
  simp [execAgnRetry, hst, hacts, htag, Nat.not_lt.mpr hdue]

variable (hmode : l.recMode = 0) (hst : (s.pctx pc).stopped = none) {h : HeldElement} {rest : List HeldElement}
  (hspill : (s.pctx pc).spill = h :: rest) (hdue : h.due ≤ s.now) (hpart : (s.pctx pc).part = [])
include hmode hst hspill hdue hpart

/-- The oldest diverted element of a stream is tried next, once it is due (R46). -/
theorem State.lateReady_first (hw : s.agnRecordWaits pc = false) {v : Nat} (hv : (s.pctx pc).spec.toNat = v)
    (hroom : s.streamRoom pc v = true) : s.lateReady pc = some h := by
  have hacts := State.agnActs_true hk hl hruns hw
  have hlive : s.replays l .agn (recOrigin (pc / 512) (pc % 512)) = false := by simp [State.replays, hmode]
  simp [State.lateReady, State.lateNext, hacts, hst, htag, hpart, hv, hroom, hk, hl, hlive, hspill, hdue]

end

/-- No other context of the AGN comes first with a diverted element (R46). -/
theorem agnCtxs_noneBefore {s : State} {pc : Nat} {h : HeldElement}
    (hfirst : ∀ i c e, i < 4 → c = pc / 512 * 512 + i * 128 + pc % 128 → c ≠ pc → s.lateReady c = some e →
      h.ord ≤ e.ord) :
    ((agnCtxs pc).any fun c => c != pc && (s.lateReady c).any fun e => e.ord < h.ord) = false := by
  refine List.any_eq_false.mpr fun c hc => ?_
  obtain ⟨i, hi, rfl⟩ := List.mem_map.mp hc
  simp only [Bool.and_eq_true, bne_iff_ne, Option.any_eq_true, decide_eq_true_eq, not_and, not_exists]
  exact fun hne e he => not_lt.mpr (hfirst i _ e (List.mem_range.mp hi) rfl hne he)

/-- A diverted element whose value has come enters the stream among the elements now issued, with the late bit (R45, R48). -/
def PCtx.takenLate (q : PCtx) (h : HeldElement) : PCtx := { q with spill := q.spill.erase h, acc := q.acc ||| stLATE }

/-- A launch whose recorder is off takes its decisions live (R467). -/
theorem State.captured_off {s : State} {lc : Option Nat} {l : Launch} (hl : lc.bind s.launch = some l) (hmode : l.recMode = 0)
    (kind : Nat) (who : Origin) (num sub : Nat) (x aux : Word) (clock : Nat) (ok : Word → Word → Bool) :
    s.captured lc kind who num sub x aux clock ok = some (x, s) := by
  simp [State.captured, hl, hmode]

theorem LiveStream.lateValue {s : State} {pc k : Nat} {l : Launch} {v : Nat} {h : HeldElement} {x : Nat} {bad : Bool}
    (hs : LiveStream s pc k l v) (hmode : l.recMode = 0) (hatt : spAtt v = false) (hpf : spPf v = 1)
    (hsign : spSign v = false) :
    s.lateValue pc h x bad =
      .next ((s.setPctx pc ((s.pctx pc).takenLate h)).deliver pc h.n 1 (x % 2 ^ 64) bad h.bad) := by
  have hfound : (s.pctx pc).launch.bind s.launch = some l := by rw [hs.launch, Option.bind_some, hs.found]
  have htaken : ((s.setPctx pc ((s.pctx pc).takenLate h)).pctx pc).launch = some k := by
    rw [State.setPctx_same]
    exact hs.launch
  have hdel := State.deliverRecorded_live htaken hs.found h.n 1 (x % 2 ^ 64) bad h.bad hs.live.1
  simp only [State.lateValue, State.captured_off hfound hmode, hs.spec, hpf, hatt, extended, hsign]
  exact congrArg (fun o : Option State => Host.Outcome.next (o.getD s)) hdel

/-- A late delivery: the port context, and the token that sets out. -/
theorem State.deliver_late (s : State) (pc x : Nat) (h : HeldElement) (bad : Bool) {v : Nat} (hv : (s.pctx pc).spec.toNat = v)
    (hatt : spAtt v = false) (hkind : spKind v ≠ 4) :
    let t := (s.setPctx pc ((s.pctx pc).takenLate h)).deliver pc h.n 1 x bad h.bad
    let w := s.send (entryOf pc) (spDtile v) (spDest v) (valueToken x bad)
    t.pctx pc = ((s.pctx pc).takenLate h).delivered 1 bad ∧ OtherStreams s t pc ∧ t.arcs = w.arcs ∧ t.mem = w.mem := by
  intro t w
  let u := s.setPctx pc ((s.pctx pc).takenLate h)
  have hu : u.pctx pc = (s.pctx pc).takenLate h := State.setPctx_same ..
  obtain ⟨harcs, hmem⟩ := u.deliver_sends pc h.n 1 x bad h.bad (by rw [hu]; exact hv) hatt hkind
  have hsend := s.withStreams_send u.pctxs u.items (entryOf pc) (spDtile v) (spDest v) (valueToken x bad)
  refine ⟨?_, fun y hy => ?_, harcs.trans (congrArg State.arcs hsend :), hmem.trans (congrArg State.mem hsend :)⟩
  · rw [← hu]
    exact u.deliver_pctx ..
  · exact (u.deliver_other _ _ _ _ _ _ y hy).trans (State.setPctx_other _ _ _ _ hy)

/-- A diverted element that is tried and read is delivered late (R45, R46). -/
theorem exec_agnRetry_late {s u : State} {pc v x : Nat} {h : HeldElement} {bad : Bool} (hst : (s.pctx pc).stopped = none)
    (hv : (s.pctx pc).spec.toNat = v) (hlate : s.lateReady pc = some h)
    (hnone : ((agnCtxs pc).any fun c => c != pc && (s.lateReady c).any fun e => e.ord < h.ord) = false)
    (hkind : spKind v = 0)
    (hr : s.readElems pc (spPath v) (spSize v) false false (spPf v) (spAddr v h.n) 0 0 false = .ok x bad u) :
    exec (.agnRetry pc) s = u.lateValue pc h x bad := by
  change execAgnRetry pc s = _
  simp only [execAgnRetry, hst, hlate, hnone, hv, hkind, Bool.false_eq_true, if_false, if_true, hr]

end Sys2Proof.Machine

namespace Sys2Proof.Claims
open Sys2Proof Sys2Proof.Machine

theorem streamEnds : StreamEnds := by
  intro s pc k l v hs hw p hst hreads hdone hsent hatt hroom d e
  refine ⟨_, exec_endOfStream hs hw hst hreads hdone hsent hatt hroom, State.setPctx_same _ _ _, fun x hx => ?_, rfl, rfl⟩
  rw [State.setPctx_other _ _ _ _ hx, State.ends_pctx]

theorem streamRetries : StreamRetries := by
  intro s pc k l v hk hl hruns p htag hv hmode
  refine ⟨exec_agnRetry_waits, fun hw => ⟨fun h => exec_agnRetry_early, fun h hst hdue => ?_, ?_⟩⟩
  · exact ⟨_, exec_agnRetry_resumes hk hl hruns htag hw hst hdue, s.setPctx_same ..,
      fun x hx => s.setPctx_other _ _ _ hx, rfl⟩
  intro h rest x bad u hst hspill hdue hroom hpart hfirst hkind hatt hpf hsign hr d
  have now : LiveStream s pc k l v := ⟨hk, hl, hruns, hv, by simp [hmode], fun _ => by simp [hmode]⟩
  have hread := readElems_reads hr
  have hu := now.after hread
  have hlate := State.lateReady_first hk hl hruns htag hmode hst hspill hdue hpart hw hv hroom
  have hexec := exec_agnRetry_late hst hv hlate (agnCtxs_noneBefore hfirst) hkind (by rw [hpf]; exact hr)
  rw [hu.lateValue hmode hatt hpf hsign] at hexec
  obtain ⟨hpctx, hother, harcs, hmem⟩ := u.deliver_late pc (x % 2 ^ 64) h bad hu.spec hatt (by rw [hkind]; decide)
  replace hpctx := hpctx.trans (congrArg (fun q : PCtx => (q.takenLate h).delivered 1 bad) hread.same)
  refine ⟨_, hexec, ?_, (congrArg PCtx.pos hpctx :), (congrArg PCtx.count hpctx :), ?_, hother, harcs, hmem⟩
  · refine (congrArg PCtx.spill hpctx :).trans ?_
    change p.spill.erase h = rest
    rw [hspill, List.erase_cons_head]
  · refine (congrArg PCtx.acc hpctx :).trans ?_
    cases bad <;> simp [PCtx.delivered, PCtx.marked, PCtx.takenLate, stLATE, stPELEM, p]

end Sys2Proof.Claims

namespace Sys2Proof.Machine
open Sys2Proof Sys2Proof.Claims

/-! ### The completion of a stream (R85, R343) -/

theorem State.cleanFrames_none {s : State} (p : PCtx) (h : s.frameState = []) : s.cleanFrames p = s := by
  unfold State.cleanFrames
  dsimp only
  split
  · rfl
  · rw [h]
    exact congrArg (fun f => { s with frameState := f }) h.symm

/-- The completion message of a stream (R343). -/
def State.streamMsg (s : State) (pc : Nat) (p : PCtx) (post : BitVec 6 × BitVec 8) : Msg :=
  { hardMsg post.1 post.2 2 (word (pc % 512 + pc / 512 * 512)) (word (s.replica (4 * (pc / 512)))) (word p.count) p.acc with
    work := (p.item.bind s.item).map Item.queue }

/-- The message of a stream goes to the sequencer of its running launch, after the read of the timebase (R21, R343). -/
theorem State.postStream_some {s : State} {pc k : Nat} {l : Launch} {p : PCtx} {post : BitVec 6 × BitVec 8}
    (hpost : p.post = some post) (hk : p.launch = some k) (hl : s.launch k = some l) (hruns : l.runs = true) :
    s.postStream pc p = s.hold.hardPost l.seqn (s.streamMsg pc p post) := by
  have hlive : l.live = true := by
    unfold Launch.live Launch.runs at *
    rw [hruns, Bool.true_or]
  have hheld : s.hold.launch k = some l := hl
  simp only [State.postStream, hpost, hk, State.readTime, State.postLaunch, hheld, hlive]
  rfl

theorem exec_streamCompletion {s : State} {pc k : Nat} {l : Launch} {v : Nat} (hs : StreamRuns s pc k l v)
    (hframes : s.frameState = []) (hst : (s.pctx pc).st = .draining) (hdone : (s.pctx pc).statusDone = true)
    (hcharged : (s.pctx pc).charged = false) (hitem : (s.pctx pc).item = none)
    (hover : if spReads v then (s.pctx pc).eosSent = true
      else (s.pctx pc).eosA = true ∧ (spKind v ≠ 3 ∨ (s.pctx pc).eosB = true)) :
    exec (.streamCompletion pc) s = .next ((s.setPctx pc PCtx.reset).postStream pc (s.pctx pc)) := by
  obtain ⟨hk, hl, hruns, hv, -, htag, -⟩ := hs
  have hlaunch := State.pctxLaunch_some hk hl hruns
  have hcharge : s.chargeEnd (s.pctx pc) = s := by simp [State.chargeEnd, hk, hcharged]
  have hend : (if spReads v then (s.pctx pc).eosSent else (s.pctx pc).eosA && (spKind v != 3 || (s.pctx pc).eosB)) = true := by
    cases hr : spReads v <;> simpa [hr] using hover
  change execStreamCompletion pc s = _
  simp only [execStreamCompletion, hlaunch, hst, hdone, htag, hv, hend, State.cleanFrames_none _ hframes, hcharge, hitem]
  rfl

end Sys2Proof.Machine

namespace Sys2Proof.Claims
open Sys2Proof Sys2Proof.Machine

theorem streamCompletions : StreamCompletions := by
  intro s pc k l v hs hframes p hst hdone hcharged hitem hover
  have hexec := exec_streamCompletion hs hframes hst hdone hcharged hitem hover
  have hother : OtherStreams s (s.setPctx pc PCtx.reset) pc := fun x hx => s.setPctx_other _ _ _ hx
  obtain ⟨hk, hl, hruns, -, -, -, -⟩ := hs
  refine ⟨fun hpost => ?_, fun ch gen hpost => ?_⟩
  · have hquiet : (s.setPctx pc PCtx.reset).postStream pc p = s.setPctx pc PCtx.reset := by simp only [State.postStream, hpost]
    rw [hquiet] at hexec
    exact ⟨_, hexec, s.setPctx_same .., hother, rfl⟩
  · rw [State.postStream_some (s := s.setPctx pc PCtx.reset) hpost hk hl hruns] at hexec
    have hheld := State.setSeq_other (s.setPctx pc PCtx.reset).hold l.seqn
    exact ⟨_, _, hexec, s.setPctx_same .., hother, ⟨State.setSeq_same .., fun x => hheld x _⟩, rfl, rfl, rfl, rfl,
      BitVec.toNat_ofNat .., BitVec.toNat_ofNat .., BitVec.toNat_ofNat .., rfl, rfl⟩

/-- Settles O36: the end, the retries and the completion of a stream. -/
theorem streamEndsAndRetries : Obligations.StreamEndsAndRetries := ⟨streamEnds, streamRetries, streamCompletions⟩

end Sys2Proof.Claims

/-!
## Storage ports (R54 to R63)

A page of a storage copy is over in one of two ways, `State.pageOver` and `State.pageFails`, and both leave the next page before
the copy without a command (`PageEnds`). What a command does besides is told by one equation for each branch of
`State.pageIn`, `State.pageOut` and `State.commandFails`.
-/

namespace Sys2Proof.Machine
open Sys2Proof Sys2Proof.Claims

/-! ### Copies and their charges (R402) -/

section
variable (s : State) (k n : Nat) (j : CopyJob)

@[simp] theorem State.setCopy_same : (s.setCopy k j).copyJob k = some j := tabFind_put_same _ _ _

theorem State.setCopy_other {x : Nat} (h : x ≠ k) : (s.setCopy k j).copyJob x = s.copyJob x := tabFind_put_other _ _ _ _ h

theorem State.chargeCopy_frame : { s.chargeCopy j n with items := s.items } = s := by
  unfold State.chargeCopy
  split
  · exact s.chargeItem_frame ..
  · exact s.chargeLaunch_frame ..
  · rfl

theorem State.chargeCopy_storage : (s.chargeCopy j n).storage = s.storage := (congrArg State.storage (s.chargeCopy_frame n j) :)

theorem State.chargeCopy_copyJob (x : Nat) : (s.chargeCopy j n).copyJob x = s.copyJob x :=
  (congrArg (State.copyJob · x) (s.chargeCopy_frame n j) :)

end

/-! ### The end of a page (R56, R62) -/

/-- Nothing but copies, their commands and their charges lies between two states. -/
def OnlyPages (s t : State) : Prop := { t with copies := s.copies, storage := s.storage, items := s.items } = s

section
variable {s t : State} (h : OnlyPages s t)
include h

theorem OnlyPages.mem : t.mem = s.mem := (congrArg State.mem h :)
theorem OnlyPages.records : t.records = s.records := (congrArg State.records h :)
theorem OnlyPages.frameState : t.frameState = s.frameState := (congrArg State.frameState h :)
theorem OnlyPages.resetting : t.resetting = s.resetting := (congrArg State.resetting h :)

end

/-- The page of copy `k`, which stood at `j`, is over: the next one follows, and the copy's command is gone. -/
structure PageEnds (s t : State) (k : Nat) (j : CopyJob) (n : Nat) (x : Option Cause) : Prop where
  follows : PageFollows t k j n x
  storage : t.storage = s.storage.filter fun c => c.2.copy != k
  others : ∀ y, y ≠ k → t.copyJob y = s.copyJob y
  only : OnlyPages s t

section
variable {s : State} {k : Nat} {j : CopyJob} (h : s.copyJob k = some j)
include h

theorem State.pageOver_ends (moved : Bool) : PageEnds s (s.pageOver k moved) k j j.count j.cause := by
  simp only [State.pageOver, h]
  generalize 1024 + _ = n
  refine ⟨⟨{ j with page := j.page + 1, stopped := none }, ?_, rfl, rfl, rfl, rfl, fun y hy => ?_⟩,
    State.chargeCopy_storage .., fun y hy => ?_, ?_⟩
  · rw [State.chargeCopy_copyJob, State.setCopy_same]
  · rw [State.chargeCopy_storage] at hy
    simpa using (List.mem_filter.mp hy).2
  · rw [State.chargeCopy_copyJob, State.setCopy_other _ _ _ hy]
    rfl
  · exact (congrArg (fun u : State => { u with copies := s.copies, storage := s.storage }) (State.chargeCopy_frame _ n j) :)

theorem State.pageFails_ends (c : Cause) (moved : Bool) :
    PageEnds s (s.pageFails k c moved) k j (j.count + 1) (if j.cause.isSome then j.cause else some c) := by
  simp only [State.pageFails, h]
  obtain ⟨hfollows, hstorage, hothers, honly⟩ :=
    State.pageOver_ends (State.setCopy_same s k { j.because c with count := j.count + 1 }) moved
  exact ⟨hfollows, hstorage, fun y hy => (hothers y hy).trans (State.setCopy_other _ _ _ hy),
    (congrArg (fun u : State => { u with copies := s.copies }) honly :)⟩

end

/-! ### Pages and tags in memory (R56, R61, R63) -/

/-- A run of `n` bytes reads back, and every byte outside it is as before. -/
theorem memPut_run {m : List Host.Cell} (wf : Memory.wf m = true) (l : Nat) {bs : List Byte} {n : Nat} (h : bs.length = n) :
    memBytes (memPut m l bs) l n = bs ∧ ∀ x, x < l ∨ l + n ≤ x → memRead (memPut m l bs) x = memRead m x := by
  subst h
  exact ⟨memBytes_put_same bs m l wf, fun x hx => memRead_put_outside bs m l x wf hx⟩

theorem memBytes_congr {m m' : List Host.Cell} (n : Nat) {l : Nat}
    (h : ∀ x, l ≤ x → x < l + n → memRead m' x = memRead m x) : memBytes m' l n = memBytes m l n := by
  induction n generalizing l with
  | zero => rfl
  | succ n ih =>
    simp only [memBytes]
    rw [h l (Nat.le_refl l) (by omega), ih fun x hx hlt => h x (by omega) (by omega)]

/-- Pages of an extent stand one after another on its drive. -/
theorem State.drivePage_add (s : State) (v p q : Nat) : s.drivePage v (p + q) = s.drivePage v p + q * 131072 := by
  simp only [State.drivePage, driveLoc, place, pageSize]
  omega

/-- The tag pages of an image stand behind its data pages (R61). -/
theorem State.page_before_tag (s : State) {v p : Nat} (h : p ≤ exDpages v) : s.drivePage v p + 131072 ≤ s.tagLoc v p := by
  obtain ⟨d, hd⟩ := Nat.exists_eq_add_of_le h
  have hpage := s.drivePage_add v p (d + 1 + (p - 1) / 8192)
  rw [show p + (d + 1 + (p - 1) / 8192) = exDpages v + 1 + (p - 1) / 8192 by omega] at hpage
  simp only [State.tagLoc, hpage]
  omega

/-- Bytes that the tag of page `p` writes: all of its tag page when it is the first entry, else its own (R63). -/
def tagSpan (p : Nat) : Nat := if (p - 1) % 8192 = 0 then 131072 else 16

section
variable (s : State) (v p : Nat) (tag : List Byte)

theorem State.putTag_frame : { s.putTag v p tag with mem := s.mem, poison := s.poison } = s := by
  unfold State.putTag
  dsimp only
  split <;> rfl

theorem State.putTag_storage : (s.putTag v p tag).storage = s.storage := (congrArg State.storage (s.putTag_frame v p tag) :)
theorem State.putTag_records : (s.putTag v p tag).records = s.records := (congrArg State.records (s.putTag_frame v p tag) :)
theorem State.putTag_resetting : (s.putTag v p tag).resetting = s.resetting :=
  (congrArg State.resetting (s.putTag_frame v p tag) :)
theorem State.putTag_copyJob (x : Nat) : (s.putTag v p tag).copyJob x = s.copyJob x :=
  (congrArg (State.copyJob · x) (s.putTag_frame v p tag) :)

variable {s tag} (wf : Memory.wf s.mem = true) (htag : tag.length = 16)
include wf htag

/-- The tag stands in its entry, the rest of what it writes is zero, and every other byte is as before. -/
theorem State.putTag_mem : memBytes (s.putTag v p tag).mem (s.tagLoc v p) 16 = tag ∧
    (∀ x, s.tagLoc v p + 16 ≤ x → x < s.tagLoc v p + tagSpan p → memRead (s.putTag v p tag).mem x = 0) ∧
    (∀ x, x < s.tagLoc v p ∨ s.tagLoc v p + tagSpan p ≤ x → memRead (s.putTag v p tag).mem x = memRead s.mem x) := by
  unfold tagSpan State.putTag
  split
  case isTrue =>
    have hclear := memClear_wf (s.tagLoc v p) 131072 wf
    obtain ⟨hin, hout⟩ := memPut_run hclear (s.tagLoc v p) htag
    refine ⟨hin, fun x hx hlt => (hout x (.inr hx)).trans ?_, fun x hx => (hout x (by omega)).trans ?_⟩
    · exact memRead_clear_inside _ _ _ x (by omega) hlt
    · exact memRead_clear_outside _ _ _ x wf hx
  case isFalse =>
    obtain ⟨hin, hout⟩ := memPut_run wf (s.tagLoc v p) htag
    exact ⟨hin, fun x hx hlt => by omega, hout⟩

end

/-! ### What a page that fails leaves (R54, R57) -/

/-- A copy that no longer counts frame `f` among those that it has written whole. -/
def CopyJob.without (j : CopyJob) (f : Nat) : CopyJob := { j with clean := j.clean.filter (· != f) }

theorem State.failFrame_copyJob (s : State) (f : Nat) (v : BitVec 2) (x : Nat) :
    (s.failFrame f v).copyJob x = (s.copyJob x).map (CopyJob.without · f) := tabFind_map (CopyJob.without · f) s.copies x

theorem State.failFrame_copyJob_some {s : State} {k : Nat} {j : CopyJob} (h : s.copyJob k = some j) (f : Nat) (v : BitVec 2) :
    (s.failFrame f v).copyJob k = some (j.without f) := by
  rw [State.failFrame_copyJob, h, Option.map_some]

/-- The record of a port for the page of a command that has failed (R54). -/
def State.portRecord (s : State) (j : CopyJob) (c : Cause) : State :=
  s.raise c { origin := .storage, ctx := some j.ctx, pos := exPort j.sdesc.toNat + exNsid j.sdesc.toNat * 2, stop := false,
              addr := word j.pageNo }

section
variable (s : State) (j : CopyJob) (c : Cause) (a : Word)

theorem State.portRecord_record : ∃ f, (s.portRecord j c).records = s.records ++ [f] ∧ f.cause = c ∧ f.origin = .storage ∧
    f.stop = false ∧ f.addr = addrOf c (word j.pageNo) ∧ f.pos = exPort j.sdesc.toNat + exNsid j.sdesc.toNat * 2 :=
  ⟨_, rfl, rfl, rfl, rfl, rfl, rfl⟩

theorem State.copyRecord_record (stop : Bool) : ∃ f, (s.copyRecord j c a stop).records = s.records ++ [f] ∧ f.cause = c ∧
    f.origin = .copy ∧ f.stop = stop ∧ f.addr = addrOf c a :=
  ⟨_, rfl, rfl, rfl, rfl, rfl⟩

end

theorem addrOf_page {c : Cause} (h : c.addressed = true) (p : Nat) : (addrOf c (word p)).toNat = p % 2 ^ 64 := by
  rw [addrOf, if_pos h]
  exact BitVec.toNat_ofNat ..

section
variable (s : State) (r : List FaultRec) (g : Tab FaultRing) (p : List Nat)

/-- The state with other records and rings, and other controllers under reset. -/
def State.withRecords : State := { s with records := r, rings := g, resetting := p }

theorem State.withRecords_dataError (l n : Nat) : (s.withRecords r g p).dataError l n = s.dataError l n := by
  induction n generalizing l with
  | zero => rfl
  | succ n ih =>
    simp only [State.dataError, ih]
    rfl

theorem State.withRecords_walk (host : Bool) (va table : Nat) (levels : List (Nat × Nat × Nat)) :
    (s.withRecords r g p).walk host va table levels = s.walk host va table levels := by
  induction levels generalizing table with
  | nil => rfl
  | cons x rest ih =>
    simp only [State.walk, ih, withRecords_dataError]
    rfl

theorem State.withRecords_xlate (cap : Nat) (tlb : List TlbEntry) (ctx : Nat) (host : Bool) (va : Nat) (k : AccKind) :
    (s.withRecords r g p).xlate cap tlb ctx host va k = s.xlate cap tlb ctx host va k := by
  simp only [State.xlate, State.translate, State.root, withRecords_walk, withRecords_dataError]
  rfl

/-- The checks of an access do not look at records. -/
theorem State.withRecords_check (who : Who) (cap : Nat) (tlb : List TlbEntry) (k : AccKind) (a : Word) (n : Nat) :
    (s.withRecords r g p).check who cap tlb k a n = s.check who cap tlb k a n := by
  simp only [State.check, withRecords_xlate]
  rfl

theorem State.withRecords_pagePlace (j : CopyJob) : (s.withRecords r g p).pagePlace j = s.pagePlace j := by
  simp only [State.pagePlace, withRecords_check]

end

section
variable {s : State} {k l : Nat} {j : CopyJob} (h : s.copyJob k = some j)
include h

/-- A command into memory that fails: the port's record, and a frame with state 10 (R54, R57). -/
theorem State.commandFails_in (hin : exOut j.sdesc.toNat = false) (hp : s.pagePlace j = .ok l) (c : Cause) :
    s.commandFails k c = ((s.portRecord j c).failFrame (l / 131072) 2).pageFails k c := by
  have hp' : (s.portRecord j c).pagePlace j = .ok l := (s.withRecords_pagePlace _ _ _ j).trans hp
  simp only [State.commandFails, h, hin]
  change State.pageFails (match (s.portRecord j c).pagePlace j with | .ok l => _ | _ => _) k c = _
  rw [hp']
  rfl

/-- A command that fails ends its page after a step that leaves the commands, and the copies in their places. -/
theorem State.commandFails_eq (c : Cause) : ∃ u : State, s.commandFails k c = u.pageFails k c ∧ u.storage = s.storage ∧
    u.resetting = s.resetting ∧ ∀ x, (u.copyJob x).isSome = (s.copyJob x).isSome := by
  simp only [State.commandFails, h]
  refine ⟨_, rfl, ?_⟩
  split
  · split
    · exact ⟨State.putTag_storage .., State.putTag_resetting .., fun x => by rw [State.putTag_copyJob]; rfl⟩
    · exact ⟨rfl, rfl, fun _ => rfl⟩
  · split
    · exact ⟨rfl, rfl, fun x => by rw [State.failFrame_copyJob, Option.isSome_map]; rfl⟩
    · exact ⟨rfl, rfl, fun _ => rfl⟩

theorem State.pageNoKey_ends : ∃ f, (s.pageNoKey k j).records = s.records ++ [f] ∧ f.cause = .memNoKey ∧ f.origin = .copy ∧
    f.stop = false ∧ (s.pageNoKey k j).mem = s.mem ∧ (s.pageNoKey k j).frameState = s.frameState ∧
    PageFollows (s.pageNoKey k j) k j (j.count + 1) (if j.cause.isSome then j.cause else some .memNoKey) := by
  obtain ⟨f, hf, hcause, horigin, hstop, -⟩ := s.copyRecord_record j .memNoKey (word j.pageNo) false
  have hends := State.pageFails_ends (s := s.copyRecord j .memNoKey (word j.pageNo) false) h .memNoKey false
  exact ⟨f, hends.only.records.trans hf, hcause, horigin, hstop, hends.only.mem, hends.only.frameState, hends.follows⟩

end

/-! ### A page from a drive (R57, R60 to R62) -/

/-- The page that a storage copy moves next, as it stands on its drive. -/
def State.onDrive (s : State) (j : CopyJob) : List Byte := memBytes s.mem (s.drivePage j.sdesc.toNat j.pageNo) 131072

theorem State.onDrive_length (s : State) (j : CopyJob) : (s.onDrive j).length = 131072 := memBytes_length ..

/-- The next page of a copy stands in memory, and the copy counts its frame as written whole (R57). -/
def State.pageArrives (s : State) (k : Nat) (j : CopyJob) (l : Nat) (bs : List Byte) : State :=
  (State.setCopy (s.storeBytes l bs) k { j with clean := l / 131072 :: j.clean }).pageOver k

/-- A header page that is refused: its frame has state 01, and a record that stops the copy (R60, R62). -/
def State.headerRefused (s : State) (k : Nat) (j : CopyJob) (l : Nat) (c : Cause) : State :=
  ((s.failFrame (l / 131072) 1).copyRecord j c (word j.pageNo) true).pageFails k c

/-- A data page whose tag does not agree stands in memory, and its frame has state 01 (R57, R62). -/
def State.pageMistagged (s : State) (k : Nat) (j : CopyJob) (l : Nat) (bs : List Byte) : State :=
  (((s.storeBytes l bs).failFrame (l / 131072) 1).copyRecord j .memTagMismatch (word j.pageNo) false).pageFails k
    .memTagMismatch true

section
variable {s : State} {k l : Nat} {j : CopyJob}

theorem State.pageIn_plain (hw : exWci j.sdesc.toNat = false) : s.pageIn k j l = s.pageArrives k j l (s.onDrive j) := by
  simp only [State.pageIn, hw, Bool.not_false, true_or, if_true]
  rfl

theorem State.pageIn_header {x : Cause} {n : CopyJob} (hw : exWci j.sdesc.toNat = true) (h0 : j.pageNo = 0)
    (hx : headerCheck j.sdesc.toNat (s.onDrive j) = some x) (hn : (s.headerRefused k j l x).copyJob k = some n) :
    s.pageIn k j l = (s.headerRefused k j l x).setCopy k { n with failed := true } := by
  have hsmall : ¬ ((!exWci j.sdesc.toNat) = true ∨ exDpages j.sdesc.toNat < j.pageNo) := by simp [hw, h0]
  simp only [State.onDrive] at hx
  simp only [State.headerRefused] at hn ⊢
  simp only [State.pageIn, if_neg hsmall, if_pos h0, pageSize, hx, hn]

/-- A data page of a cache image, from 1 to DPAGES (R61). -/
structure CopyJob.AtData (j : CopyJob) : Prop where
  wci : exWci j.sdesc.toNat = true
  first : 0 < j.pageNo
  last : j.pageNo ≤ exDpages j.sdesc.toNat

theorem CopyJob.AtData.tagged (hd : j.AtData) : ¬ ((!exWci j.sdesc.toNat) = true ∨ exDpages j.sdesc.toNat < j.pageNo) := by
  simp [hd.wci, hd.last]

theorem State.pageIn_noKey (hd : j.AtData) (hkey : s.dataKey (exKey j.sdesc.toNat) = none) : s.pageIn k j l = s.pageNoKey k j := by
  simp only [State.pageIn, if_neg hd.tagged, if_neg hd.first.ne', hkey]

section
variable (hd : j.AtData) {key : List Byte} (hkey : s.dataKey (exKey j.sdesc.toNat) = some key)
include hd hkey

theorem State.pageIn_tagged (htag : pageTag key (exImgid j.sdesc.toNat) j.pageNo (s.onDrive j) =
    memBytes s.mem (s.tagLoc j.sdesc.toNat j.pageNo) 16) : s.pageIn k j l = s.pageArrives k j l (s.onDrive j) := by
  simp only [State.pageIn, if_neg hd.tagged, if_neg hd.first.ne', hkey]
  exact if_pos htag

theorem State.pageIn_mistagged (htag : pageTag key (exImgid j.sdesc.toNat) j.pageNo (s.onDrive j) ≠
    memBytes s.mem (s.tagLoc j.sdesc.toNat j.pageNo) 16) : s.pageIn k j l = s.pageMistagged k j l (s.onDrive j) := by
  simp only [State.pageIn, if_neg hd.tagged, if_neg hd.first.ne', hkey]
  exact if_neg htag

end

section
variable (wf : Memory.wf s.mem = true) {bs : List Byte} (hbs : bs.length = 131072)
include wf hbs

theorem State.pageArrives_ends :
    memBytes (s.pageArrives k j l bs).mem l 131072 = bs ∧
    (∀ x, x < l ∨ l + 131072 ≤ x → memRead (s.pageArrives k j l bs).mem x = memRead s.mem x) ∧
    PageFollows (s.pageArrives k j l bs) k j j.count j.cause ∧ (s.pageArrives k j l bs).frameState = s.frameState ∧
    (s.pageArrives k j l bs).records = s.records := by
  obtain ⟨hin, hout⟩ := memPut_run wf l hbs
  have hends := State.pageOver_ends
    (State.setCopy_same (s.storeBytes l bs) k { j with clean := l / 131072 :: j.clean }) true
  have hmem : (s.pageArrives k j l bs).mem = memPut s.mem l bs := hends.only.mem
  rw [hmem]
  exact ⟨hin, hout, hends.follows, hends.only.frameState, hends.only.records⟩

variable (h : s.copyJob k = some j)
include h

theorem State.pageMistagged_ends : ∃ f, (s.pageMistagged k j l bs).records = s.records ++ [f] ∧ f.cause = .memTagMismatch ∧
    f.addr = addrOf .memTagMismatch (word j.pageNo) ∧ f.stop = false ∧
    memBytes (s.pageMistagged k j l bs).mem l 131072 = bs ∧
    tabGet (s.pageMistagged k j l bs).frameState (l / 131072) 0 = 1 ∧
    PageFollows (s.pageMistagged k j l bs) k j (j.count + 1) (if j.cause.isSome then j.cause else some .memTagMismatch) := by
  obtain ⟨hin, -⟩ := memPut_run wf l hbs
  obtain ⟨f, hf, hcause, -, hstop, haddr⟩ := ((s.storeBytes l bs).failFrame (l / 131072) 1).copyRecord_record j
    .memTagMismatch (word j.pageNo) false
  have hends := State.pageFails_ends
    (s := ((s.storeBytes l bs).failFrame (l / 131072) 1).copyRecord j .memTagMismatch (word j.pageNo) false)
    (State.failFrame_copyJob_some (s := s.storeBytes l bs) h _ 1) .memTagMismatch true
  have hmem : (s.pageMistagged k j l bs).mem = memPut s.mem l bs := hends.only.mem
  have hframe : (s.pageMistagged k j l bs).frameState = tabPut s.frameState (l / 131072) 1 := hends.only.frameState
  rw [hmem, hframe, tabGet_put_same]
  exact ⟨f, hends.only.records.trans hf, hcause, haddr, hstop, hin, rfl, hends.follows⟩

end

theorem State.headerRefused_ends (h : s.copyJob k = some j) (c : Cause) :
    ∃ f, (s.headerRefused k j l c).records = s.records ++ [f] ∧ f.cause = c ∧ f.stop = true ∧
    (s.headerRefused k j l c).mem = s.mem ∧ tabGet (s.headerRefused k j l c).frameState (l / 131072) 0 = 1 ∧
    PageFollows (s.headerRefused k j l c) k j (j.count + 1) (if j.cause.isSome then j.cause else some c) := by
  obtain ⟨f, hf, hcause, -, hstop, -⟩ := (s.failFrame (l / 131072) 1).copyRecord_record j c (word j.pageNo) true
  have hends := State.pageFails_ends (s := (s.failFrame (l / 131072) 1).copyRecord j c (word j.pageNo) true)
    (State.failFrame_copyJob_some h _ 1) c false
  have hframe : (s.headerRefused k j l c).frameState = tabPut s.frameState (l / 131072) 1 := hends.only.frameState
  rw [hframe, tabGet_put_same]
  exact ⟨f, hends.only.records.trans hf, hcause, hstop, hends.only.mem, rfl, hends.follows⟩

end

/-! ### Commands and their completion (R54) -/

section
variable {s : State} {cmd k : Nat} {c : StorageCmd} {j : CopyJob} (hc : tabFind s.storage cmd = some c) (hk : c.copy = k)
  (hj : s.copyJob k = some j)
include hc hk hj

theorem exec_nvmeCompletion_late (late : s.timedOut c = true) (ok dnr : Bool) :
    exec (.nvmeCompletion cmd ok dnr) s = .next (s.portTimesOut c.port) := by
  subst hk
  change execNvmeCompletion cmd ok dnr s = _
  simp only [execNvmeCompletion, hc, hj, late, if_true]

variable (live : s.timedOut c = false) {dnr : Bool}
include live

theorem exec_nvmeCompletion_reissued (hd : dnr = false) (hr : c.reissued = false) : exec (.nvmeCompletion cmd false dnr) s =
    .next { s with storage := tabPut s.storage cmd { c with reissued := true, since := s.now } } := by
  subst hk hd
  change execNvmeCompletion cmd false false s = _
  simp [execNvmeCompletion, hc, hj, live, hr]

theorem exec_nvmeCompletion_fails (h : dnr = true ∨ c.reissued = true) :
    exec (.nvmeCompletion cmd false dnr) s = .next (s.commandFails k .memStorageError) := by
  subst hk
  change execNvmeCompletion cmd false dnr s = _
  simp [execNvmeCompletion, hc, hj, live, h]

theorem exec_nvmeCompletion_moves {l : Nat} (hp : s.pagePlace j = .ok l) : exec (.nvmeCompletion cmd true dnr) s =
    .next (if c.write then s.pageOut k j l else s.pageIn k j l) := by
  subst hk
  change execNvmeCompletion cmd true dnr s = _
  simp [execNvmeCompletion, hc, hj, live, hp]

end

/-! ### Granules that hold an error (R32, R57, R471) -/

theorem dataError_part {s : State} {n l : Nat} (h : s.dataError l n = none) {i m : Nat} (hm : i + m ≤ n) :
    s.dataError (l + i) m = none := by
  induction n generalizing l i m with
  | zero =>
    obtain ⟨rfl, rfl⟩ : i = 0 ∧ m = 0 := by omega
    rfl
  | succ n ih =>
    simp only [State.dataError] at h
    split at h
    case isTrue => cases h
    case isFalse hp =>
      split at h
      case h_1 => cases h
      case h_2 => cases h
      case h_3 h1 h2 =>
        cases i with
        | succ i => exact Nat.add_right_comm l 1 i ▸ ih h (by omega)
        | zero =>
          cases m with
          | zero => rfl
          | succ m =>
            have hrest : s.dataError (l + 1) m = none := ih (i := 0) h (by omega)
            simp only [Nat.add_zero, State.dataError, if_neg hp]
            exact hrest

section
variable {s : State} {l : Nat}

theorem State.badGranule_none (h : s.dataError l 131072 = none) : s.badGranule l = none := by
  refine List.find?_eq_none.mpr fun i hi => ?_
  have hlt : i < 8192 := List.mem_range.mp hi
  simp [dataError_part h (i := 16 * i) (m := 16) (by omega)]

theorem State.badGranule_first {i : Nat} (hi : i < 8192) (hbad : s.dataError (l + 16 * i) 16 ≠ none)
    (hfirst : ∀ x, x < i → s.dataError (l + 16 * x) 16 = none) : s.badGranule l = some i := by
  refine List.find?_range_eq_some.mpr ⟨Option.isSome_iff_ne_none.mpr hbad, List.mem_range.mpr hi, fun x hx => ?_⟩
  simp [hfirst x hx]

/-- The islands' records of a page change nothing but the records and their rings (R32). -/
theorem State.pageRecords_frame (j : CopyJob) : { s.pageRecords j l with records := s.records, rings := s.rings } = s := by
  unfold State.pageRecords
  generalize s.poison.filter _ = gs
  have hfold (u : State) (hu : { u with records := s.records, rings := s.rings } = s) : { gs.foldl (fun st g =>
      st.islandRecord j.ctx (16 * g) (j.pageAddr + word (16 * g - l))) u with records := s.records, rings := s.rings } = s := by
    induction gs generalizing u with
    | nil => exact hu
    | cons g r ih => exact ih _ hu
  exact hfold s rfl

end

/-! ### A page into a drive (R60, R61, R63, R345) -/

/-- A header page as the part writes it, MAJOR 1 and MINOR 0, with a tag (R60). -/
def headerWith (page tag : List Byte) : List Byte := page.take 8 ++ [0, 1] ++ (page.drop 10).take 230 ++ tag ++ page.drop 256

section
variable {page tag : List Byte} (h : 256 ≤ page.length)
include h

theorem headerOut_eq : headerOut page = headerWith page (List.replicate 16 0) := by
  have e : min 8 page.length = 8 := by omega
  simp [headerOut, untagged, headerWith, List.take_append, List.drop_append, List.take_take, List.drop_take, e]

theorem headerOut_tagged : (headerOut page).take 240 ++ tag ++ (headerOut page).drop 256 = headerWith page tag := by
  have e : min 8 page.length = 8 := by omega
  have e' : min 230 (page.length - 10) = 230 := by omega
  simp [headerOut_eq h, headerWith, List.take_append, List.drop_append, List.take_take, List.drop_take, e, e']

theorem headerWith_length (htag : tag.length = 16) : (headerWith page tag).length = page.length := by
  simp [headerWith, htag]
  omega

end

/-- A page of main memory or scratch. -/
def State.pageAt (s : State) (l : Nat) : List Byte := memBytes s.mem l 131072

theorem State.pageAt_length (s : State) (l : Nat) : (s.pageAt l).length = 131072 := memBytes_length ..

/-- A page stands on its drive. -/
def State.pageStored (s : State) (j : CopyJob) (bs : List Byte) : State := s.storeBytes (s.drivePage j.sdesc.toNat j.pageNo) bs

/-- A page that holds a poisoned granule: the islands' records, the copy's for its first one, and a zero tag (R63, R345). -/
def State.pagePoisoned (s : State) (k : Nat) (j : CopyJob) (l i : Nat) : State :=
  let s0 := s.pageRecords j l
  let s1 := if j.firstPsn then s0 else s0.copyRecord j .psnEgress (j.pageAddr + word (16 * i)) false
  ((s1.setCopy k { j with firstPsn := true }).putTag j.sdesc.toNat j.pageNo (List.replicate 16 0)).pageFails k .psnEgress

section
variable {s : State} {k l : Nat} {j : CopyJob}

theorem State.pageOut_poisoned {i : Nat} (hw : exWci j.sdesc.toNat = true) (h0 : 0 < j.pageNo) (hbad : s.badGranule l = some i) :
    s.pageOut k j l = s.pagePoisoned k j l i := by
  unfold State.pageOut
  rw [hbad]
  simp only [hw, h0, decide_true, Bool.and_self, if_true]
  rfl

section
variable (hclean : s.badGranule l = none)
include hclean

theorem State.pageOut_plain (hw : exWci j.sdesc.toNat = false) : s.pageOut k j l = (s.pageStored j (s.pageAt l)).pageOver k := by
  unfold State.pageOut
  rw [hclean]
  simp only [hw, Bool.not_false, if_true]
  rfl

variable (hw : exWci j.sdesc.toNat = true)
include hw

theorem State.pageOut_noKey (hkey : s.dataKey (exKey j.sdesc.toNat) = none) : s.pageOut k j l = s.pageNoKey k j := by
  unfold State.pageOut
  rw [hclean]
  simp only [hw, hkey, Bool.not_true, Bool.false_eq_true, if_false]

variable {key : List Byte} (hkey : s.dataKey (exKey j.sdesc.toNat) = some key)
include hkey

theorem State.pageOut_data (h0 : 0 < j.pageNo) : s.pageOut k j l =
    ((s.pageStored j (s.pageAt l)).putTag j.sdesc.toNat j.pageNo
      (pageTag key (exImgid j.sdesc.toNat) j.pageNo (s.pageAt l))).pageOver k := by
  unfold State.pageOut
  rw [hclean]
  simp only [hw, hkey, Bool.not_true, Bool.false_eq_true, if_false, h0, h0.ne', decide_true, Bool.and_self,
    if_true]
  rfl

theorem State.pageOut_header (h0 : j.pageNo = 0) : s.pageOut k j l =
    (s.pageStored j (headerWith (s.pageAt l)
      (pageTag key (exImgid j.sdesc.toNat) 0 (headerWith (s.pageAt l) (List.replicate 16 0))))).pageOver k := by
  have hlen : 256 ≤ (s.pageAt l).length := by rw [s.pageAt_length]; decide
  rw [← headerOut_tagged hlen, ← headerOut_eq hlen]
  unfold State.pageOut
  rw [hclean]
  simp only [hw, hkey, Bool.not_true, Bool.false_eq_true, if_false, h0, lt_irrefl, decide_false, Bool.and_false,
    if_true]
  simp only [State.pageStored, h0]
  rfl

end

/-- The bytes of a page stand on its drive and nowhere else. -/
theorem State.pageStored_ends (h : s.copyJob k = some j) (wf : Memory.wf s.mem = true) {bs : List Byte}
    (hbs : bs.length = 131072) : let t := (s.pageStored j bs).pageOver k
    memBytes t.mem (s.drivePage j.sdesc.toNat j.pageNo) 131072 = bs ∧
    (∀ x, x < s.drivePage j.sdesc.toNat j.pageNo ∨ s.drivePage j.sdesc.toNat j.pageNo + 131072 ≤ x →
      memRead t.mem x = memRead s.mem x) ∧
    PageFollows t k j j.count j.cause ∧ t.records = s.records := by
  intro t
  obtain ⟨hin, hout⟩ := memPut_run wf (s.drivePage j.sdesc.toNat j.pageNo) hbs
  have hends := State.pageOver_ends (s := s.pageStored j bs) h true
  have hmem : t.mem = memPut s.mem (s.drivePage j.sdesc.toNat j.pageNo) bs := hends.only.mem
  rw [hmem]
  exact ⟨hin, hout, hends.follows, hends.only.records⟩

/-- The bytes of a data page and its tag stand on the drive, and what the tag writes besides is zero (R61, R63). -/
theorem State.pageTagged_ends (h : s.copyJob k = some j) (wf : Memory.wf s.mem = true) {bs tag : List Byte}
    (hbs : bs.length = 131072) (htag : tag.length = 16) (hp : j.pageNo ≤ exDpages j.sdesc.toNat) :
    let v := j.sdesc.toNat
    let p := j.pageNo
    let t := ((s.pageStored j bs).putTag v p tag).pageOver k
    memBytes t.mem (s.drivePage v p) 131072 = bs ∧ memBytes t.mem (s.tagLoc v p) 16 = tag ∧
    (∀ x, s.tagLoc v p + 16 ≤ x → x < s.tagLoc v p + tagSpan p → memRead t.mem x = 0) ∧
    (∀ x, x < s.drivePage v p ∨ s.drivePage v p + 131072 ≤ x → x < s.tagLoc v p ∨ s.tagLoc v p + tagSpan p ≤ x →
      memRead t.mem x = memRead s.mem x) ∧
    PageFollows t k j j.count j.cause ∧ t.records = s.records := by
  intro v p t
  let u := s.pageStored j bs
  have wfu : Memory.wf u.mem = true := memPut_wf _ _ _ wf
  have hends := State.pageOver_ends (s := u.putTag v p tag) (j := j) ((u.putTag_copyJob ..).trans h) true
  have hmem : t.mem = (u.putTag v p tag).mem := hends.only.mem
  obtain ⟨hpage, hrest⟩ := memPut_run wf (s.drivePage v p) hbs
  obtain ⟨hentry, hzero, hout⟩ := State.putTag_mem v p wfu htag
  have hbefore := s.page_before_tag hp
  rw [hmem]
  refine ⟨(memBytes_congr _ fun x _ hx => hout x (.inl (Nat.lt_of_lt_of_le hx hbefore))).trans hpage, hentry, hzero,
    fun x hx hx' => (hout x hx').trans (hrest x hx), hends.follows, hends.only.records.trans (u.putTag_records ..)⟩

/-- A poisoned page is not written, and its tag is zero (R63, R345). -/
theorem State.pagePoisoned_ends (wf : Memory.wf s.mem = true) (i : Nat) :
    let v := j.sdesc.toNat
    let p := j.pageNo
    let t := s.pagePoisoned k j l i
    memBytes t.mem (s.tagLoc v p) 16 = List.replicate 16 0 ∧
    (∀ x, x < s.tagLoc v p ∨ s.tagLoc v p + tagSpan p ≤ x → memRead t.mem x = memRead s.mem x) ∧
    PageFollows t k j (j.count + 1) (if j.cause.isSome then j.cause else some .psnEgress) ∧
    (j.firstPsn = false → ∃ r, r ∈ t.records ∧ r.cause = .psnEgress ∧ r.origin = .copy ∧ r.stop = false ∧
      r.addr = j.pageAddr + word (16 * i)) := by
  intro v p t
  obtain ⟨u, hu, hframe, hrec⟩ : ∃ u : State, t = ((u.setCopy k { j with firstPsn := true }).putTag v p
      (List.replicate 16 0)).pageFails k .psnEgress ∧ { u with records := s.records, rings := s.rings } = s ∧
      (j.firstPsn = false → ∃ r, r ∈ u.records ∧ r.cause = .psnEgress ∧ r.origin = .copy ∧ r.stop = false ∧
        r.addr = j.pageAddr + word (16 * i)) := by
    refine ⟨_, rfl, ?_, fun hfirst => ?_⟩
    · split <;> exact s.pageRecords_frame j
    · obtain ⟨r, hr, hcause, horigin, hstop, haddr⟩ :=
        (s.pageRecords j l).copyRecord_record j .psnEgress (j.pageAddr + word (16 * i)) false
      rw [hfirst]
      exact ⟨r, hr ▸ List.mem_append_right _ List.mem_cons_self, hcause, horigin, hstop, haddr⟩
  let w := u.setCopy k { j with firstPsn := true }
  have hsame : w.mem = s.mem := (congrArg State.mem hframe :)
  have hloc : w.tagLoc v p = s.tagLoc v p := (congrArg (State.tagLoc · v p) hframe :)
  have hends := State.pageFails_ends (s := w.putTag v p (List.replicate 16 0)) (k := k)
    ((w.putTag_copyJob v p _ k).trans (u.setCopy_same k _)) .psnEgress false
  have hmem : t.mem = (w.putTag v p (List.replicate 16 0)).mem := hu ▸ hends.only.mem
  obtain ⟨hentry, -, hout⟩ := State.putTag_mem (s := w) v p (hsame ▸ wf) (List.length_replicate (n := 16) (a := (0 : Byte)))
  rw [hloc, hsame] at *
  rw [hmem]
  refine ⟨hentry, hout, hu ▸ hends.follows, fun hfirst => ?_⟩
  have hrecords : t.records = u.records := hu ▸ hends.only.records.trans (w.putTag_records ..)
  rw [hrecords]
  exact hrec hfirst

end

/-! ### Timeouts and resets of a port (R54) -/

/-- Firmware resets the controller of a port. -/
def State.resetPort (s : State) (p : Nat) : State :=
  { s with resetting := if s.resetting.contains p then s.resetting else p :: s.resetting }

theorem State.resetPort_contains (s : State) (p x : Nat) :
    (s.resetPort p).resetting.contains x = (x == p || s.resetting.contains x) := by
  unfold State.resetPort
  dsimp only
  split
  case isTrue h =>
    by_cases hx : x = p
    · simpa [hx] using h
    · simp [hx]
  case isFalse => exact List.contains_cons

/-- When every command of a list fails, the copies of the list have no command left, and no other command changes. -/
theorem State.commandsFail (e : Cause) (l : List (Nat × StorageCmd)) (s : State)
    (h : ∀ x, x ∈ l → s.copyJob x.2.copy ≠ none) :
    let t := l.foldl (fun st c => st.commandFails c.2.copy e) s
    t.resetting = s.resetting ∧ ∀ y, y ∈ t.storage → y ∈ s.storage ∧ ∀ x, x ∈ l → y.2.copy ≠ x.2.copy := by
  induction l generalizing s with
  | nil => exact ⟨rfl, fun y hy => ⟨hy, nofun⟩⟩
  | cons c r ih =>
    obtain ⟨j, hj⟩ := Option.ne_none_iff_exists'.mp (h c List.mem_cons_self)
    obtain ⟨u, hu, hstorage, hreset, hcopies⟩ := State.commandFails_eq hj e
    obtain ⟨i, hi⟩ := Option.isSome_iff_exists.mp ((hcopies c.2.copy).trans (by rw [hj]; rfl))
    have hends := State.pageFails_ends hi e false
    rw [← hu] at hends
    obtain ⟨n, hn, -⟩ := hends.follows
    have hrest (x) (hx : x ∈ r) : (s.commandFails c.2.copy e).copyJob x.2.copy ≠ none := by
      by_cases hxc : x.2.copy = c.2.copy
      · simp [hxc, hn]
      · rw [hends.others _ hxc, ← Option.isSome_iff_ne_none, hcopies]
        exact Option.isSome_iff_ne_none.mpr (h x (List.mem_cons_of_mem _ hx))
    obtain ⟨hreset', hleft⟩ := ih (s.commandFails c.2.copy e) hrest
    refine ⟨hreset'.trans (hends.only.resetting.trans hreset), fun y hy => ?_⟩
    obtain ⟨hy', hr⟩ := hleft y hy
    rw [hends.storage, hstorage, List.mem_filter] at hy'
    refine ⟨hy'.1, fun x hx => ?_⟩
    rcases List.mem_cons.mp hx with rfl | hx
    · simpa using hy'.2
    · exact hr x hx

/-- A list without two things of one number that holds things of one number alone is a singleton. -/
theorem eq_singleton_of_nodup {α : Type} {l : List (Nat × α)} {k : Nat} {x : α} (hd : (l.map fun p => p.1).Nodup)
    (hk : ∀ p, p ∈ l → p.1 = k) (hx : (k, x) ∈ l) : l = [(k, x)] := by
  have hrep : l.map (fun p => p.1) = List.replicate l.length k :=
    List.eq_replicate_iff.mpr ⟨List.length_map .., by simpa using fun p y h => hk (p, y) h⟩
  rw [hrep, List.nodup_replicate] at hd
  match l, hd, hx with
  | [p], _, hx => rw [List.mem_singleton.mp hx]

section
variable {s : State} {cmd k : Nat} {c : StorageCmd} (hc : tabFind s.storage cmd = some c)
include hc

theorem exec_storageCommandTimeout_early (h : s.timedOut c = false) : exec (.storageCommandTimeout cmd) s = .next s := by
  change execStorageCommandTimeout cmd s = _
  simp [execStorageCommandTimeout, hc, h]

theorem exec_storageCommandTimeout_late (h : s.timedOut c = true) :
    exec (.storageCommandTimeout cmd) s = .next (s.portTimesOut c.port) := by
  change execStorageCommandTimeout cmd s = _
  simp [execStorageCommandTimeout, hc, h]

/-- The only command of a port fails when the port times out. -/
theorem State.portTimesOut_only (hk : c.copy = k) (hd : (s.storage.map fun x => x.1).Nodup)
    (honly : ∀ x, x ∈ s.storage → x.2.port = c.port → x.1 = cmd) :
    s.portTimesOut c.port = (s.resetPort c.port).commandFails k .memStorageTimeout := by
  subst hk
  have hone : s.storage.filter (fun x => x.2.port == c.port) = [(cmd, c)] := by
    refine eq_singleton_of_nodup (hd.sublist (List.filter_sublist.map _)) (fun x hx => ?_)
      (List.mem_filter.mpr ⟨mem_of_tabFind hc, ?_⟩)
    · obtain ⟨hx, hp⟩ := List.mem_filter.mp hx
      exact honly x hx (by simpa using hp)
    · simp
  unfold State.portTimesOut
  dsimp only
  rw [hone]
  rfl

end

section
variable {s : State} {c : StorageCmd}

theorem State.timedOut_iff : s.timedOut c = true ↔ c.since + 2000000000 ≤ s.now ∨ s.resetting.contains c.port = true := by
  simp [State.timedOut, or_comm]

theorem State.timedOut_false (h : s.now < c.since + 2000000000) (hr : s.resetting.contains c.port = false) :
    s.timedOut c = false := by
  rw [← Bool.not_eq_true, State.timedOut_iff, hr, not_or]
  exact ⟨Nat.not_le.mpr h, Bool.false_ne_true⟩

/-- The commands of a port are gone once it times out. -/
theorem State.portTimesOut_storage (p : Nat) (h : ∀ x, x ∈ s.storage → s.copyJob x.2.copy ≠ none) :
    (∀ y, y ∈ (s.portTimesOut p).storage → y ∈ s.storage ∧ y.2.port ≠ p) ∧
    (s.portTimesOut p).resetting = (s.resetPort p).resetting := by
  obtain ⟨hreset, hleft⟩ := State.commandsFail .memStorageTimeout (s.storage.filter fun x => x.2.port == p) (s.resetPort p)
    fun x hx => h x (List.mem_filter.mp hx).1
  refine ⟨fun y hy => ?_, hreset⟩
  obtain ⟨hy, hne⟩ := hleft y hy
  exact ⟨hy, fun hp => hne y (List.mem_filter.mpr ⟨hy, by simpa using hp⟩) rfl⟩

end

section
variable {s : State} {k l : Nat} {j : CopyJob}

/-- A command into memory fails: one record of its port, a frame with state 10, and the next page (R54, R57). -/
theorem State.commandFails_ends (h : s.copyJob k = some j) (hin : exOut j.sdesc.toNat = false) (hp : s.pagePlace j = .ok l)
    (c : Cause) : ∃ f, (s.commandFails k c).records = s.records ++ [f] ∧ f.cause = c ∧ f.origin = .storage ∧
      f.stop = false ∧ f.addr = addrOf c (word j.pageNo) ∧ f.pos = exPort j.sdesc.toNat + exNsid j.sdesc.toNat * 2 ∧
      (s.commandFails k c).frameState = tabPut s.frameState (l / 131072) 2 ∧
      (s.commandFails k c).resetting = s.resetting ∧
      PageFollows (s.commandFails k c) k j (j.count + 1) (if j.cause.isSome then j.cause else some c) ∧
      (s.commandFails k c).mem = s.mem := by
  obtain ⟨f, hf, hcause, horigin, hstop, haddr, hpos⟩ := s.portRecord_record j c
  have hends := State.pageFails_ends (s := (s.portRecord j c).failFrame (l / 131072) 2)
    (State.failFrame_copyJob_some (s := s.portRecord j c) h _ 2) c false
  rw [← State.commandFails_in h hin hp] at hends
  exact ⟨f, hends.only.records.trans hf, hcause, horigin, hstop, haddr, hpos, hends.only.frameState, hends.only.resetting,
    hends.follows, hends.only.mem⟩

end

end Sys2Proof.Machine

namespace Sys2Proof.Claims
open Sys2Proof Sys2Proof.Machine

theorem nvmeCommands : NvmeCommands := by
  intro s cmd k c j dnr hc hk hj wf hnow hreset v
  have live := State.timedOut_false hnow hreset
  refine ⟨fun hd hr => ?_, fun l h hin hp => ?_, fun l hdir hw hp => ?_, fun l hdir hw hp hclean => ?_⟩
  · exact ⟨_, exec_nvmeCompletion_reissued hc hk hj live hd hr, tabFind_put_same ..,
      fun x hx => tabFind_put_other _ _ _ _ hx, rfl⟩
  · obtain ⟨f, hf, hcause, horigin, hstop, haddr, hpos, hframe, -, hfollows, hmem⟩ :=
      State.commandFails_ends hj hin hp .memStorageError
    refine ⟨_, f, exec_nvmeCompletion_fails hc hk hj live h, hf, hcause, horigin, hstop, haddr ▸ addrOf_page rfl _, hpos, ?_⟩
    rw [hframe]
    exact ⟨tabGet_put_same .., fun x hx => tabGet_put_other _ _ _ _ _ hx, hfollows, hmem⟩
  · obtain ⟨hin, hout, hfollows, hframe, hrecords⟩ :=
      State.pageArrives_ends (k := k) (l := l) (j := j) wf (s.onDrive_length j)
    refine ⟨_, exec_nvmeCompletion_moves hc hk hj live hp, ?_⟩
    rw [if_neg (by simp [hdir]), State.pageIn_plain hw]
    exact ⟨hin, hout, hfollows, hframe, hrecords⟩
  · refine ⟨_, exec_nvmeCompletion_moves hc hk hj live hp, ?_⟩
    rw [if_pos hdir, State.pageOut_plain (State.badGranule_none hclean) hw]
    exact State.pageStored_ends hj wf (s.pageAt_length l)

theorem cacheImagePages : CacheImagePages := by
  intro s cmd k l c j hc hk hj wf hnow hreset hdir hp v p page
  have hexec := exec_nvmeCompletion_moves hc hk hj (State.timedOut_false hnow hreset) (dnr := false) hp
  rw [if_neg (by simp [hdir])] at hexec
  refine ⟨fun x hw h0 hx => ?_, fun hw h0 hlast => ⟨fun key hkey htag => ?_, fun key hkey htag => ?_, fun hkey => ?_⟩⟩
  · obtain ⟨f, hf, hcause, hstop, hmem, hframe, n, hn, hpage, hcount, hfirst, -⟩ := State.headerRefused_ends (l := l) hj x
    rw [State.pageIn_header hw h0 hx hn] at hexec
    exact ⟨_, f, _, hexec, hmem, hframe, hf, hcause, hstop, State.setCopy_same .., hpage, rfl, hcount, hfirst⟩
  · rw [State.pageIn_tagged ⟨hw, h0, hlast⟩ hkey htag] at hexec
    obtain ⟨hin, -, hfollows, hframe, hrecords⟩ :=
      State.pageArrives_ends (k := k) (l := l) (j := j) wf (s.onDrive_length j)
    exact ⟨_, hexec, hin, hfollows, hrecords, hframe⟩
  · rw [State.pageIn_mistagged ⟨hw, h0, hlast⟩ hkey htag] at hexec
    obtain ⟨f, hf, hcause, haddr, hstop, hin, hframe, hfollows⟩ :=
      State.pageMistagged_ends (l := l) wf (s.onDrive_length j) hj
    exact ⟨_, f, hexec, hin, hframe, hf, hcause, haddr ▸ addrOf_page rfl _, hstop, hfollows⟩
  · rw [State.pageIn_noKey ⟨hw, h0, hlast⟩ hkey] at hexec
    obtain ⟨f, hf, hcause, -, -, hmem, hframe, hfollows⟩ := State.pageNoKey_ends hj
    exact ⟨_, f, hexec, hmem, hframe, hf, hcause, hfollows⟩

theorem cacheImageWrites : CacheImageWrites := by
  intro s cmd k l c j hc hk hj wf hnow hreset hdir hp hw v p page place entry own
  have hexec := exec_nvmeCompletion_moves hc hk hj (State.timedOut_false hnow hreset) (dnr := false) hp
  rw [if_pos hdir] at hexec
  refine ⟨fun key h0 hlast hclean hkey => ?_, fun key h0 hclean hkey => ?_, fun hclean hkey => ?_,
    fun i h0 hlast hi hbad hfirst => ?_⟩
  · rw [State.pageOut_data (State.badGranule_none hclean) hw hkey h0] at hexec
    exact ⟨_, hexec, State.pageTagged_ends hj wf (s.pageAt_length l) (pageTag_length ..) hlast⟩
  · rw [State.pageOut_header (State.badGranule_none hclean) hw hkey h0] at hexec
    refine ⟨_, hexec, State.pageStored_ends hj wf ?_⟩
    rw [headerWith_length _ (pageTag_length ..), s.pageAt_length]
    rw [s.pageAt_length]
    decide
  · rw [State.pageOut_noKey (State.badGranule_none hclean) hw hkey] at hexec
    obtain ⟨f, hf, hcause, horigin, hstop, hmem, -, hfollows⟩ := State.pageNoKey_ends hj
    exact ⟨_, f, hexec, hmem, hf, hcause, horigin, hstop, hfollows⟩
  · rw [State.pageOut_poisoned hw h0 (State.badGranule_first hi hbad hfirst)] at hexec
    exact ⟨_, hexec, State.pagePoisoned_ends wf i⟩

theorem storageTimeouts : StorageTimeouts := by
  intro s cmd k l c j hc hk hj hin hp hd due
  refine ⟨fun hnow hreset => exec_storageCommandTimeout_early hc (State.timedOut_false hnow hreset), fun h ok dnr => ?_,
    fun h hcopies => ?_, fun h honly => ?_, fun p => ⟨_, rfl, by simp, fun x hx => by simp [hx], rfl⟩⟩
  · have late := State.timedOut_iff.mpr h
    rw [exec_nvmeCompletion_late hc hk hj late, exec_storageCommandTimeout_late hc late]
  · obtain ⟨hstorage, hresetting⟩ := State.portTimesOut_storage c.port hcopies
    refine ⟨_, exec_storageCommandTimeout_late hc (State.timedOut_iff.mpr h), hstorage, ?_⟩
    rw [hresetting, State.resetPort_contains, beq_self_eq_true, Bool.true_or]
  · have hplace : (s.resetPort c.port).pagePlace j = .ok l := (s.withRecords_pagePlace s.records s.rings _ j).trans hp
    obtain ⟨f, hf, hcause, horigin, hstop, -, -, hframe, hresetting, hfollows, hmem⟩ :=
      State.commandFails_ends (s := s.resetPort c.port) hj hin hplace .memStorageTimeout
    have hexec := exec_storageCommandTimeout_late hc (State.timedOut_iff.mpr h)
    rw [State.portTimesOut_only hc hk hd honly] at hexec
    refine ⟨_, f, hexec, hf, hcause, horigin, hstop, ?_, ?_, fun p hne => ?_, hfollows, hmem⟩
    · rw [hframe, tabGet_put_same]
    · rw [hresetting, State.resetPort_contains, beq_self_eq_true, Bool.true_or]
    · rw [hresetting, State.resetPort_contains, beq_false_of_ne hne, Bool.false_or]

/-- Settles O38: each command's branch leaves one record at most, and its page and tag in their places. -/
theorem storagePorts : Obligations.StoragePorts := ⟨nvmeCommands, cacheImagePages, cacheImageWrites, storageTimeouts⟩

end Sys2Proof.Claims

/-!
## Copy engines (R57, R343 to R345, R396, R402)

A copy that is over is charged and leaves the list (`State.copyOff`); its message, or its packet's end, follows. A granule is
read, and then it is written or counted: `State.copyNext` moves the copy on in both cases.
-/

namespace Sys2Proof.Machine
open Sys2Proof Sys2Proof.Claims

/-! ### Frames that become clean (R57) -/

theorem tabGet_tabDel {α : Type} (t : Tab α) (k x : Nat) (d : α) :
    tabGet (tabDel t k) x d = if x = k then d else tabGet t x d := by
  split
  case isTrue h => rw [h, tabGet_eq_find, tabFind_del_same, Option.getD_none]
  case isFalse h => rw [tabGet_eq_find, tabFind_del_other _ _ _ h, tabGet_eq_find]

/-- The frames of a list are clean, in the order of the list. -/
def State.cleaned (s : State) (l : List Nat) : State := l.foldl (fun st f => st.cleanFrame f) s

theorem State.cleaned_frame (s : State) (l : List Nat) : { s.cleaned l with frameState := s.frameState } = s := by
  induction l generalizing s with
  | nil => rfl
  | cons f r ih => exact congrArg (fun u : State => { u with frameState := s.frameState }) (ih (s.cleanFrame f))

theorem State.cleaned_state (s : State) (l : List Nat) (f : Nat) :
    tabGet (s.cleaned l).frameState f 0 = if f ∈ l then 0 else tabGet s.frameState f 0 := by
  induction l generalizing s with
  | nil => rfl
  | cons g r ih =>
    have hclean : tabGet (s.cleanFrame g).frameState f 0 = if f = g then 0 else tabGet s.frameState f 0 := tabGet_tabDel ..
    refine (ih (s.cleanFrame g)).trans ?_
    rw [hclean]
    by_cases hr : f ∈ r <;> by_cases hg : f = g <;> simp [hr, hg]

/-! ### The end of a packet (R388, R401) -/

/-- An entry that is over has the time of its end (R401). -/
theorem State.closeItem_item (s : State) (k : Nat) (i : Item) :
    (s.closeItem k i).item k = some { i with phase := .finished, endTime := coreTime s } := by
  have htime : (word (s.replica s.coreClock)).toNat = coreTime s := BitVec.toNat_ofNat ..
  simp only [State.closeItem, State.readTime, State.setItem_same, htime]

theorem State.closeItem_other (s : State) (k : Nat) (i : Item) {x : Nat} (h : x ≠ k) : (s.closeItem k i).item x = s.item x :=
  State.setItem_other _ _ _ _ h

section
variable {s : State} {k : Nat} {i : Item} (h : s.item k = some i) (hb : i.busy = true)
include h hb

theorem State.packetDone_goesOn : GoesOn s (s.packetDone k) k i := by
  simp only [State.packetDone, h, hb, Bool.not_true, Bool.false_eq_true, if_false, GoesOn, doneItem]
  split
  · exact ⟨State.setItem_same .., rfl, fun x hx => State.setItem_other _ _ _ _ hx, rfl⟩
  · exact ⟨State.closeItem_item .., rfl, fun x hx => State.closeItem_other _ _ _ hx, rfl⟩

theorem State.packetFails_fails (c : Cause) : Fails s (s.packetFails k c) k i c := by
  simp only [State.packetFails, State.entryStops, h, hb, if_true]
  exact ⟨State.closeItem_item .., fun x hx => State.closeItem_other _ _ _ hx, rfl, rfl⟩

end

/-! ### Completion (R343, R396, R402) -/

theorem Cause.code_lt (c : Cause) : c.code < 2 ^ 64 := by cases c <;> decide

/-- A hardware message for a launch that holds its sequencer goes there (R309). -/
theorem State.postLaunch_live {s : State} {n : Nat} {l : Launch} (hl : s.launch n = some l) (hlive : l.live = true) (m : Msg) :
    s.postLaunch n m = s.hardPost l.seqn m := by
  simp only [State.postLaunch, hl, hlive, if_true]

/-- A copy between stores is off the list, and its final partial unit is charged (R402). -/
def State.copyOff (s : State) (k : Nat) (j : CopyJob) : State :=
  State.chargeCopy { s with copies := tabDel s.copies k } j (unitsLeft 256 j.done)

section
variable (s : State) (k : Nat) (j : CopyJob)

theorem State.copyOff_frame : { s.copyOff k j with copies := s.copies, items := s.items } = s :=
  (congrArg (fun u : State => { u with copies := s.copies })
    (State.chargeCopy_frame { s with copies := tabDel s.copies k } (unitsLeft 256 j.done) j) :)

theorem State.copyOff_same : (s.copyOff k j).copyJob k = none :=
  (State.chargeCopy_copyJob ..).trans (tabFind_del_same _ _)

theorem State.copyOff_other {x : Nat} (h : x ≠ k) : (s.copyOff k j).copyJob x = s.copyJob x :=
  (State.chargeCopy_copyJob ..).trans (tabFind_del_other _ _ _ h)

theorem State.copyOff_item {x : Nat} {i : Item} (hx : j.item = some x) (hi : s.item x = some i) :
    ItemIs s (s.copyOff k j) x { i with cheng := i.cheng + if j.done % 256 = 0 then 0 else 1 } := by
  simp only [State.copyOff, State.chargeCopy, hx]
  exact ⟨State.chargeItem_same _ _ _ hi, fun y hy => State.chargeItem_other _ _ _ hy⟩

end

/-- The message of a copy that a COPY instruction has started (R343). -/
def State.copyMsg (s : State) (j : CopyJob) (post : BitVec 6 × BitVec 8) : Msg :=
  hardMsg post.1 post.2 5 (word ((j.cause.map Cause.code).getD 0)) (word j.count) (word (s.replica (seqClock j.seqn))) j.desc

/-- A copy is off the list, and the frames that it has written whole are clean unless it has failed (R57). -/
def State.copySettled (s : State) (k : Nat) (j : CopyJob) : State :=
  if j.failed then s.copyOff k j else (s.copyOff k j).cleaned j.clean

section
variable (s : State) (k : Nat) (j : CopyJob)

theorem State.copySettled_copyJob (x : Nat) : (s.copySettled k j).copyJob x = (s.copyOff k j).copyJob x := by
  unfold State.copySettled
  split
  · rfl
  · exact (congrArg (State.copyJob · x) (State.cleaned_frame ..) :)

theorem State.copySettled_frame :
    { s.copySettled k j with copies := s.copies, items := s.items, frameState := s.frameState } = s := by
  have hoff := congrArg (fun u : State => { u with frameState := s.frameState }) (s.copyOff_frame k j)
  unfold State.copySettled
  split
  · exact hoff
  · exact (congrArg (fun u : State => { u with copies := s.copies, items := s.items, frameState := s.frameState })
      ((s.copyOff k j).cleaned_frame j.clean)).trans hoff

theorem State.copySettled_state (f : Nat) : tabGet (s.copySettled k j).frameState f 0 =
    if j.failed = false ∧ f ∈ j.clean then 0 else tabGet s.frameState f 0 := by
  have hoff : (s.copyOff k j).frameState = s.frameState := (congrArg State.frameState (s.copyOff_frame k j) :)
  unfold State.copySettled
  cases j.failed with
  | true => rw [if_pos rfl, hoff, if_neg (by simp)]
  | false => rw [if_neg Bool.false_ne_true, State.cleaned_state, hoff]; simp

end

section
variable {s : State} {k : Nat} {j : CopyJob} (hj : s.copyJob k = some j)
include hj

theorem exec_copyCompletion_waits (h : s.copyOver k j = false) : exec (.copyCompletion k) s = .next s := by
  change execCopyCompletion k s = _
  simp [execCopyCompletion, hj, h]

variable (hs : j.stor = false) (hover : s.copyOver k j = true)
include hs hover

theorem exec_copyCompletion_cancelled (hc : j.cancelled = true) : exec (.copyCompletion k) s = .next (s.copyOff k j) := by
  change execCopyCompletion k s = _
  simp only [execCopyCompletion, hj, hover, hs, hc]
  rfl

variable (hc : j.cancelled = false)
include hc

theorem exec_copyCompletion_posts {n : Nat} {ch : BitVec 6} {gen : BitVec 8} (hi : j.item = none) (hn : j.launch = some n)
    (hp : j.post = some (ch, gen)) :
    let u := s.copySettled k j
    exec (.copyCompletion k) s = .next (u.hold.postLaunch n (u.copyMsg j (ch, gen))) := by
  change execCopyCompletion k s = _
  simp only [execCopyCompletion, hj, hover, hs, hc, hi, hn, hp]
  rfl

variable {x : Nat} (hx : j.item = some x)
include hx

theorem exec_copyCompletion_fails {c : Cause} (hf : j.failed = true) (hcause : j.cause = some c) :
    exec (.copyCompletion k) s = .next ((s.copyOff k j).packetFails x c) := by
  change execCopyCompletion k s = _
  simp only [execCopyCompletion, hj, hover, hs, hc, hx, hf, hcause]
  rfl

theorem exec_copyCompletion_done {v : Item} (hf : j.failed = false) (hclean : j.clean = [])
    (hv : (s.copyOff k j).item x = some v) : exec (.copyCompletion k) s = .next (((s.copyOff k j).setItem x
      { v with cause := if v.cause.isSome then v.cause else j.cause }).packetDone x) := by
  have hv' : (State.chargeCopy { s with copies := tabDel s.copies k } j (unitsLeft 256 j.done)).item x = some v := hv
  change execCopyCompletion k s = _
  simp only [execCopyCompletion, hj, hover, hs, hc, hx, hf, hclean, List.foldl_nil, Bool.not_true, Bool.false_eq_true, if_false,
    hv']
  rfl

end

/-! ### One granule (R344, R345) -/

theorem State.chargeCopy_setCopy_onlyPages (s : State) (k n : Nat) (i j : CopyJob) : OnlyPages s ((s.setCopy k i).chargeCopy j n) :=
  (congrArg (fun u : State => { u with copies := s.copies, storage := s.storage })
    (State.chargeCopy_frame (s.setCopy k i) n j) :)

/-- The granule is over: the copy stands at the next one. -/
theorem State.copyNext_moves {s : State} {k : Nat} {j : CopyJob} (h : s.copyJob k = some j) (loc : Option Nat) :
    (∃ n, (s.copyNext k loc).copyJob k = some n ∧ n.done = j.done + 16 ∧ n.count = j.count ∧ n.cause = j.cause ∧
      n.firstPsn = j.firstPsn) ∧ OnlyPages s (s.copyNext k loc) := by
  simp only [State.copyNext, h]
  exact ⟨⟨_, (State.chargeCopy_copyJob ..).trans (State.setCopy_same ..), rfl, rfl, rfl, rfl⟩,
    State.chargeCopy_setCopy_onlyPages ..⟩

section
variable {s : State} {k : Nat} {j : CopyJob}

theorem State.copyStep_reads (hj : s.copyJob k = some j) (hs : j.stor = false) (hf : j.failed = false) (hc : j.cancelled = false)
    (ht : j.tag = none) (hstop : j.stopped = none) (hbuf : j.buf = none) (hdone : j.done < j.len) {a : Nat}
    (hsrc : s.copyPlace j .read (j.srca + word j.done) = .ok (.mem a)) :
    s.copyStep k = (s.engineRead j.ctx a 16 (j.srca + word j.done)).2.2.copyWrite k j (memBytes s.mem a 16)
      (if (s.dataError a 16).isSome then 3 else 0) := by
  have hlive : s.copyLive j = true := by simp [State.copyLive, hf, hc, ht, hstop]
  simp only [State.copyStep, hj, hlive, hs, Nat.not_le.mpr hdone, Bool.not_true, Bool.false_eq_true, if_false, State.copyGranule,
    hbuf, hsrc, Place.loc?]
  rfl

theorem State.copyWrite_stores {b : Nat} {bs : List Byte} (hdst : s.copyPlace j .write (j.dsta + word j.done) = .ok (.mem b))
    (hpath : pathOf (j.dsta + word j.done) ≠ 2) : s.copyWrite k j bs 0 = (s.storeBytes b bs).copyNext k (some b) := by
  simp [State.copyWrite, hdst, hpath, Place.loc?]

theorem State.copyWrite_poisoned {bs : List Byte} {mask : Nat} (hm : mask ≠ 0)
    (hl : s.leaves (pathOf (j.dsta + word j.done)) (j.dsta + word j.done).toNat = false) :
    s.copyWrite k j bs mask = s.copyPoisoned k j (j.dsta + word j.done) :=
  if_pos ⟨hm, by rw [hl]; rfl⟩

/-- A granule that is written stands at its destination and nowhere else. -/
theorem State.copyNext_stored (hj : s.copyJob k = some j) (wf : Memory.wf s.mem = true) (b : Nat) {bs : List Byte}
    (hbs : bs.length = 16) : let t := (s.storeBytes b bs).copyNext k (some b)
    ∃ n, t.copyJob k = some n ∧ n.done = j.done + 16 ∧ n.count = j.count ∧ n.cause = j.cause ∧ memBytes t.mem b 16 = bs ∧
      (∀ x, x < b ∨ b + 16 ≤ x → memRead t.mem x = memRead s.mem x) ∧ t.records = s.records := by
  obtain ⟨⟨n, hn, hdone, hcount, hcause, -⟩, honly⟩ := State.copyNext_moves (s := s.storeBytes b bs) hj (some b)
  obtain ⟨hin, hout⟩ := memPut_run wf b hbs
  have hmem : ((s.storeBytes b bs).copyNext k (some b)).mem = memPut s.mem b bs := honly.mem
  dsimp only
  rw [hmem]
  exact ⟨n, hn, hdone, hcount, hcause, hin, hout, honly.records⟩

/-- A granule on a path to this package does not leave it (R274). -/
theorem State.leaves_own {p : Nat} {a : Nat} (h : p = 6 → s.domain = true ∧ a / 2 ^ 52 % 64 = s.pkg) : s.leaves p a = false := by
  by_cases hp : p = 6
  · obtain ⟨hd, hpkg⟩ := h hp
    simp [State.leaves, hd, bits, ← hpkg]
  · simp [State.leaves, hp]

/-- The first granule of a copy that is not written: one record, the count and the first cause (R345). -/
theorem State.copyPoisoned_first (hfirst : j.firstPsn = false) (dst : Word) :
    let c : Cause := if pathOf dst = 7 then .psnEgress else .psnStore
    let t := s.copyPoisoned k j dst
    (∃ n, t.copyJob k = some n ∧ n.done = j.done + 16 ∧ n.count = j.count + 1 ∧
      n.cause = (if j.cause.isSome then j.cause else some c) ∧ n.firstPsn = true) ∧ t.mem = s.mem ∧
    ∃ r, r ∈ t.records ∧ r.cause = c ∧ r.origin = .copy ∧ r.stop = false ∧ r.addr = dst := by
  intro c t
  have hc : c.addressed = true := by
    unfold c
    split <;> rfl
  obtain ⟨r, hr, hcause, horigin, hstop, haddr⟩ := s.copyRecord_record j c dst false
  obtain ⟨hn, honly⟩ := State.copyNext_moves
    (State.setCopy_same (s.copyRecord j c dst false) k { j.because c with firstPsn := true, count := j.count + 1 }) none
  have ht : t = ((s.copyRecord j c dst false).setCopy k
      { j.because c with firstPsn := true, count := j.count + 1 }).copyNext k none := by
    simp only [t, State.copyPoisoned, hfirst]
    rfl
  rw [ht]
  refine ⟨hn, honly.mem, r, ?_, hcause, horigin, hstop, haddr.trans (if_pos hc)⟩
  rw [honly.records]
  exact hr ▸ List.mem_append_right _ List.mem_cons_self

end

end Sys2Proof.Machine

namespace Sys2Proof.Claims
open Sys2Proof Sys2Proof.Machine

/-- A copy that a COPY instruction has started posts its message (R343). -/
theorem copyPosts {s : State} {k n : Nat} {j : CopyJob} {l : Launch} {ch : BitVec 6} {gen : BitVec 8} (hj : s.copyJob k = some j)
    (hs : j.stor = false) (hover : s.copyOver k j = true) (hc : j.cancelled = false) (hi : j.item = none)
    (hn : j.launch = some n) (hl : s.launch n = some l) (hlive : l.live = true) (hp : j.post = some (ch, gen)) :
    ∃ t, exec (.copyCompletion k) s = .next t ∧ t.copyJob k = none ∧ (∀ x, x ≠ k → t.copyJob x = s.copyJob x) ∧
      Holds s t l.seqn (s.copyMsg j (ch, gen)) ∧
      (∀ f, tabGet t.frameState f 0 = if j.failed = false ∧ f ∈ j.clean then 0 else tabGet s.frameState f 0) ∧
      t.mem = s.mem ∧ t.records = s.records := by
  have hexec := exec_copyCompletion_posts hj hs hover hc hi hn hp
  have hframe := s.copySettled_frame k j
  have hjob := s.copySettled_copyJob k j
  have hclean := s.copySettled_state k j
  dsimp only at hexec
  generalize s.copySettled k j = u at *
  have hfound : u.hold.launch n = some l := (congrArg (State.launch · n) hframe :).trans hl
  have hseq (x : Nat) : u.hold.seq x = s.seq x := (congrArg (State.seq · x) hframe :)
  have hmsg : u.copyMsg j (ch, gen) = s.copyMsg j (ch, gen) := (congrArg (State.copyMsg · j (ch, gen)) hframe :)
  rw [State.postLaunch_live hfound hlive, hmsg] at hexec
  refine ⟨_, hexec, (hjob k).trans (s.copyOff_same k j), fun x hx => (hjob x).trans (s.copyOff_other k j hx),
    ⟨?_, fun x hx => (State.setSeq_other _ _ _ _ hx).trans (hseq x)⟩, hclean, (congrArg State.mem hframe :),
    (congrArg State.records hframe :)⟩
  rw [State.hardPost, State.setSeq_same, hseq]

theorem copyCompletions : CopyCompletions := by
  refine ⟨fun s k j hj hc hs => ⟨exec_copyCompletion_waits hj, fun n l ch gen hover hi hn hl hlive hp => ?_,
    fun x i hover hx hi hrun hclean => ⟨fun hf => ?_, fun c hf hcause => ?_⟩⟩,
    fun s k x j i hj hc hs hover hx hi => ⟨_, exec_copyCompletion_cancelled hj hs hover hc, s.copyOff_same k j,
      s.copyOff_item k j hx hi, s.copyOff_frame k j⟩⟩
  · obtain ⟨t, hexec, hgone, hothers, hheld, hframes, hmem, hrecords⟩ := copyPosts hj hs hover hc hi hn hl hlive hp
    refine ⟨t, _, hexec, hgone, hothers, hheld, rfl, rfl, rfl, rfl, ?_, BitVec.toNat_ofNat .., BitVec.toNat_ofNat .., rfl,
      hframes, hmem, hrecords⟩
    unfold State.copyMsg
    cases j.cause with
    | none => rfl
    | some c => exact Nat.mod_eq_of_lt (Cause.code_lt c)
  all_goals
    obtain ⟨hitem, -⟩ := s.copyOff_item k j hx hi
    have hbusy : i.busy = true := by simp [Item.busy, hrun]
  · have hends := State.packetDone_goesOn (State.setItem_same (s.copyOff k j) x
      { i with cheng := i.cheng + if j.done % 256 = 0 then 0 else 1, cause := if i.cause.isSome then i.cause else j.cause })
      hbusy
    have ⟨_, _, _, hframe⟩ := hends
    exact ⟨_, _, exec_copyCompletion_done hj hs hover hc hx hf hclean hitem,
      (congrArg (State.copyJob · k) hframe :).trans (s.copyOff_same k j), hends, (s.copyOff_frame k j :)⟩
  · have hends := State.packetFails_fails hitem hbusy c
    have ⟨_, _, _, hframe⟩ := hends
    exact ⟨_, _, exec_copyCompletion_fails hj hs hover hc hx hf hcause,
      (congrArg (State.copyJob · k) hframe :).trans (s.copyOff_same k j), hends, s.copyOff_frame k j⟩

theorem copyMoves : CopyMoves := by
  intro s k j a b hj hs hf hc ht hstop hbuf hdone wf src dst hsrc hown
  have hstep := State.copyStep_reads hj hs hf hc ht hstop hbuf hdone hsrc
  refine ⟨fun hclean hdst hpath => ?_, fun e herr hfirst => ?_⟩
  · rw [engineRead_clean _ _ hclean, hclean, Option.isSome_none, if_neg Bool.false_ne_true,
      State.copyWrite_stores hdst hpath] at hstep
    rw [hstep]
    exact State.copyNext_stored hj wf b (memBytes_length ..)
  · have hframe := s.engineRead_frame j.ctx a 16 (j.srca + word j.done)
    rw [herr, Option.isSome_some, if_pos rfl] at hstep
    generalize (s.engineRead j.ctx a 16 (j.srca + word j.done)).2.2 = u at hframe hstep
    have hleaves : u.leaves (pathOf dst) dst.toNat = false :=
      (congrArg (State.leaves · (pathOf dst) dst.toNat) hframe :).trans (State.leaves_own hown)
    rw [State.copyWrite_poisoned (Nat.succ_ne_zero 2) hleaves] at hstep
    obtain ⟨⟨n, hn, hdone', hcount, hcause, hpsn⟩, hmem, hrecord⟩ := State.copyPoisoned_first (s := u) (k := k) hfirst dst
    rw [hstep]
    exact ⟨n, hn, hdone', hcount, hcause, hpsn, hmem.trans (congrArg State.mem hframe :), hrecord⟩

/-- Settles O39: what a copy leaves when it is over, and where each granule goes. -/
theorem copyEngines : Obligations.CopyEngines := ⟨copyCompletions, copyMoves⟩

end Sys2Proof.Claims

/-!
## Streams that take tokens, and their status words

A step of such a stream reads, delivers or writes, and then moves its port context on; what it does to the port context alone is a
`StreamIs`. An element that is written is an `ElementWritten`, and a stop for good follows `State.agnFault_stops_from` (R49, R78 to
R82, R243, R274).
-/

namespace Sys2Proof.Machine
open Sys2Proof Sys2Proof.Claims

/-! ### Steps of a stream on its port context (R71) -/

/-- Port context `pc` becomes `q`, and nothing else changes. -/
structure StreamIs (s t : State) (pc : Nat) (q : PCtx) : Prop where
  same : t.pctx pc = q
  others : OtherStreams s t pc
  frame : { t with pctxs := s.pctxs } = s

section
variable {s t u : State} {pc : Nat} {q q' : PCtx}

theorem StreamIs.refl (s : State) (pc : Nat) : StreamIs s s pc (s.pctx pc) := ⟨rfl, fun _ _ => rfl, rfl⟩

theorem StreamIs.set (s : State) (pc : Nat) (q : PCtx) : StreamIs s (s.setPctx pc q) pc q :=
  ⟨s.setPctx_same pc q, fun _ hx => s.setPctx_other _ _ _ hx, rfl⟩

theorem StreamIs.trans (h : StreamIs s t pc q) (h' : StreamIs t u pc q') : StreamIs s u pc q' where
  same := h'.same
  others x hx := (h'.others x hx).trans (h.others x hx)
  frame := (congrArg (fun v : State => { v with pctxs := s.pctxs }) h'.frame).trans h.frame

theorem StreamIs.mem (h : StreamIs s t pc q) : t.mem = s.mem := (congrArg State.mem h.frame :)
theorem StreamIs.arcs (h : StreamIs s t pc q) : t.arcs = s.arcs := (congrArg State.arcs h.frame :)
theorem StreamIs.records (h : StreamIs s t pc q) : t.records = s.records := (congrArg State.records h.frame :)
theorem StreamIs.items (h : StreamIs s t pc q) : t.items = s.items := (congrArg State.items h.frame :)

/-- A step on the port context alone charges nothing more. -/
theorem StreamIs.charged (h : StreamIs s t pc q) {l : Launch} {z n : Nat} (hu : Charged u s l q' z n) : Charged u t l q' z n := by
  simpa only [Charged, State.item, h.items] using hu

/-- The stream's index or value token is used up. -/
theorem StreamIs.popA {w : Token} {r : List Token} (h : StreamIs s t pc q) (hq : q.inA = w :: r) :
    StreamIs s (t.popA pc) pc { q with inA := r } := by
  have hpop : t.popA pc = t.setPctx pc { q with inA := r } := by
    simp only [State.popA, h.same, hq, List.drop_succ_cons, List.drop_zero]
  exact hpop ▸ h.trans (.set ..)

theorem StreamIs.popB {w : Token} {r : List Token} (h : StreamIs s t pc q) (hq : q.inB = w :: r) :
    StreamIs s (t.popB pc) pc { q with inB := r } := by
  have hpop : t.popB pc = t.setPctx pc { q with inB := r } := by
    simp only [State.popB, h.same, hq, List.drop_succ_cons, List.drop_zero]
  exact hpop ▸ h.trans (.set ..)

theorem StreamIs.advance (h : StreamIs s t pc q) (n : Nat) : StreamIs s (t.advance pc n) pc (q.moved n) := by
  rw [State.advance_eq, h.same]
  exact h.trans (.set ..)

end

/-! ### The AGN turns to a stream (R72) -/

theorem State.served_eq (s : State) (pc : Nat) : s.served pc = turned s pc := rfl

@[simp] theorem turned_pctx (s : State) (pc x : Nat) : (turned s pc).pctx x = s.pctx x := rfl

/-! ### Stops for good (R85, R430, R431) -/

/-- A fault that stops an AGN for good after a step on its port context, whatever token its record names. -/
theorem State.agnFault_stops_from {s u : State} {pc k : Nat} {l : Launch} {q : PCtx} (h : StreamIs s u pc q)
    (hk : q.launch = some k) (hl : s.launch k = some l) (c : Cause) (a : Word) (tok : Option Token := none) :
    AgnStops s (u.agnFault pc c a tok) pc k c a := by
  let w := (u.agnRecord pc c a true tok).setPctx pc { u.pctx pc with st := .frozen, tag := none }
  have hfault : u.agnFault pc c a tok = w.freeze (some k) c := by
    rw [← hk, ← h.same]
    rfl
  have hw : w.launch k = some l := (congrArg (State.launch · k) h.frame :).trans hl
  have keeps {α : Type} (f : State → α) (hf : ∀ (x : State) ls, f { x with launches := ls } = f x) :
      f (w.freeze (some k) c) = f w := State.freeze_keeps f hf ..
  rw [hfault]
  refine ⟨⟨_, (keeps State.records fun _ _ => rfl).trans (congrArg (· ++ _) h.records :), rfl, rfl, rfl, rfl⟩, ?_,
    fun x hx => ?_, w.freeze_frozen c hw, (keeps State.mem fun _ _ => rfl).trans h.mem,
    (keeps State.arcs fun _ _ => rfl).trans h.arcs⟩
  · rw [keeps (·.pctx pc) fun _ _ => rfl, State.setPctx_same]
  · rw [keeps (·.pctx x) fun _ _ => rfl, State.setPctx_other _ _ _ _ hx]
    exact h.others x hx

/-! ### Tokens do not look at the turns of AGNs (R72, R77) -/

/-- The state with other turns of the AGNs and another count of free choices. -/
def State.withTurns (s : State) (a : Tab Nat) (c : Nat) : State := { s with agnLast := a, choice := c }

section
variable (s : State) (a : Tab Nat) (c : Nat)

theorem State.withTurns_ringPlace (t : Nat) (r : Ring) (n : Nat) (k : AccKind) :
    (s.withTurns a c).ringPlace t r n k = s.ringPlace t r n k := rfl

theorem State.withTurns_arrives (t g : Nat) (k : Token) :
    ((s.withTurns a c).arrives t g k).arcs = (s.arrives t g k).arcs ∧
      ((s.withTurns a c).arrives t g k).mem = (s.arrives t g k).mem := by
  rcases s.arrives_cases t g with hq | ⟨r, hr, hfull⟩
  · rw [State.arrives_queue k hq, State.arrives_queue (s := s.withTurns a c) k hq]
    exact ⟨rfl, rfl⟩
  · have hplace := s.withTurns_ringPlace a c t r r.wr .write
    cases hp : s.ringPlace t r r.wr .write with
    | some l =>
      rw [State.arrives_ring k hr hfull hp, State.arrives_ring (s := s.withTurns a c) k hr hfull (hplace.trans hp)]
      exact ⟨rfl, rfl⟩
    | none =>
      rw [State.arrives_fault k hr hfull hp, State.arrives_fault (s := s.withTurns a c) k hr hfull (hplace.trans hp)]
      simp only [State.adapterFault_arcs, State.adapterFault_mem]
      exact ⟨rfl, rfl⟩

theorem State.withTurns_send (src t g : Nat) (k : Token) :
    ((s.withTurns a c).send src t g k).arcs = (s.send src t g k).arcs ∧
      ((s.withTurns a c).send src t g k).mem = (s.send src t g k).mem := by
  by_cases hg : g = 0x1FF
  · rw [s.send_discarded k hg, State.send_discarded _ k hg]
    exact ⟨rfl, rfl⟩
  · by_cases hs : src = t
    · rw [s.send_home k hg hs, State.send_home _ k hg hs]
      exact s.withTurns_arrives ..
    · rw [s.send_abroad k hg hs, State.send_abroad _ k hg hs]
      exact ⟨rfl, rfl⟩

end

end Sys2Proof.Machine

namespace Sys2Proof.Claims
open Sys2Proof Sys2Proof.Machine

/-! ### The turn of a stream, by its kind (R72, R79 to R81) -/

section
variable {s : State} {pc k : Nat} {l : Launch} {v : Nat} (hs : StreamRuns s pc k l v) (hw : s.agnRecordWaits pc = false)
include hs hw

theorem StreamRuns.ready (hi : Issues s pc) : s.agnReady pc = true := by
  obtain ⟨hk, hl, hruns, -, hst, -, -⟩ := hs
  exact State.agnReady_true hi (State.agnActs_true hk hl hruns hw) hst

theorem StreamRuns.takes (hst : (s.pctx pc).st = .running ∨ (s.pctx pc).st = .stopping ∨ (s.pctx pc).st = .draining) :
    s.agnTakes pc = true := by
  obtain ⟨hk, hl, hruns, -, hstop, htag, -⟩ := hs
  have hacts := State.agnActs_true hk hl hruns hw
  rcases hst with h | h | h <;> simp [State.agnTakes, hacts, h, hstop, htag]

end

/-- A port context of a running launch, after the AGN has turned to it. -/
theorem StreamRuns.turned {s : State} {pc k : Nat} {l : Launch} {v : Nat} (hs : StreamRuns s pc k l v) (hlive : ReadsLive l v) :
    LiveStream (turned s pc) pc k l v := by
  obtain ⟨hk, hl, hruns, hv, -, -, -⟩ := hs
  exact ⟨hk, hl, hruns, hv, hlive⟩

end Sys2Proof.Claims

namespace Sys2Proof.Machine
open Sys2Proof Sys2Proof.Claims

/-! ### Gathers (R79) -/

/-- A gather's element is over: its index token is used up, and the stream moves on. -/
def State.gathered (t : State) (pc : Nat) : State := (t.popA pc).advance pc 1

section
variable {s : State} {pc k : Nat} {l : Launch} {v : Nat} {w : Token} {rest : List Token} (hs : StreamRuns s pc k l v)
  (hi : Issues s pc) (hw : s.agnRecordWaits pc = false) (ht : InTurn s pc) (hkind : spKind v = 2)
  (hin : (s.pctx pc).inA = w :: rest)
include hs hi hw ht hkind hin

theorem State.gatherTurn (h : w.isEos = true ∨ s.readFree pc = true) : s.agnTurn pc 2 = true := by
  have hready := hs.ready hw hi
  obtain ⟨-, -, -, hv, -, -, -⟩ := hs
  exact State.agnTurn_true ht (by rw [hv, hkind]) (by rcases h with h | h <;> simp [State.agnCan, hv, hkind, hready, hin, h])

theorem exec_indirectGather_ends (he : w.isEos = true) : exec (.indirectGather pc) s =
    .next ((turned s pc).setPctx pc { s.pctx pc with inA := rest, eosA := true, st := .draining }) := by
  have hturn := State.gatherTurn hs hi hw ht hkind hin (.inl he)
  change execIndirectGather pc s = _
  simp only [execIndirectGather, hturn, hin, he]
  rfl

variable (he : w.isEos = false) (hroom : s.streamRoom pc v = true)
include he hroom

theorem exec_indirectGather_reads (hp : w.psn = false) (hre : spReord v = false) {a : Int} (ha : spIndex v w = some a)
    {t : State} (hr : (turned s pc).readValue pc (spPath v) (spSize v) 1 (s.pctx pc).pos a (State.gathered · pc) = .next t) :
    exec (.indirectGather pc) s = .next t := by
  obtain ⟨-, -, -, hv, -, htag, hpart⟩ := id hs
  have hturn := State.gatherTurn hs hi hw ht hkind hin (.inr (State.readFree_true hv htag hpart hroom (by simp [hre])))
  unfold State.gathered at hr
  change execIndirectGather pc s = _
  simp only [execIndirectGather, State.served_eq, hturn, hin, he, hv, hp, ha, hre, hr]
  rfl

/-- A poisoned index, or one out of bounds, delivers a poisoned element without an access. -/
theorem exec_indirectGather_poisoned (hbad : w.psn = true ∨ spIndex v w = none)
    (hspill : spReord v = true → s.agnSpill pc < 64) :
    exec (.indirectGather pc) s =
      .next (((turned s pc).deliverPoison pc (s.pctx pc).pos).elim s (State.gathered · pc)) := by
  obtain ⟨-, -, -, hv, -, htag, hpart⟩ := id hs
  have hturn := State.gatherTurn hs hi hw ht hkind hin (.inr (State.readFree_true hv htag hpart hroom hspill))
  have hskip : (w.psn || (spIndex v w).isNone) = true := by rcases hbad with h | h <;> simp [h]
  change execIndirectGather pc s = _
  simp only [execIndirectGather, hturn, hin, he, hv, hskip]
  rfl

end

/-- A single unsigned element that is read is delivered as it stands. -/
theorem LiveStream.readValue_single {s u : State} {pc k : Nat} {l : Launch} {v path z n x : Nat} {a : Int} {bad : Bool}
    {done : State → State} (h : LiveStream s pc k l v) (hpf : spPf v = 1) (hsign : spSign v = false)
    (hr : s.readElems pc path z l.nrx true 1 a 0 0 false = .ok x bad u) :
    s.readValue pc path z 1 n a done = .next (done (u.deliver pc n 1 x bad (s.pctx pc).bitmapBad)) := by
  have hval := h.readValue_ok (n := n) (done := done) (hpf.symm ▸ hr)
  rw [tokenBits_eq, if_neg (by simp [hsign]), hpf] at hval
  exact hval

theorem LiveStream.deliverPoison {s : State} {pc k : Nat} {l : Launch} {v : Nat} (h : LiveStream s pc k l v) (n : Nat) :
    s.deliverPoison pc n = some (s.bump.deliver pc n 1 (s.freeElem (spSize v)) true false) := by
  rw [← h.spec]
  exact State.deliverRecorded_live (s := s.bump) h.launch h.found n 1 _ true false h.live.1

/-- The address that an index names, when it is in bounds. -/
theorem spIndex_inside {v : Nat} {w : Token} (h : 0 ≤ w.data.toInt ∧ w.data.toInt < (spBound v : Int)) :
    spIndex v w = some ((spBase v : Int) + w.data.toInt * spStr v 0) := if_pos h

theorem spIndex_outside {v : Nat} {w : Token} (h : ¬ (0 ≤ w.data.toInt ∧ w.data.toInt < (spBound v : Int))) :
    spIndex v w = none := if_neg h

/-- A gather's element that is delivered: the token sets out, and the stream moves on past its index. -/
theorem State.gathered_is {u : State} {pc : Nat} (n x : Nat) (bad coord : Bool) {v : Nat}
    (hv : (u.pctx pc).spec.toNat = v) {w : Token} {rest : List Token} (hin : (u.pctx pc).inA = w :: rest) :
    StreamIs (u.deliver pc n 1 x bad coord) ((u.deliver pc n 1 x bad coord).gathered pc) pc
      { advanced v 1 bad (u.pctx pc) with inA := rest } := by
  subst hv
  have h := StreamIs.refl (u.deliver pc n 1 x bad coord) pc
  rw [State.deliver_pctx] at h
  exact (h.popA hin).advance 1

end Sys2Proof.Machine

namespace Sys2Proof.Claims
open Sys2Proof Sys2Proof.Machine

theorem gathers : Gathers := by
  intro s pc k l v w rest hs hi hw ht hlive hkind hatt hpf hsign p hin i inside
  have now := hs.turned hlive
  have hnot4 : spKind v ≠ 4 := by rw [hkind]; decide
  refine ⟨fun he => ?_, fun x bad u he hp hins hroom hre hr => ?_, fun he hbad hroom hspill => ?_⟩
  · have h := StreamIs.set (turned s pc) pc { p with inA := rest, eosA := true, st := .draining }
    exact ⟨_, exec_indirectGather_ends hs hi hw ht hkind hin he, h.same, h.others, h.frame⟩
  · intro d
    have hread := readElems_reads hr
    have hu := now.after hread
    have hexec := exec_indirectGather_reads hs hi hw ht hkind hin he hroom hp hre (spIndex_inside hins)
      (now.readValue_single hpf hsign hr)
    have h := State.gathered_is p.pos x bad p.bitmapBad hu.spec ((congrArg PCtx.inA hread.same :).trans hin)
    obtain ⟨harcs, hmem⟩ := u.deliver_sends pc p.pos 1 x bad p.bitmapBad hu.spec hatt hnot4
    have hcharged := u.deliver_charged pc p.pos 1 x bad p.bitmapBad hu.launch hu.found
    rw [hu.spec] at hcharged
    exact ⟨_, hexec, h.same, fun y hy => (h.others y hy).trans (u.deliver_other _ _ _ _ _ _ y hy), h.charged hcharged,
      h.arcs.trans harcs, h.mem.trans hmem⟩
  · have hexec := exec_indirectGather_poisoned hs hi hw ht hkind hin he hroom (hbad.imp_right spIndex_outside) hspill
    let x := (turned s pc).freeElem (spSize v)
    have h := State.gathered_is (u := (turned s pc).bump) p.pos x true false now.spec hin
    obtain ⟨harcs, hmem⟩ := (turned s pc).bump.deliver_sends pc p.pos 1 x true false now.spec hatt hnot4
    obtain ⟨hsarcs, hsmem⟩ := s.withTurns_send (turned s pc).agnLast (s.choice + 1) (entryOf pc) (spDtile v) (spDest v)
      (valueToken x true)
    rw [now.deliverPoison] at hexec
    exact ⟨_, x, hexec, h.same, fun y hy => (h.others y hy).trans ((turned s pc).bump.deliver_other _ _ _ _ _ _ y hy),
      h.arcs.trans (harcs.trans hsarcs), h.mem.trans (hmem.trans hsmem)⟩

end Sys2Proof.Claims

namespace Sys2Proof.Machine
open Sys2Proof Sys2Proof.Claims

/-! ### Bitmap streams (R49, R81) -/

/-- The bitmap byte of position `n` is read. -/
def State.readBitmap (s : State) (pc v n : Nat) : TokRes :=
  s.readElems pc (spBmap v / 2 ^ 60) 1 false true 1 ((spBmap v : Int) + (n / 8 : Nat)) 0 0 false

/-- A position of a bitmap stream is passed under a clean bitmap byte. -/
def State.passed (t : State) (pc : Nat) : State :=
  let s1 := t.advance pc 1
  s1.setPctx pc { s1.pctx pc with acc := (s1.pctx pc).acc ||| 0 }

/-- The position of the set bit that comes after `n` others is over. -/
def State.hit (t : State) (pc n : Nat) : State := (t.setPctx pc { t.pctx pc with setBits := n + 1 }).passed pc

section
variable {s t : State} {pc : Nat} {q : PCtx}

theorem StreamIs.passed (h : StreamIs s t pc q) : StreamIs s (t.passed pc) pc (q.moved 1) := by
  have hmoved := h.advance 1
  have hset : t.passed pc = (t.advance pc 1).setPctx pc (q.moved 1) := by
    simp only [State.passed, hmoved.same]
    exact congrArg (fun a => (t.advance pc 1).setPctx pc { q.moved 1 with acc := a }) BitVec.or_zero
  exact hset ▸ hmoved.trans (.set ..)

theorem StreamIs.hit (h : StreamIs s t pc q) (n : Nat) :
    StreamIs s (t.hit pc n) pc (({ q with setBits := n + 1 } : PCtx).moved 1) := by
  rw [State.hit, h.same]
  exact (h.trans (.set ..)).passed

end

section
variable {s : State} {pc k : Nat} {l : Launch} {v : Nat} (hs : StreamRuns s pc k l v) (hi : Issues s pc)
  (hw : s.agnRecordWaits pc = false) (ht : InTurn s pc) (hkind : spKind v = 4) (hpos : (s.pctx pc).pos < spTotal v)
include hs hi hw ht hkind hpos

/-- The AGN serves a bitmap stream that needs its next byte, stands at a clear bit, or can read and deliver. -/
theorem State.bitmapTurn (h : ∀ i b bad, (s.pctx pc).bitmap = some (i, b, bad) →
      i ≠ (s.pctx pc).pos / 8 ∨ b.getLsbD ((s.pctx pc).pos % 8) = false ∨ s.readFree pc = true) : s.agnTurn pc 4 = true := by
  have hready := hs.ready hw hi
  obtain ⟨-, -, -, hv, -, htag, -⟩ := hs
  refine State.agnTurn_true ht (by rw [hv, hkind]) ?_
  cases hb : (s.pctx pc).bitmap with
  | none => simp [State.agnCan, hv, hkind, hready, hpos, htag, hb]
  | some x =>
    obtain ⟨i, b, bad⟩ := x
    simpa [State.agnCan, hv, hkind, hready, hpos, htag, hb, or_assoc] using h i b bad hb

section
variable (hnew : ∀ b, (s.pctx pc).bitmap = some b → b.1 ≠ (s.pctx pc).pos / 8)
include hnew

theorem exec_bitmapSparseElement_fetches {x : Nat} {bad : Bool} {u : State}
    (hr : (turned s pc).readBitmap pc v (s.pctx pc).pos = .ok x bad u) :
    exec (.bitmapSparseElement pc) s = .next (u.bitmapByte pc x bad) := by
  have hturn := State.bitmapTurn hs hi hw ht hkind hpos fun i b bad hb => .inl (hnew _ hb)
  unfold State.readBitmap at hr
  obtain ⟨-, -, -, hv, -, -, -⟩ := hs
  change execBitmapSparseElement pc s = _
  cases hb : (s.pctx pc).bitmap with
  | none =>
    simp only [execBitmapSparseElement, hturn, State.served_eq, turned_pctx, hv, hb, hr]
    rfl
  | some b =>
    simp only [execBitmapSparseElement, hturn, State.served_eq, turned_pctx, hv, hb, hr, if_pos (hnew b hb)]
    rfl

/-- A bitmap byte that does not translate, under the declaration of R49, has open bits and acts as a poisoned one. -/
theorem exec_bitmapSparseElement_open {c : Cause} {a : Int} (hnrx : l.nrx = true)
    (hr : (turned s pc).readBitmap pc v (s.pctx pc).pos = .xlt c a) :
    exec (.bitmapSparseElement pc) s =
      .next ((turned s pc).bitmapByte pc (Config.poisonData (turned s pc).choice).toNat true) := by
  have hturn := State.bitmapTurn hs hi hw ht hkind hpos fun i b bad hb => .inl (hnew _ hb)
  unfold State.readBitmap at hr
  obtain ⟨hk, hl, hruns, hv, -, -, -⟩ := hs
  have hopen : (turned s pc).nrx ((turned s pc).pctx pc) = true := (State.nrx_eq (s := turned s pc) hk hl hruns).trans hnrx
  rw [turned_pctx] at hopen
  change execBitmapSparseElement pc s = _
  cases hb : (s.pctx pc).bitmap with
  | none =>
    simp only [execBitmapSparseElement, hturn, State.served_eq, turned_pctx, hv, hb, hr, hopen]
    rfl
  | some b =>
    simp only [execBitmapSparseElement, hturn, State.served_eq, turned_pctx, hv, hb, hr, hopen, if_pos (hnew b hb)]
    rfl

end

section
variable {b : Byte} (hb : (s.pctx pc).bitmap = some ((s.pctx pc).pos / 8, b, false))
include hb

theorem exec_bitmapSparseElement_clear (hbit : b.getLsbD ((s.pctx pc).pos % 8) = false) :
    exec (.bitmapSparseElement pc) s = .next ((turned s pc).passed pc) := by
  have hturn := State.bitmapTurn hs hi hw ht hkind hpos fun i b bad h => by
    cases hb.symm.trans h
    exact .inr (.inl hbit)
  change execBitmapSparseElement pc s = _
  simp only [execBitmapSparseElement, hturn, State.served_eq, turned_pctx, hb, hbit, ne_eq, not_true_eq_false, if_false]
  rfl

/-- A set bit delivers the element of its rank, or a poisoned zero when LEN names none. -/
theorem exec_bitmapSparseElement_set (hlive : ReadsLive l v) (hpf : spPf v = 1) (hsign : spSign v = false)
    (hbit : b.getLsbD ((s.pctx pc).pos % 8) = true) (hroom : s.streamRoom pc v = true) (hre : spReord v = false) {x : Nat}
    {bad : Bool} {u : State}
    (hx : if (s.pctx pc).setBits < spLen v then
        (turned s pc).readElems pc (spPath v) (spSize v) l.nrx true 1
          ((spBase v : Int) + ((s.pctx pc).setBits * spSize v : Nat)) 0 0 false = .ok x bad u
      else x = 0 ∧ bad = true ∧ u = turned s pc) :
    exec (.bitmapSparseElement pc) s =
      .next ((u.deliver pc (s.pctx pc).pos 1 x bad false).hit pc (s.pctx pc).setBits) := by
  have now := hs.turned hlive
  obtain ⟨hk, hl, hruns, hv, -, htag, hpart⟩ := id hs
  have hturn := State.bitmapTurn hs hi hw ht hkind hpos fun i b bad h =>
    .inr (.inr (State.readFree_true hv htag hpart hroom (by simp [hre])))
  have hgood : ((turned s pc).pctx pc).bitmapBad = false := by simp [PCtx.bitmapBad, hb]
  change execBitmapSparseElement pc s = _
  by_cases hlen : (s.pctx pc).setBits < spLen v
  · rw [if_pos hlen] at hx
    have hval := now.readValue_single (n := (s.pctx pc).pos) (done := (State.hit · pc (s.pctx pc).setBits)) hpf hsign hx
    rw [hgood] at hval
    simp only [State.hit, State.passed] at hval
    simp only [execBitmapSparseElement, hturn, State.served_eq, turned_pctx, hv, hb, hbit, ne_eq, not_true_eq_false, if_false,
      if_neg (not_le.mpr hlen), hre, Bool.false_and, Bool.false_eq_true, hval]
    rfl
  · rw [if_neg hlen] at hx
    obtain ⟨rfl, rfl, rfl⟩ := hx
    have hval := State.deliverRecorded_live (s := turned s pc) hk hl (s.pctx pc).pos 1 0 true false hlive.1
    simp only [execBitmapSparseElement, hturn, State.served_eq, turned_pctx, hv, hb, hbit, ne_eq, not_true_eq_false, if_false,
      if_pos (not_lt.mp hlen), hval]
    rfl

end
end

/-- A value and its coordinate set out as they would before the delivery is tallied. -/
theorem State.deliver_pairs (s : State) (pc m n x : Nat) (bad coord : Bool) {v : Nat} (hv : (s.pctx pc).spec.toNat = v)
    (hatt : spAtt v = false) (hkind : spKind v = 4) :
    let d := (s.send (entryOf pc) (spDtile v) (spDest v) (valueToken x bad)).send (entryOf pc) (spCtile v) (spCdest v)
      (valueToken (m / spCnt v 0 * 2 ^ 32 + m % spCnt v 0) coord)
    (s.deliver pc m n x bad coord).arcs = d.arcs ∧ (s.deliver pc m n x bad coord).mem = d.mem := by
  subst hv
  intro d
  have h : s.deliver pc m n x bad coord = d.withStreams (s.tallied pc n bad).pctxs (s.tallied pc n bad).items := by
    rw [State.deliver_eq, if_neg (by simp [hatt]), if_pos hkind, s.tallied_withStreams]
    dsimp only [d]
    rw [← State.withStreams_send, ← State.withStreams_send]
    rfl
  exact ⟨(congrArg State.arcs h :), (congrArg State.mem h :)⟩

/-- A bitmap byte that has come changes the port context and the count of free choices. -/
theorem State.bitmapByte_is (u : State) (pc x : Nat) (bad : Bool) :
    StreamIs u.bump (u.bitmapByte pc x bad) pc
      { u.pctx pc with bitmap := some ((u.pctx pc).pos / 8, BitVec.ofNat 8 x, bad), recorded := false } := .set u.bump pc _

end Sys2Proof.Machine

namespace Sys2Proof.Claims
open Sys2Proof Sys2Proof.Machine

theorem bitmapElements : BitmapElements := by
  intro s pc k l v hs hi hw ht hlive hkind hatt hpf hsign p n hpos
  have now := hs.turned hlive
  refine ⟨fun x bad u hnew hr => ?_, fun c a hnew hnrx hr => ?_, fun b hb hbit => ?_, fun b x bad u hb hbit hroom hre hx => ?_⟩
  · have hread := readElems_reads hr
    have h := u.bitmapByte_is pc x bad
    rw [show (u.pctx pc).pos = n from (congrArg PCtx.pos hread.same :)] at h
    exact ⟨_, exec_bitmapSparseElement_fetches hs hi hw ht hkind hpos hnew hr, h.same, h.others,
      congrArg (fun w : State => { w with choice := u.choice }) h.frame⟩
  · have h := (turned s pc).bitmapByte_is pc (Config.poisonData (turned s pc).choice).toNat true
    exact ⟨_, _, exec_bitmapSparseElement_open hs hi hw ht hkind hpos hnew hnrx hr, h.same, h.others,
      congrArg (fun w : State => { w with choice := s.choice }) h.frame⟩
  · have h := (StreamIs.refl (turned s pc) pc).passed
    refine ⟨_, exec_bitmapSparseElement_clear hs hi hw ht hkind hpos hb hbit, ?_, h.others, h.frame⟩
    rw [h.same, ← now.spec]
    rfl
  · intro d
    have hread : OnlyReads (turned s pc) u pc := by
      by_cases hlen : p.setBits < spLen v
      · exact readElems_reads ((if_pos hlen).mp hx)
      · obtain ⟨-, -, rfl⟩ := (if_neg hlen).mp hx
        exact .refl ..
    have hu := now.after hread
    have hexec := exec_bitmapSparseElement_set hs hi hw ht hkind hpos hb hlive hpf hsign hbit hroom hre hx
    have h := (StreamIs.refl (u.deliver pc n 1 x bad false) pc).hit p.setBits
    obtain ⟨harcs, hmem⟩ := u.deliver_pairs pc n 1 x bad false hu.spec hatt hkind
    refine ⟨_, hexec, ?_, fun y hy => (h.others y hy).trans (u.deliver_other _ _ _ _ _ _ y hy), h.arcs.trans harcs,
      h.mem.trans hmem⟩
    rw [h.same, State.deliver_pctx, ← hu.spec]
    rfl

/-- Settles O34: a gather and a bitmap stream in their turns, each branch with what it delivers and where the stream stands. -/
theorem gathersAndBitmaps : Obligations.GathersAndBitmaps := ⟨gathers, bitmapElements⟩

end Sys2Proof.Claims

namespace Sys2Proof.Machine
open Sys2Proof Sys2Proof.Claims

/-! ### What a check of an element leaves (R39, R40) -/

/-- The state is as it was, or has another edge TLB, or another TLB of port context `pc`. -/
def TlbMoves (s u : State) (pc : Nat) : Prop :=
  u = s ∨ (∃ e, u = { s with edgeTlb := e }) ∨ ∃ t, u = s.setPctx pc { s.pctx pc with tlb := t }

theorem State.agnCheck_moves (s : State) (pc path : Nat) (k : AccKind) (a : Int) (n : Nat) :
    TlbMoves s (s.agnCheck pc path k a n).2 pc := by
  have hstay : TlbMoves s s pc := .inl rfl
  unfold State.agnCheck
  extract_lets p who
  split
  · exact hstay
  next run a' _ =>
    have hrun (x : Word) : TlbMoves s (run x).2 pc := by
      dsimp only [run]
      split
      · exact .inr (.inl ⟨_, rfl⟩)
      · exact .inr (.inr ⟨_, rfl⟩)
    have ha := hrun a'
    split
    next hr =>
      rw [hr] at ha
      split
      · exact hstay
      split
      · exact hrun _
      split
      · exact hstay
      · exact ha
    · exact ha

/-- Only checks of port context `pc` lie between two states: its TLB and the edge TLBs. -/
structure OnlyChecks (s u : State) (pc : Nat) : Prop extends OnlyReads s u pc where
  checks : { u with pctxs := s.pctxs, edgeTlb := s.edgeTlb } = s

section
variable {s u w : State} {pc : Nat}

theorem OnlyChecks.trans (h : OnlyChecks s u pc) (h' : OnlyChecks u w pc) : OnlyChecks s w pc where
  toOnlyReads := h.toOnlyReads.trans h'.toOnlyReads
  checks := (congrArg (fun v : State => { v with pctxs := s.pctxs, edgeTlb := s.edgeTlb }) h'.checks).trans h.checks

theorem OnlyChecks.of {path n : Nat} {k : AccKind} {a : Int} {r : Res Place} (h : s.agnCheck pc path k a n = (r, u)) :
    OnlyChecks s u pc := by
  have hreads := OnlyReads.agnCheck (s := s) (pc := pc) path k a n
  have hmoves := s.agnCheck_moves pc path k a n
  rw [h] at hreads hmoves
  refine ⟨hreads, ?_⟩
  obtain rfl | ⟨e, rfl⟩ | ⟨t, rfl⟩ := hmoves <;> rfl

theorem OnlyChecks.mem (h : OnlyChecks s u pc) : u.mem = s.mem := (congrArg State.mem h.checks :)
theorem OnlyChecks.arcs (h : OnlyChecks s u pc) : u.arcs = s.arcs := (congrArg State.arcs h.checks :)
theorem OnlyChecks.records (h : OnlyChecks s u pc) : u.records = s.records := (congrArg State.records h.checks :)

end

/-! ### One element is written (R57, R78, R402) -/

/-- A port context that remembers the place of an element in main memory (R57). -/
def PCtx.wrote (q : PCtx) (loc : Nat) : PCtx := { q with written := if loc < 2 ^ 39 then loc :: q.written else q.written }

theorem State.wrote_is (s : State) (pc loc : Nat) : StreamIs s (s.wrote pc loc) pc ((s.pctx pc).wrote loc) := by
  unfold State.wrote PCtx.wrote
  dsimp only
  split
  · exact .set ..
  · exact .refl ..

/-- A charge looks at work items alone. -/
theorem charged_of_items {s u t : State} {l : Launch} {q : PCtx} {z n : Nat} (hu : Charged u t l q z n) (h : u.items = s.items) :
    Charged s t l q z n := by
  simpa only [Charged, State.item, h] using hu

/-- Element `x` of `z` bytes stands at `loc`, and is counted. -/
def State.stored (s : State) (pc loc z x : Nat) : State := ((s.storeBytes loc (leBytes z x)).wrote pc loc).counted pc 1

/-- The low `z` bytes of `x` stand at `loc` and nothing else in memory has changed; one more element of launch `l`'s stream is
charged, and no other stream, no record and no arc has changed. -/
structure ElementWritten (s t : State) (pc loc z x : Nat) (l : Launch) : Prop where
  value : leNat (memBytes t.mem loc z) = x % 2 ^ (8 * z)
  outside : ∀ y, y < loc ∨ loc + z ≤ y → memRead t.mem y = memRead s.mem y
  others : OtherStreams s t pc
  charged : Charged s t l (s.pctx pc) (spSize (s.pctx pc).spec.toNat) 1
  records : t.records = s.records
  arcs : t.arcs = s.arcs

section
variable {s t u : State} {pc loc z x : Nat} {l : Launch} {q : PCtx}

/-- The stream moves on. -/
theorem ElementWritten.after (h : ElementWritten s t pc loc z x l) (h' : StreamIs t u pc q) : ElementWritten s u pc loc z x l where
  value := h'.mem ▸ h.value
  outside y hy := h'.mem ▸ h.outside y hy
  others y hy := (h'.others y hy).trans (h.others y hy)
  charged := h'.charged h.charged
  records := h'.records.trans h.records
  arcs := h'.arcs.trans h.arcs

theorem State.stored_written {k : Nat} (wf : Memory.wf s.mem = true) (hk : (s.pctx pc).launch = some k)
    (hl : s.launch k = some l) : ElementWritten s (s.stored pc loc z x) pc loc z x l := by
  have hwrote := (s.storeBytes loc (leBytes z x)).wrote_is pc loc
  have hframe := ((s.storeBytes loc (leBytes z x)).wrote pc loc).counted_frame pc 1
  have hcharged := State.counted_charged _ 1 hwrote.same hk ((congrArg (State.launch · k) hwrote.frame :).trans hl)
  have hmem : (s.stored pc loc z x).mem = memPut s.mem loc (leBytes z x) :=
    (congrArg State.mem hframe :).trans hwrote.mem
  obtain ⟨hin, hout⟩ := memPut_run wf loc (leBytes_length z x)
  refine ⟨?_, fun y hy => hmem ▸ hout y hy, fun y hy => ?_, ?_, (congrArg State.records hframe :).trans hwrote.records,
    (congrArg State.arcs hframe :).trans hwrote.arcs⟩
  · rw [hmem, hin, leNat_leBytes, Nat.pow_mul]
  · rw [State.stored, State.pctx, State.counted_pctxs, tabGet_put_other _ _ _ _ _ hy]
    exact hwrote.others y hy
  · exact charged_of_items hcharged hwrote.items

/-- The port context once the element stands in memory. -/
theorem State.stored_pctx (s : State) (pc loc z x : Nat) :
    (s.stored pc loc z x).pctx pc = { (s.pctx pc).wrote loc with count := (s.pctx pc).count + 1 } := by
  rw [State.stored, State.pctx, State.counted_pctxs, tabGet_put_same, (State.wrote_is _ pc loc).same]
  rfl

end

section
variable {s u : State} {pc path z x pos : Nat} {a : Int} {after : State → State}

theorem State.writeValue_stores {loc : Nat} (h : s.agnCheck pc path .write a z = (.ok (.mem loc), u)) :
    s.writeValue pc path z x false a pos after = .next (after ((u.storeBytes loc (leBytes z x)).wrote pc loc)) := by
  simp only [State.writeValue, h, Place.loc?]
  rfl

theorem State.writeValue_poisoned (h : s.leaves path a = false) :
    s.writeValue pc path z x true a pos after = .next (s.poisonedWrite pc path x a) := by
  simp only [State.writeValue, h]
  rfl

/-- A poisoned element that stays in this package stops the stream (R78). -/
theorem State.poisonedWrite_stops {k : Nat} {l : Launch} (hk : (s.pctx pc).launch = some k) (hl : s.launch k = some l) :
    AgnStops s (s.poisonedWrite pc path x a) pc k (if path = 7 then .psnEgress else .psnStore) (BitVec.ofInt 64 a) := by
  unfold State.poisonedWrite wordZ
  have h := StreamIs.set s pc { s.pctx pc with acc := (s.pctx pc).acc ||| stPELEM }
  exact State.agnFault_stops_from h hk hl _ _ _

end

/-! ### Affine writes (R78, R274) -/

/-- A write of an element at an address that stays in this package does not leave it (R274). -/
theorem leaves_of_staysHere {s : State} {v : Nat} {a : Int} (h : StaysHere s v a) : (turned s pc).leaves (spPath v) a = false :=
  State.leaves_own (s := turned s pc) (a := a.toNat) h

/-- What a write stream takes next from an EDGE. -/
theorem State.writeHead_cons (s : State) {p : PCtx} {w : Token} {rest : List Token} (hatt : spAtt p.spec.toNat = false)
    (hin : p.inA = w :: rest) :
    s.writeHead p = some (if w.isEos then none else some (w.data.toNat, w.psn)) := by
  cases he : w.isEos <;> simp [State.writeHead, hatt, hin, he]

theorem State.writePop_edge {s : State} {pc : Nat} (hatt : spAtt (s.pctx pc).spec.toNat = false) : s.writePop pc = s.popA pc :=
  if_neg (by simp [hatt])

/-- The token of a write stream is used up with its last element. -/
def State.writePassed (t : State) (pc j pf : Nat) : State :=
  if j + 1 = pf then (t.advance pc 1).writePop pc else t.advance pc 1

theorem StreamIs.writePassed {s t : State} {pc : Nat} {q : PCtx} {w : Token} {rest : List Token} (h : StreamIs s t pc q)
    (hatt : spAtt q.spec.toNat = false) (hin : q.inA = w :: rest) (j pf : Nat) :
    StreamIs s (t.writePassed pc j pf) pc { q.moved 1 with inA := if j + 1 = pf then rest else w :: rest } := by
  have hmoved := h.advance 1
  unfold State.writePassed
  split
  · rw [State.writePop_edge (by rw [hmoved.same]; exact hatt)]
    exact hmoved.popA hin
  · rw [← hin]
    exact hmoved

section
variable {s : State} {pc k : Nat} {l : Launch} {v : Nat} {w : Token} {rest : List Token} (hs : StreamRuns s pc k l v)
  (hw : s.agnRecordWaits pc = false) (ht : InTurn s pc) (hkind : spKind v = 1) (hatt : spAtt v = false)
  (hst : (s.pctx pc).st = .running ∨ (s.pctx pc).st = .stopping ∨ (s.pctx pc).st = .draining)
  (hend : (s.pctx pc).eosA = false) (hdrain : (s.pctx pc).draining = false) (hin : (s.pctx pc).inA = w :: rest)
include hs hw ht hkind hatt hst hend hin

theorem State.writeTurn : s.agnTurn pc 1 = true := by
  have htakes := hs.takes hw hst
  obtain ⟨-, -, -, hv, -, -, -⟩ := hs
  have hhead := s.writeHead_cons (by rw [hv, hatt]) hin
  exact State.agnTurn_true ht (by rw [hv, hkind]) (by simp [State.agnCan, hv, hkind, htakes, hend, hhead])

include hdrain

theorem exec_writeStreamElement_ends (he : w.isEos = true) (hpos : spTotal v ≤ (s.pctx pc).pos) :
    ∃ t, exec (.writeStreamElement pc) s = .next t ∧
      StreamIs (turned s pc) t pc { s.pctx pc with inA := rest, eosA := true, st := .draining } := by
  have hturn := State.writeTurn hs hw ht hkind hatt hst hend hin
  obtain ⟨-, -, -, hv, -, -, -⟩ := hs
  have hhead := (turned s pc).writeHead_cons (by rw [hv, hatt]) hin
  have hpop := State.writePop_edge (s := turned s pc) (pc := pc) (by rw [turned_pctx, hv, hatt])
  have h := (StreamIs.refl (turned s pc) pc).popA hin
  refine ⟨((turned s pc).popA pc).setPctx pc { s.pctx pc with inA := rest, eosA := true, st := .draining }, ?_,
    h.trans (.set ..)⟩
  change execWriteStreamElement pc s = _
  simp only [execWriteStreamElement, hturn, State.served_eq, turned_pctx, hv, hhead, he, hdrain, hpos, hpop, h.same]
  rfl

/-- An end of stream before the last element, or a token after it. -/
theorem exec_writeStreamElement_unequal
    (h : if w.isEos = true then (s.pctx pc).pos < spTotal v else spTotal v ≤ (s.pctx pc).pos) :
    ∃ tok, exec (.writeStreamElement pc) s = .next ((turned s pc).agnFault pc .flowStreamLength 0 tok) := by
  have hturn := State.writeTurn hs hw ht hkind hatt hst hend hin
  obtain ⟨-, -, -, hv, -, -, -⟩ := hs
  have hhead := (turned s pc).writeHead_cons (by rw [hv, hatt]) hin
  change ∃ tok, execWriteStreamElement pc s = _
  cases he : w.isEos with
  | true =>
    rw [he, if_pos rfl] at h
    refine ⟨some .eos, ?_⟩
    simp only [execWriteStreamElement, hturn, State.served_eq, turned_pctx, hv, hhead, he, hdrain, not_le.mpr h]
    rfl
  | false =>
    rw [he, if_neg Bool.false_ne_true] at h
    refine ⟨heldToken w.data.toNat w.psn, ?_⟩
    simp only [execWriteStreamElement, hturn, State.served_eq, turned_pctx, hv, hhead, he, hdrain, h]
    rfl

theorem exec_writeStreamElement_writes (he : w.isEos = false) (hpos : (s.pctx pc).pos < spTotal v) :
    exec (.writeStreamElement pc) s =
      (turned s pc).writeValue pc (spPath v) (spSize v)
        (w.data.toNat / 2 ^ (8 * spSize v * ((s.pctx pc).pos % spPf v)) % 2 ^ (8 * spSize v)) w.psn (spAddr v (s.pctx pc).pos)
        (s.pctx pc).pos fun t => (t.counted pc 1).writePassed pc ((s.pctx pc).pos % spPf v) (spPf v) := by
  have hturn := State.writeTurn hs hw ht hkind hatt hst hend hin
  obtain ⟨-, -, -, hv, -, -, -⟩ := hs
  have hhead := (turned s pc).writeHead_cons (by rw [hv, hatt]) hin
  change execWriteStreamElement pc s = _
  simp only [execWriteStreamElement, hturn, State.served_eq, turned_pctx, hv, hhead, he, hdrain, not_le.mpr hpos]
  rfl

end

section
variable {s u : State} {pc : Nat} (hu : OnlyChecks s u pc)
include hu

/-- An element that a stream takes and writes at its checked place: what is written, and the port context before it moves on. -/
theorem OnlyChecks.stored {k : Nat} {l : Launch} (wf : Memory.wf s.mem = true) (hk : (s.pctx pc).launch = some k)
    (hl : s.launch k = some l) (loc z x : Nat) :
    ElementWritten u (u.stored pc loc z x) pc loc z x l ∧
      StreamIs (u.stored pc loc z x) (u.stored pc loc z x) pc { (u.pctx pc).wrote loc with count := (u.pctx pc).count + 1 } := by
  have hku : (u.pctx pc).launch = some k := (congrArg PCtx.launch hu.same :).trans hk
  have hlu : u.launch k = some l := (congrArg (tabFind · k) hu.launches :).trans hl
  exact ⟨State.stored_written (hu.mem ▸ wf) hku hlu, u.stored_pctx pc loc z x ▸ .refl ..⟩

/-- The stream, with its position and what it has written, is the one before the checks. -/
theorem OnlyChecks.stream {v : Nat} (hv : (s.pctx pc).spec.toNat = v) :
    (u.pctx pc).spec.toNat = v ∧ (u.pctx pc).written = (s.pctx pc).written :=
  ⟨(congrArg (fun q : PCtx => q.spec.toNat) hu.same :).trans hv, (congrArg PCtx.written hu.same :)⟩

/-- What an element that is written has changed since before its check. -/
theorem ElementWritten.since {t : State} {loc z x v : Nat} {l : Launch} (h : ElementWritten u t pc loc z (x % 2 ^ (8 * z)) l)
    (hv : (s.pctx pc).spec.toNat = v) :
    leNat (memBytes t.mem loc z) = x % 2 ^ (8 * z) ∧ (∀ y, y < loc ∨ loc + z ≤ y → memRead t.mem y = memRead s.mem y) ∧
      OtherStreams u t pc ∧ Charged u t l (u.pctx pc) (spSize v) 1 ∧ t.records = s.records ∧ t.arcs = s.arcs :=
  ⟨h.value.trans (Nat.mod_mod _ _), fun y hy => (h.outside y hy).trans (congrArg (memRead · y) hu.mem), h.others,
    (hu.stream hv).1 ▸ h.charged, h.records.trans hu.records, h.arcs.trans hu.arcs⟩

end

end Sys2Proof.Machine

namespace Sys2Proof.Claims
open Sys2Proof Sys2Proof.Machine

theorem affineWrites : AffineWrites := by
  intro s pc k l v w rest hs hw ht hkind hatt wf p hst hend hdrain hin z j x
  have hexec := exec_writeStreamElement_writes hs hw ht hkind hatt hst hend hdrain hin
  refine ⟨fun a u he hp hpos hc => ?_, fun he hpos => ?_, fun h => ?_, fun he hp hpos hstay => ?_⟩
  · have hu := OnlyChecks.of hc
    obtain ⟨hk, hl, -, hv, -, -, -⟩ := hs
    obtain ⟨hspec, (hwritten : _ = p.written)⟩ := hu.stream hv
    obtain ⟨hstored, hpctx⟩ := hu.stored wf hk hl a z x
    have h := hpctx.writePassed ((congrArg spAtt hspec).trans hatt) ((congrArg PCtx.inA hu.same :).trans hin) j (spPf v)
    obtain ⟨hvalue, hout, hother, hcharged, hrec, harcs⟩ := (hstored.after h).since hu hv
    rw [hexec he hpos, hp, State.writeValue_stores hc]
    refine ⟨_, rfl, hvalue, hout, h.same.trans ?_, hother, hcharged, hrec, harcs⟩
    rw [← hwritten, ← hspec]
    rfl
  · obtain ⟨t, ht, h⟩ := exec_writeStreamElement_ends hs hw ht hkind hatt hst hend hdrain hin he hpos
    exact ⟨t, ht, h.same, h.others, h.frame⟩
  · obtain ⟨tok, ht⟩ := exec_writeStreamElement_unequal hs hw ht hkind hatt hst hend hdrain hin h
    obtain ⟨hk, hl, -, -, -, -, -⟩ := hs
    exact ⟨_, ht, State.agnFault_stops_from (.refl (turned s pc) pc) hk hl _ _ _⟩
  · obtain ⟨hk, hl, -, -, -, -, -⟩ := hs
    rw [hexec he hpos, hp, State.writeValue_poisoned (leaves_of_staysHere hstay)]
    exact ⟨_, rfl, State.poisonedWrite_stops (s := turned s pc) hk hl⟩

end Sys2Proof.Claims

namespace Sys2Proof.Machine
open Sys2Proof Sys2Proof.Claims

/-! ### Scatters (R80) -/

/-- A pair of index and value is used up, and the stream moves on. -/
def State.scattered (t : State) (pc : Nat) : State := ((t.popA pc).popB pc).advance pc 1

theorem StreamIs.scattered {s t : State} {pc : Nat} {q : PCtx} {w y : Token} {ra rb : List Token} (h : StreamIs s t pc q)
    (ha : q.inA = w :: ra) (hb : q.inB = y :: rb) :
    StreamIs s (t.scattered pc) pc { q.moved 1 with inA := ra, inB := rb } :=
  ((h.popA ha).popB hb).advance 1

section
variable {s : State} {pc k : Nat} {l : Launch} {v : Nat} {w y : Token} {ra rb : List Token} (hs : StreamRuns s pc k l v)
  (hi : Issues s pc) (hw : s.agnRecordWaits pc = false) (ht : InTurn s pc) (hkind : spKind v = 3)
  (hendA : (s.pctx pc).eosA = false) (hdrain : (s.pctx pc).draining = false) (ha : (s.pctx pc).inA = w :: ra)
  (hb : (s.pctx pc).inB = y :: rb)
include hs hi hw ht hkind hendA hdrain ha hb

theorem State.scatterTurn : s.agnTurn pc 3 = true := by
  have htakes := hs.takes hw (hi.imp_right fun h => .inl h.1)
  have hready := hs.ready hw hi
  have hinside : (s.pctx pc).boundary = false := by
    simp only [State.agnReady, Bool.and_eq_true, Bool.not_eq_true'] at hready
    exact hready.2
  obtain ⟨-, -, -, hv, -, -, -⟩ := hs
  exact State.agnTurn_true ht (by rw [hv, hkind]) (by simp [State.agnCan, hv, hkind, htakes, hinside, hendA, hdrain, ha, hb])

theorem exec_indirectScatter_ends (hea : w.isEos = true) (heb : y.isEos = true) : exec (.indirectScatter pc) s =
    .next ((turned s pc).setPctx pc
      { s.pctx pc with inA := ra, inB := rb, eosA := true, eosB := true, st := .draining }) := by
  have hturn := State.scatterTurn hs hi hw ht hkind hendA hdrain ha hb
  change execIndirectScatter pc s = _
  simp only [execIndirectScatter, hturn, State.served_eq, turned_pctx, hdrain, ha, hb, hea, heb]
  rfl

theorem exec_indirectScatter_unequal (he : w.isEos ≠ y.isEos) : exec (.indirectScatter pc) s =
    .next ((turned s pc).agnFault pc .flowStreamLength 0 (some w)) := by
  have hturn := State.scatterTurn hs hi hw ht hkind hendA hdrain ha hb
  have hone : (w.isEos && y.isEos) = false ∧ (w.isEos || y.isEos) = true := by
    revert he
    cases w.isEos <;> cases y.isEos <;> decide
  change execIndirectScatter pc s = _
  simp only [execIndirectScatter, hturn, State.served_eq, turned_pctx, hdrain, ha, hb, hone]
  rfl

variable (hea : w.isEos = false) (heb : y.isEos = false)
include hea heb

theorem exec_indirectScatter_poisoned (hpa : w.psn = true) : exec (.indirectScatter pc) s =
    .next ((turned s pc).agnFault pc .psnStore 0 (some w)) := by
  have hturn := State.scatterTurn hs hi hw ht hkind hendA hdrain ha hb
  change execIndirectScatter pc s = _
  simp only [execIndirectScatter, hturn, State.served_eq, turned_pctx, hdrain, ha, hb, hea, heb, hpa]
  rfl

variable (hpa : w.psn = false)
include hpa

theorem exec_indirectScatter_outside (hx : spIndex v w = none) : exec (.indirectScatter pc) s =
    .next ((turned s pc).agnFault pc .memIndexBounds 0 (some w)) := by
  have hturn := State.scatterTurn hs hi hw ht hkind hendA hdrain ha hb
  obtain ⟨-, -, -, hv, -, -, -⟩ := hs
  change execIndirectScatter pc s = _
  simp only [execIndirectScatter, hturn, State.served_eq, turned_pctx, hv, hdrain, ha, hb, hea, heb, hpa, hx]
  rfl

theorem exec_indirectScatter_writes {a : Int} (hx : spIndex v w = some a) : exec (.indirectScatter pc) s =
    (turned s pc).writeValue pc (spPath v) (spSize v) (y.data.toNat % 2 ^ (8 * spSize v)) y.psn a (s.pctx pc).pos
      fun t => (t.counted pc 1).scattered pc := by
  have hturn := State.scatterTurn hs hi hw ht hkind hendA hdrain ha hb
  obtain ⟨-, -, -, hv, -, -, -⟩ := hs
  change execIndirectScatter pc s = _
  simp only [execIndirectScatter, hturn, State.served_eq, turned_pctx, hv, hdrain, ha, hb, hea, heb, hpa, hx]
  rfl

end

end Sys2Proof.Machine

namespace Sys2Proof.Claims
open Sys2Proof Sys2Proof.Machine

theorem scatters : Scatters := by
  intro s pc k l v w y ra rb hs hi hw ht hkind wf p hendA hendB hdrain ha hb z i at_ inside
  obtain ⟨hk, hl, -, hv, -, -, -⟩ := id hs
  refine ⟨fun hea heb => ?_, fun he => ?_, fun hea heb => ⟨fun hpa => ?_, fun hpa hx => ?_, fun hpa hx hpb hstay => ?_,
    fun a u hpa hx hpb hc => ?_⟩⟩
  · have h := StreamIs.set (turned s pc) pc { p with inA := ra, inB := rb, eosA := true, eosB := true, st := .draining }
    exact ⟨_, exec_indirectScatter_ends hs hi hw ht hkind hendA hdrain ha hb hea heb, h.same, h.others, h.frame⟩
  · exact ⟨_, exec_indirectScatter_unequal hs hi hw ht hkind hendA hdrain ha hb he,
      State.agnFault_stops_from (.refl (turned s pc) pc) hk hl _ _ _⟩
  · exact ⟨_, exec_indirectScatter_poisoned hs hi hw ht hkind hendA hdrain ha hb hea heb hpa,
      State.agnFault_stops_from (.refl (turned s pc) pc) hk hl _ _ _⟩
  · exact ⟨_, exec_indirectScatter_outside hs hi hw ht hkind hendA hdrain ha hb hea heb hpa (spIndex_outside hx),
      State.agnFault_stops_from (.refl (turned s pc) pc) hk hl _ _ _⟩
  · rw [exec_indirectScatter_writes hs hi hw ht hkind hendA hdrain ha hb hea heb hpa (spIndex_inside hx), hpb,
      State.writeValue_poisoned (leaves_of_staysHere hstay)]
    exact ⟨_, rfl, State.poisonedWrite_stops (s := turned s pc) hk hl⟩
  · have hu := OnlyChecks.of hc
    obtain ⟨hspec, (hwritten : _ = p.written)⟩ := hu.stream hv
    obtain ⟨hstored, hpctx⟩ := hu.stored wf hk hl a z (y.data.toNat % 2 ^ (8 * z))
    have h := hpctx.scattered ((congrArg PCtx.inA hu.same :).trans ha) ((congrArg PCtx.inB hu.same :).trans hb)
    obtain ⟨hvalue, hout, hother, hcharged, hrec, harcs⟩ := (hstored.after h).since hu hv
    rw [exec_indirectScatter_writes hs hi hw ht hkind hendA hdrain ha hb hea heb hpa (spIndex_inside hx), hpb,
      State.writeValue_stores hc]
    refine ⟨_, rfl, hvalue, hout, h.same.trans ?_, hother, hcharged, hrec, harcs⟩
    rw [← hwritten, ← hspec]
    rfl

end Sys2Proof.Claims

namespace Sys2Proof.Machine
open Sys2Proof Sys2Proof.Claims

/-! ### Stores over the parts of a word (R38, R471) -/

/-- Two parts share no byte. -/
def PartsApart (p q : Nat × Nat) : Prop := p.1 + p.2 ≤ q.1 ∨ q.1 + q.2 ≤ p.1

theorem State.storeParts_frame (s : State) (ps : List (Nat × Nat)) (bs : List Byte) :
    { s.storeParts ps bs with mem := s.mem, poison := s.poison } = s := by
  induction ps generalizing s bs with
  | nil => rfl
  | cons p ps ih => exact congrArg (fun u : State => { u with mem := s.mem, poison := s.poison }) (ih ..)

theorem State.storeParts_outside {ps : List (Nat × Nat)} {s : State} (wf : Memory.wf s.mem = true) (bs : List Byte) {x : Nat}
    (h : ∀ p ∈ ps, x < p.1 ∨ p.1 + p.2 ≤ x) : memRead (s.storeParts ps bs).mem x = memRead s.mem x := by
  induction ps generalizing s bs with
  | nil => rfl
  | cons p ps ih =>
    obtain ⟨hp, hps⟩ := List.forall_mem_cons.mp h
    have hlen := List.length_take_le p.2 bs
    exact (ih (s := s.storeBytes p.1 (bs.take p.2)) (memPut_wf _ _ _ wf) _ hps).trans
      (memRead_put_outside _ _ _ _ wf (by omega))

/-- Bytes that are stored over parts of their length read back. -/
theorem State.loadParts_storeParts {ps : List (Nat × Nat)} {s : State} (wf : Memory.wf s.mem = true)
    (hapart : ps.Pairwise PartsApart) {bs : List Byte} (hlen : bs.length = (ps.map Prod.snd).sum) :
    (s.storeParts ps bs).loadParts ps = bs := by
  induction ps generalizing s bs with
  | nil => exact (List.length_eq_zero_iff.mp hlen).symm
  | cons p ps ih =>
    rw [List.pairwise_cons] at hapart
    rw [List.map_cons, List.sum_cons] at hlen
    obtain ⟨hp, hps⟩ := hapart
    have wf' : Memory.wf (s.storeBytes p.1 (bs.take p.2)).mem = true := memPut_wf _ _ _ wf
    have htake : (bs.take p.2).length = p.2 := by rw [List.length_take]; omega
    have hhead : memBytes ((s.storeBytes p.1 (bs.take p.2)).storeParts ps (bs.drop p.2)).mem p.1 p.2 = bs.take p.2 := by
      rw [memBytes_congr p.2 fun x hx hlt => State.storeParts_outside wf' _ fun q hq => ?_]
      · exact (memPut_run wf p.1 htake).1
      · have hpq : p.1 + p.2 ≤ q.1 ∨ q.1 + q.2 ≤ p.1 := hp q hq
        omega
    have hrest := ih wf' hps (bs := bs.drop p.2) (by rw [List.length_drop]; omega)
    calc (s.storeParts (p :: ps) bs).loadParts (p :: ps)
        = memBytes ((s.storeBytes p.1 (bs.take p.2)).storeParts ps (bs.drop p.2)).mem p.1 p.2 ++
            ((s.storeBytes p.1 (bs.take p.2)).storeParts ps (bs.drop p.2)).loadParts ps := List.flatMap_cons ..
      _ = bs := by rw [hhead, hrest, List.take_append_drop]

/-- The records of the errors that reading the parts of a word meets. -/
def State.partsRead (s : State) (ctx : Nat) (a : Word) (ps : List (Nat × Nat)) : State :=
  ps.foldl (fun t q => (t.engineRead ctx q.1 q.2 a).2.2) s

theorem State.partsRead_frame (s : State) (ctx : Nat) (a : Word) (ps : List (Nat × Nat)) :
    { s.partsRead ctx a ps with records := s.records, rings := s.rings } = s := by
  induction ps generalizing s with
  | nil => rfl
  | cons p ps ih =>
    exact (congrArg (fun u : State => { u with records := s.records, rings := s.rings }) (ih _)).trans
      (s.engineRead_frame ctx p.1 p.2 a)

/-! ### The checks of a status OR, part by part (R37, R38) -/

theorem wordParts_whole {a : Int} (h : min 8 (65536 - (a % 65536).toNat) = 8) : wordParts a = [(a, 8)] := if_pos h

theorem wordParts_cut {a : Int} {m : Nat} (hm : m = min 8 (65536 - (a % 65536).toNat)) (h : m < 8) :
    wordParts a = [(a, m), (a + m, 8 - m)] := by
  subst hm
  exact if_neg h.ne

/-- The lowest part of a word. -/
theorem wordParts_head (a : Int) : ∃ r, wordParts a = (a, min 8 (65536 - (a % 65536).toNat)) :: r := by
  rcases (Nat.min_le_left 8 (65536 - (a % 65536).toNat)).eq_or_lt with h | h
  · exact ⟨_, h.symm ▸ wordParts_whole h⟩
  · exact ⟨_, wordParts_cut rfl h⟩

section
variable {s u w : State} {pc path n : Nat} {a : Int} {r : List (Int × Nat)} {ps : List (Nat × Nat)}

theorem State.agnParts_checked {p : Place} {loc : Nat} (hr : s.agnCheck pc path .read a n = (.ok p, u))
    (hw : u.agnCheck pc path .write a n = (.ok (.mem loc), w)) :
    s.agnParts pc path ((a, n) :: r) ps = w.agnParts pc path r (ps ++ [(loc, n)]) := by
  simp only [State.agnParts, State.agnCheckBoth, hr, hw, Place.loc?]

theorem State.agnParts_unread {c : Cause} (hr : (s.agnCheck pc path .read a n).1 = .bad c) :
    ∃ t, s.agnParts pc path ((a, n) :: r) ps = (.bad c a, t) := by
  obtain ⟨t, ht⟩ := exists_eq_mk_of_fst hr
  exact ⟨t, by simp only [State.agnParts, State.agnCheckBoth, ht]⟩

theorem State.agnParts_unwritten {p : Place} {c : Cause} (hr : s.agnCheck pc path .read a n = (.ok p, u))
    (hw : (u.agnCheck pc path .write a n).1 = .bad c) : ∃ t, s.agnParts pc path ((a, n) :: r) ps = (.bad c a, t) := by
  obtain ⟨t, ht⟩ := exists_eq_mk_of_fst hw
  exact ⟨t, by simp only [State.agnParts, State.agnCheckBoth, hr, ht]⟩

end

/-! ### The status OR (R81, R82, R243) -/

/-- What a stream ORs into its status word: its accumulator, with SPLEN of a bitmap of another length, or with the flags of the
tiles that feed a write stream. -/
def State.statusAcc (s : State) (p : PCtx) (v : Nat) : Word :=
  p.acc ||| (if spReads v then (if spKind v = 4 ∧ spTotal v ≤ p.pos ∧ p.setBits ≠ spLen v then 0x2000 else 0)
    else BitVec.ofNat 64 (s.feedFlags p))

theorem State.statusAcc_reads (s : State) (p : PCtx) {v : Nat} (h : spReads v = true) :
    (if (spKind v == 4 && decide (spTotal v ≤ p.pos) && p.setBits != spLen v) = true then p.acc ||| stSPLEN else p.acc) =
      s.statusAcc p v := by
  unfold State.statusAcc
  rw [if_pos h]
  by_cases hshort : spKind v = 4 ∧ spTotal v ≤ p.pos ∧ p.setBits ≠ spLen v
  · rw [if_pos (by simp [hshort]), if_pos hshort]
    rfl
  · rw [if_neg (by simpa [and_assoc] using hshort), if_neg hshort]
    exact BitVec.or_zero.symm

theorem State.statusAcc_writes (s : State) (p : PCtx) {v : Nat} (h : spReads v = false) :
    s.statusAcc p v = p.acc ||| word (s.feedFlags p) := by
  rw [State.statusAcc, if_neg (by simp [h])]
  rfl

/-- The stream's accumulator is complete. -/
def State.statusBegun (s : State) (pc : Nat) (v : Nat) : State :=
  s.setPctx pc { s.pctx pc with acc := s.statusAcc (s.pctx pc) v }

/-- The status OR is over. -/
def State.statusOver (t : State) (pc : Nat) : State := t.setPctx pc { t.pctx pc with statusDone := true }

theorem StreamIs.statusOver {s t : State} {pc : Nat} {q : PCtx} (h : StreamIs s t pc q) :
    StreamIs s (t.statusOver pc) pc { q with statusDone := true } := by
  rw [State.statusOver, h.same]
  exact h.trans (.set ..)

/-- The address of a stream's status word. -/
def statusAddr (v : Nat) : Int := (spBase v : Int) + spStoff v

section
variable {s : State} {pc k : Nat} {l : Launch} {v : Nat} (hs : StreamRuns s pc k l v) (hw : s.agnRecordWaits pc = false)
  (hst : (s.pctx pc).st = .draining) (hspill : (s.pctx pc).spill = []) (hdone : (s.pctx pc).statusDone = false)
  (hover : spReads v = true ∨ ((s.pctx pc).eosA = true ∧ (spKind v ≠ 3 ∨ (s.pctx pc).eosB = true)))
include hs hw hst hspill hdone hover

theorem State.orReady_true : s.orReady pc = true := by
  obtain ⟨hk, hl, hruns, hv, hstop, htag, -⟩ := hs
  have hacts := State.agnActs_true hk hl hruns hw
  have htaken : (spReads v || (s.pctx pc).eosA && (spKind v != 3 || (s.pctx pc).eosB)) = true := by simpa using hover
  simp only [State.orReady, hacts, hst, hspill, hdone, hv, hstop, htag, htaken]
  rfl

/-- A status OR whose stream has no status word, has parts to write, or meets a fault. -/
theorem exec_statusOr : let s0 := s.statusBegun pc v
    (spStw v = false → exec (.statusOr pc) s = .next (s0.statusOver pc)) ∧
    (∀ ps u, spStw v = true → s0.agnParts pc (spPath v) (wordParts (statusAddr v)) [] = (.parts ps, u) →
      exec (.statusOr pc) s = .next (((u.partsRead (s.pctxCtx (s.pctx pc)) (wordZ (statusAddr v)) ps).storeParts ps
        (leBytes 8 (Nat.lor (leNat (u.loadParts ps)) (s.statusAcc (s.pctx pc) v).toNat))).statusOver pc)) ∧
    (∀ c x u, spStw v = true → s0.agnParts pc (spPath v) (wordParts (statusAddr v)) [] = (.bad c x, u) →
      exec (.statusOr pc) s =
        .next (if c.isXlt && !l.nrx then s0.agnStop pc c x (s.pctx pc).pos else s0.agnFault pc c (wordZ x))) := by
  have hready := State.orReady_true hs hw hst hspill hdone hover
  obtain ⟨hk, hl, hruns, rfl, -, -, -⟩ := hs
  rw [show exec (.statusOr pc) s = execStatusOr pc s from rfl]
  unfold execStatusOr
  extract_lets s0 p0 v short p s1 a done fails
  rw [if_neg (by simp [hready])]
  have hp : p = { p0 with acc := s.statusAcc p0 v } := by
    unfold p
    cases hr : spReads v with
    | true => rw [if_pos rfl, ← s.statusAcc_reads p0 hr]
    | false => rw [if_neg Bool.false_ne_true, s.statusAcc_writes p0 hr]
  have hs1 : s1 = s0 := congrArg (s.setPctx pc) hp
  have hnrx : s.nrx p = l.nrx := by
    rw [hp]
    exact State.nrx_eq hk hl hruns
  refine ⟨fun hstw => ?_, fun ps u hstw hparts => ?_, fun c x u hstw hparts => ?_⟩
  · rw [hstw, hs1]
    rfl
  · rw [hstw, hs1, hp, show s0.agnParts pc (spPath v) (wordParts a) [] = _ from hparts]
    rfl
  · rw [hstw, hs1, show s0.agnParts pc (spPath v) (wordParts a) [] = _ from hparts, ← hnrx]
    change Host.Outcome.next (fails c x) = _
    dsimp only [fails]
    rw [hs1, show p.pos = p0.pos from (congrArg PCtx.pos hp :)]

end

/-- An OR into eight bytes is a number of eight bytes. -/
theorem lor_leNat_lt {bs : List Byte} (h : bs.length = 8) (w : Word) : Nat.lor (leNat bs) w.toNat < 2 ^ 64 :=
  Nat.or_lt_two_pow (h ▸ leNat_lt bs : leNat bs < 256 ^ 8) w.isLt

/-- A status word that is written in parts that share no byte: the word, the bytes beside it, and the stream. -/
theorem State.statusWord_written {u : State} (pc ctx : Nat) (a : Word) {ps : List (Nat × Nat)} {x : Nat} (hx : x < 2 ^ 64)
    (wf : Memory.wf u.mem = true) (hapart : ps.Pairwise PartsApart) (hlen : (ps.map Prod.snd).sum = 8) :
    let t := ((u.partsRead ctx a ps).storeParts ps (leBytes 8 x)).statusOver pc
    leNat (t.loadParts ps) = x ∧
      (∀ y, (∀ p ∈ ps, y < p.1 ∨ p.1 + p.2 ≤ y) → memRead t.mem y = memRead u.mem y) ∧
      t.pctx pc = { u.pctx pc with statusDone := true } ∧ OtherStreams u t pc ∧ t.arcs = u.arcs := by
  have hread := u.partsRead_frame ctx a ps
  generalize u.partsRead ctx a ps = w at hread
  have hmem : w.mem = u.mem := (congrArg State.mem hread :)
  have wf' : Memory.wf w.mem = true := hmem ▸ wf
  have hstored := w.storeParts_frame ps (leBytes 8 x)
  have hload := State.loadParts_storeParts wf' hapart (bs := leBytes 8 x) (by rw [leBytes_length, hlen])
  have hout (y : Nat) := State.storeParts_outside (ps := ps) wf' (leBytes 8 x) (x := y)
  generalize w.storeParts ps (leBytes 8 x) = r at hstored hload hout
  have hpctx (y : Nat) : r.pctx y = u.pctx y := (congrArg (State.pctx · y) hstored :).trans (congrArg (State.pctx · y) hread :)
  have h := (StreamIs.refl r pc).statusOver
  refine ⟨?_, fun y hy => (hout y hy).trans (congrArg (memRead · y) hmem), h.same.trans (by rw [hpctx]),
    fun y hy => (h.others y hy).trans (hpctx y), (congrArg State.arcs hstored :).trans (congrArg State.arcs hread :)⟩
  calc leNat ((r.statusOver pc).loadParts ps) = leNat (r.loadParts ps) := rfl
    _ = x := by rw [hload, leNat_leBytes]; exact Nat.mod_eq_of_lt hx

/-- A port context that has stopped at an element, whose record is made (R45, R46). -/
def PCtx.stopsAt (q : PCtx) (h : HeldElement) : PCtx := { q with stopped := some h, recorded := true }

theorem State.agnStop_eq (s : State) (pc : Nat) (c : Cause) (a : Int) (n : Nat) :
    s.agnStop pc c a n = (if (s.pctx pc).recorded then s else s.agnRecord pc c (wordZ a) true).setPctx pc
      ((s.pctx pc).stopsAt { n := n, addr := a.toNat, due := s.now + 65536 }) := by
  unfold State.agnStop
  split <;> rfl

/-- An AGN that stops at a translation fault writes one record for the element (R45, R46). -/
theorem State.agnStop_leaves (s : State) (pc : Nat) (c : Cause) (a : Int) (n : Nat) : let t := s.agnStop pc c a n
    t.pctx pc = (s.pctx pc).stopsAt { n := n, addr := a.toNat, due := s.now + 65536 } ∧ OtherStreams s t pc ∧ t.mem = s.mem ∧
      ((s.pctx pc).recorded = false → ∃ f, t.records = s.records ++ [f] ∧ f.cause = c ∧ f.origin = .agn ∧ f.stop = true ∧
        f.addr = addrOf c (BitVec.ofInt 64 a)) := by
  rw [State.agnStop_eq]
  refine ⟨State.setPctx_same .., fun x hx => (State.setPctx_other _ _ _ _ hx).trans ?_, ?_, fun hrec => ?_⟩
  · split <;> rfl
  · rw [State.setPctx_mem]
    split <;> rfl
  · rw [if_neg (by simp [hrec])]
    exact s.agnRecord_record pc c _ true

end Sys2Proof.Machine

namespace Sys2Proof.Claims
open Sys2Proof Sys2Proof.Machine

theorem statusOrs : StatusOrs := by
  intro s pc k l v hs hw wf p hst hspill hdone hover acc s0 a m
  obtain ⟨hsilent, hwrites, hfails⟩ := exec_statusOr hs hw hst hspill hdone hover
  obtain ⟨hk, hl, -, -, -, -, -⟩ := hs
  have hbegun : StreamIs s s0 pc { p with acc := acc } := .set ..
  obtain ⟨r, hhead⟩ := wordParts_head a
  refine ⟨fun hstw => ?_, fun b b1 u w hstw hm hr hwr => ?_, fun b c b1 c1 u w x y hstw hm hr hwr hr' hwr' hapart => ?_,
    fun c hstw hr hx => ?_, fun c b u hstw hr hwr hx hnrx => ?_⟩
  · have h := hbegun.statusOver
    exact ⟨_, hsilent hstw, h.same, h.others, h.frame⟩
  · have hu := (OnlyChecks.of hr).trans (.of hwr)
    have hload (t : State) : t.loadParts [(b, 8)] = memBytes t.mem b 8 := List.flatMap_singleton ..
    have hexec := hwrites [(b, 8)] w hstw ((congrArg (s0.agnParts pc (spPath v) · []) (wordParts_whole hm)).trans
      (State.agnParts_checked hr hwr))
    obtain ⟨hword, hout, hpctx, hother, harcs⟩ := State.statusWord_written pc (s.pctxCtx p) (wordZ a)
      (lor_leNat_lt (memBytes_length s.mem b 8) acc) (u := w) (hu.mem ▸ wf) (List.pairwise_singleton _ (b, 8)) rfl
    rw [hload, hu.mem] at hexec
    rw [hload] at hword
    exact ⟨_, hexec, hword, fun x hx => (hout x (by simpa using hx)).trans (congrArg (memRead · x) hu.mem), hpctx, hother,
      harcs.trans hu.arcs⟩
  · have hu := ((OnlyChecks.of hr).trans (.of hwr)).trans ((OnlyChecks.of hr').trans (.of hwr'))
    have hload (t : State) : t.loadParts [(b, m), (c, 8 - m)] = memBytes t.mem b m ++ memBytes t.mem c (8 - m) := by
      simp [State.loadParts]
    have hlen : m + (8 - m) = 8 := Nat.add_sub_of_le hm.le
    have hexec := hwrites [(b, m), (c, 8 - m)] y hstw ((congrArg (s0.agnParts pc (spPath v) · []) (wordParts_cut rfl hm)).trans
      ((State.agnParts_checked hr hwr).trans (State.agnParts_checked hr' hwr')))
    obtain ⟨hword, hout, hpctx, hother, -⟩ := State.statusWord_written pc (s.pctxCtx p) (wordZ a)
      (lor_leNat_lt (bs := memBytes s.mem b m ++ memBytes s.mem c (8 - m)) (by simp [memBytes_length, hlen]) acc)
      (u := y) (ps := [(b, m), (c, 8 - m)]) (hu.mem ▸ wf) (List.pairwise_pair.mpr hapart) (by simpa using hlen)
    rw [hload, hu.mem] at hexec
    rw [hload] at hword
    exact ⟨_, hexec, hword, fun z hb hc => (hout z (by simpa using ⟨hb, hc⟩)).trans (congrArg (memRead · z) hu.mem), hpctx,
      hother⟩
  · obtain ⟨t, ht⟩ := State.agnParts_unread (r := r) (ps := []) hr
    rw [hfails c a t hstw ((congrArg (s0.agnParts pc (spPath v) · []) hhead).trans ht), hx]
    exact ⟨_, rfl, State.agnFault_stops_from hbegun hk hl _ _ _⟩
  · obtain ⟨t, ht⟩ := State.agnParts_unwritten (r := r) (ps := []) hr hwr
    obtain ⟨hpctx, hother, hmem, hrecord⟩ := s0.agnStop_leaves pc c a p.pos
    rw [hbegun.same] at hpctx hrecord
    rw [hfails c a t hstw ((congrArg (s0.agnParts pc (spPath v) · []) hhead).trans ht), hx, hnrx]
    exact ⟨_, rfl, hpctx, fun x hx => (hother x hx).trans (hbegun.others x hx), hmem, hrecord⟩

/-- Settles O35: each step of an affine write and of a scatter in its turn, and the outcomes of a status OR. -/
theorem streamWrites : Obligations.StreamWrites := ⟨affineWrites, scatters, statusOrs⟩

end Sys2Proof.Claims

/-!
## The pure operators of a slot (R161 to R174)

Every integer, compare, select and float operator and every conversion is `State.pureOp` of one function of its operands' DATA:
`exec_integerSlot` and `exec_floatSlot` say so once, by the forms of the statements, where the model shifts, counts, compares or
picks in another way. `pureOp_fires` is then the firing of them all.
-/

namespace Sys2Proof.Machine
open Sys2Proof Sys2Proof.Claims

/-! ### Results of an exact value (R163) -/

theorem fitInt_eq {n : Nat} (hn : 0 < n) (sat : Bool) (v : Int) : fitInt n sat v = formed sat n v := by
  have hd := Nat.two_pow_pred_mul_two hn
  have hp := Nat.two_pow_pos (n - 1)
  have hz : ((2 : Int) ^ (n - 1)) = (2 ^ (n - 1) : Nat) := by norm_cast
  have hlo : wrapNat n (-(2 ^ (n - 1) : Nat)) = 2 ^ (n - 1) := by
    rw [wrapNat, ← Int.add_emod_right, Int.emod_eq_of_lt] <;> omega
  have hhi : wrapNat n ((2 ^ (n - 1) : Nat) - 1) = 2 ^ (n - 1) - 1 := by
    rw [wrapNat, Int.emod_eq_of_lt] <;> omega
  simp only [fitInt, formed, hlo, hhi, hz]
  cases sat <;> simp [wrapNat, flSAT]

theorem toSigned_bounds {n : Nat} (hn : 0 < n) (a : Nat) :
    -(2 ^ (n - 1) : Nat) ≤ toSigned n a ∧ toSigned n a < (2 ^ (n - 1) : Nat) := by
  have hd := Nat.two_pow_pred_mul_two hn
  have ha := Nat.mod_lt a (Nat.two_pow_pos n)
  unfold toSigned
  split <;> omega

/-- Of a value that is shifted by its width or more only the sign is left, and a clamped result shows it. -/
theorem formed_shifted_out {n k : Nat} (hn : 0 < n) (sat : Bool) (v : Int) (hk : n ≤ k) :
    formed sat n (v * (2 ^ k : Nat)) =
      if sat = true ∧ v < 0 then (2 ^ (n - 1), 0x20) else if sat = true ∧ 0 < v then (2 ^ (n - 1) - 1, 0x20) else (0, 0) := by
  have hd := Nat.two_pow_pred_mul_two hn
  have hp : (2 ^ n : Nat) ≤ 2 ^ k := Nat.pow_le_pow_right (by decide) hk
  have hz : ((2 : Int) ^ (n - 1)) = (2 ^ (n - 1) : Nat) := by norm_cast
  have hmod : v * (2 ^ k : Nat) % 2 ^ n = 0 :=
    Int.emod_eq_zero_of_dvd (Dvd.dvd.mul_left (by exact_mod_cast pow_dvd_pow 2 hk) v)
  rw [formed, hmod, hz]
  rcases lt_trichotomy v 0 with hv | rfl | hv
  · have : v * (2 ^ k : Nat) ≤ -(2 ^ k : Nat) := by nlinarith
    cases sat <;> grind
  · cases sat <;> grind
  · have : ((2 ^ k : Nat) : Int) ≤ v * (2 ^ k : Nat) := by nlinarith
    cases sat <;> grind

/-- The model shifts by no more than twice the width. -/
theorem formed_shiftLeft {n : Nat} (hn : 0 < n) (sat : Bool) (v : Int) (b : Nat) :
    formed sat n (shiftLeft n v b) = formed sat n (v * (2 ^ b : Nat)) := by
  rcases Nat.le_total b (2 * n) with hb | hb
  · rw [shiftLeft, Nat.min_eq_left hb]
  · rw [shiftLeft, Nat.min_eq_right hb, formed_shifted_out hn sat v (by omega), formed_shifted_out hn sat v (by omega)]

/-- A floored quotient by a number above the magnitude is 0 or −1. -/
theorem ediv_of_small {v m : Int} (hlo : -m ≤ v) (hhi : v < m) : v / m = if v < 0 then -1 else 0 := by
  split
  case isTrue h => exact ((Int.ediv_emod_unique (by omega)).mpr ⟨show v + m + m * -1 = v by ring, by omega, by omega⟩).1
  case isFalse h => exact Int.ediv_eq_zero_of_lt (by omega) hhi

/-- The model shifts right by no more than the width. -/
theorem toSigned_shiftRight {n : Nat} (hn : 0 < n) (a b : Nat) :
    toSigned n a / (2 ^ min b n : Nat) = toSigned n a / (2 ^ b : Nat) := by
  rcases Nat.le_total b n with hb | hb
  · rw [Nat.min_eq_left hb]
  · obtain ⟨hlo, hhi⟩ := toSigned_bounds hn a
    have hd := Nat.two_pow_pred_mul_two hn
    have hp : (2 ^ n : Nat) ≤ 2 ^ b := Nat.pow_le_pow_right (by decide) hb
    rw [Nat.min_eq_right hb, ediv_of_small (m := (2 ^ n : Nat)), ediv_of_small (m := (2 ^ b : Nat))] <;> omega

/-! ### Elements (R107, R156) -/

theorem width_pair (o : SlotOp) : o.w.toNat = 4 ↔ o.w = 4 := by simp [BitVec.toNat_eq]

theorem elemWidth_eq (o : SlotOp) : elemWidth o.w.toNat = widthOf o := by simp only [elemWidth, widthOf, width_pair]

theorem widthOf_pos (o : SlotOp) : 0 < widthOf o := by
  unfold widthOf
  split
  · decide
  · positivity

theorem elem_zero (o : SlotOp) (v : Nat) : elem o.w.toNat 0 v = v % 2 ^ widthOf o := by
  simp [elem, bits, elemWidth_eq]

theorem elem_lt (o : SlotOp) (j v : Nat) : elem o.w.toNat j v < 2 ^ widthOf o := by
  rw [elem, elemWidth_eq]
  exact Nat.mod_lt _ (Nat.two_pow_pos _)

/-- The elements of a width in their places, by the model and by the statements. -/
theorem perElem_eq (o : SlotOp) {f g : Nat → Nat → Nat → Nat × Flags}
    (h : ∀ a b c, a < 2 ^ widthOf o → b < 2 ^ widthOf o → c < 2 ^ widthOf o → f a b c = g a b c) (a b c : Nat) :
    perElem o.w.toNat (fun j => f (elem o.w.toNat j a) (elem o.w.toNat j b) (elem o.w.toNat j c)) =
      perElement o g a b c := by
  simp only [h _ _ _ (elem_lt ..) (elem_lt ..) (elem_lt ..)]
  by_cases hw : o.w = 4
  · simp [perElem, perElement, hw, elem, elemWidth, bits, Nat.mul_comm]
  · simp only [perElem, perElement, width_pair, hw, if_false, elem_zero]

theorem elemOp_eq (s : State) (opc : Nat) (o : SlotOp) (base : Nat) {f g : Nat → Nat → Nat → Nat × Flags}
    (h : ∀ a b c, a < 2 ^ widthOf o → b < 2 ^ widthOf o → c < 2 ^ widthOf o → f a b c = g a b c) :
    s.elemOp opc o base f = s.pureOp opc o base (perElement o g) := by
  rw [show perElement o g = _ from funext fun a => funext fun b => funext fun c => (perElem_eq o h a b c).symm]
  rfl

/-! ### The operators on bits (R163) -/

section
variable {n a : Nat} (ha : a < 2 ^ n)
include ha

theorem toNat_not_ofNat : (~~~BitVec.ofNat n a).toNat = 2 ^ n - 1 - a := by
  rw [BitVec.toNat_not, BitVec.toNat_ofNat, Nat.mod_eq_of_lt ha]

theorem toNat_rotateLeft_ofNat (hn : 0 < n) (b : Nat) :
    ((BitVec.ofNat n a).rotateLeft (b % n)).toNat = a * 2 ^ (b % n) % 2 ^ n + a / 2 ^ (n - b % n) := by
  have hr := Nat.mod_lt b hn
  have hsplit : 2 ^ n = 2 ^ (n - b % n) * 2 ^ (b % n) := by rw [← pow_add, Nat.sub_add_cancel hr.le]
  have hlow : a / 2 ^ (n - b % n) < 2 ^ (b % n) := Nat.div_lt_of_lt_mul (hsplit ▸ ha)
  rw [BitVec.toNat_rotateLeft, BitVec.toNat_ofNat, Nat.mod_eq_of_lt ha, Nat.mod_mod, Nat.shiftLeft_eq, Nat.shiftRight_eq_div_pow,
    hsplit, Nat.mul_mod_mul_right, ← Nat.shiftLeft_eq, Nat.shiftLeft_add_eq_or_of_lt hlow]

theorem shiftRight_eq (b : Nat) : (if n ≤ b then 0 else a / 2 ^ b) = a / 2 ^ b := by
  split
  case isTrue h => exact (Nat.div_eq_of_lt (Nat.lt_of_lt_of_le ha (Nat.pow_le_pow_right (by decide) h))).symm
  case isFalse => rfl

variable {b : Nat} (hb : b < 2 ^ n)
include hb

theorem toNat_and_ofNat : (BitVec.ofNat n a &&& BitVec.ofNat n b).toNat = Nat.land a b := by
  rw [BitVec.toNat_and, BitVec.toNat_ofNat, BitVec.toNat_ofNat, Nat.mod_eq_of_lt ha, Nat.mod_eq_of_lt hb]
  rfl

theorem toNat_or_ofNat : (BitVec.ofNat n a ||| BitVec.ofNat n b).toNat = Nat.lor a b := by
  rw [BitVec.toNat_or, BitVec.toNat_ofNat, BitVec.toNat_ofNat, Nat.mod_eq_of_lt ha, Nat.mod_eq_of_lt hb]
  rfl

theorem toNat_xor_ofNat : (BitVec.ofNat n a ^^^ BitVec.ofNat n b).toNat = Nat.xor a b := by
  rw [BitVec.toNat_xor, BitVec.toNat_ofNat, BitVec.toNat_ofNat, Nat.mod_eq_of_lt ha, Nat.mod_eq_of_lt hb]
  rfl

theorem toNat_and_not_ofNat : (BitVec.ofNat n a &&& ~~~BitVec.ofNat n b).toNat = Nat.land a (2 ^ n - 1 - b) := by
  rw [BitVec.toNat_and, toNat_not_ofNat hb, BitVec.toNat_ofNat, Nat.mod_eq_of_lt ha]
  rfl

end

theorem countP_le_range (m n : Nat) : (List.range n).countP (fun k => decide (m ≤ k)) = n - m := by
  induction n with
  | zero => simp
  | succ n ih =>
    rw [List.range_succ, List.countP_append, ih, List.countP_singleton]
    simp only [decide_eq_true_eq]
    split <;> omega

/-- CLZ counts the places at which `a` ends or that lie above its end. -/
theorem countP_above (n a : Nat) :
    (if a = 0 then n else n - 1 - Nat.log2 a) = (List.range n).countP (fun k => decide (a < 2 ^ k)) := by
  split
  case isTrue h => simp [h, List.countP_true]
  case isFalse h => simp only [← Nat.log2_lt h, ← Nat.succ_le_iff, countP_le_range]; omega

theorem foldl_bits (a : Nat) (l : List Nat) (m : Nat) :
    l.foldl (fun k i => k + bits a i 1) m = m + l.countP (fun k => a.testBit k) := by
  induction l generalizing m with
  | nil => rfl
  | cons i r ih =>
    have hb : bits a i 1 = (a.testBit i).toNat := (Nat.toNat_testBit a i).symm
    rw [List.foldl_cons, ih, List.countP_cons, hb]
    cases a.testBit i <;> simp; omega

/-! ### Exact values (R163) -/

theorem intOp_eq (s : State) (opc : Nat) (o : SlotOp) (sat : Bool) {g : Nat → Bool → Nat → Nat → Nat → Int}
    {v : Bool → Nat → Nat → Nat → Nat → Int}
    (h : ∀ {n a b c}, 0 < n → a < 2 ^ n → b < 2 ^ n → formed sat n (g n sat a b c) = formed sat n (v sat n a b c)) :
    s.intOp opc o g sat = s.pureOp opc o (sliceCount o)
      (perElement o (fun a b c => formed sat (widthOf o) (v sat (widthOf o) a b c))) := by
  unfold State.intOp
  refine elemOp_eq s opc o _ fun a b c ha hb _ => ?_
  rw [elemWidth_eq, fitInt_eq (widthOf_pos o)]
  exact h (widthOf_pos o) ha hb

/-- Each operator of R163 forms the result of its exact value, which the model may compute another way. -/
theorem exec_intForm {i : Instr} {opc : Nat} {o : SlotOp} {always : Bool} {v : Bool → Nat → Nat → Nat → Nat → Int}
    (h : intForm i = some (opc, o, always, v)) (s : State) :
    ∃ g, exec i s = s.intOp opc o g (always || o.m.getLsbD 0) ∧
      ∀ {sat n a b c}, 0 < n → a < 2 ^ n → b < 2 ^ n → formed sat n (g n sat a b c) = formed sat n (v sat n a b c) := by
  have same {sat n} {x y : Nat} (hxy : x = y) : formed sat n x = formed sat n y := hxy ▸ rfl
  cases i with
  | addOperator | subOperator | adds | subs | mulOperator | mulhOperator | mad | neg | minOperator | maxOperator =>
    cases h; dsimp only [exec]; exact ⟨_, rfl, fun _ _ _ => rfl⟩
  | abs => cases h; dsimp only [exec]; exact ⟨_, rfl, fun _ _ _ => congrArg _ (Int.natCast_natAbs _)⟩
  | minu => cases h; dsimp only [exec]; exact ⟨_, rfl, fun _ _ _ => congrArg _ (Nat.cast_min ..)⟩
  | maxu => cases h; dsimp only [exec]; exact ⟨_, rfl, fun _ _ _ => congrArg _ (Nat.cast_max ..)⟩
  | andOperator => cases h; dsimp only [exec]; exact ⟨_, rfl, fun _ ha hb => same (toNat_and_ofNat ha hb).symm⟩
  | orOperator => cases h; dsimp only [exec]; exact ⟨_, rfl, fun _ ha hb => same (toNat_or_ofNat ha hb).symm⟩
  | xorOperator => cases h; dsimp only [exec]; exact ⟨_, rfl, fun _ ha hb => same (toNat_xor_ofNat ha hb).symm⟩
  | andn => cases h; dsimp only [exec]; exact ⟨_, rfl, fun _ ha hb => same (toNat_and_not_ofNat ha hb).symm⟩
  | not => cases h; dsimp only [exec]; exact ⟨_, rfl, fun _ ha _ => same (toNat_not_ofNat ha).symm⟩
  | shl =>
    cases h; dsimp only [exec]
    refine ⟨_, rfl, fun {sat _ _ _ _} hn _ _ => ?_⟩
    cases sat <;> exact (formed_shiftLeft hn _ _ _).trans (by norm_cast)
  | shr => cases h; dsimp only [exec]; exact ⟨_, rfl, fun _ ha _ => same (shiftRight_eq ha _)⟩
  | sar =>
    cases h; dsimp only [exec]
    exact ⟨_, rfl, fun hn _ _ => congrArg _ ((toSigned_shiftRight hn _ _).trans (by norm_cast))⟩
  | rol => cases h; dsimp only [exec]; exact ⟨_, rfl, fun hn ha _ => same (toNat_rotateLeft_ofNat ha hn _).symm⟩
  | clz => cases h; dsimp only [exec]; exact ⟨_, rfl, fun _ _ _ => same (countP_above _ _)⟩
  | popc => cases h; dsimp only [exec]; exact ⟨_, rfl, fun _ _ _ => same ((foldl_bits _ _ 0).trans (Nat.zero_add _))⟩
  | _ => cases h

/-! ### Compares and SEL (R164, R165) -/

theorem truth_eq {p q : Bool} (h : p = q) : (p.toNat, (0 : Flags)) = (if q then 1 else 0, 0) := by
  subst h
  cases p <;> rfl

theorem exec_compareForm {i : Instr} {opc : Nat} {o : SlotOp} {f : Nat → Nat → Nat → Nat → Nat}
    (h : compareForm i = some (opc, o, f)) (s : State) :
    ∃ g, exec i s = s.elemOp opc o (sliceCount o) g ∧ ∀ a b c, g a b c = (f (widthOf o) a b c, 0) := by
  cases i with
  | cmpeq | cmpltu | cmpleu =>
    cases h; dsimp only [exec, execCmpeq, execCmpltu, execCmpleu, State.predOp]
    exact ⟨_, rfl, fun _ _ _ => truth_eq rfl⟩
  | cmpne =>
    cases h; dsimp only [exec, execCmpne, State.predOp]
    exact ⟨_, rfl, fun _ _ _ => truth_eq (by simp [bne, beq_eq_decide])⟩
  | cmplt | cmple =>
    cases h; dsimp only [exec, execCmplt, execCmple, State.predOp]
    exact ⟨_, rfl, fun _ _ _ => truth_eq (by rw [elemWidth_eq])⟩
  | sel =>
    cases h; dsimp only [exec, execSel]
    exact ⟨_, rfl, fun _ _ _ => by simp [Nat.testBit_zero]⟩
  | _ => cases h

/-- An integer, compare or select operator depends on the DATA of its operands alone (R161 to R165). -/
theorem exec_integerSlot {i : Instr} {opc : Nat} {o : SlotOp} {f : Nat → Nat → Nat → Nat × Flags}
    (h : integerSlot i = some (opc, o, f)) (s : State) : exec i s = s.pureOp opc o (sliceCount o) f := by
  unfold integerSlot at h
  split at h
  case h_1 hi =>
    obtain ⟨g, hexec, hv⟩ := exec_intForm hi s
    cases h
    exact hexec.trans (intOp_eq s opc o _ hv)
  case h_2 hc =>
    obtain ⟨g, hexec, hg⟩ := exec_compareForm hc s
    cases h
    exact hexec.trans (elemOp_eq s opc o _ fun a b c _ _ _ => hg a b c)
  case h_3 => cases h

/-! ### Float operators (R166 to R174) -/

theorem Fmt.isNeg_eq (t : Fmt) (a : Nat) : t.isNeg a = a.testBit (t.w - 1) := by
  rw [Nat.testBit_eq_decide_div_mod_eq]
  rfl

/-- FMIN and FMAX, by the test that tells which of two numbers is left out (R167). -/
theorem pickFloat_eq (worse : Fmt → Nat → Nat → Bool) (t : Fmt) (a b : Nat) :
    pickFloat (fun t a b => !worse t a b) t a b =
      { bits := if (t.decode a).isNan && (t.decode b).isNan then t.nanRes.bits else if (t.decode a).isNan then b
          else if (t.decode b).isNan then a else if worse t a b then b else a, fl := 0 } := by
  unfold pickFloat
  split
  case h_4 ha hb => cases hw : worse t a b <;> simp [ha, hb, hw]
  all_goals simp [*]

/-- A compare of values, by whether an operand is a NaN (R168). -/
theorem floatPred_eq (ordered : Bool) (test : FVal → FVal → Bool) (a b : FVal) :
    floatPred ordered test a b = { bits := if !(a.isNan || b.isNan) && test a b then 1 else 0,
                                   fl := if ordered && (a.isNan || b.isNan) then flNV else 0 } := by
  cases h : a.isNan || b.isNan
  · cases ht : test a b <;> simp [floatPred, h, ht]
  · simp [floatPred, h, flIf]

/-- The operators on values: each element's result comes from the formula of its operator. -/
theorem exec_floatForm {i : Instr} {opc : Nat} {o : SlotOp} {k : Nat} {f : Fmt → Round → FVal → FVal → FVal → FRes}
    (h : floatForm i = some (opc, o, k, f)) (s : State) :
    ∃ g, exec i s = s.floatBits opc o k g ∧
      ∀ a b c, g o.fmt a b c = f o.fmt o.mode (o.fmt.decode a) (o.fmt.decode b) (o.fmt.decode c) := by
  cases i with
  | fadd | fsub | fmul | fma =>
    cases h; dsimp only [exec, execFadd, execFsub, execFmul, execFma, State.floatOp]
    exact ⟨_, rfl, fun _ _ _ => rfl⟩
  | fcmpeq | fcmplt | fcmple =>
    cases h; dsimp only [exec, execFcmpeq, execFcmplt, execFcmple, State.floatOp]
    exact ⟨_, rfl, fun _ _ _ => by simp [floatPred_eq]⟩
  | fcmpun =>
    cases h; dsimp only [exec, execFcmpun, State.floatOp]
    exact ⟨_, rfl, fun _ _ _ => congrArg (FRes.mk · 0) (congrArg Prod.fst (truth_eq rfl))⟩
  | rcp | rsq | sqrt | exp2 | log2 | tanh | sigm =>
    cases h; dsimp only [exec, execRcp, execRsq, execSqrt, execExp2, execLog2, execTanh, execSigm]
    exact ⟨_, rfl, fun _ _ _ => rfl⟩
  | _ => cases h

/-- The operators on patterns raise no flag. -/
theorem exec_patternForm {i : Instr} {opc : Nat} {o : SlotOp} {f : Fmt → Round → Nat → Nat → Nat}
    (h : patternForm i = some (opc, o, f)) (s : State) :
    ∃ g, exec i s = s.floatBits opc o 2 g ∧ ∀ a b c, g o.fmt a b c = { bits := f o.fmt o.mode a b, fl := 0 } := by
  cases i with
  | fmin | fmax =>
    cases h; dsimp only [exec, execFmin, execFmax]
    exact ⟨_, rfl, fun _ _ _ => (pickFloat_eq ..).trans (by simp only [Fmt.below, Fmt.isNeg_eq])⟩
  | fabs | fneg =>
    cases h; dsimp only [exec, execFabs, execFneg]
    exact ⟨_, rfl, fun _ _ _ => by simp [Fmt.withSign, Fmt.isNeg_eq, bits]⟩
  | frnd => cases h; dsimp only [exec, execFrnd]; exact ⟨_, rfl, fun _ _ _ => rfl⟩
  | _ => cases h

theorem exec_convertForm {i : Instr} {opc : Nat} {o : SlotOp} {k : Nat} {f : Nat → Nat × Flags}
    (h : convertForm i = some (opc, o, k, f)) (s : State) : exec i s = s.pureOp opc o k (fun a _ _ => f a) := by
  cases i with
  | fclass =>
    cases h; dsimp only [exec, execFclass]
    refine congrArg (s.pureOp 0x34 o _) (funext fun v => ?_)
    by_cases hw : o.w = 4
    · simp [hw, elem, elemWidth, bits, Nat.mul_comm]
    · simp only [width_pair, hw, if_false, elem_zero]
  | cvtf | cvti | cvtif =>
    cases h; dsimp only [exec, execCvtf, execCvti, execCvtif, State.convert]
    simp only [elemWidth_eq, bits, FRes.pair, Nat.mul_comm _ (2 ^ _)]
    rfl
  | _ => cases h

theorem floatBits_eq (s : State) (opc : Nat) (o : SlotOp) (k : Nat) {g : Fmt → Nat → Nat → Nat → FRes}
    {f : Nat → Nat → Nat → Nat × Flags} (h : ∀ a b c, (g o.fmt a b c).pair = f a b c) :
    s.floatBits opc o k g = s.pureOp opc o (k * sliceCount o) (perElement o f) :=
  elemOp_eq s opc o _ fun a b c _ _ _ => h a b c

/-- A float operator or conversion depends on the DATA of its operands alone (R166 to R174). -/
theorem exec_floatSlot {i : Instr} {opc : Nat} {o : SlotOp} {base : Nat} {f : Nat → Nat → Nat → Nat × Flags}
    (h : floatSlot i = some (opc, o, base, f)) (s : State) : exec i s = s.pureOp opc o base f := by
  unfold floatSlot at h
  split at h
  case h_1 hv =>
    obtain ⟨g, hexec, hg⟩ := exec_floatForm hv s
    cases h
    exact hexec.trans (floatBits_eq s opc o _ fun a b c => by rw [hg]; rfl)
  case h_2 hp _ =>
    obtain ⟨g, hexec, hg⟩ := exec_patternForm hp s
    cases h
    exact hexec.trans (floatBits_eq s opc o _ fun a b c => by rw [hg]; rfl)
  case h_3 hc _ _ =>
    cases h
    exact exec_convertForm hc s
  case h_4 => cases h

/-! ### The firing rule (R93, R138, R158) -/

section
variable {s : State} {opc : Nat} {o : SlotOp}

/-- The result's poison is lost where both targets hold no place (R138, R158). -/
theorem resultLost (o : SlotOp) (k : Token) :
    ((k.psn || [k].any Token.psn || [k].any Token.psn) && !carried o [k] [k]) = (k.psn && o.t0 == 0x1FF && o.t1 == 0x1FF) := by
  simp only [carried, List.any_cons, List.any_nil, Bool.or_false, bne]
  cases k.psn <;> cases o.t0 == 0x1FF <;> cases o.t1 == 0x1FF <;> rfl

theorem slotPorts_lt {p : Nat} (h : p ∈ slotPorts opc o) : p < 3 := by
  unfold slotPorts at h
  grind

/-- The poison that a result takes over, port by port. -/
theorem anyPoison_eq (s : State) (opc : Nat) (o : SlotOp) : anyPoison s opc o =
    (((slotPorts opc o).contains 0 && (s.operand opc o 0).psn) || ((slotPorts opc o).contains 1 && (s.operand opc o 1).psn) ||
      ((slotPorts opc o).contains 2 && (s.operand opc o 2).psn)) := by
  rw [Bool.eq_iff_iff]
  simp only [anyPoison, List.any_eq_true, Bool.or_eq_true, Bool.and_eq_true, List.contains_iff_mem]
  constructor
  · rintro ⟨p, hp, hpsn⟩
    have hlt := slotPorts_lt hp
    interval_cases p <;> simp [hp, hpsn]
  · rintro ((h | h) | h) <;> exact ⟨_, h⟩

/-- An operator whose result depends on the DATA of its operands alone, when it can fire (R93). -/
theorem pureOp_fires {base : Nat} (h : CanFire s opc o base) (f : Nat → Nat → Nat → Nat × Flags) :
    s.pureOp opc o base f =
      .next (firesWith s opc o base (f (dataOf s opc o 0) (dataOf s opc o 1) (dataOf s opc o 2))) := by
  obtain ⟨hlive, hdata, hroom, hpay⟩ := h
  have hlost := resultLost o (resultToken s opc o (f (dataOf s opc o 0) (dataOf s opc o 1) (dataOf s opc o 2)).1)
  simp only [State.pureOp, State.fireRule, oneResult, hlive, hdata, hroom, hpay, ← anyPoison_eq, Bool.or_false]
  exact congrArg (fun b : Bool => Host.Outcome.next ((if b then State.orFlags _ flPSEEN else _).put o _ _)) hlost

end

end Sys2Proof.Machine

namespace Sys2Proof.Claims
open Sys2Proof Sys2Proof.Machine

/-- Settles O14: the operator is a function of its operands' DATA, and it fires. -/
theorem slotIntegerResults : Obligations.SlotIntegerResults := by
  intro i s opc o f h hfire
  rw [exec_integerSlot h, pureOp_fires hfire]

/-- Settles O15: the operator or conversion is a function of its operands' DATA, and it fires. -/
theorem slotFloatResults : Obligations.SlotFloatResults := by
  intro i s opc o base f h hfire
  rw [exec_floatSlot h, pureOp_fires hfire]

end Sys2Proof.Claims

/-!
## What a firing leaves, ends and mismatches (R93, R95, R189, R430)

A firing pays, takes its inputs and joins its flags (`Fired`), and then places its tokens (`Placed`), each with one rule for what it
leaves alone; the frame of a firing puts the two together. Where the heads do not fire, a plain operator is `State.fireRule` and
nothing else (`exec_plainEnd`), so it ends or stops by that rule alone.
-/

namespace Sys2Proof.Machine
open Sys2Proof Sys2Proof.Claims

/-! ### Tokens of a firing (R93, R103, R104) -/

/-- A state with another one's tiles, arcs, memory, records and launches: all that tokens, and an adapter that stops, touch. -/
def State.withTokensOf (u s : State) : State :=
  { u with tiles := s.tiles, arcs := s.arcs, mem := s.mem, poison := s.poison, records := s.records, rings := s.rings,
           launches := s.launches }

/-- Between the states only tokens have moved, or an adapter has stopped. -/
def TokensOnly (s t : State) : Prop := t.withTokensOf s = s

theorem TokensOnly.trans {s t u : State} (h : TokensOnly s t) (h' : TokensOnly t u) : TokensOnly s u :=
  (congrArg (State.withTokensOf · s) h').trans h

theorem TokensOnly.raise (s : State) (c : Cause) (r : Report) : TokensOnly s (s.raise c r) :=
  (congrArg (State.withTokensOf · s) (s.raise_frame c r) :)

theorem TokensOnly.setArcAt {s u : State} (h : TokensOnly s u) (t g : Nat) (a : Arc) : TokensOnly s (u.setArcAt t g a) := h

/-- What placing a token does: nothing, an arc that takes it, the next slot of the arc's ring, or an adapter that stops. -/
inductive Placed (s : State) (t g : Nat) (k : Token) : State → Prop
  | none : Placed s t g k s
  | arc (a : Arc) : Placed s t g k (s.setArcAt t g a)
  | ring (l x : Nat) (a : Arc) (bs : List Byte) (h : ringSlot s t g = some l) (hbs : bs.length = 16) :
    Placed s t g k (((s.storeBytes l bs).setArcAt t g a).bumpCounter x 5 1)
  | fault (n : Nat) : Placed s t g k (s.adapterFault t g n (some k))

theorem State.bumpCounter_tile (s : State) (t c n x : Nat) :
    { (s.bumpCounter t c n).tile x with counters := (s.tile x).counters } = s.tile x := by
  by_cases hx : x = t
  · subst hx
    rw [State.bumpCounter, State.setTile_same]
  · rw [State.bumpCounter, State.setTile_other _ _ _ _ hx]

theorem State.send_placed (s : State) (src t g : Nat) (k : Token) : Placed s t g k (s.send src t g k) := by
  by_cases hg : g = 0x1FF
  · rw [s.send_discarded k hg]
    exact .none
  by_cases hs : src = t
  · rw [s.send_home k hg hs]
    rcases s.arrives_cases t g with hq | ⟨r, hr, hfull⟩
    · rw [State.arrives_queue k hq]
      exact .arc _
    · cases hp : s.ringPlace t r r.wr .write with
      | some l =>
        rw [State.arrives_ring k hr hfull hp]
        exact .ring _ _ _ _ (by simp [ringSlot, hg, hr, hp]) (by simp [slotWords])
      | none =>
        rw [State.arrives_fault k hr hfull hp]
        exact .fault _
  · rw [s.send_abroad k hg hs]
    exact .arc _

section
variable {s u : State} {t g : Nat} {k : Token} (h : Placed s t g k u)
include h

theorem Placed.tokensOnly : TokensOnly s u := by
  cases h with
  | none => rfl
  | arc => rfl
  | ring => rfl
  | fault n =>
    exact (State.freeze_keeps (State.withTokensOf · s) (fun _ _ => rfl) _ _ _).trans ((TokensOnly.raise ..).setArcAt ..)

theorem Placed.tile (x : Nat) : { u.tile x with counters := (s.tile x).counters } = s.tile x := by
  cases h with
  | none | arc => rfl
  | ring => exact State.bumpCounter_tile ..
  | fault n =>
    rw [show (s.adapterFault t g n (some k)).tile x = s.tile x from State.freeze_keeps (·.tile x) (fun _ _ => rfl) _ _ _]

theorem Placed.mem_wf (wf : Memory.wf s.mem = true) : Memory.wf u.mem = true := by
  cases h with
  | none | arc => exact wf
  | ring l => exact memPut_wf s.mem l _ wf
  | fault n => rwa [s.adapterFault_mem]

theorem Placed.outside (wf : Memory.wf s.mem = true) {x : Nat} (hx : ∀ l, ringSlot s t g = some l → x < l ∨ l + 16 ≤ x) :
    memRead u.mem x = memRead s.mem x := by
  cases h with
  | none | arc => rfl
  | ring l y a bs h hbs => exact memRead_put_outside bs s.mem l x wf (hbs ▸ hx l h)
  | fault n => rw [s.adapterFault_mem]

end

/-! ### One token on each target (R93) -/

section
variable (u : State) (o : SlotOp) (k : Token)

theorem put_first : Placed u u.curTile o.t0.toNat k (u.send u.curTile u.curTile o.t0.toNat k) := u.send_placed ..

theorem put_second : Placed (u.send u.curTile u.curTile o.t0.toNat k) u.curTile o.t1.toNat k (u.put o [k] [k]) :=
  State.send_placed ..

theorem put_tokensOnly : TokensOnly u (u.put o [k] [k]) := (put_first u o k).tokensOnly.trans (put_second u o k).tokensOnly

theorem put_tile (x : Nat) : { (u.put o [k] [k]).tile x with counters := (u.tile x).counters } = u.tile x :=
  (congrArg (fun v : Tile => { v with counters := (u.tile x).counters }) ((put_second u o k).tile x)).trans
    ((put_first u o k).tile x)

theorem put_arc {y : Nat} (h0 : y ≠ 512 * u.curTile + o.t0.toNat) (h1 : y ≠ 512 * u.curTile + o.t1.toNat) :
    (u.put o [k] [k]).arc y = u.arc y :=
  (State.send_other _ k h1).trans (u.send_other k h0)

theorem put_outside (wf : Memory.wf u.mem = true) {x : Nat}
    (h0 : ∀ l, ringSlot u u.curTile o.t0.toNat = some l → x < l ∨ l + 16 ≤ x)
    (h1 : ∀ l, ringSlot (u.send u.curTile u.curTile o.t0.toNat k) u.curTile o.t1.toNat = some l → x < l ∨ l + 16 ≤ x) :
    memRead (u.put o [k] [k]).mem x = memRead u.mem x :=
  ((put_second u o k).outside ((put_first u o k).mem_wf wf) h1).trans ((put_first u o k).outside wf h0)

end

/-! ### What a firing leaves before its tokens (R93, R94, R115, R412) -/

theorem or_noFlags (f : Flags) : f ||| 0 = f := BitVec.or_zero

theorem noFlags_or (f : Flags) : 0 ||| f = f := BitVec.zero_or

/-- What poison that no target takes adds to the flags (R158). -/
def lostFlags (s : State) (opc : Nat) (o : SlotOp) : Flags :=
  if anyPoison s opc o && o.t0 == 0x1FF && o.t1 == 0x1FF then 0x40 else 0

/-- A tile with the slots, the counters and the last grant of another. -/
def Tile.withSlotsOf (v x : Tile) : Tile := { v with slots := x.slots, counters := x.counters, lastGrant := x.lastGrant }

/-- A tile that has paid a firing, and whose flags have been joined. -/
def Tile.fired (x : Tile) (base : Nat) (fl : Flags) : Tile :=
  { x with pool := x.pool - x.plane.cost base, flags := x.flags ||| fl }

/-- The running slot has paid and may have taken inputs, and flags have joined its tile's: no token is placed yet. -/
structure Fired (s : State) (base : Nat) (fl : Flags) (u : State) : Prop where
  frame : { u with tiles := s.tiles, arcs := s.arcs } = s
  other : ∀ x, x ≠ s.curTile → u.tile x = s.tile x
  own : (u.tile s.curTile).withSlotsOf (s.tile s.curTile) = (s.tile s.curTile).fired base fl
  arc : ∀ y, (∀ p, p < 3 → y ≠ 512 * s.curTile + slotTarget s.curSlot p) → u.arc y = s.arc y

namespace Fired

theorem pay (s : State) (base : Nat) : Fired s base 0 (s.pay base) := by
  refine ⟨rfl, fun x hx => ?_, ?_, fun _ _ => rfl⟩
  · rw [State.pay, State.bumpCounter, State.setTile_other _ _ _ _ hx, State.setTile_other _ _ _ _ hx]
  · rw [State.pay, State.bumpCounter, State.setTile_same, State.setTile_same, Tile.fired, or_noFlags]
    rfl

variable {s u : State} {base : Nat} {fl : Flags}

section
variable (h : Fired s base fl u)
include h

theorem curTile : u.curTile = s.curTile := (congrArg State.curTile h.frame :)

theorem curSlot : u.curSlot = s.curSlot := (congrArg State.curSlot h.frame :)

theorem tokensOnly : TokensOnly s u := (congrArg (State.withTokensOf · s) h.frame :)

theorem setTile {v : Tile} {fl' : Flags} (hv : v.withSlotsOf (s.tile s.curTile) = (s.tile s.curTile).fired base fl') :
    Fired s base fl' (u.setTile u.curTile v) := by
  rw [h.curTile]
  refine ⟨h.frame, fun x hx => ?_, ?_, h.arc⟩
  · rw [State.setTile_other _ _ _ _ hx, h.other x hx]
  · rwa [State.setTile_same]

theorem setSlotSt (v : SlotState) : Fired s base fl (u.setSlotSt v) := by
  refine h.setTile ?_
  rw [State.curT, h.curTile]
  exact h.own

theorem orFlags (f : Flags) : Fired s base (fl ||| f) (u.orFlags f) := by
  refine h.setTile ?_
  rw [State.curT, h.curTile, Tile.fired, ← BitVec.or_assoc]
  exact congrArg (fun v : Tile => { v with flags := v.flags ||| f }) h.own

theorem take {p : Nat} (hp : p < 3) : Fired s base fl (u.take p) := by
  refine ⟨h.frame, h.other, h.own, fun y hy => ?_⟩
  have hne := hy p hp
  rw [← h.curTile, ← h.curSlot] at hne
  exact (u.setArcAt_other _ _ _ hne).trans (h.arc y hy)

theorem takePort (opc : Nat) (o : SlotOp) {p : Nat} (hp : p < 3) : Fired s base fl (u.takePort opc o p) := by
  unfold State.takePort
  split
  · exact h.setSlotSt _
  · split
    · exact h
    · dsimp only
      split
      · exact h.take hp
      · exact (h.take hp).setSlotSt _

theorem takePorts (opc : Nat) (o : SlotOp) {ps : List Nat} (hps : ∀ p, p ∈ ps → p < 3) :
    Fired s base fl (ps.foldl (fun st p => st.takePort opc o p) u) := by
  induction ps generalizing u with
  | nil => exact h
  | cons p r ih => exact ih (h.takePort opc o (hps p List.mem_cons_self)) fun q hq => hps q (List.mem_cons_of_mem p hq)

end

theorem firedState (s : State) (opc : Nat) (o : SlotOp) (base : Nat) (fl : Flags) :
    Fired s base (fl ||| lostFlags s opc o) (firedState s opc o base fl) := by
  have h := ((pay s base).takePorts opc o (ps := slotPorts opc o) fun _ => slotPorts_lt).orFlags fl
  rw [noFlags_or] at h
  rw [Claims.firedState, notesLost, lostFlags]
  split
  · exact h.orFlags _
  · rwa [or_noFlags]

/-- A firing whose one token goes to both targets. -/
theorem slotFrame (h : Fired s base fl u) (wf : Memory.wf s.mem = true) (hslot : s.curSlot < 64) (o : SlotOp) (k : Token) :
    SlotFrame s u (u.put o [k] [k]) o k := by
  have hmem : u.mem = s.mem := (congrArg State.mem h.frame :)
  refine ⟨fun x hx => h.other x hx ▸ put_tile u o k x, fun y g hg hy => ?_, fun x h0 h1 => ?_,
    h.tokensOnly.trans (put_tokensOnly u o k)⟩
  · have hne {c : Nat} (hc : c < 512) (hgc : y ≠ s.curTile ∨ g ≠ c) : 512 * y + g ≠ 512 * u.curTile + c := by
      rw [h.curTile]
      omega
    refine (put_arc u o k (hne o.t0.isLt (by tauto)) (hne o.t1.isLt (by tauto))).trans (h.arc _ fun p hp => ?_)
    unfold slotTarget
    omega
  · rw [put_outside u o k (hmem ▸ wf) h0 h1, hmem]

end Fired

end Sys2Proof.Machine

namespace Sys2Proof.Claims
open Sys2Proof Sys2Proof.Machine

theorem slotFiringFrame : SlotFiringFrame := by
  intro s opc o base r wf _ hslot t x
  have h := Fired.firedState s opc o base r.2
  have hown : (t.tile s.curTile).withSlotsOf x = x.fired base (r.2 ||| lostFlags s opc o) :=
    (congrArg (Tile.withSlotsOf · x) (put_tile _ o (resultToken s opc o r.1) s.curTile) :).trans h.own
  refine ⟨h.slotFrame wf hslot o _, (congrArg Tile.plane hown :), (congrArg Tile.pool hown :), ?_, ?_⟩
  · exact (congrArg Tile.flags hown :).trans (BitVec.or_assoc ..).symm
  · exact (congrArg (fun v : Tile => { v with pool := x.pool, flags := x.flags }) hown :)

end Sys2Proof.Claims

namespace Sys2Proof.Machine
open Sys2Proof Sys2Proof.Claims

/-! ### Where the heads do not fire (R93, R95, R430, R431) -/

section
variable {s : State} {opc : Nat} {o : SlotOp} (hlive : s.slotLive = true) (hdata : s.allData (slotPorts opc o) = false)
include hlive hdata

theorem fireRule_ends (heos : s.allEos (slotPorts opc o) = true) (f : Token → Token → Token → Firing) (e : Ending) :
    s.fireRule opc o f e = s.endAction o (slotPorts opc o) e := by
  simp [State.fireRule, hlive, hdata, heos]

variable (heos : s.allEos (slotPorts opc o) = false) {p : Nat} (hp : s.eosMismatch (slotPorts opc o) = some p)
include heos hp

theorem fireRule_mismatch (f : Token → Token → Token → Firing) (e : Ending) :
    s.fireRule opc o f e = s.slotFault .flowEosMismatch p := by
  simp [State.fireRule, hlive, hdata, heos, hp]

theorem memOp_mismatch (c : Option Cause) : s.memOp opc o c = s.slotFault .flowEosMismatch p := by
  simp [State.memOp, hlive, hdata, heos, hp]

end

theorem endAction_plain {s : State} {o : SlotOp} (opc : Nat) (h : s.slotRoom o 1 1 = true) :
    s.endAction o (slotPorts opc o) {} = .next (ended s opc o none 0 [] []) := by
  unfold State.endAction
  exact if_neg (by simp [h])

theorem State.setSlotSt_slotSt (s : State) (v : SlotState) : (s.setSlotSt v).slotSt = v := by
  have h : (s.setSlotSt v).curT = { s.curT with slots := tabPut s.curT.slots s.curSlot v } := s.setTile_same ..
  rw [State.slotSt, h]
  exact tabGet_put_same ..

/-- The running slot has left its record and stopped, and its launch is not frozen yet (R430). -/
def State.slotStopped (s : State) (c : Cause) (input : Nat) (addr : Word) : State :=
  (s.raise c (s.tileReport s.curTile s.curSlot false input addr true)).setSlotSt { s.slotSt with stopped := true }

/-- A state with another one's records, rings, tiles and launches: all that the stop of a slot touches. -/
def State.withStopOf (u s : State) : State :=
  { u with records := s.records, rings := s.rings, tiles := s.tiles, launches := s.launches }

/-- A slot that faults stops for good: its record, its state and its launch. -/
theorem slotFault_stops (s : State) (c : Cause) (input : Nat) (addr : Word) :
    ∃ t, s.slotFault c input addr = .next t ∧ SlotStops s t c input addr := by
  have keeps {α : Type} (f : State → α) (hf : ∀ (v : State) ls, f { v with launches := ls } = f v) :
      f ((s.slotStopped c input addr).freeze s.curT.launch c) = f (s.slotStopped c input addr) := State.freeze_keeps f hf ..
  refine ⟨(s.slotStopped c input addr).freeze s.curT.launch c, rfl,
    ⟨_, keeps State.records fun _ _ => rfl, rfl, rfl, rfl, rfl, ?_⟩, ?_, fun k l hk hl => ?_, ?_⟩
  · simp [State.tileReport]
  · exact (keeps State.slotSt fun _ _ => rfl).trans (State.setSlotSt_slotSt ..)
  · rw [hk]
    exact (s.slotStopped c input addr).freeze_frozen c hl
  · exact (keeps (State.withStopOf · s) fun _ _ => rfl).trans (congrArg (State.withStopOf · s) (s.raise_frame c _) :)

/-! ### Operators that follow the rule of R93 -/

/-- The ports of the control operators, which no immediate replaces (R212). -/
theorem slotPorts_trap (o : SlotOp) : slotPorts 0x69 o = [0, 2] := by simp [slotPorts, readsB, readsC, extKind]

theorem slotPorts_single (o : SlotOp) {opc : Nat} (h : opc ∈ [0x55, 0x6A, 0x6B, 0x6C]) : slotPorts opc o = [0] := by
  simp only [List.mem_cons, List.not_mem_nil, or_false] at h
  rcases h with rfl | rfl | rfl | rfl <;> simp [slotPorts, readsB, readsC, extKind]

theorem capturedOp_of_noData {s : State} {opc : Nat} {o : SlotOp} (h : s.allData [0] = false)
    (cap : State → Option (Word × State)) : ∃ f, s.capturedOp opc o cap = s.fireRule opc o f :=
  ⟨_, if_neg (by simp [h])⟩

/-- While some port has no data, a plain operator is nothing but the rule of R93 with the end action of R95: no hold raises its
cause, and nothing waits for the recorder. -/
theorem exec_plainEnd {i : Instr} {opc : Nat} {o : SlotOp} (h : plainEnd i = some (opc, o)) {s : State}
    (hdata : s.allData (slotPorts opc o) = false) : ∃ f, exec i s = s.fireRule opc o f := by
  unfold plainEnd at h
  split at h
  -- TIME, PCNT and MSTAT
  case h_12 | h_13 | h_14 =>
    cases h
    rw [slotPorts_single _ (by decide)] at hdata
    dsimp only [exec, execTimeOperator, execPcnt, execMstat]
    exact capturedOp_of_noData hdata _
  -- TRAP and BRK
  case h_15 =>
    cases h
    rw [slotPorts_trap] at hdata
    dsimp only [exec, execTrapOperator, State.orHold]
    exact ⟨_, if_pos (by simp [hdata])⟩
  case h_16 =>
    cases h
    rw [slotPorts_single _ (by decide)] at hdata
    dsimp only [exec, execBrk, State.orHold]
    exact ⟨_, if_pos (by simp [hdata])⟩
  -- The pure operators
  case h_17 =>
    split at h
    case h_1 hi => cases h; exact ⟨_, exec_integerSlot hi s⟩
    case h_2 hf _ => cases h; exact ⟨_, exec_floatSlot hf s⟩
    case h_3 => cases h
  all_goals
    cases h
    dsimp only [exec, execSrnd, execMwrd]
    exact ⟨_, rfl⟩

theorem exec_memoryForm {i : Instr} {opc : Nat} {o : SlotOp} {c : Option Cause} (h : memoryForm i = some (opc, o, c)) (s : State) :
    exec i s = s.memOp opc o c := by
  cases i with
  | ld | st | ldfe | stfe | atadd | atmin | atmax | atcas | atxch | empty => cases h; dsimp only [exec]; rfl
  | _ => cases h

/-- The operators that R93 stops follow its rule, or R205's, where one port has ended and another holds data. -/
theorem exec_portedEnd {i : Instr} {s : State} {opc p : Nat} {o : SlotOp} (h : portedEnd i = some (opc, o))
    (hiota : opc = 0x3C → s.slotSt.iota = none) (hlive : s.slotLive = true) (hdata : s.allData (slotPorts opc o) = false)
    (heos : s.allEos (slotPorts opc o) = false) (hp : s.eosMismatch (slotPorts opc o) = some p) :
    exec i s = s.slotFault .flowEosMismatch p := by
  unfold portedEnd at h
  split at h
  case h_1 hplain =>
    cases h
    obtain ⟨f, hexec⟩ := exec_plainEnd hplain hdata
    exact hexec.trans (fireRule_mismatch hlive hdata heos hp f _)
  case h_2 hmemory =>
    cases h
    exact (exec_memoryForm hmemory s).trans (memOp_mismatch hlive hdata heos hp _)
  case h_3 =>
    split at h
    case h_1 =>
      cases h
      dsimp only [exec, execQside]
      exact fireRule_mismatch hlive hdata heos hp _ _
    case h_2 =>
      cases h
      dsimp only [exec, execIota]
      simp only [hiota rfl]
      exact fireRule_mismatch hlive hdata heos hp _ _
    case h_3 => cases h

end Sys2Proof.Machine

namespace Sys2Proof.Claims
open Sys2Proof Sys2Proof.Machine

theorem slotEndAction : SlotEndAction := by
  rintro i s opc o h ⟨hlive, hdata, heos, hroom, -⟩
  obtain ⟨f, hexec⟩ := exec_plainEnd h hdata
  rw [hexec, fireRule_ends hlive hdata heos, endAction_plain opc hroom]

theorem slotEosMismatch : SlotEosMismatch := by
  intro i s opc o p h hiota hlive hdata heos hp
  obtain ⟨t, ht, ⟨r, hrecords, hcause, horigin, hstop, -, hpos⟩, hslot, hfrozen, hframe⟩ :=
    slotFault_stops s .flowEosMismatch p 0
  exact ⟨t, r, (exec_portedEnd h hiota hlive hdata heos hp).trans ht, hrecords, hcause, horigin, hstop, hpos, hslot, hfrozen,
    (congrArg State.arcs hframe :), (congrArg State.mem hframe :), (congrArg State.seqs hframe :)⟩

/-- Settles O16: the frame of a firing, the end action of a plain operator, and the stop at a mismatch. -/
theorem slotFirings : Obligations.SlotFirings := ⟨slotFiringFrame, slotEndAction, slotEosMismatch⟩

end Sys2Proof.Claims

/-!
## Slots, route records and packets: their words and the fields of the words

The four families of encodings share no instruction, so `encode` and `Instr.wf` give the words and the conditions of the one
family that an instruction belongs to. A round trip then has two parts: the constructor of a code has that code's parts, and
the fields of a word are the ones that it was put together from (R134, R140, R143, R387).
-/

namespace Sys2Proof
variable {i : Instr}

/-! ### The family of an instruction -/

theorem encodeSeq_of_slotParts {x : BitVec 7 × SlotOp} (h : slotParts i = some x) : encodeSeq i = none := by
  unfold slotParts at h
  split at h <;> cases h <;> rfl

theorem earlier_of_packetParts {x : BitVec 8 × Pkt} (h : packetParts i = some x) :
    encodeSeq i = none ∧ slotParts i = none ∧ recParts i = none := by
  unfold packetParts at h
  split at h <;> cases h <;> exact ⟨rfl, rfl, rfl⟩

/-- The flag bit that chooses between two packets of one code (R391, R397). -/
def chosenBit : Instr → Option Bool
  | .signalSet _ | .retire _ => some false
  | .signalAdd _ | .retireCancel _ => some true
  | _ => none

theorem wf_of_slotParts {opc : BitVec 7} {o : SlotOp} (h : slotParts i = some (opc, o)) : i.wf = o.wf opc.toNat := by
  unfold slotParts at h
  split at h <;> cases h <;> rfl

theorem wf_of_recParts {op : BitVec 4} {r : RecOp} (h : recParts i = some (op, r)) :
    i.wf = (recOk op.toNat r && (recCtor op.toNat r == some i)) := by
  unfold recParts at h
  split at h <;> cases h <;> rfl

theorem wf_of_packetParts {code : BitVec 8} {p : Pkt} (h : packetParts i = some (code, p)) :
    i.wf = p.wf code.toNat (chosenBit i) := by
  unfold packetParts at h
  split at h <;> cases h <;> rfl

theorem encode_of_slotParts {opc : BitVec 7} {o : SlotOp} (h : slotParts i = some (opc, o)) :
    encode i = if o.m.getLsbD 3 = true then [fmtSlot opc o, o.ext] else [fmtSlot opc o] := by
  rw [encode, encodeSeq_of_slotParts h, h]

theorem encode_of_packetParts {code : BitVec 8} {p : Pkt} (h : packetParts i = some (code, p)) :
    encode i = (code ++ BitVec.ofNat 8 p.body.length ++ p.flags) :: p.body := by
  obtain ⟨hseq, hslot, hrec⟩ := earlier_of_packetParts h
  rw [encode, hseq, hslot, hrec, h]

/-! ### The constructor of a code -/

theorem slotCtor_of_slotParts {opc : BitVec 7} {o : SlotOp} (h : slotParts i = some (opc, o)) :
    ∃ c, slotCtor opc.toNat = some c ∧ c o = i := by
  unfold slotParts at h
  split at h <;> cases h <;> exact ⟨_, rfl, rfl⟩

theorem slotParts_of_slotCtor {n : Nat} {c : SlotOp → Instr} (h : slotCtor n = some c) (o : SlotOp) :
    slotParts (c o) = some (BitVec.ofNat 7 n, o) := by
  unfold slotCtor at h
  split at h <;> cases h <;> rfl

theorem recParts_of_recCtor {n : Nat} {r : RecOp} (h : recCtor n r = some i) : recParts i = some (BitVec.ofNat 4 n, r) := by
  unfold recCtor at h
  split at h
  case h_8 => split at h <;> cases h <;> rfl
  all_goals cases h <;> rfl

theorem packetCtor_of_packetParts {code : BitVec 8} {p : Pkt} (h : packetParts i = some (code, p))
    (hbit : ∀ b, chosenBit i = some b → p.flags.getLsbD 0 = b) : packetCtor code.toNat p = some i := by
  unfold packetParts at h
  split at h
  case h_3 | h_4 | h_9 | h_10 =>
    cases h
    have hflag := hbit _ rfl
    simp only [packetCtor, hflag, BitVec.reduceToNat, reduceIte, Bool.false_eq_true]
  all_goals cases h <;> rfl

theorem packetParts_of_packetCtor {n : Nat} {p : Pkt} (h : packetCtor n p = some i) :
    packetParts i = some (BitVec.ofNat 8 n, p) ∧ ∀ b, chosenBit i = some b → p.flags.getLsbD 0 = b := by
  unfold packetCtor at h
  split at h
  case h_3 | h_8 =>
    cases h
    split
    next hset => exact ⟨rfl, fun b hb => hset.trans (Option.some.inj hb)⟩
    next hclear => exact ⟨rfl, fun b hb => (Bool.eq_false_iff.mpr hclear).trans (Option.some.inj hb)⟩
  all_goals cases h <;> exact ⟨rfl, nofun⟩

/-! ### The fields of a word -/

theorem slotOpc_fmtSlot (opc : BitVec 7) (o : SlotOp) : slotOpc (fmtSlot opc o) = opc.toNat := by
  unfold slotOpc fmtSlot
  simp (disch := decide) only [BitVec.extractLsb'_append_eq_of_le]
  simp

theorem slotFields_fmtSlot (opc : BitVec 7) (o : SlotOp) (e : Word32) :
    slotFields (fmtSlot opc o) e = { o with ext := if o.m.getLsbD 3 = true then e else 0 } := by
  unfold slotFields fmtSlot
  simp (disch := decide) only [BitVec.extractLsb'_append_eq_of_le, BitVec.extractLsb'_append_eq_of_add_le]
  simp

theorem fmtSlot_slotFields (w e : Word32) : fmtSlot (BitVec.ofNat 7 (slotOpc w)) (slotFields w e) = w := by
  unfold fmtSlot slotOpc slotFields
  rw [BitVec.ofNat_toNat, BitVec.setWidth_eq]
  simp only [BitVec.extractLsb'_append_extractLsb'_eq_extractLsb']
  simp

theorem slotOpc_toNat (w : Word32) : (BitVec.ofNat 7 (slotOpc w)).toNat = slotOpc w := by
  unfold slotOpc
  rw [BitVec.ofNat_toNat, BitVec.setWidth_eq]

theorem slotFields_ext (w e : Word32) : (slotFields w e).ext = if w.getLsbD 21 = true then e else 0 := by
  simp [slotFields]

theorem slotFields_extended (w e : Word32) : (slotFields w e).m.getLsbD 3 = w.getLsbD 21 := by
  simp [slotFields]

theorem recFields_fmtRec (op : BitVec 4) (r : RecOp) : recFields (fmtRec op r) = r := by
  unfold recFields fmtRec
  simp (disch := decide) only [BitVec.extractLsb'_append_eq_of_le, BitVec.extractLsb'_append_eq_of_add_le]
  simp

theorem recOp_fmtRec (op : BitVec 4) (r : RecOp) : (fmtRec op r).extractLsb' 60 4 = op := by
  unfold fmtRec
  simp (disch := decide) only [BitVec.extractLsb'_append_eq_of_le]
  simp

theorem recLow_fmtRec (op : BitVec 4) (r : RecOp) : (fmtRec op r).extractLsb' 0 22 = 0 := by
  unfold fmtRec
  simp (disch := decide) only [BitVec.extractLsb'_append_eq_of_add_le]
  simp

theorem fmtRec_recFields {v : BitVec 64} (h : v.extractLsb' 0 22 = 0) : fmtRec (v.extractLsb' 60 4) (recFields v) = v := by
  unfold fmtRec recFields
  rw [← h]
  simp only [BitVec.extractLsb'_append_extractLsb'_eq_extractLsb']
  simp

theorem packetWord_fields (code n : BitVec 8) (flags : BitVec 16) :
    let w : Word32 := code ++ n ++ flags
    w.extractLsb' 24 8 = code ∧ w.extractLsb' 16 8 = n ∧ w.extractLsb' 0 16 = flags := by
  dsimp only
  simp (disch := decide) only [BitVec.extractLsb'_append_eq_of_le, BitVec.extractLsb'_append_eq_of_add_le]
  simp

theorem packetWord_of_fields (w : Word32) : w.extractLsb' 24 8 ++ w.extractLsb' 16 8 ++ w.extractLsb' 0 16 = w := by
  simp only [BitVec.extractLsb'_append_extractLsb'_eq_extractLsb']
  simp

/-! ### What decodes -/

theorem SlotOp.wf_iff {opc : Nat} {o : SlotOp} :
    o.wf opc = true ↔ slotCheck opc o = .ok () ∧ (o.m.getLsbD 3 = true ∨ o.ext = 0) := by
  unfold SlotOp.wf
  cases slotCheck opc o <;> simp

theorem Pkt.wf_iff {code : Nat} {bit : Option Bool} {p : Pkt} : p.wf code bit = true ↔
    packetOk code p.flags.toNat p.body.length = true ∧ (∀ b, bit = some b → p.flags.getLsbD 0 = b) ∧ p.body.length < 256 := by
  unfold Pkt.wf
  cases bit <;> simp [and_assoc]

theorem decodeSlot_iff {w e : Word32} : decodeSlot w e = .ok i ↔
    ∃ c, slotCtor (slotOpc w) = some c ∧ slotCheck (slotOpc w) (slotFields w e) = .ok () ∧ c (slotFields w e) = i := by
  unfold decodeSlot
  cases slotCtor (slotOpc w) with
  | none => simp
  | some c =>
    cases hcheck : slotCheck (slotOpc w) (slotFields w e) <;> simp [hcheck]

theorem decodeRec_iff {v : BitVec 64} : decodeRec v = .ok i ↔
    v.extractLsb' 0 22 = 0 ∧ recOk (v.extractLsb' 60 4).toNat (recFields v) = true ∧
      recCtor (v.extractLsb' 60 4).toNat (recFields v) = some i := by
  unfold decodeRec
  dsimp only
  split
  next hok =>
    cases recCtor (v.extractLsb' 60 4).toNat (recFields v) <;>
      simp only [hok, Except.ok.injEq, Option.some.injEq, true_and, reduceCtorEq]
  next hbad => simp only [reduceCtorEq, ← and_assoc, hbad, false_and]

/-- The packet whose word is `w`, of work item `k`, before the dwords `ds`. -/
def packetOf (k : Nat) (w : Word32) (ds : List Word32) : Pkt :=
  { item := k, flags := w.extractLsb' 0 16, body := ds.take (w.extractLsb' 16 8).toNat }

theorem decodePacket_iff {k : Nat} {w : Word32} {ds rest : List Word32} : decodePacket k (w :: ds) = .ok (i, rest) ↔
    (w.extractLsb' 16 8).toNat ≤ ds.length ∧
      packetOk (w.extractLsb' 24 8).toNat (w.extractLsb' 0 16).toNat (w.extractLsb' 16 8).toNat = true ∧
      packetCtor (w.extractLsb' 24 8).toNat (packetOf k w ds) = some i ∧ ds.drop (w.extractLsb' 16 8).toNat = rest := by
  unfold decodePacket packetOf
  dsimp only
  split
  next hshort => simp only [reduceCtorEq, Nat.not_le.mpr hshort, false_and]
  next hlong =>
    rw [Nat.not_lt] at hlong
    split
    next hbad =>
      rw [Bool.not_eq_true'] at hbad
      simp only [reduceCtorEq, hbad, Bool.false_eq_true, false_and, and_false]
    next hok =>
      rw [Bool.not_eq_true', Bool.not_eq_false] at hok
      split
      next hctor => simp only [hlong, hok, hctor, Except.ok.injEq, Prod.mk.injEq, Option.some.injEq, true_and]
      next hctor => simp only [hctor, reduceCtorEq, false_and, and_false]

end Sys2Proof

namespace Sys2Proof.Claims
open Sys2Proof Sys2Proof.Machine

/-! ### The round trips -/

theorem decodeSlot_words {i : Instr} {opc : BitVec 7} {o : SlotOp} (e : Word32) (hwf : i.wf = true)
    (h : slotParts i = some (opc, o)) : decodeSlot (fmtSlot opc o) (if o.m.getLsbD 3 = true then o.ext else e) = .ok i := by
  obtain ⟨hcheck, hext⟩ := SlotOp.wf_iff.mp (wf_of_slotParts h ▸ hwf)
  obtain ⟨c, hctor, hi⟩ := slotCtor_of_slotParts h
  have hfields : slotFields (fmtSlot opc o) (if o.m.getLsbD 3 = true then o.ext else e) = o := by
    rw [slotFields_fmtSlot]
    cases hm : o.m.getLsbD 3 with
    | true => rfl
    | false =>
      have hnone : o.ext = 0 := (hm ▸ hext).resolve_left Bool.false_ne_true
      simp [← hnone]
  rw [decodeSlot_iff, slotOpc_fmtSlot, hfields]
  exact ⟨c, hctor, hcheck, hi⟩

theorem words_of_decodeSlot {i : Instr} {w e : Word32} (h : decodeSlot w e = .ok i) :
    i.wf = true ∧ encode i = if w.getLsbD 21 = true then [w, e] else [w] := by
  obtain ⟨c, hctor, hcheck, rfl⟩ := decodeSlot_iff.mp h
  have hparts := slotParts_of_slotCtor hctor (slotFields w e)
  have hm := slotFields_extended w e
  have hext := slotFields_ext w e
  rw [wf_of_slotParts hparts, slotOpc_toNat, SlotOp.wf_iff, encode_of_slotParts hparts, fmtSlot_slotFields, hm, hext]
  exact ⟨⟨hcheck, by cases w.getLsbD 21 <;> simp⟩, by cases w.getLsbD 21 <;> rfl⟩

theorem decodeRec_record {i : Instr} {op : BitVec 4} {r : RecOp} (hwf : i.wf = true) (h : recParts i = some (op, r)) :
    decodeRec (fmtRec op r) = .ok i := by
  rw [wf_of_recParts h, Bool.and_eq_true, beq_iff_eq] at hwf
  rw [decodeRec_iff, recOp_fmtRec, recFields_fmtRec]
  exact ⟨recLow_fmtRec op r, hwf⟩

theorem record_of_decodeRec {i : Instr} {v : BitVec 64} (h : decodeRec v = .ok i) :
    i.wf = true ∧ ∃ op r, recParts i = some (op, r) ∧ fmtRec op r = v := by
  obtain ⟨hlow, hok, hctor⟩ := decodeRec_iff.mp h
  have hparts := recParts_of_recCtor hctor
  rw [BitVec.ofNat_toNat, BitVec.setWidth_eq] at hparts
  rw [wf_of_recParts hparts, hok, hctor]
  exact ⟨beq_self_eq_true (some i), _, _, hparts, fmtRec_recFields hlow⟩

theorem slotAndRecordWordsRoundTrip : SlotAndRecordWordsRoundTrip :=
  ⟨fun _ _ _ e => decodeSlot_words e, fun _ _ _ => words_of_decodeSlot, fun _ _ _ => decodeRec_record,
   fun _ _ => record_of_decodeRec⟩

theorem decodePacket_dwords {i : Instr} {code : BitVec 8} {p : Pkt} (rest : List Word32) (hwf : i.wf = true)
    (h : packetParts i = some (code, p)) : decodePacket p.item (encode i ++ rest) = .ok (i, rest) := by
  obtain ⟨hok, hbit, hlen⟩ := Pkt.wf_iff.mp (wf_of_packetParts h ▸ hwf)
  obtain ⟨hcode, hn, hflags⟩ := packetWord_fields code (BitVec.ofNat 8 p.body.length) p.flags
  have hcount : (BitVec.ofNat 8 p.body.length).toNat = p.body.length := by
    rw [BitVec.toNat_ofNat, Nat.mod_eq_of_lt hlen]
  rw [encode_of_packetParts h, List.cons_append, decodePacket_iff, packetOf, hcode, hn, hflags, hcount, List.take_left,
    List.drop_left, List.length_append]
  exact ⟨Nat.le_add_right .., hok, packetCtor_of_packetParts h hbit, rfl⟩

theorem dwords_of_decodePacket {i : Instr} {k : Nat} {ds rest : List Word32} (h : decodePacket k ds = .ok (i, rest)) :
    i.wf = true ∧ encode i ++ rest = ds := by
  cases ds with
  | nil => cases h
  | cons w ds =>
    obtain ⟨hlen, hok, hctor, rfl⟩ := decodePacket_iff.mp h
    obtain ⟨hparts, hbit⟩ := packetParts_of_packetCtor hctor
    rw [BitVec.ofNat_toNat, BitVec.setWidth_eq] at hparts
    have hbody : (packetOf k w ds).body.length = (w.extractLsb' 16 8).toNat := List.length_take_of_le hlen
    constructor
    · rw [wf_of_packetParts hparts, Pkt.wf_iff, hbody]
      exact ⟨hok, hbit, BitVec.isLt _⟩
    · rw [encode_of_packetParts hparts, hbody, BitVec.ofNat_toNat, BitVec.setWidth_eq]
      dsimp only [packetOf]
      rw [packetWord_of_fields, List.cons_append, List.take_append_drop]

theorem packetsRoundTrip : PacketsRoundTrip :=
  ⟨fun _ _ _ rest => decodePacket_dwords rest, fun _ _ _ _ => dwords_of_decodePacket⟩

/-- Settles O59: the fields of a word, and the constructor of its code, are the ones that the other direction puts there. -/
theorem slotRecordAndPacketRoundTrip : Obligations.SlotRecordAndPacketRoundTrip :=
  ⟨slotAndRecordWordsRoundTrip, packetsRoundTrip⟩

/-- Settles O57: each word is closed, and the decoder computes its instruction. -/
theorem decodedWords : Obligations.DecodedWords := by
  unfold Obligations.DecodedWords DecodedWords
  and_intros <;> rfl

end Sys2Proof.Claims

/-!
## The instruction that a step runs

`step_turn` reduces a step of a powered package to the turn at the head of the list and to what its ticks bring; each agent's
turn then has one rule for each outcome of its fetch (R134, R143, R192, R297, R298, R381, R382, R387, R423).
-/

namespace Sys2Proof.Machine
open Sys2Proof Sys2Proof.Claims

/-! ### What ticks change -/

/-- A state with another one's sequencers, tiles and event queue: all that the passing of ticks touches. -/
def State.withTicksOf (u s : State) : State := { u with seqs := s.seqs, tiles := s.tiles, events := s.events }

/-- `t` differs from `s` in nothing but what ticks touch. -/
def TicksOnly (s t : State) : Prop := t.withTicksOf s = s

theorem TicksOnly.refl (s : State) : TicksOnly s s := rfl

theorem TicksOnly.trans {s t u : State} (h : TicksOnly s t) (h' : TicksOnly t u) : TicksOnly s u :=
  (congrArg (State.withTicksOf · s) (h' : u.withTicksOf t = t) :).trans h

theorem TicksOnly.now {s t : State} (h : TicksOnly s t) : t.now = s.now :=
  (congrArg State.now (show t.withTicksOf s = s from h) :)

theorem TicksOnly.mem {s t : State} (h : TicksOnly s t) : t.mem = s.mem :=
  (congrArg State.mem (show t.withTicksOf s = s from h) :)

theorem TicksOnly.foldl {α : Type} {f : State → α → State} (hf : ∀ u x, TicksOnly u (f u x)) (l : List α) (s : State) :
    TicksOnly s (l.foldl f s) := by
  induction l generalizing s with
  | nil => exact .refl s
  | cons x r ih => exact (hf s x).trans (ih (f s x))

theorem ariseOnce_ticksOnly (s : State) (e : Event) : TicksOnly s (s.ariseOnce e) := by
  unfold State.ariseOnce
  split <;> rfl

theorem tickSeq_ticksOnly (s : State) (n k : Nat) : TicksOnly s (s.tickSeq n k) := by
  unfold State.tickSeq
  dsimp only
  split
  · rfl
  · split
    · rfl
    · split <;> rfl

theorem tickTile_ticksOnly (s : State) (t k : Nat) : TicksOnly s (s.tickTile t k) := by
  unfold State.tickTile
  split <;> rfl

theorem elapse_ticksOnly (s : State) (k : Nat) : TicksOnly s (s.elapse k) :=
  (TicksOnly.foldl (fun u n => tickSeq_ticksOnly u n k) _ s).trans (.foldl (fun u t => tickTile_ticksOnly u t k) _ _)

theorem grantAll_ticksOnly (s : State) (n : Nat) : TicksOnly s (s.grantAll n) := rfl

theorem lapse_ticksOnly (fuel : Nat) (s : State) (a b : Nat) : TicksOnly s (State.lapse fuel s a b) := by
  induction fuel generalizing s a with
  | zero => exact (elapse_ticksOnly s _).trans (grantAll_ticksOnly _ _)
  | succ fuel ih =>
    unfold State.lapse
    dsimp only
    split
    · exact elapse_ticksOnly s _
    · exact ((elapse_ticksOnly s _).trans (grantAll_ticksOnly _ _)).trans (ih _ _)

theorem notice_ticksOnly (s : State) : TicksOnly s s.notice :=
  (TicksOnly.foldl (fun u (i : Nat × Item) => ariseOnce_ticksOnly u (.deadline i.1)) _ s).trans
    (.foldl (fun u (i : Nat × Item) => ariseOnce_ticksOnly u (.budget i.1)) _ _)

theorem since_ticksOnly (s : State) (a : Nat) : TicksOnly s (s.since a) := by
  unfold State.since
  split
  · exact .refl s
  · exact (lapse_ticksOnly _ s _ _).trans (notice_ticksOnly _)

theorem since_of_le {s : State} {a : Nat} (h : s.now ≤ a) : s.since a = s := if_pos h

theorem ran_of_now {s t : State} (h : t.now = s.now) : Ran s (.next t) = .next t :=
  congrArg Host.Outcome.next (since_of_le h.le)

/-! ### The turn at the head of the list -/

theorem tripDue_iff (s : State) : s.tripDue = true ↔ TripDue s := by
  simp [State.tripDue, TripDue, Option.any_eq_true]

theorem isColdReset_iff {x : Turn} : isColdReset x = true ↔ x = .event .coldReset := by
  constructor
  · intro h
    unfold isColdReset at h
    split at h
    · rfl
    · cases h
  · rintro rfl
    rfl

theorem act_eq_ran (s : State) (x : Turn) : s.act x = Ran s (s.turn x) := by
  unfold State.act Ran
  cases s.turn x <;> rfl

section
variable {s : State} {x : Turn} {rest : List Turn} (hturns : s.turns = x :: rest)
include hturns

theorem nextTurn_head : s.nextTurn = (x, { s with turns := rest }) := by
  unfold State.nextTurn
  rw [hturns]

theorem step_powerless (hoff : s.powered = false) (hx : x ≠ .event .coldReset) : step s = .fault .noPower := by
  have hcold : isColdReset x = false := Bool.eq_false_iff.mpr fun h => hx (isColdReset_iff.mp h)
  simp [step, nextTurn_head hturns, hoff, hcold]

theorem step_turn (hon : s.powered = true ∨ x = .event .coldReset) (htrip : s.powered = false ∨ ¬ TripDue s) :
    step s = Ran { s with turns := rest } (State.turn { s with turns := rest } x) := by
  rw [← isColdReset_iff] at hon
  rw [← tripDue_iff, Bool.not_eq_true] at htrip
  have hpower : (!s.powered && !isColdReset x) = false := by rcases hon with h | h <;> simp [h]
  have hstays : (s.powered && s.tripDue) = false := by rcases htrip with h | h <;> simp [h]
  unfold step
  rw [nextTurn_head hturns, hpower, hstays, if_neg Bool.false_ne_true, if_neg Bool.false_ne_true]
  exact act_eq_ran ..

end

/-! ### Sequencers (R297, R298, R359) -/

/-- PC names a word of the code (R297). -/
def Seq.PcLegal (q : Seq) : Prop := 512 ≤ q.pc.toNat ∧ q.pc.toNat < q.codelim.toNat ∧ q.pc.toNat % 4 = 0

section
variable {s : State} {n : Nat}

theorem fetch_illegal (h : ¬ (s.seq n).PcLegal) : s.fetch n = .error .seqFetchRange := by
  unfold Seq.PcLegal at h
  exact if_pos (by omega)

section
variable (hlegal : (s.seq n).PcLegal)
include hlegal

theorem fetch_ofLegal : s.fetch n =
    if (s.dataError (localLoc n (s.seq n).pc.toNat) 4).isSome then .error .memDataError
    else if (s.seq n).oldWord n (s.seq n).pc.toNat = s.fetched n then .ok (s.fetched n, false)
    else .ok (if Config.staleFetch s.choice then (s.seq n).oldWord n (s.seq n).pc.toNat else s.fetched n, true) := by
  obtain ⟨hlow, hhigh, haligned⟩ := hlegal
  exact if_neg (by omega)

theorem fetch_poisoned (h : s.dataError (localLoc n (s.seq n).pc.toNat) 4 ≠ none) : s.fetch n = .error .memDataError := by
  rw [fetch_ofLegal hlegal, if_pos (Option.isSome_iff_ne_none.mpr h)]

variable (hgood : s.dataError (localLoc n (s.seq n).pc.toNat) 4 = none)
include hgood

theorem fetch_unchanged (h : (s.seq n).oldWord n (s.seq n).pc.toNat = s.fetched n) : s.fetch n = .ok (s.fetched n, false) := by
  rw [fetch_ofLegal hlegal, hgood, if_neg (by simp), if_pos h]

theorem fetch_changed (h : (s.seq n).oldWord n (s.seq n).pc.toNat ≠ s.fetched n) :
    s.fetch n = .ok (s.fetched n, true) ∨ s.fetch n = .ok ((s.seq n).oldWord n (s.seq n).pc.toNat, true) := by
  rw [fetch_ofLegal hlegal, hgood, if_neg (by simp), if_neg h]
  cases Config.staleFetch s.choice
  · exact .inl rfl
  · exact .inr rfl

end

/-- A fetch that faults leaves a record without an instruction word, and stops the sequencer at its PC (R297, R426). -/
theorem fetchFault_leaves (c : Cause) : ∃ r, (s.fetchFault n c).records = s.records ++ [r] ∧ r.cause = c ∧ r.cfgw = 0 ∧
    r.origin = .seq ∧ ((s.fetchFault n c).seq n).stop = some { cause := c, resume := (s.seq n).pc } ∧
    (s.fetchFault n c).mem = s.mem :=
  ⟨_, rfl, rfl, rfl, rfl, congrArg Seq.stop (State.setSeq_same ..), rfl⟩

variable (hready : s.seqReady n = true) (hdue : (s.seq n).wdogDue = false)

theorem seqTurn_idle (h : s.seqReady n = false) : s.seqTurn n = .next s := by
  unfold State.seqTurn
  rw [h]
  rfl

include hready in
theorem seqTurn_expired (h : (s.seq n).wdogDue = true) : s.seqTurn n = exec (.watchdogExpiry n) s := by
  unfold State.seqTurn
  rw [hready, h]
  rfl

include hready hdue

theorem seqTurn_fetched {w : Word32} {used : Bool} (h : s.fetch n = .ok (w, used)) :
    s.seqTurn n = exec (decodeSeq w) { s with curSeq := n, choice := if used then s.choice + 1 else s.choice } := by
  unfold State.seqTurn
  rw [hready, hdue, h]
  rfl

theorem seqTurn_faulted {c : Cause} (h : s.fetch n = .error c) : s.seqTurn n = .next (s.fetchFault n c) := by
  unfold State.seqTurn
  rw [hready, hdue, h]
  rfl

end

/-! ### Slots, records and packets (R93, R96, R192, R388) -/

section
variable {s : State} {i : Instr} {t : Nat}

theorem slotInstr_eq {n : Nat} {p : Plane} (hp : (s.tile t).plane = p) (hw : p.slotWord n ≠ 0) (hext : p.isExt n = false)
    (h : decodeSlot (p.slotWord n) (if (p.slotWord n).getLsbD 21 then p.slotWord (n + 1) else 0) = .ok i) :
    s.slotInstr t n = some i := by
  subst hp
  unfold State.slotInstr
  dsimp only
  rw [if_neg (not_or.mpr ⟨hw, Bool.eq_false_iff.mp hext⟩), h]

theorem slotInstr_none {n : Nat} (h : (s.tile t).plane.slotWord n = 0 ∨ (s.tile t).plane.isExt n = true) :
    s.slotInstr t n = none := if_pos h

theorem slotTurn_instr {n : Nat} (h : s.slotInstr t n = some i) :
    s.slotTurn t n = if s.granted t n = true then exec i (s.atElement t n) else .next s := by
  rw [State.slotTurn, h]

theorem slotTurn_empty {n : Nat} (h : s.slotInstr t n = none) : s.slotTurn t n = .next s := by
  rw [State.slotTurn, h]

theorem recInstr_eq {q : Nat} {v : BitVec 64} (hv : (s.tile t).plane.recs[q]? = some v) (h : decodeRec v = .ok i) :
    s.recInstr t q = some i := by
  unfold State.recInstr
  simp only [hv, h]

theorem recordTurn_instr {q : Nat} (h : s.recInstr t q = some i) : s.recordTurn t q = exec i (s.atElement t q) := by
  rw [State.recordTurn, h]

theorem packetTurn_packet {k : Nat} {w : Item} (hw : s.item k = some w) (hi : w.packets[w.idx]? = some i) :
    s.packetTurn k = if (w.phase = .dispatched ∨ w.phase = .running) ∧ s.actionDue w = false ∧
      ((s.queue w.queue).putOff = false ∨ s.pairRuns w.queue = true) then exec i s else .next s := by
  unfold State.packetTurn Item.busy State.resetDue
  simp only [hw, hi, Bool.and_eq_true, Bool.or_eq_true, beq_iff_eq, Bool.not_eq_true', Bool.and_eq_false_iff,
    Bool.not_eq_false', and_assoc]

end

/-! ### Steps that no word encodes (R96, R381, R382) -/

theorem isEvent_iff {i : Instr} : isEvent i = true ↔ encode i = [] := by
  unfold isEvent encode
  cases encodeSeq i with
  | some w => simp
  | none => cases slotParts i with
    | some x => obtain ⟨opc, o⟩ := x; simp only [Option.isNone_some]; split <;> simp
    | none => cases recParts i with
      | some x => simp
      | none => cases packetParts i <;> simp

section
variable {s : State} {i : Instr}

theorem eventTurn_encoded (h : encode i ≠ []) : s.eventTurn i = .next s := by
  have hno : isEvent i = false := Bool.eq_false_iff.mpr fun hi => h (isEvent_iff.mp hi)
  unfold State.eventTurn
  rw [hno]
  rfl

theorem eventTurn_delivery (t : Nat) : s.eventTurn (.eventDelivery t) =
    if (s.evinSlot t).all (s.granted t) = true then exec (.eventDelivery t) s else .next s := rfl

theorem eventTurn_kick (q : Nat) (v : Word) : s.eventTurn (.kick q v) = .next (s.ariseKick q v) := rfl

variable (h : encode i = [])
include h

theorem eventTurn_own (hcause : s.causeOf i = none) (hi : ∀ t, i ≠ .eventDelivery t) : s.eventTurn i = exec i s := by
  unfold State.eventTurn
  rw [isEvent_iff.mpr h, hcause]
  simp only [Bool.not_true, Bool.false_eq_true, if_false]

theorem eventTurn_cause {e : Event} (hcause : s.causeOf i = some e) (he : ∀ q v n, e ≠ .kick q v n) :
    s.eventTurn i = if s.still (exec i s) = true then .next s else .next (s.ariseOnce e) := by
  unfold State.eventTurn
  rw [isEvent_iff.mpr h, hcause]
  cases e with
  | kick q v n => exact absurd rfl (he q v n)
  | _ => rfl

end

section
variable {s : State}

theorem still_self : s.still (.next s) = true := decide_eq_true rfl

theorem still_moved {t : State} (h : { t with curTile := s.curTile, curSlot := s.curSlot } ≠ s) : s.still (.next t) = false :=
  decide_eq_false h

theorem ariseOnce_eq (e : Event) : s.ariseOnce e =
    { s with events := if e ∈ s.events ∨ (∃ c, c ∈ s.cores ∧ c.2 = e) then s.events else s.events ++ [e] } := by
  have hiff : (s.events.contains e || s.cores.any (fun c => c.2 == e)) = true ↔
      e ∈ s.events ∨ ∃ c, c ∈ s.cores ∧ c.2 = e := by simp
  unfold State.ariseOnce
  simp only [hiff]
  split <;> rfl

variable {c : Nat} (hc : c < 12)
include hc

theorem coreTurn_handles {e : Event} (h : tabFind s.cores c = some e) :
    s.coreTurn c = State.handle { s with cores := tabDel s.cores c } e := by
  unfold State.coreTurn
  rw [if_neg (by omega), h]

variable {e : Event} {r : List Event} (h : tabFind s.cores c = none) (he : s.events = e :: r)
include h he

theorem coreTurn_locked (hlock : (s.eventQueue e).isSome = true ∧ ∃ y, y ∈ s.cores ∧ s.eventQueue y.2 = s.eventQueue e) :
    s.coreTurn c = .next s := by
  unfold State.coreTurn
  rw [if_neg (by omega), h, he]
  exact if_pos (by simpa using hlock)

theorem coreTurn_takes
    (hfree : ¬ ((s.eventQueue e).isSome = true ∧ ∃ y, y ∈ s.cores ∧ s.eventQueue y.2 = s.eventQueue e)) :
    s.coreTurn c = .next { s with events := r, cores := tabPut s.cores c e } := by
  unfold State.coreTurn
  rw [if_neg (by omega), h, he]
  exact if_neg (by simpa using hfree)

end

end Sys2Proof.Machine

namespace Sys2Proof.Claims
open Sys2Proof Sys2Proof.Machine

/-! ### What a step of a powered package runs -/

section
variable {s : State} {rest : List Turn} {n : Nat} (hon : s.powered = true) (htrip : ¬ TripDue s)
include hon htrip

theorem step_of_turn {x : Turn} {o : Out} (hturns : s.turns = x :: rest)
    (h : State.turn { s with turns := rest } x = o) : step s = Ran { s with turns := rest } o :=
  (step_turn hturns (.inl hon) (.inr htrip)).trans (congrArg _ h)

/-- A turn that leaves the clock where it is brings nothing else. -/
theorem step_of_next {x : Turn} {t : State} (hturns : s.turns = x :: rest)
    (h : State.turn { s with turns := rest } x = .next t) (hnow : t.now = s.now) : step s = .next t :=
  (step_of_turn hon htrip hturns h).trans (ran_of_now hnow)

theorem step_of_guarded {x : Turn} {c : Prop} [Decidable c] {o : Out} (hturns : s.turns = x :: rest)
    (h : State.turn { s with turns := rest } x = if c then o else .next { s with turns := rest }) :
    step s = if c then Ran { s with turns := rest } o else .next { s with turns := rest } := by
  split
  next hc => exact step_of_turn hon htrip hturns (h.trans (if_pos hc))
  next hc => exact step_of_next hon htrip hturns (h.trans (if_neg hc)) rfl

end

theorem turnsRunDecoded : StepRunsDecoded := by
  intro s x rest hturns
  refine ⟨step_powerless hturns, fun hx htrip => ?_, fun hon htrip => ⟨?_, ?_, ?_, ?_, ?_, ?_, ?_⟩⟩
  · subst hx
    exact step_turn hturns (.inr rfl) htrip
  -- A sequencer that may not execute, and one that fetches
  · rintro n rfl hidle
    exact step_of_next hon htrip hturns (seqTurn_idle hidle) rfl
  · rintro n rfl hready hdue
    have fetches {w : Word32} {used : Bool} (h : State.fetch { s with turns := rest } n = .ok (w, used)) :=
      step_of_turn hon htrip hturns (seqTurn_fetched hready hdue h)
    have faults {c : Cause} (h : State.fetch { s with turns := rest } n = .error c) :
        ∃ t r, step s = .next t ∧ t.records = s.records ++ [r] ∧ r.cause = c ∧ r.cfgw = 0 ∧ r.origin = .seq ∧
          (t.seq n).stop = some { cause := c, resume := (s.seq n).pc } ∧ t.mem = s.mem := by
      obtain ⟨r, hleaves⟩ := fetchFault_leaves (s := { s with turns := rest }) (n := n) c
      exact ⟨_, r, step_of_next hon htrip hturns (seqTurn_faulted hready hdue h) rfl, hleaves⟩
    exact ⟨fun hlegal hgood h => fetches (fetch_unchanged hlegal hgood h),
      fun hlegal hgood h => (fetch_changed hlegal hgood h).imp fetches fetches,
      fun hillegal => faults (fetch_illegal hillegal), fun hlegal hbad => faults (fetch_poisoned hlegal hbad)⟩
  · rintro n rfl hready hdue
    exact step_of_turn hon htrip hturns (seqTurn_expired hready hdue)
  -- A slot, a record, a packet
  · rintro t i ins rfl
    exact ⟨fun hw hext hdec => step_of_guarded hon htrip hturns (slotTurn_instr (slotInstr_eq rfl hw hext hdec)),
      fun hempty => step_of_next hon htrip hturns (slotTurn_empty (slotInstr_none hempty)) rfl⟩
  · rintro t q v ins rfl hv hdec
    exact step_of_turn hon htrip hturns (recordTurn_instr (recInstr_eq hv hdec))
  · rintro k i ins rfl hw hi
    exact step_of_guarded hon htrip hturns (packetTurn_packet hw hi)
  -- The passing of time
  · rintro n rfl
    exact ⟨_, step_of_turn hon htrip hturns rfl, (since_ticksOnly _ _).now, (since_ticksOnly _ _).mem⟩

theorem turnsRunEvents : StepRunsEvents := by
  intro s x rest hturns hon htrip
  refine ⟨?_, ?_, ?_, ?_, ?_, ?_, ?_⟩
  -- A step of a unit
  · rintro i rfl henc
    exact step_of_next hon htrip hturns (eventTurn_encoded henc) rfl
  · rintro i rfl henc hcause hi
    exact step_of_turn hon htrip hturns (eventTurn_own henc hcause hi)
  · rintro t rfl
    exact step_of_guarded hon htrip hturns (eventTurn_delivery t)
  -- A cause of work
  · rintro q v rfl
    exact step_of_next hon htrip hturns (eventTurn_kick q v) rfl
  · rintro i e rfl henc hcause he
    have hturn := eventTurn_cause henc hcause he
    refine ⟨fun hexec => ?_, fun t hexec hmoves => ?_⟩
    · rw [hexec, if_pos still_self] at hturn
      exact step_of_next hon htrip hturns hturn rfl
    · rw [hexec, still_moved hmoves, if_neg Bool.false_ne_true, ariseOnce_eq] at hturn
      exact step_of_next hon htrip hturns hturn rfl
  -- A core
  · rintro c e rfl hc hfind
    rw [step_of_turn hon htrip hturns (coreTurn_handles hc hfind)]
    cases e <;> rfl
  · rintro c e r rfl hc hfind hevents
    exact ⟨fun hlock => step_of_next hon htrip hturns (coreTurn_locked hc hfind hevents hlock) rfl,
      fun hfree => step_of_next hon htrip hturns (coreTurn_takes hc hfind hevents hfree) rfl⟩

/-- Settles O56: the turn at the head of the list runs, and each agent's turn runs what its fetch answers. -/
theorem stepRunsDecoded : Obligations.StepRunsDecoded := ⟨turnsRunDecoded, turnsRunEvents⟩

end Sys2Proof.Claims

/-!
## Quantising and sequence operators of a slot (R175 to R190)

But for JOIN and a running IOTA these operators follow `State.fireRule`: `fireRule_fires` is a firing by that rule, and
`fireRule_puts` and `fireRule_results` are its forms with one token on each target. The forms of the statements are tied to the
model once, by `exec_packForm` and `exec_laneForm`; the side list of QSIDE is a fold whose entries and count have a lemma each, and
JOIN does one of the three steps of `joinStep`.
-/

namespace Sys2Proof.Machine
open Sys2Proof Sys2Proof.Claims

/-! ### The ports of these operators (R138) -/

/-- Opcodes of quantisers and lane operators that read port a alone. -/
def unaryCodes : List Nat := [0x5B, 0x5E, 0x3E]

/-- Opcodes of quantisers and lane operators that read ports a and b. -/
def binaryCodes : List Nat := [0x3C, 0x58, 0x59, 0x5A, 0x5C, 0x5D]

theorem slotPorts_unary (o : SlotOp) {opc : Nat} (h : opc ∈ unaryCodes) : slotPorts opc o = [0] := by
  simp only [unaryCodes, List.mem_cons, List.not_mem_nil, or_false] at h
  rcases h with rfl | rfl | rfl <;> simp [slotPorts, readsB, readsC]

/-- Port b may be replaced by an immediate, and no operator of two operands reads port c. -/
theorem slotPorts_binary (o : SlotOp) {opc : Nat} (h : opc ∈ binaryCodes) :
    slotPorts opc o = [0] ∨ slotPorts opc o = [0, 1] := by
  simp only [binaryCodes, List.mem_cons, List.not_mem_nil, or_false] at h
  rcases h with rfl | rfl | rfl | rfl | rfl | rfl <;> simp [slotPorts, readsB, readsC, Decidable.or_iff_not_imp_left]

section
variable (s : State) (o : SlotOp) {opc : Nat}

theorem anyPoison_unary (h : opc ∈ unaryCodes) : anyPoison s opc o = (s.operand opc o 0).psn := by
  simp [anyPoison, slotPorts_unary o h]

theorem anyPoison_binary (h : opc ∈ binaryCodes) :
    anyPoison s opc o = ((s.operand opc o 0).psn || ((slotPorts opc o).contains 1 && (s.operand opc o 1).psn)) := by
  rcases slotPorts_binary o h with hp | hp <;> simp [anyPoison, hp]

end

/-! ### A firing (R93, R138, R158) -/

/-- What a firing leaves: its effect on the state that has paid and taken its inputs, PSEEN for poison that it discards, and its
tokens on their targets. -/
def Firing.leaves (g : Firing) (s : State) (opc : Nat) (o : SlotOp) : State :=
  let r := g.run (taken s opc o g.base)
  let poison := anyPoison s opc o || r.2.1.any Token.psn || r.2.2.any Token.psn
  (if !g.counts && poison && !carried o r.2.1 r.2.2 then r.1.orFlags flPSEEN else r.1).put o r.2.1 r.2.2

/-- Two tokens of one poison, one on each target, lose it where both targets hold no place. -/
theorem tokensLost (o : SlotOp) {k0 k1 : Token} {q p : Bool} (h0 : k0.psn = p) (h1 : k1.psn = p) (hq : q = true → p = true) :
    ((q || [k0].any Token.psn || [k1].any Token.psn) && !carried o [k0] [k1]) = (p && o.t0 == 0x1FF && o.t1 == 0x1FF) := by
  have hqp : (q || p) = p := by
    cases q
    · rfl
    · rw [hq rfl]; rfl
  simp only [carried, List.any_cons, List.any_nil, Bool.or_false, bne, h0, h1, hqp]
  cases p <;> cases o.t0 == 0x1FF <;> cases o.t1 == 0x1FF <;> rfl

theorem Firing.leaves_silent {g : Firing} {s u : State} {opc : Nat} {o : SlotOp} (hcounts : g.counts = false)
    (hrun : g.run (taken s opc o g.base) = (u, [], [])) :
    g.leaves s opc o = if anyPoison s opc o then u.orFlags 0x40 else u := by
  simp [Firing.leaves, hcounts, hrun, carried, flPSEEN, State.put, State.sendAll]

theorem slices_eq (o : SlotOp) : slices o.w.toNat = sliceCount o := rfl

theorem slotRoom_none (s : State) (o : SlotOp) : s.slotRoom o 0 0 = true := rfl

section
variable {s : State} {opc : Nat} {o : SlotOp} {f : Token → Token → Token → Firing} {e : Ending}

/-- The firing rule, where the slot may fire and the firing raises no fault. -/
theorem fireRule_fires {g : Firing} (hlive : s.slotLive = true) (hdata : s.allData (slotPorts opc o) = true)
    (hg : f (s.operand opc o 0) (s.operand opc o 1) (s.operand opc o 2) = g) (hroom : s.slotRoom o g.room0 g.room1 = true)
    (hpay : s.canPay g.base = true) (hfault : g.fault = none) : s.fireRule opc o f e = .next (g.leaves s opc o) := by
  subst hg
  simp only [State.fireRule, hlive, hdata, hroom, hpay, hfault]
  rfl

variable {base : Nat} {run : State → State × List Token × List Token} {u : State} (h : CanFire s opc o base)
  (hg : f (s.operand opc o 0) (s.operand opc o 1) (s.operand opc o 2) = { base := base, run := run })
include h hg

/-- A firing that puts one token on each target, of one poison. -/
theorem fireRule_puts {k0 k1 : Token} {p : Bool} (hrun : run (taken s opc o base) = (u, [k0], [k1])) (h0 : k0.psn = p)
    (h1 : k1.psn = p) (hp : anyPoison s opc o = true → p = true) : s.fireRule opc o f e =
      .next ((if p && o.t0 == 0x1FF && o.t1 == 0x1FF then u.orFlags 0x40 else u).put o [k0] [k1]) := by
  obtain ⟨hlive, hdata, hroom, hpay⟩ := h
  rw [fireRule_fires hlive hdata hg hroom hpay rfl]
  simp only [Firing.leaves, hrun, Bool.not_false, Bool.true_and, tokensLost o h0 h1 hp]
  rfl

/-- A firing that puts one result on each target, with the OR of the inputs' poison. -/
theorem fireRule_results {x y : Nat}
    (hrun : run (taken s opc o base) = (u, [resultToken s opc o x], [resultToken s opc o y])) : s.fireRule opc o f e =
      .next ((notesLost s opc o u).put o [resultToken s opc o x] [resultToken s opc o y]) :=
  fireRule_puts h hg hrun rfl rfl id

end

/-! ### Quantisers (R175, R177 to R181) -/

theorem packElems_eq (d : Nat) (l : List FRes) : packElems d l = packed d l := by
  induction l with
  | nil => rfl
  | cons r rs ih => simp only [packElems, packed, ih, Nat.mul_comm (2 ^ d)]

theorem FVal.scale_eq (k : Int) (v : FVal) : v.scale k = Claims.scaled k v := by cases v <;> rfl

theorem outlier_eq (t : FVal) (x j : Nat) : outlier t (bfElem x j) = isOutlier t (bf16At x j) := by
  simp only [outlier, bfElem, bf16At, bits]
  cases bf16.decode (x / 2 ^ (16 * j) % 2 ^ 16) <;> rfl

theorem outlierMask_eq (t : FVal) (x : Nat) (l : List Nat) (m : Nat) :
    l.foldl (fun m j => m + (outlier t (bfElem x j)).toNat * 2 ^ j) m =
      l.foldl (fun m j => if isOutlier t (bf16At x j) then m + 2 ^ j else m) m := by
  congr 1
  funext m j
  rw [outlier_eq]
  cases isOutlier t (bf16At x j) <;> simp

/-- PACK, MXQ and DEQ put one result, which a scale of 0xFF poisons too. -/
theorem exec_packForm {i : Instr} {opc : Nat} {o : SlotOp} {f : Nat → Nat → (Nat × Flags) × Bool}
    (h : packForm i = some (opc, o, f)) (s : State) : opc ∈ binaryCodes ∧
      exec i s = s.fireRule opc o (fun a b _ => oneResult (2 * sliceCount o) a b a (slotPorts opc o)
        (f a.data.toNat b.data.toNat).1 (f a.data.toNat b.data.toNat).2) := by
  cases i with
  | pack =>
    cases h; dsimp only [exec, execPack]
    simp only [packElems_eq]
    exact ⟨by decide, rfl⟩
  | mxq | deq =>
    cases h; dsimp only [exec, execMxq, execDeq]
    simp only [packElems_eq, FVal.scale_eq, bits, pow_zero, Nat.div_one]
    exact ⟨by decide, rfl⟩
  | _ => cases h

/-- The poison of a result of two operands. -/
theorem oneResult_binary (s : State) (o : SlotOp) {opc : Nat} (h : opc ∈ binaryCodes) (base : Nat)
    (r : Nat × Flags) (more : Bool) :
    oneResult base (s.operand opc o 0) (s.operand opc o 1) (s.operand opc o 0) (slotPorts opc o) r more =
      let k := Token.mk' (word r.1) (anyPoison s opc o || more)
      { base := base, run := fun u => (u.orFlags r.2, [k], [k]) } := by
  rw [anyPoison_binary s o h]
  rcases slotPorts_binary o h with hp | hp <;> simp [oneResult, hp]

end Sys2Proof.Machine

namespace Sys2Proof.Claims
open Sys2Proof Sys2Proof.Machine

theorem slotQuantiseResults : SlotQuantiseResults := by
  refine ⟨fun s o hfire => ?_, fun i s opc o f hform hfire => ?_, fun s o hfire => ?_, fun s o hfire => ?_⟩
  · dsimp only [exec, execQcvt]
    refine fireRule_results hfire rfl ?_
    simp only [← anyPoison_binary s o (by decide : 0x58 ∈ binaryCodes), packElems_eq, outlierMask_eq]
    rfl
  · obtain ⟨hopc, hexec⟩ := exec_packForm hform s
    rw [hexec]
    exact fireRule_puts hfire (oneResult_binary s o hopc ..) rfl rfl rfl fun h => by simp [h]
  · dsimp only [exec, execUnpk]
    refine fireRule_results hfire rfl ?_
    rw [← anyPoison_unary s o (by decide)]
    rfl
  · dsimp only [exec, execSrnd]
    refine fireRule_results hfire rfl ?_
    simp only [← anyPoison_unary s o (by decide : 0x5E ∈ unaryCodes), packElems_eq]
    rfl

end Sys2Proof.Claims

namespace Sys2Proof.Machine
open Sys2Proof Sys2Proof.Claims

/-! ### An end that emits (R95, R182) -/

section
variable {s : State} {o : SlotOp} {e : Ending}

theorem endAction_next (ports : List Nat) (hroom : s.slotRoom o (e.k0.length + 1) (e.k1.length + 1) = true)
    (hpay : ∀ b, e.base = some b → s.canPay b = true) : s.endAction o ports e =
      .next (((withSlot (ports.foldl (fun st p => st.take p) (match e.base with | none => s | some b => s.pay b))
        (fun v => { v with resA := none, resB := none, ended := true })).orFlags e.fl).put o (e.k0 ++ [.eos])
        (e.k1 ++ [.eos])) := by
  unfold State.endAction
  refine if_neg ?_
  cases hb : e.base with
  | none => simp [hroom]
  | some b => simp [hroom, hpay b hb]

theorem fireRule_emits {opc : Nat} {f : Token → Token → Token → Firing}
    (h : CanEnd s opc o e.k0.length e.k1.length e.base) : s.fireRule opc o f e = .next (ended s opc o e.base e.fl e.k0 e.k1) := by
  obtain ⟨hlive, hdata, heos, hroom, hpay⟩ := h
  rw [fireRule_ends hlive hdata heos, endAction_next _ hroom hpay]
  rfl

end

/-! ### Side entries (R176) -/

/-- A side entry: a source element, its position and its tag. -/
def sideEntry (p tag x j : Nat) : BitVec 32 := BitVec.ofNat 32 (bfElem x j * 2 ^ 16 + (p + j) % 1024 * 2 ^ 6 + tag)

theorem sideTag_lt (w : Nat) (alt : Bool) : sideTag w alt < 64 := by
  unfold sideTag
  split
  · cases alt <;> decide
  all_goals decide

theorem sideEntry_fields {p tag x j : Nat} (h : tag < 64) : (sideEntry p tag x j).toNat / 2 ^ 16 = x / 2 ^ (16 * j) % 2 ^ 16 ∧
    (sideEntry p tag x j).toNat / 2 ^ 6 % 1024 = (p + j) % 1024 := by
  have hx : bfElem x j < 2 ^ 16 := Nat.mod_lt _ (by decide)
  rw [sideEntry, BitVec.toNat_ofNat, ← show bfElem x j = x / 2 ^ (16 * j) % 2 ^ 16 from rfl]
  omega

section
variable (limit p tag x mask : Nat)

/-- One element of a firing: it is counted where its mask bit is set, and then it is appended or dropped. -/
theorem sideStep_cases (a : Nat × List (BitVec 32) × Bool) (j : Nat) :
    (mask.testBit j = false ∧ sideStep limit p tag x mask a j = a) ∨
    (mask.testBit j = true ∧ (sideStep limit p tag x mask a j).1 = (a.1 + 1) % 2 ^ 32 ∧
      ((sideStep limit p tag x mask a j).2.1 = a.2.1 ∨
        (sideStep limit p tag x mask a j).2.1 = a.2.1 ++ [sideEntry p tag x j])) := by
  have hbit : bits mask j 1 = (mask.testBit j).toNat := (Nat.toNat_testBit mask j).symm
  unfold sideStep
  rw [hbit]
  cases mask.testBit j
  · exact .inl ⟨rfl, rfl⟩
  · refine .inr ⟨rfl, ?_⟩
    dsimp only [Bool.toNat_true]
    rw [if_neg (by decide)]
    split
    · exact ⟨rfl, .inr rfl⟩
    · exact ⟨rfl, .inl rfl⟩

theorem sideSteps_count (l : List Nat) (a : Nat × List (BitVec 32) × Bool) :
    (l.foldl (sideStep limit p tag x mask) a).1 % 2 ^ 32 = (a.1 + l.countP (fun j => mask.testBit j)) % 2 ^ 32 := by
  induction l generalizing a with
  | nil => rfl
  | cons j r ih =>
    rw [List.foldl_cons, ih, List.countP_cons]
    rcases sideStep_cases limit p tag x mask a j with ⟨hbit, hstep⟩ | ⟨hbit, hcount, -⟩
    · simp [hbit, hstep]
    · rw [hcount, if_pos hbit]; omega

theorem mem_sideSteps {e : BitVec 32} (l : List Nat) (a : Nat × List (BitVec 32) × Bool)
    (h : e ∈ (l.foldl (sideStep limit p tag x mask) a).2.1) :
    e ∈ a.2.1 ∨ ∃ j ∈ l, mask.testBit j = true ∧ e = sideEntry p tag x j := by
  induction l generalizing a with
  | nil => exact .inl h
  | cons j r ih =>
    rcases ih _ h with hmem | ⟨i, hi, hbit, he⟩
    · rcases sideStep_cases limit p tag x mask a j with ⟨-, hstep⟩ | ⟨hbit, -, hsame | happend⟩
      · exact .inl (hstep ▸ hmem)
      · exact .inl (hsame ▸ hmem)
      · rw [happend, List.mem_append, List.mem_singleton] at hmem
        exact hmem.imp_right fun he => ⟨j, List.mem_cons_self, hbit, he⟩
    · exact .inr ⟨i, List.mem_cons_of_mem j hi, hbit, he⟩

end

theorem olovFlag_iff (dropped lost : Bool) : (flIf dropped flOLOV ||| flIf lost flPSEEN).getLsbD 7 = true ↔ dropped = true := by
  cases dropped <;> cases lost <;> decide

theorem sidePair_allOnes (x : BitVec 32 × Bool) :
    sidePair x (0xFFFFFFFF, false) = { data := 0xFFFFFFFF#32 ++ x.1, kind := .data, psn := x.2 } := by
  simp [sidePair, Token.mk']

/-! ### JOIN (R183) -/

/-- The record of b has the smaller key, or no record of a is left. -/
def joinsB (ha hb : Token) : Prop :=
  ha.isEos = true ∨ (hb.isEos = false ∧ hb.data.toNat / 2 ^ 32 < ha.data.toNat / 2 ^ 32)

/-- Where the record of b does not go alone, that of a does: no record of b is left, the key of a is smaller, or the mode is
merge. -/
def joinsA (mode : Nat) (ha hb : Token) : Prop :=
  hb.isEos = true ∨ ha.data.toNat / 2 ^ 32 < hb.data.toNat / 2 ^ 32 ∨ mode = 2

theorem joinKey (k : Token) : bits k.data.toNat 32 32 = k.data.toNat / 2 ^ 32 :=
  Nat.mod_eq_of_lt (Nat.div_lt_of_lt_mul k.data.isLt)

/-- The inputs that a step of JOIN takes. -/
def JoinStep.takes (j : JoinStep) (u : State) : State :=
  let v := if j.fromA then u.take 0 else u
  if j.fromB then v.take 1 else v

/-- What a step of JOIN leaves: it emits, or keeps the poison. -/
def JoinStep.leaves (j : JoinStep) (o : SlotOp) (u : State) (psn : Bool) : State :=
  match j.out with
  | none => withSlot u (fun w => { w with psn := psn })
  | some v =>
    let k : Token := { data := v, kind := .data, psn := psn }
    ((withSlot u (fun w => { w with psn := false })).orFlags
      (j.fl ||| if psn && o.t0 == 0x1FF && o.t1 == 0x1FF then 0x40 else 0)).put o [k] [k]

section
variable {mode : Nat} {sum : Bool} {ha hb : Token}

theorem joinStep_b (h : joinsB ha hb) : joinStep mode sum ha hb =
    { fromA := false, fromB := true, out := if mode = 1 ∨ mode = 2 then some hb.data else none } := by
  unfold joinStep joinsB at *
  simp only [joinKey]
  rw [if_pos (by simpa using h)]
  simp

theorem joinStep_a (h : ¬ joinsB ha hb) (h' : joinsA mode ha hb) : joinStep mode sum ha hb =
    { fromA := true, fromB := false, out := if mode = 0 then none else some ha.data } := by
  unfold joinStep joinsB joinsA at *
  simp only [joinKey]
  rw [if_neg (by simpa using h), if_pos (by simpa [or_assoc] using h')]
  by_cases hm : mode = 0 <;> simp [hm]

section
variable (h : ¬ joinsB ha hb) (h' : ¬ joinsA mode ha hb)
include h h'

theorem joinStep_both : let r := fp32.add .rne (fp32At ha.data.toNat 0) (fp32At hb.data.toNat 0)
    joinStep mode sum ha hb =
      { fromA := true, fromB := true,
        out := if mode ≤ 1 then some (if sum then word (ha.data.toNat / 2 ^ 32 * 2 ^ 32 + r.bits) else ha.data) else none,
        fl := flIf (decide (mode ≤ 1) && sum) r.fl } := by
  unfold joinStep joinsB joinsA at *
  simp only [joinKey]
  rw [if_neg (by simpa using h), if_neg (by simpa [or_assoc] using h')]
  simp [fp32At, bits]

theorem joinStep_adds (hmode : mode ≤ 1) (hsum : sum = true) :
    let r := fp32.add .rne (fp32At ha.data.toNat 0) (fp32At hb.data.toNat 0)
    joinStep mode sum ha hb = { fromA := true, fromB := true,
                                out := some (word (ha.data.toNat / 2 ^ 32 * 2 ^ 32 + r.bits)), fl := r.fl } := by
  simp [joinStep_both h h', hmode, hsum, flIf]

theorem joinStep_first (hmode : mode ≤ 1) (hsum : sum = false) :
    joinStep mode sum ha hb = { fromA := true, fromB := true, out := some ha.data } := by
  simp [joinStep_both h h', hmode, hsum, flIf]

theorem joinStep_drops (hmode : ¬ mode ≤ 1) : joinStep mode sum ha hb = { fromA := true, fromB := true, out := none } := by
  simp [joinStep_both h h', hmode, flIf]

end

variable {s : State} {o : SlotOp} (hlive : s.slotLive = true) (hha : s.head 0 = some ha) (hhb : s.head 1 = some hb)
include hlive hha hhb

theorem execJoin_steps (hends : ¬ (ha.isEos = true ∧ hb.isEos = true)) (hroom : s.slotRoom o 1 1 = true)
    (hpay : s.canPay (sliceCount o) = true) {j : JoinStep} {psn : Bool}
    (hj : joinStep (o.m.toNat / 2 % 4) (o.m.getLsbD 0) ha hb = j)
    (hpsn : ((j.fromA && ha.psn) || (j.fromB && hb.psn) || s.slotSt.psn) = psn) :
    exec (.join o) s = .next (j.leaves o (j.takes (s.pay (sliceCount o))) psn) := by
  have hne : (ha.isEos && hb.isEos) = false := by simpa using hends
  have hj' : joinStep (bits o.m.toNat 1 2) (o.m.getLsbD 0) ha hb = j := hj
  dsimp only [exec, execJoin]
  simp only [hlive, hha, hhb, hne, hroom, slices_eq, hpay, hj', hpsn, JoinStep.leaves, SlotOp.mute, flIf, Bool.and_assoc]
  cases j.out <;> rfl

theorem execJoin_ends (hea : ha.isEos = true) (heb : hb.isEos = true) :
    exec (.join o) s = s.endAction o [0, 1] { fl := flIf s.slotSt.psn flPSEEN } := by
  dsimp only [exec, execJoin]
  simp [hlive, hha, hhb, hea, heb]

end

/-! ### Lane operators (R184 to R190) -/

theorem accStep_eq (o : SlotOp) (acc : Option Word) (x : Nat) : accStep o acc x = accumulated o acc x := by
  unfold accStep accumulated
  rw [elemWidth_eq]
  cases acc <;> simp only [fitInt_eq (widthOf_pos o)] <;> rfl

theorem magnitude_eq (o : SlotOp) (x : Nat) : magnitude o x =
    (let f := slotFmt o.w.toNat (o.m.getLsbD 1)
     if o.m.getLsbD 0 then (if (f.decode x).isNan then f.nanRes.bits else f.signBit false + x % 2 ^ (f.w - 1))
     else (toSigned (widthOf o) x).natAbs) := by
  simp [magnitude, Fmt.withSign, laneFmt, elemWidth_eq, bits]

/-- ARGM counts an element whether or not it keeps it. -/
theorem counted_ite (c : Bool) (v w : SlotState) (n : Nat) :
    { (if c then w else v) with count := n } = if c then { w with count := n } else { v with count := n } := by
  cases c <;> rfl

theorem laneEnd_eq (o : SlotOp) (cost : Nat) (psn : Bool) (v0 v1 : Nat) : laneEnd o cost psn v0 v1 =
    { base := some cost, k0 := [{ data := BitVec.ofNat 64 v0, kind := .data, psn := psn }],
      k1 := [{ data := BitVec.ofNat 64 v1, kind := .data, psn := psn }],
      fl := if psn && o.t0 == 0x1FF && o.t1 == 0x1FF then 0x40 else 0 } := by
  simp [laneEnd, SlotOp.mute, flIf, flPSEEN, Token.mk', word, Bool.and_assoc]

/-- ACC, AMAX, ARGM and CNT are lane operators of the form of the statements. -/
theorem exec_laneForm {i : Instr} {opc : Nat} {o : SlotOp} {cost : Nat} {f : SlotState → Nat → SlotState × Flags}
    {out : SlotState → Nat × Nat} (h : laneForm i = some (opc, o, cost, f, out)) (s : State) :
    exec i s = s.laneOp opc o cost f (laneEnd o cost s.slotSt.psn (out s.slotSt).1 (out s.slotSt).2) := by
  cases i with
  | acc =>
    cases h; dsimp only [exec, execAcc]
    simp only [accStep_eq]
    rfl
  | amax =>
    cases h; dsimp only [exec, execAmax]
    simp only [magnitude_eq]
    rfl
  | argm =>
    cases h; dsimp only [exec, execArgm]
    refine congr (congrArg (s.laneOp 0x3B _ _) (funext fun v => funext fun x => ?_)) ?_
    · simp only [beats, Fmt.below, Fmt.isNeg_eq, laneFmt, elemWidth_eq]
      exact congrArg (·, (0 : Flags)) (counted_ite ..)
    · cases s.slotSt.acc with
      | some => rfl
      | none => dsimp only; split <;> rfl
  | cnt =>
    cases h; dsimp only [exec, execCnt]
    simp only [elemWidth_eq]
    rfl
  | _ => cases h

section
variable {s : State} {opc : Nat} {o : SlotOp} {cost : Nat}

theorem laneOp_fires (h : CanFire s opc o cost) (f : SlotState → Nat → SlotState × Flags) (e : Ending) :
    let r := f s.slotSt (elementA s opc o)
    s.laneOp opc o cost f e =
      .next (((taken s opc o cost).setSlotSt { r.1 with psn := r.1.psn || (s.operand opc o 0).psn }).orFlags r.2) := by
  obtain ⟨hlive, hdata, hroom, hpay⟩ := h
  unfold State.laneOp
  rw [fireRule_fires hlive hdata rfl hroom hpay rfl]
  simp only [elem_zero]
  rfl

end

end Sys2Proof.Machine

namespace Sys2Proof.Claims
open Sys2Proof Sys2Proof.Machine

theorem slotSideEntries : SlotSideEntries := by
  refine ⟨fun s o hlive hdata hroom hpay => ?_, fun s o => ?_⟩
  · intro v mask x limit r p
    let lost := (anyPoison s 0x59 o && r.2.1.isEmpty) || (o.t0 == 0x1FF && p.1.any Token.psn)
    refine ⟨_, ?_, ⟨_, flIf r.2.2 flOLOV ||| flIf lost flPSEEN, rfl, rfl, olovFlag_iff ..⟩, sideSteps_count ..,
      fun k e hk => ?_⟩
    · dsimp only [exec, execQside]
      rw [fireRule_fires hlive hdata rfl hroom hpay rfl]
      simp only [← anyPoison_binary s o (by decide : 0x59 ∈ binaryCodes)]
      rfl
    · rcases mem_sideSteps _ _ _ _ _ _ _ (List.mem_of_getElem? hk) with hmem | ⟨j, hj, hbit, rfl⟩
      · cases hmem
      · exact ⟨j, List.mem_range.mp hj, hbit, sideEntry_fields (sideTag_lt ..)⟩
  · dsimp only [exec, execQside]
    cases s.slotSt.pending with
    | none => exact fun hend => fireRule_emits hend
    | some x =>
      dsimp only
      rw [sidePair_allOnes]
      exact fun hend => fireRule_emits hend

/-- Settles O17: each quantiser is one firing, and the side list is a fold over the elements. -/
theorem slotQuantisation : Obligations.SlotQuantisation := ⟨slotQuantiseResults, slotSideEntries⟩

theorem slotJoin : SlotJoin := by
  refine ⟨fun s o ha hb hlive hha hhb hends hroom hpay => ?_, fun s o ha hb hlive hha hhb hea heb hroom => ?_⟩
  · intro mode ka kb onlyB onlyA sum emit keep pend
    have hexec {j : JoinStep} {p : Bool} := execJoin_steps (j := j) (psn := p) hlive hha hhb hends hroom hpay
    refine ⟨fun hB hm => ?_, fun hB hm => ?_, fun ⟨hB, hA⟩ hm => ?_, fun ⟨hB, hA⟩ hm => ?_, fun hB hA hm hs => ?_,
      fun hB hA hm hs => ?_, fun hB hA hm => ?_⟩
    · exact hexec ((joinStep_b hB).trans (by rw [if_pos hm])) rfl
    · exact hexec ((joinStep_b hB).trans (by rw [if_neg (by omega)])) rfl
    · exact hexec (p := ha.psn || pend) ((joinStep_a hB hA).trans (by rw [if_neg hm])) (by simp [pend])
    · exact hexec (p := ha.psn || pend) ((joinStep_a hB hA).trans (by rw [if_pos hm])) (by simp [pend])
    · exact hexec (joinStep_adds hB (fun h => hA ⟨hB, h⟩) hm hs) rfl
    · exact hexec (joinStep_first hB (fun h => hA ⟨hB, h⟩) hm hs) rfl
    · exact hexec (joinStep_drops hB (fun h => hA ⟨hB, h⟩) (by omega)) rfl
  · rw [execJoin_ends hlive hha hhb hea heb, endAction_next _ hroom fun b h => by cases h]
    rfl

theorem slotLaneAccumulation : SlotLaneAccumulation := by
  intro i s opc o cost f out hform
  rw [exec_laneForm hform s]
  refine ⟨fun hfire => laneOp_fires hfire f _, fun hend => ?_⟩
  rw [laneEnd_eq]
  exact fireRule_emits hend

theorem slotSequences : SlotSequences := by
  refine ⟨fun s o => ?_, fun s o v left psn hiota hlive hroom hpay => ?_, fun s o hiota hfire => ?_,
    fun s o hiota hend => ?_, fun s o hlive hdata hpay => ?_⟩
  · intro cost hfire
    dsimp only [exec, execScan]
    simp only [accStep_eq, elem_zero]
    refine fireRule_puts hfire rfl rfl rfl rfl fun h => ?_
    rw [← anyPoison_unary s o (by decide), h, Bool.or_true]
  · dsimp only [exec, execIota]
    simp only [hiota, hlive, hroom, slices_eq, hpay, elemWidth_eq, SlotOp.mute, ← Bool.and_assoc]
    rfl
  · dsimp only [exec, execIota]
    have hcount : elem o.w.toNat 0 (s.operand 0x3C o 0).data.toNat = elementA s 0x3C o := elem_zero ..
    have hfirst : elem o.w.toNat 0 (s.operand 0x3C o 1).data.toNat = dataOf s 0x3C o 1 % 2 ^ widthOf o := elem_zero ..
    have hpsn := anyPoison_binary s o (by decide : 0x3C ∈ binaryCodes)
    simp only [hiota, elemWidth_eq]
    refine ⟨fun hn => fireRule_results hfire rfl ?_, fun hn => ?_⟩
    · simp only [← hpsn, hcount, hfirst, hn, if_false]
      rfl
    · obtain ⟨hlive, hdata, hroom, hpay⟩ := hfire
      rw [fireRule_fires hlive hdata rfl hroom hpay rfl]
      refine congrArg _ (Firing.leaves_silent rfl ?_)
      simp only [← hpsn, hcount, hfirst, hn, if_true]
      rfl
  · dsimp only [exec, execIota]
    simp only [hiota]
    exact fireRule_emits hend
  · dsimp only [exec, execHalt]
    rw [fireRule_fires hlive hdata rfl (slotRoom_none s o) hpay rfl]
    exact congrArg _ (Firing.leaves_silent rfl rfl)

/-- Settles O18: JOIN's steps, the lane operators, and the sequences. -/
theorem slotSequenceOperators : Obligations.SlotSequenceOperators := ⟨slotJoin, slotLaneAccumulation, slotSequences⟩

end Sys2Proof.Claims

/-!
## CARRY, INVAR, DELAY, the edge records and the stops of a record (R195 to R203)

A record that faults leaves its record, its own state and its frozen launch behind, as a slot does. The other clauses are the
branches of each operation at the heads that they name; only the collective that takes a token has to be found.
-/

namespace Sys2Proof.Machine
open Sys2Proof Sys2Proof.Claims

theorem State.setRecSt_recSt (s : State) (v : RecState) : (s.setRecSt v).recSt = v := by
  have h : (s.setRecSt v).curT = { s.curT with recs := tabPut s.curT.recs s.curSlot v } := s.setTile_same ..
  rw [State.recSt, h]
  exact tabGet_put_same ..

/-- The running route record has left its record and stopped, and its launch is not frozen yet (R430). -/
def State.recStopped (s : State) (c : Cause) (input : Nat) : State :=
  (s.raise c (s.tileReport s.curTile s.curSlot true input 0 true)).setRecSt { s.recSt with stopped := true }

/-- A route record that faults stops for good: its record, its state and its launch. -/
theorem recFault_stops (s : State) (c : Cause) (input : Nat) : ∃ t, s.recFault c input = .next t ∧ RecStops s t c input := by
  have keeps {α : Type} (f : State → α) (hf : ∀ (v : State) ls, f { v with launches := ls } = f v) :
      f ((s.recStopped c input).freeze s.curT.launch c) = f (s.recStopped c input) := State.freeze_keeps f hf ..
  refine ⟨(s.recStopped c input).freeze s.curT.launch c, rfl,
    ⟨_, keeps State.records fun _ _ => rfl, rfl, rfl, rfl, ?_⟩, ?_, fun k l hk hl => ?_, ?_⟩
  · simp [State.tileReport]
  · exact (keeps State.recSt fun _ _ => rfl).trans (State.setRecSt_recSt ..)
  · rw [hk]
    exact (s.recStopped c input).freeze_frozen c hl
  · exact (keeps (State.withStopOf · s) fun _ _ => rfl).trans (congrArg (State.withStopOf · s) (s.raise_frame c _) :)

theorem recStops_of_eq {s : State} {x : Out} {c : Cause} {input : Nat} (h : x = s.recFault c input) :
    ∃ t, x = .next t ∧ RecStops s t c input := by
  rw [h]
  exact recFault_stops s c input

/-! ### The input of a stream that an EDGE feeds (R78, R202) -/

theorem feedsInput_scatter {v t g i : Nat} (h : feedsInput v t g = some i) (hi : i ≠ 0) : spKind v = 3 := by
  grind [feedsInput]

/-- Only the first input of an affine write stream has elements beyond its end. -/
theorem beyond_false {p : PCtx} {t g i : Nat} (k : Token) (hfeeds : feedsInput p.spec.toNat t g = some i)
    (hopen : i = 0 → p.eosA = false) : p.beyond k = false := by
  by_cases hi : i = 0
  · simp [PCtx.beyond, hopen hi]
  · simp [PCtx.beyond, feedsInput_scatter hfeeds hi]

theorem any_isEos_false {l : List Token} (h : ∀ k, k ∈ l → k.isEos = false) : l.any Token.isEos = false := by
  simpa using h

theorem inputEnded_false {p : PCtx} {i : Nat}
    (h : if i = 0 then p.eosA = false ∧ ∀ k, k ∈ p.inA → k.isEos = false
      else p.eosB = false ∧ ∀ k, k ∈ p.inB → k.isEos = false) : p.inputEnded i = false := by
  unfold PCtx.inputEnded
  split at h
  · simp [*, any_isEos_false h.2]
  · simp [*, any_isEos_false h.2]

/-- A fault that stops an AGN with a token: its record and its port context, and the arcs stay. -/
theorem State.agnFault_token (s : State) (pc : Nat) (c : Cause) (k : Option Token) :
    (∃ q, (s.agnFault pc c 0 k).records = s.records ++ [q] ∧ q.cause = c ∧ q.origin = .agn ∧ q.stop = true) ∧
      ((s.agnFault pc c 0 k).pctx pc).st = .frozen ∧ (s.agnFault pc c 0 k).arcs = s.arcs := by
  have keeps {α : Type} (f : State → α) (hf : ∀ (u : State) ls, f { u with launches := ls } = f u) :
      f (s.agnFault pc c 0 k) =
        f ((s.agnRecord pc c 0 true k).setPctx pc { s.pctx pc with st := .frozen, tag := none }) :=
    State.freeze_keeps f hf ..
  refine ⟨⟨_, keeps State.records fun _ _ => rfl, rfl, rfl, rfl⟩, ?_, keeps State.arcs fun _ _ => rfl⟩
  rw [keeps (·.pctx pc) fun _ _ => rfl, State.setPctx_same]

/-! ### The collective that takes a token (R202, R286, R287) -/

/-- The collective of the running record's launch, on the engine that it names, while its input and its merge buffer are open. -/
def State.takesToken (s : State) (r : RecOp) (c : Nat × Coll) : Bool :=
  c.1 / 65536 == r.dst.toNat && c.2.active && clSrcf c.2.v && c.2.launch == s.curT.launch && c.2.launch.isSome &&
    !(c.2.input 0).ended && decide ((c.2.input 0).units.length < mergeUnits)

theorem execEdgeIndigo_eq (r : RecOp) (s : State) : execEdgeIndigo r s =
    s.ifRec (match s.recHead 0, s.net.colls.find? (s.takesToken r) with
      | some t, some (k, c) =>
        let u := (s.recTake 0).recFired
        if t.isEos then .next ((u.setColl k (c.setInput 0 { c.input 0 with ended := true })).recEnd)
        else if clSparse c.v && (c.input 0).late (bits t.data.toNat 32 32) then .next (u.setColl k (c.raises csSPORD))
        else .next (u.setColl k (c.setInput 0
          { c.input 0 with units := (c.input 0).units ++ [(word (clWiden c.v t.data.toNat), t.psn)] }))
      | _, _ => .next s) := rfl

theorem State.takesToken_iff {s : State} {r : RecOp} {y : Nat × Coll} : s.takesToken r y = true ↔
    y.1 / 65536 = r.dst.toNat ∧ y.2.active = true ∧ clSrcf y.2.v = true ∧ y.2.launch = s.curT.launch ∧
      y.2.launch.isSome = true ∧ (y.2.input 0).ended = false ∧ (y.2.input 0).units.length < mergeUnits := by
  simp only [State.takesToken, Bool.and_eq_true, beq_iff_eq, Bool.not_eq_true', decide_eq_true_eq, and_assoc]

/-- The only element of a list that meets a predicate is the one found. -/
theorem find?_only {α : Type} {l : List α} {p : α → Bool} {x : α} (hx : x ∈ l) (hp : p x = true)
    (honly : ∀ y, y ∈ l → p y = true → y = x) : l.find? p = some x := by
  obtain ⟨y, hy⟩ := Option.isSome_iff_exists.mp (List.find?_isSome.mpr ⟨x, hx, hp⟩)
  rw [hy, honly y (List.mem_of_find?_eq_some hy) (List.find?_some hy)]

/-- A record is in order when its index lies above the last one that the engine took (R286). -/
theorem late_false_iff {i : CollIn} {t : Token} :
    let idx := t.data.toNat / 2 ^ 32
    i.late (bits t.data.toNat 32 32) = false ↔
      idx ≠ 0xFFFFFFFF ∧ (∀ x, i.units.getLast? = some x → x.1.toNat / 2 ^ 32 < idx) ∧
        (i.units = [] → ∀ l, i.last = some l → l < idx) := by
  intro idx
  have hkey (x : Word) : bits x.toNat 32 32 = x.toNat / 2 ^ 32 := Nat.mod_eq_of_lt (Nat.div_lt_of_lt_mul x.isLt)
  unfold CollIn.late
  simp only [hkey]
  cases hu : i.units.getLast? with
  | none =>
    have hnil : i.units = [] := List.getLast?_eq_none_iff.mp hu
    cases i.last <;> simp [hnil, idx]
  | some x =>
    have hne : i.units ≠ [] := fun h => by simp [h] at hu
    simp [hne, idx]

end Sys2Proof.Machine

namespace Sys2Proof.Claims
open Sys2Proof Sys2Proof.Machine

/-! ### CARRY and INVAR (R199, R200) -/

section
variable {s : State} {r : RecOp} (live : s.recLive = true)
include live

/-- INVAR in IDLE: an initial value, or the end of both inputs. -/
theorem exec_invar_none (hheld : s.recSt.held = none) : exec (.invar r) s =
    (match s.recHead 0 with
      | none => .next s
      | some a =>
        if a.isEos then
          match s.recHead (repeatInput r) with
          | none => .next s
          | some k =>
            if !k.isEos then s.recFault .flowEosMismatch 0
            else if !s.recRoom r r.dst then .next s
            else .next ((((s.recTake 0).recTake (repeatInput r)).recPut r r.dst .eos).recFired.recEnd)
        else if !s.recRoom r r.dst then .next s
        else .next (withRec ((s.recTake 0).recPut r r.dst a).recFired (fun v => { v with held := some a }))) := by
  change execInvar r s = _
  simp only [execInvar, ifRec_live live, hheld]
  rfl

/-- INVAR in HOLD: the predicate's turn. -/
theorem exec_invar_some {v : Token} (hheld : s.recSt.held = some v) : exec (.invar r) s =
    (match s.recHead (repeatInput r) with
      | none => .next s
      | some k =>
        if k.isEos then s.recFault .flowEosMismatch (repeatInput r)
        else if k.psn then s.recFault .flowControlPoison (repeatInput r)
        else if !k.data.getLsbD 0 then .next (withRec (s.recTake (repeatInput r)).recFired (fun v => { v with held := none }))
        else if !s.recRoom r r.dst then .next s
        else .next (((s.recTake (repeatInput r)).recPut r r.dst v).recFired)) := by
  change execInvar r s = _
  simp only [execInvar, ifRec_live live, hheld]
  rfl

end

theorem routeLoops : RouteLoops := by
  intro s r live go hold p
  refine ⟨fun a hphase ha hd => ?_, fun c hphase hc ⟨hce, hcp, hcb⟩ => ?_,
    fun b c hphase hc ⟨hce, hcp, hcb⟩ hb hdata hd => ?_, fun b c hphase hb hc hbe hce => ?_,
    fun a hheld ha hdata hd => ?_, fun a k hheld ha hae hk hke hd => ?_, fun v k hheld hk ⟨hke, hkp, hkb⟩ hd => ?_,
    fun v k hheld hk ⟨hke, hkp, hkb⟩ => ?_⟩
  · change execCarry r s = _
    simp [execCarry, ifRec_live live, hphase, ha, hd, go, withRec]
  · change execCarry r s = _
    simp only [execCarry, ifRec_live live, hphase, hc, hce, hcp, hcb]
    rfl
  · change execCarry r s = _
    simp only [execCarry, ifRec_live live, hphase, hc, hce, hcp, hcb, hb, hdata, hd]
    rfl
  · change execCarry r s = _
    simp [execCarry, ifRec_live live, hphase, hb, hc, hbe, hce]
  · change execInvar r s = _
    simp [execInvar, ifRec_live live, hheld, ha, hdata, hd, hold, withRec]
  · rw [exec_invar_none live hheld]
    simp [ha, hae, hk, hke, hd, p]
  · rw [exec_invar_some live hheld]
    simp only [hk, hke, hkp, hkb, hd, p]
    rfl
  · rw [exec_invar_some live hheld]
    simp only [hk, hke, hkp, hkb, p]
    rfl

section
variable {s : State} {r : RecOp} (live : s.recLive = true)
include live

/-! ### DELAY (R201) -/

theorem delay_puts {h : Token} {rest : List Token}
    (hbuf : s.recSt.buffer.getD (List.replicate r.param.toNat (Token.mk' 0 false)) = h :: rest)
    (hd : s.recRoom r r.dst = true) :
    let u := (withRec (s.recPut r r.dst h) (fun v => { v with buffer := some rest })).recFired
    exec (.delay r) s = .next (if h.isEos then u.recEnd else u) := by
  change execDelay r s = _
  simp only [execDelay, ifRec_live live, hbuf, hd]
  rfl

theorem delay_takes {t : Token} {buf : List Token}
    (hbuf : s.recSt.buffer.getD (List.replicate r.param.toNat (Token.mk' 0 false)) = buf)
    (hwait : buf = [] ∨ s.recRoom r r.dst = false) (ht : s.recHead 0 = some t) (hfree : buf.length < r.param.toNat)
    (hopen : ∀ x, buf.getLast? = some x → x.isEos = false) :
    exec (.delay r) s = .next (withRec (s.recTake 0).recFired (fun v => { v with buffer := some (buf ++ [t]) })) := by
  have hlast : buf.getLast?.any Token.isEos = false := by
    cases hx : buf.getLast? with
    | none => rfl
    | some x => exact hopen x hx
  have hgo : ¬ (decide (r.param.toNat ≤ buf.length) || false) = true := by simpa using hfree
  change execDelay r s = _
  simp only [execDelay, ifRec_live live, hbuf, ht, hlast, if_neg hgo]
  cases buf with
  | nil => rfl
  | cons h rest =>
    have hd : s.recRoom r r.dst = false := hwait.resolve_left (List.cons_ne_nil _ _)
    exact if_neg (by simp [hd])

/-! ### EDGE to a barrier (R202, R203) -/

theorem edgeBarrier_acts {t : Token} {l : Launch} (ht : s.recHead 0 = some t) (hl : s.tileLaunch s.curTile = some l) :
    (t.isEos = true → exec (.edgeBarrier r) s = .next ((s.recTake 0).recFired.recEnd)) ∧
    (t.isEos = false → ((s.seq l.seqn).barrier r.dst.toNat).init = true →
      let u := (s.recTake 0).recFired
      exec (.edgeBarrier r) s = .next ((if t.psn then u.orFlags 0x40 else u).arrive l.seqn r.dst.toNat 1)) ∧
    (t.isEos = false → ((s.seq l.seqn).barrier r.dst.toNat).init = false →
      ∃ x, exec (.edgeBarrier r) s = .next x ∧ RecStops s x .flowBarrierState 3) := by
  refine ⟨fun he => ?_, fun he hinit => ?_, fun he hinit => recStops_of_eq ?_⟩
  all_goals change execEdgeBarrier r s = _
  · simp [execEdgeBarrier, ifRec_live live, ht, hl, he]
  · simp [execEdgeBarrier, ifRec_live live, ht, hl, he, hinit, flPSEEN]
  · simp [execEdgeBarrier, ifRec_live live, ht, hl, he, hinit]

/-! ### EDGE to an AGN (R78, R202) -/

section
variable {t : Token} {i : Nat} {pc : Nat} {p : PCtx} (hpc : 512 * tileDie s.curTile + r.dst.toNat = pc)
  (hp : s.pctx pc = p) (ht : s.recHead 0 = some t) (hlaunch : p.launch = s.curT.launch)
  (hst : p.st = .running ∨ p.st = .draining ∨ p.st = .stopping)
  (hfeeds : feedsInput p.spec.toNat s.curTile (recTarget s.curSlot 0) = some i)
include hpc hp ht hlaunch hst hfeeds

/-- An EDGE record whose stream is bound to its launch and not stopped goes on to the input that it feeds. -/
theorem edgeAgn_input : exec (.edgeAgn r) s =
    (if p.beyond t then .next (s.agnFault pc .flowStreamLength 0 (some t))
    else if (if i = 0 then decide (2 ≤ p.inA.length) else decide (2 ≤ p.inB.length)) || p.inputEnded i then .next s
    else
      let u := (s.recTake 0).recFired.setPctx pc
        (if i = 0 then { p with inA := p.inA ++ [t] } else { p with inB := p.inB ++ [t] })
      .next (if t.isEos then u.recEnd else u)) := by
  subst hpc hp
  have hgo : ¬ ((s.pctx (512 * tileDie s.curTile + r.dst.toNat)).launch ≠ s.curT.launch ∨
      (s.pctx (512 * tileDie s.curTile + r.dst.toNat)).st = .free ∨
      (s.pctx (512 * tileDie s.curTile + r.dst.toNat)).st = .bound ∨
      (s.pctx (512 * tileDie s.curTile + r.dst.toNat)).st = .frozen ∨
      (s.pctx (512 * tileDie s.curTile + r.dst.toNat)).st = .saved) := by
    rcases hst with h | h | h <;> simp [hlaunch, h]
  change execEdgeAgn r s = _
  simp only [execEdgeAgn, ifRec_live live, ht, hfeeds]
  exact if_neg hgo

/-- The token enters an input that has room and has not ended. -/
theorem edgeAgn_enters (hroom : (if i = 0 then p.inA.length else p.inB.length) < 2)
    (hopen : if i = 0 then p.eosA = false ∧ ∀ k, k ∈ p.inA → k.isEos = false
      else p.eosB = false ∧ ∀ k, k ∈ p.inB → k.isEos = false) :
    let u := (s.recTake 0).recFired.setPctx pc
      (if i = 0 then { p with inA := p.inA ++ [t] } else { p with inB := p.inB ++ [t] })
    exec (.edgeAgn r) s = .next (if t.isEos then u.recEnd else u) := by
  have hbeyond : p.beyond t = false := beyond_false t hfeeds fun hi => by
    rw [if_pos hi] at hopen
    exact hopen.1
  have hfull : (if i = 0 then decide (2 ≤ p.inA.length) else decide (2 ≤ p.inB.length)) = false := by
    split at hroom <;> simp [*]
  rw [edgeAgn_input live hpc hp ht hlaunch hst hfeeds, hbeyond, hfull, inputEnded_false hopen]
  rfl

end

end

/-! ### EDGE to an engine (R202, R286, R287) -/

section
variable {s : State} {r : RecOp} (live : s.recLive = true)
include live

theorem edgeIndigo_full {t : Token} (ht : s.recHead 0 = some t) (h : s.net.colls.find? (s.takesToken r) = none) :
    exec (.edgeIndigo r) s = .next s := by
  change execEdgeIndigo r s = _
  simp only [execEdgeIndigo_eq, ifRec_live live, ht, h]

theorem edgeIndigo_takes {t : Token} {k : Nat} {c : Coll} (ht : s.recHead 0 = some t)
    (h : s.net.colls.find? (s.takesToken r) = some (k, c)) :
    let u := (s.recTake 0).recFired
    exec (.edgeIndigo r) s =
      (if t.isEos then .next ((u.setColl k (c.setInput 0 { c.input 0 with ended := true })).recEnd)
      else if clSparse c.v && (c.input 0).late (bits t.data.toNat 32 32) then .next (u.setColl k (c.raises csSPORD))
      else .next (u.setColl k (c.setInput 0
        { c.input 0 with units := (c.input 0).units ++ [(word (clWiden c.v t.data.toNat), t.psn)] }))) := by
  intro u
  change execEdgeIndigo r s = _
  simp only [execEdgeIndigo_eq, ifRec_live live, ht, h]
  rfl

end

theorem routeBuffersAndEdges : RouteBuffersAndEdges := by
  intro s r live buf keep
  refine ⟨fun h rest hbuf hd => delay_puts live hbuf hd,
    fun t hwait ht hfree hopen => delay_takes live rfl hwait ht hfree hopen,
    fun t l ht hl => edgeBarrier_acts live ht hl, fun t i ht hlaunch hst hfeeds hroom hopen => ?_,
    fun t ht hlaunch hfeeds hended => ⟨fun hst hdrain hkind hin hdata => ?_, fun hst => ?_⟩,
    fun t k c ht _ honly hmem heng hact hsrcf hlaunch hsome hopen => ⟨fun hfull => ?_, fun hroom => ?_⟩⟩
  · exact ⟨_, edgeAgn_enters live rfl rfl ht hlaunch hst hfeeds hroom hopen, State.setPctx_same ..,
      fun y hy => State.setPctx_other _ _ _ _ hy, rfl⟩
  · obtain ⟨⟨q, hq, hcause, horigin, hstop⟩, hfrozen, harcs⟩ := s.agnFault_token _ .flowStreamLength (some t)
    exact ⟨_, q, (edgeAgn_input live rfl rfl ht hlaunch (.inr (.inl hst)) hfeeds).trans
      (if_pos (by simp [PCtx.beyond, hst, hdrain, hkind, hended, hin, hdata])), hq, hcause, horigin, hstop, hfrozen, harcs⟩
  · rw [edgeAgn_input live rfl rfl ht hlaunch (hst.imp_right .inr) hfeeds]
    rcases hst with h | h <;> simp [PCtx.beyond, PCtx.inputEnded, h, hended]
  · refine edgeIndigo_full live ht (List.find?_eq_none.mpr fun y hy htakes => ?_)
    obtain ⟨heng', -, -, hlaunch', -, -, hroom⟩ := State.takesToken_iff.mp htakes
    rw [honly y hy heng' hlaunch'] at hroom
    exact Nat.not_lt_of_le hfull hroom
  · have hfind : s.net.colls.find? (s.takesToken r) = some (k, c) :=
      find?_only hmem (State.takesToken_iff.mpr ⟨heng, hact, hsrcf, hlaunch, hsome, hopen, hroom⟩) fun y hy htakes =>
        let ⟨heng', _, _, hlaunch', _⟩ := State.takesToken_iff.mp htakes
        honly y hy heng' hlaunch'
    have hexec := edgeIndigo_takes live ht hfind
    have hlate : (c.input 0).late (bits t.data.toNat 32 32) = false ↔ _ := late_false_iff
    refine ⟨fun he => hexec.trans (if_pos he), fun he hsparse hout => ?_, fun he hin => ?_⟩
    · have : (c.input 0).late (bits t.data.toNat 32 32) = true := by simpa using mt hlate.mp hout
      exact hexec.trans ((if_neg (by simp [he])).trans (if_pos (by simp [hsparse, this])))
    · have : (clSparse c.v && (c.input 0).late (bits t.data.toNat 32 32)) = false := by
        rcases hin with h | h
        · simp [h]
        · simp [hlate.mpr h]
      exact hexec.trans ((if_neg (by simp [he])).trans (if_neg (by simp [this])))

/-! ### What stops a record (R195 to R200) -/

theorem routeRecordStops : RouteRecordStops := by
  intro s r live
  refine ⟨fun a c ha hc => ⟨fun hae hce hcp => ?_, fun hae hce => ?_, fun hae hce => ?_⟩,
    fun c hc hce hcp => ⟨?_, fun hphase => ?_⟩, fun c t b hc ⟨hce, hcp, hcb⟩ ht hte => ?_,
    fun a b c ha hb hc hce hdata => ?_, fun c hc hce hphase => ?_,
    fun b c hphase hc ⟨hce, hcp, hcb⟩ hb hbe => ?_, fun b c hphase hb hc hdata => ?_,
    fun a k hheld ha hae hk hke => ?_, fun v k hheld hk hke hkp => ?_, fun v k hheld hk hke => ?_⟩
  all_goals refine recStops_of_eq ?_
  · change execSteer r s = _
    simp [execSteer, ifRec_live live, ha, hc, hae, hce, hcp]
  · change execSteer r s = _
    simp [execSteer, ifRec_live live, ha, hc, hae, hce]
  · change execSteer r s = _
    simp [execSteer, ifRec_live live, ha, hc, hae, hce]
  · change execMerge r s = _
    simp [execMerge, ifRec_live live, hc, hce, hcp]
  · change execCarry r s = _
    simp [execCarry, ifRec_live live, hphase, hc, hce, hcp]
  · change execMerge r s = _
    simp only [execMerge, ifRec_live live, hc, hce, hcp, hcb, ht, hte]
    rfl
  · change execMerge r s = _
    rcases hdata with h | h <;> simp [execMerge, ifRec_live live, ha, hb, hc, hce, h]
  · change execCarry r s = _
    simp [execCarry, ifRec_live live, hphase, hc, hce]
  · change execCarry r s = _
    simp only [execCarry, ifRec_live live, hphase, hc, hce, hcp, hcb, hb, hbe]
    rfl
  · change execCarry r s = _
    rcases hdata with h | h <;> simp [execCarry, ifRec_live live, hphase, hb, hc, h]
  · rw [exec_invar_none live hheld]
    simp [ha, hae, hk, hke]
  · rw [exec_invar_some live hheld]
    simp [hk, hke, hkp]
  · rw [exec_invar_some live hheld]
    simp [hk, hke]

/-- Settles O22: the loops, the buffers and edges, and the stops of route records, each on the heads that it names. -/
theorem routeStateOperators : Obligations.RouteStateOperators := ⟨routeLoops, routeBuffersAndEdges, routeRecordStops⟩

end Sys2Proof.Claims

/-!
## Control operators of a slot (R213 to R217, R239, R430, R434)

A closed EOSG takes from its two ports in turn: what it takes from one leaves the other's head, and an end of stream adds its bit
to those seen. TRAP and BRK hold once, or are a pass-through firing. The reads put a result that no recorder captures.
-/

namespace Sys2Proof.Machine
open Sys2Proof Sys2Proof.Claims

/-! ### The firing rule with a fault, and what the taking leaves -/

/-- A slot that may fire, and whose firing raises a cause instead. -/
theorem fireRule_faults {s : State} {opc : Nat} {o : SlotOp} {f : Token → Token → Token → Firing} {e : Ending} {g : Firing}
    {c : Cause} {p : Nat} {a : Word} (hg : f (s.operand opc o 0) (s.operand opc o 1) (s.operand opc o 2) = g)
    (h : CanFire s opc o g.base) (hroom0 : g.room0 = 1) (hroom1 : g.room1 = 1) (hfault : g.fault = some (c, p, a)) :
    s.fireRule opc o f e = s.slotFault c p a := by
  obtain ⟨hlive, hdata, hroom, hpay⟩ := h
  subst hg
  simp [State.fireRule, hlive, hdata, hroom0, hroom1, hroom, hpay, hfault]

theorem slotStops_of_eq {s : State} {x : Out} {c : Cause} {p : Nat} {a : Word} (h : x = s.slotFault c p a) :
    ∃ t, x = .next t ∧ SlotStops s t c p a := by
  rw [h]
  exact slotFault_stops s c p a

/-- The cost is paid and the used ports have given their tokens: nothing else has changed. -/
theorem Fired.taken (s : State) (opc : Nat) (o : SlotOp) (base : Nat) : Fired s base 0 (taken s opc o base) :=
  (Fired.pay s base).takePorts opc o fun _ => slotPorts_lt

/-! ### What a slot's own changes leave (R93, R159) -/

theorem State.setTile_launch (s : State) {t : Nat} {v : Tile} (h : v.launch = (s.tile t).launch) (x : Nat) :
    ((s.setTile t v).tile x).launch = (s.tile x).launch := by
  by_cases hx : x = t
  · subst hx
    rw [State.setTile_same, h]
  · rw [State.setTile_other _ _ _ _ hx]

theorem State.setSlotSt_launch (s : State) (v : SlotState) (x : Nat) : ((s.setSlotSt v).tile x).launch = (s.tile x).launch :=
  s.setTile_launch (v := { s.curT with slots := tabPut s.curT.slots s.curSlot v }) rfl x

theorem State.orFlags_launch (s : State) (f : Flags) (x : Nat) : ((s.orFlags f).tile x).launch = (s.tile x).launch :=
  s.setTile_launch (v := { s.curT with flags := s.curT.flags ||| f }) rfl x

@[simp] theorem State.orFlags_slotSt (s : State) (f : Flags) : (s.orFlags f).slotSt = s.slotSt := by
  have h : (s.orFlags f).curT = { s.curT with flags := s.curT.flags ||| f } := s.setTile_same ..
  rw [State.slotSt, h]
  rfl

@[simp] theorem State.take_slotSt (s : State) (p : Nat) : (s.take p).slotSt = s.slotSt := rfl

/-- A head depends on the holds of the sequencers, the tile's launch and the arc. -/
theorem State.headAt_congr {s u : State} {t g : Nat} (hseqs : u.seqs = s.seqs) (hlaunch : (u.tile t).launch = (s.tile t).launch)
    (harc : u.arcAt t g = s.arcAt t g) : u.headAt t g = s.headAt t g := by
  have hheld : u.inputHeld t g = s.inputHeld t g := by
    unfold State.inputHeld
    rw [hseqs, hlaunch]
  unfold State.headAt
  rw [hheld, harc]

theorem State.setSlotSt_head (s : State) (v : SlotState) (p : Nat) : (s.setSlotSt v).head p = s.head p :=
  State.headAt_congr rfl (s.setSlotSt_launch v _) rfl

theorem State.orFlags_head (s : State) (f : Flags) (p : Nat) : (s.orFlags f).head p = s.head p :=
  State.headAt_congr rfl (s.orFlags_launch f _) rfl

/-- A port's token leaves the other ports' heads. -/
theorem State.take_head_other (s : State) {p q : Nat} (h : q ≠ p) : (s.take p).head q = s.head q := by
  have hne : 512 * s.curTile + slotTarget s.curSlot q ≠ 512 * s.curTile + slotTarget s.curSlot p := by
    unfold slotTarget
    omega
  exact State.headAt_congr rfl rfl (s.setArcAt_other _ _ _ hne)

/-! ### EOSG when it is closed (R213) -/

theorem State.closedTake_head_other (s : State) {p q : Nat} (k : Nat) (h : q ≠ p) : (s.closedTake p k).head q = s.head q := by
  unfold State.closedTake
  split
  · rfl
  · cases s.head p with
    | none => rfl
    | some t =>
      dsimp only
      split
      · rw [State.setSlotSt_head, s.take_head_other h]
      · split
        · rw [State.orFlags_head, s.take_head_other h]
        · exact s.take_head_other h

/-- The ends that a closed EOSG has seen, with port `p`'s as bit `k`. -/
def State.seesEnd (s : State) (p k : Nat) : BitVec 2 :=
  if !s.slotSt.seen.getLsbD k && (s.head p).any Token.isEos then s.slotSt.seen ||| 1 <<< k else s.slotSt.seen

theorem State.closedTake_slotSt (s : State) (p k : Nat) :
    (s.closedTake p k).slotSt = { s.slotSt with seen := s.seesEnd p k } := by
  unfold State.closedTake State.seesEnd
  split
  next h => simp [h]
  next h =>
    cases hp : s.head p with
    | none => simp
    | some t =>
      by_cases he : t.isEos = true
      · simp [h, he, State.setSlotSt_slotSt]
      · by_cases hb : t.psn = true <;> simp [he, hb]

theorem State.closedTake_seen (s : State) (p k : Nat) : (s.closedTake p k).slotSt.seen = s.seesEnd p k :=
  congrArg SlotState.seen (s.closedTake_slotSt p k)

theorem State.closedTake_ended (s : State) (p k : Nat) : (s.closedTake p k).slotSt.ended = s.slotSt.ended :=
  (congrArg SlotState.ended (s.closedTake_slotSt p k) :)

theorem State.closedTake_closed (s : State) (p k : Nat) : (s.closedTake p k).slotSt.closed = s.slotSt.closed :=
  (congrArg SlotState.closed (s.closedTake_slotSt p k) :)

theorem seen_both (v : BitVec 2) : v = 3 ↔ (v.getLsbD 0 && v.getLsbD 1) = true := by
  revert v
  decide

theorem seen_first (v : BitVec 2) : (v ||| 1 <<< 0).getLsbD 1 = v.getLsbD 1 := by
  revert v
  decide

theorem State.closedTake_seen_second (s : State) (p : Nat) :
    (s.closedTake p 0).slotSt.seen.getLsbD 1 = s.slotSt.seen.getLsbD 1 := by
  rw [s.closedTake_seen, State.seesEnd]
  split
  · exact seen_first _
  · rfl

/-- A closed EOSG takes from both ports, and ends once both have ended. -/
theorem eosg_closed {s : State} {o : SlotOp} (hlive : s.slotLive = true) (hclosed : s.slotSt.closed = true) :
    let u := (s.closedTake 0 0).closedTake 2 1
    exec (.eosg o) s = .next (if u.slotSt.seen = 3 then u.setSlotSt { u.slotSt with ended := true } else u) := by
  change execEosg o s = _
  simp [execEosg, hlive, hclosed]

/-- What a closed EOSG that had seen no end has seen after its two takings. -/
theorem State.closedTakes_seen {s : State} {a c : Token} (hseen : s.slotSt.seen = 0) (ha : s.head 0 = some a)
    (hc : s.head 2 = some c) : ((s.closedTake 0 0).closedTake 2 1).slotSt.seen =
      (if a.isEos then 1 else 0) ||| (if c.isEos then 2 else 0) := by
  have hc' : (s.closedTake 0 0).head 2 = some c := (s.closedTake_head_other 0 (by decide)).trans hc
  simp only [State.closedTake_seen, State.seesEnd, hc', ha, hseen, Option.any_some]
  cases a.isEos <;> cases c.isEos <;> rfl

/-! ### Holds of TRAP and BRK (R214, R215, R434) -/

theorem slotHold_holds (s : State) (c : Cause) (p : Nat) (a : Word) : SlotHolds s (s.slotHold c p a) c p a := by
  refine ⟨⟨_, rfl, rfl, rfl, rfl, rfl, ?_⟩, State.setSlotSt_slotSt (s.raise c _) { s.slotSt with held := true },
    (congrArg (fun u : State => { u with tiles := s.tiles }) (s.raise_frame c _) :)⟩
  simp [State.tileReport]

section
variable {s : State} {o : SlotOp} {c : Cause} {p : Nat} {a : Word} {go : Out}

theorem orHold_free : s.orHold o false c p a go = go := rfl

theorem orHold_holds (hheld : s.slotSt.held = false) (hroom : s.slotRoom o 1 1 = true) (hpay : s.canPay 4 = true) :
    s.orHold o true c p a go = .next (s.slotHold c p a) := by
  simp [State.orHold, hheld, hroom, hpay, controlCost]

theorem orHold_proceeds (hheld : s.slotSt.held = true) (hrel : s.slotSt.released = true)
    (hwritten : s.tileRecordWaits s.curTile s.curSlot false = false) : s.orHold o true c p a go = go := by
  simp [State.orHold, hheld, hrel, hwritten]

end

/-- The operator passes port a's token to both targets, and holds no longer. -/
def passes (s : State) (opc : Nat) (o : SlotOp) : State :=
  (notesLost s opc o (withSlot (taken s opc o 4) (fun v =>
    { v with held := false, released := false, count := v.count + 1 }))).put o [s.operand opc o 0] [s.operand opc o 0]

theorem passThrough_fires {s : State} {opc : Nat} {o : SlotOp} {f : Token → Token → Token → Firing} (h : CanFire s opc o 4)
    (hg : f (s.operand opc o 0) (s.operand opc o 1) (s.operand opc o 2) = passThrough (s.operand opc o 0))
    (hp : anyPoison s opc o = (s.operand opc o 0).psn) : s.fireRule opc o f = .next (passes s opc o) :=
  fireRule_puts (e := {}) h hg rfl hp.symm hp.symm id

/-! ### Reads (R216, R239) -/

/-- Without a recorder the live value is captured at once. -/
theorem captured_live {u : State} (h : SlotNotRecorded u) (kind : Nat) (who : Origin) (num sub : Nat) (x aux : Word)
    (clock : Nat) : u.captured u.curT.launch kind who num sub x aux clock = some (x, u) := by
  cases hl : u.curT.launch.bind u.launch with
  | none => simp [State.captured, hl]
  | some l =>
    obtain ⟨k, hk, hkl⟩ := Option.bind_eq_some_iff.mp hl
    exact State.captured_off hl (h k l hk hkl) ..

theorem Fired.curT_launch {s u : State} {base : Nat} {fl : Flags} (h : Fired s base fl u) :
    u.curT.launch = s.curT.launch := by
  rw [State.curT, h.curTile]
  exact (congrArg Tile.launch h.own :)

theorem Fired.notRecorded {s u : State} {base : Nat} {fl : Flags} (h : Fired s base fl u) (hs : SlotNotRecorded s) :
    SlotNotRecorded u := by
  intro k l hk hl
  have hlaunch : u.launch k = s.launch k := (congrArg (·.launch k) h.frame :)
  rw [h.curT_launch] at hk
  rw [hlaunch] at hl
  exact hs k l hk hl

/-- A read that no recorder watches puts its value with its trigger's poison. -/
theorem capturedOp_fires {s : State} {opc : Nat} {o : SlotOp} {cap : State → Option (Word × State)} {u : State} {v : Nat}
    (h : CanFire s opc o 4) (hports : slotPorts opc o = [0]) (hready : (cap s).isNone = false)
    (hcap : cap (taken s opc o 4) = some (word v, u)) :
    s.capturedOp opc o cap = .next ((notesLost s opc o u).put o [resultToken s opc o v] [resultToken s opc o v]) := by
  have hp : anyPoison s opc o = (s.operand opc o 0).psn := by simp [anyPoison, hports]
  refine (if_neg (by rw [hready, Bool.and_false]; exact Bool.false_ne_true)).trans (fireRule_results h rfl ?_)
  simp only [hcap, resultToken, hp]
  rfl

/-! ### SEED (R217) -/

theorem slotPorts_seed (o : SlotOp) : slotPorts 0x6D o = [0] := by simp [slotPorts, readsB, readsC, extKind]

/-- The seed of a SEED slot joins the tile, unless a lower-numbered slot has given one. -/
def State.keepsSeed (s : State) (v : BitVec 32) : State :=
  if s.curT.nextSeed.any (fun p => p.2 < s.curSlot) then s
  else s.setTile s.curTile { s.curT with nextSeed := some (v, s.curSlot) }

theorem State.keepsSeed_curT (s : State) (v : BitVec 32) : (s.keepsSeed v).curT =
    { s.curT with nextSeed := if s.curT.nextSeed.any (fun p => p.2 < s.curSlot) then s.curT.nextSeed
                              else some (v, s.curSlot) } := by
  unfold State.keepsSeed
  split
  · rfl
  · exact s.setTile_same ..

theorem State.keepsSeed_tile_other (s : State) (v : BitVec 32) {x : Nat} (h : x ≠ s.curTile) :
    (s.keepsSeed v).tile x = s.tile x := by
  unfold State.keepsSeed
  split
  · rfl
  · exact s.setTile_other _ _ _ h

theorem State.keepsSeed_frame (s : State) (v : BitVec 32) (ts : List (Nat × Tile)) :
    { s.keepsSeed v with tiles := ts } = { s with tiles := ts } := by
  unfold State.keepsSeed
  split <;> rfl

end Sys2Proof.Machine

namespace Sys2Proof.Claims
open Sys2Proof Sys2Proof.Machine

/-! ### EOSG -/

section
variable {s : State} {o : SlotOp} {a c : Token} (hlive : s.slotLive = true) (hclosed : s.slotSt.closed = false)
  (ha : s.head 0 = some a) (hc : s.head 2 = some c)
include hlive hclosed ha hc

theorem eosg_passes (hae : a.isEos = false) (hce : c.isEos = false) (hcp : c.psn = false) (hpay : s.canPay 4 = true)
    (hroom : s.slotRoom o (if c.data.getLsbD 0 then 2 else 1) (if c.data.getLsbD 0 then 2 else 1) = true) :
    let ks := if c.data.getLsbD 0 then [a, Token.eos] else [a]
    let u := withSlot (((s.pay 4).take 2).take 0) (fun v => { v with closed := c.data.getLsbD 0 })
    exec (.eosg o) s = .next ((if a.psn && o.t0 == 0x1FF && o.t1 == 0x1FF then u.orFlags 0x40 else u).put o ks ks) := by
  change execEosg o s = _
  cases hb : c.data.getLsbD 0 with
  | false =>
    rw [hb] at hroom
    simp_all [execEosg, controlCost, SlotOp.mute, withSlot, flPSEEN, and_assoc]
  | true =>
    rw [hb] at hroom
    simp_all [execEosg, controlCost, SlotOp.mute, withSlot, flPSEEN, and_assoc]

theorem eosg_ends (hae : a.isEos = true) (hce : c.isEos = true) (hroom : s.slotRoom o 1 1 = true) :
    exec (.eosg o) s = .next ((withSlot ((s.take 0).take 2) (fun v => { v with resA := none, resB := none, ended := true })
      |>.orFlags 0).put o [.eos] [.eos]) := by
  change execEosg o s = _
  simp [execEosg, hlive, hclosed, ha, hc, hae, hce, State.endAction, hroom, withSlot]

end

theorem endOfStreamGate : EndOfStreamGate := by
  refine ⟨fun s o a c hlive hclosed ha hc => ⟨fun hae hce hcp hpay hroom => ?_, fun hae hce hcp => slotStops_of_eq ?_,
      fun hae hce => slotStops_of_eq ?_, fun hae hce => slotStops_of_eq ?_, fun hae hce hroom => ?_⟩,
    fun s o hlive hclosed => ?_,
    fun s o a c hlive hclosed hseen ha hc => ⟨fun hae hce => ?_, fun hdata => ?_⟩⟩
  · exact eosg_passes hlive hclosed ha hc hae hce hcp hpay hroom
  · change execEosg o s = _
    simp [execEosg, hlive, hclosed, ha, hc, hae, hce, hcp]
  · change execEosg o s = _
    simp [execEosg, hlive, hclosed, ha, hc, hae, hce]
  · change execEosg o s = _
    simp [execEosg, hlive, hclosed, ha, hc, hae, hce]
  · exact eosg_ends hlive hclosed ha hc hae hce hroom
  · intro discard u
    have hfirst : discard s 0 0 = s.closedTake 0 0 := by
      simp only [discard, State.closedTake, withSlot]
      cases s.head 0 <;> simp [flPSEEN]
    have hsecond : u = (s.closedTake 0 0).closedTake 2 1 := by
      simp only [u, hfirst]
      generalize hv : s.closedTake 0 0 = v
      have hhead : v.head 2 = s.head 2 := hv ▸ s.closedTake_head_other 0 (by decide)
      have hseen : v.slotSt.seen.getLsbD 1 = s.slotSt.seen.getLsbD 1 := hv ▸ s.closedTake_seen_second 0
      simp only [discard, State.closedTake, withSlot, hhead, hseen]
      cases s.head 2 <;> simp [flPSEEN]
    rw [eosg_closed hlive hclosed, ← hsecond]
    simp only [seen_both]
    rfl
  · refine ⟨_, eosg_closed hlive hclosed, ?_⟩
    rw [if_pos (by rw [State.closedTakes_seen hseen ha hc, hae, hce]; rfl), State.setSlotSt_slotSt]
  · refine ⟨_, eosg_closed hlive hclosed, ?_⟩
    have hopen : ((s.closedTake 0 0).closedTake 2 1).slotSt.seen ≠ 3 := by
      rw [State.closedTakes_seen hseen ha hc]
      rcases hdata with h | h <;> rw [h]
      · cases c.isEos <;> decide
      · cases a.isEos <;> decide
    rw [if_neg hopen]
    simp only [State.closedTake_ended, State.closedTake_closed, hclosed, and_self]

/-! ### TRAP and BRK -/

section
variable {s : State} {o : SlotOp}

/-- TRAP with a predicate that is data. -/
theorem trap_eq (h : CanFire s 0x69 o 4) {c : Token} (hc : s.head 2 = some c) :
    exec (.trapOperator o) s = s.orHold o (!c.psn && c.data.getLsbD 0) .flowTrap 2 (BitVec.ofNat 64 (o.ext.toNat % 256))
      (s.fireRule 0x69 o (fun a _ c =>
        if c.psn then { base := controlCost, fault := some (.flowControlPoison, 2, 0), run := fun s => (s, [], []) }
        else passThrough a)) := by
  obtain ⟨hlive, hdata, -, -⟩ := h
  rw [slotPorts_trap] at hdata
  change execTrapOperator o s = _
  simp [execTrapOperator, hlive, hdata, hc, word, bits]

theorem trap_poison (h : CanFire s 0x69 o 4) (hop : (s.operand 0x69 o 2).psn = true) {e : Ending} :
    s.fireRule 0x69 o (fun a _ c =>
        if c.psn then { base := controlCost, fault := some (.flowControlPoison, 2, 0), run := fun s => (s, [], []) }
        else passThrough a) e = s.slotFault .flowControlPoison 2 0 :=
  fireRule_faults (if_pos hop) h rfl rfl rfl

theorem trap_passes (h : CanFire s 0x69 o 4) (hop : (s.operand 0x69 o 2).psn = false) :
    s.fireRule 0x69 o (fun a _ c =>
        if c.psn then { base := controlCost, fault := some (.flowControlPoison, 2, 0), run := fun s => (s, [], []) }
        else passThrough a) = .next (passes s 0x69 o) :=
  passThrough_fires h (if_neg (by simp [hop])) (by simp [anyPoison, slotPorts_trap, hop])

theorem brk_eq (h : CanFire s 0x6A o 4) :
    exec (.brk o) s = s.orHold o ((s.tileLaunch s.curTile).any Launch.debug &&
        (o.ext.toNat % 65536 == 0xFFFF || s.slotSt.count == o.ext.toNat % 65536)) .flowBreak 0
      (BitVec.ofNat 64 (o.ext.toNat % 65536)) (.next (passes s 0x6A o)) := by
  have hports := slotPorts_single o (opc := 0x6A) (by decide)
  have hgo : s.fireRule 0x6A o (fun a _ _ => passThrough a) = .next (passes s 0x6A o) :=
    passThrough_fires h rfl (by simp [anyPoison, hports])
  obtain ⟨hlive, hdata, -, -⟩ := h
  rw [hports] at hdata
  change execBrk o s = _
  unfold execBrk
  rw [hgo]
  simp [hlive, hdata, word, bits]

end

theorem trapAndBreakSlots : TrapAndBreakSlots := by
  intro s o tcode index due passes_
  refine ⟨fun h c hc hop => ⟨fun hp => slotStops_of_eq ?_, fun hp hb hheld => ⟨_, ?_, slotHold_holds s .flowTrap 2 tcode⟩,
    fun hp hb hheld hrel hwritten => ?_, fun hp hb => ?_⟩, fun h => ⟨fun hdue hheld => ⟨_, ?_, slotHold_holds ..⟩,
      fun hdue hheld hrel hwritten => ?_, fun hdue => ?_⟩⟩
  · rw [trap_eq h hc, hp]
    exact trap_poison h (hop ▸ hp)
  · rw [trap_eq h hc, hp, hb]
    exact orHold_holds hheld h.2.2.1 h.2.2.2
  · rw [trap_eq h hc, hp, hb]
    exact (orHold_proceeds hheld hrel hwritten).trans (trap_passes h (hop ▸ hp))
  · rw [trap_eq h hc, hp, hb]
    exact trap_passes h (hop ▸ hp)
  all_goals rw [brk_eq h]
  · rw [show (_ && _) = true by simpa [due, index] using hdue]
    exact orHold_holds hheld h.2.2.1 h.2.2.2
  · rw [show (_ && _) = true by simpa [due, index] using hdue]
    exact orHold_proceeds hheld hrel hwritten
  · rw [show (_ && _) = false by simpa [due, index] using hdue]
    rfl

/-! ### TIME, PCNT, MSTAT and SEED -/

section
variable {s : State} {o : SlotOp} (hquiet : SlotNotRecorded s)
include hquiet

theorem time_reads (h : CanFire s 0x6B o 4) :
    let k := resultToken s 0x6B o (s.replica (tileCluster s.curTile))
    exec (.timeOperator o) s = .next ((notesLost s 0x6B o (taken s 0x6B o 4).hold).put o [k] [k]) := by
  have hfired := Fired.taken s 0x6B o 4
  change execTimeOperator o s = _
  unfold execTimeOperator
  refine capturedOp_fires h (slotPorts_single o (by decide)) ?_ ?_
  · exact congrArg Option.isNone (captured_live (u := s.hold) hquiet ..)
  · have hreplica : (taken s 0x6B o 4).replica (tileCluster s.curTile) = s.replica (tileCluster s.curTile) :=
      (congrArg (State.replica · _) hfired.frame :)
    rw [← hreplica]
    exact captured_live (u := (taken s 0x6B o 4).hold) (hfired.notRecorded hquiet) ..

theorem pcnt_reads (h : CanFire s 0x6C o 4) :
    let k := resultToken s 0x6C o (tabGet s.curT.counters (o.ext.toNat % 16) 0)
    exec (.pcnt o) s = .next ((notesLost s 0x6C o (taken s 0x6C o 4)).put o [k] [k]) := by
  change execPcnt o s = _
  unfold execPcnt
  refine capturedOp_fires h (slotPorts_single o (by decide)) ?_ ?_
  · exact congrArg Option.isNone (captured_live hquiet ..)
  · simp only [State.counter, bits, pow_zero, Nat.div_one]
    exact captured_live ((Fired.taken ..).notRecorded hquiet) ..

theorem mstat_reads (h : CanFire s 0x55 o 4) :
    let k := resultToken s 0x55 o (s.curT.flags.toNat + s.curT.matrix.rows % 2 ^ 32 * 2 ^ 32)
    exec (.mstat o) s = .next ((notesLost s 0x55 o (taken s 0x55 o 4)).put o [k] [k]) := by
  have hfired := Fired.taken s 0x55 o 4
  change execMstat o s = _
  unfold execMstat
  refine capturedOp_fires h (slotPorts_single o (by decide)) ?_ ?_
  · exact congrArg Option.isNone (captured_live hquiet ..)
  · rw [← hfired.curT_launch]
    exact captured_live (hfired.notRecorded hquiet) ..

end

section
variable {s : State} {o : SlotOp} (h : CanFire s 0x6D o 4)
include h

theorem seed_fires (hp : (s.operand 0x6D o 0).psn = false) :
    exec (.seed o) s = .next (((taken s 0x6D o 4).keepsSeed ((s.operand 0x6D o 0).data.setWidth 32)).put o
      [Token.mk' 0 false] [Token.mk' 0 false]) := by
  change execSeed o s = _
  unfold execSeed
  exact fireRule_puts (base := 4) (p := false) (k0 := Token.mk' 0 false) (k1 := Token.mk' 0 false)
    (run := fun u => (u.keepsSeed ((s.operand 0x6D o 0).data.setWidth 32), [Token.mk' 0 false], [Token.mk' 0 false]))
    h (by rw [hp]; rfl) rfl rfl rfl (by simp [anyPoison, slotPorts_seed, hp])

theorem seed_faults (hp : (s.operand 0x6D o 0).psn = true) : exec (.seed o) s = s.slotFault .psnStore 0 0 := by
  change execSeed o s = _
  exact fireRule_faults rfl h rfl rfl (if_pos hp)

end

theorem readAndSeedSlots : ReadAndSeedSlots := by
  refine ⟨fun s i opc o h hfire hquiet => ?_, fun s o h hp => ?_, fun s o h hp => slotStops_of_eq (seed_faults h hp)⟩
  · have hnow : (taken s opc o 4).now = s.now := (congrArg State.now (Fired.taken s opc o 4).frame :)
    have hkept : { taken s opc o 4 with now := s.now } = taken s opc o 4 := by rw [← hnow]
    cases i with
    | timeOperator =>
      cases h
      exact ⟨_, _, time_reads hquiet hfire, fun _ => ⟨rfl, hkept⟩, nofun, nofun, hkept⟩
    | pcnt =>
      cases h
      exact ⟨_, _, pcnt_reads hquiet hfire, nofun, fun _ => ⟨rfl, rfl⟩, nofun, hkept⟩
    | mstat =>
      cases h
      exact ⟨_, _, mstat_reads hquiet hfire, nofun, nofun, fun _ => ⟨rfl, rfl⟩, hkept⟩
    | _ => cases h
  · have hfired := Fired.taken s 0x6D o 4
    have hnext : (taken s 0x6D o 4).curT.nextSeed = s.curT.nextSeed := by
      rw [State.curT, hfired.curTile]
      exact (congrArg Tile.nextSeed hfired.own :)
    refine ⟨_, seed_fires h hp, ?_, ?_, fun x hx => ?_, State.keepsSeed_frame ..⟩
    · rw [State.keepsSeed_curT, hnext, hfired.curSlot]
    · rw [State.keepsSeed_curT, ← hnext]
    · exact State.keepsSeed_tile_other _ _ (hfired.curTile ▸ hx)

/-- Settles O20: the gate open and closed, the holds and what they let through, and the reads and the seed. -/
theorem slotControlOperators : Obligations.SlotControlOperators := ⟨endOfStreamGate, trapAndBreakSlots, readAndSeedSlots⟩

end Sys2Proof.Claims

/-!
## Local memory operators and their requests (R98, R102, R204 to R209)

A local memory operator pays, takes and appends a request; a request performs by its opcode. `Performs` lists what performing can
do, one case for each kind of request, and each clause of the obligation is a case split over it.
-/

namespace Sys2Proof.Machine
open Sys2Proof Sys2Proof.Claims

/-! ### The firing of a local memory operator (R205, R209) -/

theorem Fired.takes {s u : State} {base : Nat} {fl : Flags} (h : Fired s base fl u) {ps : List Nat}
    (hps : ∀ p, p ∈ ps → p < 3) : Fired s base fl (ps.foldl (fun st p => st.take p) u) := by
  induction ps generalizing u with
  | nil => exact h
  | cons p r ih => exact ih (h.take (hps p List.mem_cons_self)) fun q hq => hps q (List.mem_cons_of_mem p hq)

theorem Fired.curT_reqs {s u : State} {base : Nat} {fl : Flags} (h : Fired s base fl u) : u.curT.reqs = s.curT.reqs := by
  rw [State.curT, h.curTile]
  exact (congrArg Tile.reqs h.own :)

/-- The request that a firing appends (R205). -/
def appended (s : State) (opc : Nat) (o : SlotOp) : MemReq :=
  { a := s.operand opc o 0, b := s.operand opc o 1, psn := anyPoison s opc o }

/-- The running slot's queue of requests is replaced. -/
def State.setReqs (s : State) (i : Nat) (q : List MemReq) : State :=
  s.setTile s.curTile { s.curT with reqs := tabPut s.curT.reqs i q }

theorem State.setReqs_curT (s : State) (i : Nat) (q : List MemReq) :
    (s.setReqs i q).curT = { s.curT with reqs := tabPut s.curT.reqs i q } := s.setTile_same ..

section
variable {s : State} {opc : Nat} {o : SlotOp} {c : Option Cause} (hlive : s.slotLive = true)
include hlive

section
variable (hdata : s.allData (slotPorts opc o) = true) (hpay : s.canPay 4 = true) (hlen : s.slotReqs.length < 4)
  (hroom : s.slotRoom o (s.slotReqs.length + 1) (s.slotReqs.length + 1) = true)
include hdata hpay hlen hroom

theorem memOp_fires (hclean : anyPoison s opc o = false ∨ c = none) : s.memOp opc o c =
    .next (((slotPorts opc o).foldl (fun st p => st.take p) (s.pay 4)).setReqs s.curSlot
      (s.slotReqs ++ [appended s opc o])) := by
  have hpsn : ((slotPorts opc o).find? (fun p => (s.operand opc o p).psn)).isSome = anyPoison s opc o := by
    rw [Bool.eq_iff_iff, List.find?_isSome, anyPoison, List.any_eq_true]
  simp only [State.memOp, hlive, hdata, hroom, hpay, Nat.not_le_of_lt hlen, appended, ← hpsn]
  cases hbad : (slotPorts opc o).find? (fun p => (s.operand opc o p).psn) with
  | none => rfl
  | some p =>
    have hnone : c = none := hclean.resolve_left (by rw [← hpsn, hbad]; exact Bool.noConfusion)
    subst hnone
    rfl

theorem memOp_faults {cause : Cause} {p : Nat} (hc : c = some cause)
    (hbad : (slotPorts opc o).find? (fun p => (s.operand opc o p).psn) = some p) :
    s.memOp opc o c = s.slotFault cause p 0 := by
  subst hc
  simp only [State.memOp, hlive, hdata, hroom, hpay, Nat.not_le_of_lt hlen, hbad]
  rfl

end

theorem memOp_ends (hdata : s.allData (slotPorts opc o) = false) (heos : s.allEos (slotPorts opc o) = true) :
    s.memOp opc o c = if s.slotReqs.isEmpty then s.endAction o (slotPorts opc o) {} else .next s := by
  simp [State.memOp, hlive, hdata, heos]

end

/-! ### Which request performs (R102, R142) -/

theorem extOwn_eq (e : Word32) : extOwn e = e.toNat / 2 ^ 26 := by
  simp only [extOwn, BitVec.extractLsb'_toNat, Nat.shiftRight_eq_div_pow]
  omega

theorem extPred_eq (e : Word32) : extPred e = e.toNat / 2 ^ 20 % 64 := by
  simp only [extPred, BitVec.extractLsb'_toNat, Nat.shiftRight_eq_div_pow]

theorem extSucc_eq (e : Word32) : extSucc e = e.toNat / 2 ^ 14 % 64 := by
  simp only [extSucc, BitVec.extractLsb'_toNat, Nat.shiftRight_eq_div_pow]

theorem extFe_eq (o : SlotOp) : (extFe o.ext == 2) = feTwo o := by
  simp only [extFe, feTwo, BitVec.extractLsb'_toNat, Nat.shiftRight_eq_div_pow]

theorem extOff_eq (o : SlotOp) : extOff o.ext = offsetOf o := by
  simp only [extOff, offsetOf, BitVec.extractLsb'_toNat, Nat.shiftRight_eq_div_pow, pow_zero, Nat.div_one]

theorem eligible_iff {last : Option (Nat × Nat)} {o : SlotOp} : eligible last o.ext = true ↔ FollowsLast last o := by
  unfold eligible FollowsLast
  cases last with
  | none => simp [extPred_eq]
  | some x => simp [extPred_eq, extOwn_eq]

theorem Tile.nextReq_eligible {v : Tile} {slot opc : Nat} {o : SlotOp} {r : MemReq} {rest : List MemReq}
    (h : v.nextReq = some (slot, opc, o, r, rest)) : eligible v.last o.ext = true := by
  obtain ⟨q, -, hq⟩ := List.exists_of_findSome?_eq_some h
  grind

/-! ### What performing does (R98, R206 to R208) -/

/-- Bytes of an element of a request. -/
def memWidth (o : SlotOp) : Nat := 2 ^ o.w.toNat

/-- An element as a result: with M[0] its sign fills the word (R204). -/
def extendedTo (o : SlotOp) (v : Nat) : Nat := if o.m.getLsbD 0 then wrapNat 64 (toSigned (8 * memWidth o) v) else v

/-- The low bits of a token that a request writes or compares. -/
def lowOf (o : SlotOp) (k : Token) : Nat := k.data.toNat % 2 ^ (8 * memWidth o)

/-- The state and the results of a request that performs in state `s`, by the kind of its opcode (R98, R206 to R208). -/
inductive Performs (s : State) (t : Nat) (o : SlotOp) (r : MemReq) : Nat → State → Nat → Nat → Prop
  | load : Performs s t o r 0x40 s (extendedTo o (memNat s.mem (scratchLoc t (offsetOf o)) (memWidth o)))
      (extendedTo o (memNat s.mem (scratchLoc t (offsetOf o)) (memWidth o)))
  | store : Performs s t o r 0x41 (s.storeNat (scratchLoc t (offsetOf o)) (memWidth o) (lowOf o r.a)) 0 0
  | loadFull (h : s.isFull t (offsetOf o / 16) = true) :
      Performs s t o r 0x42 (if feTwo o then s.setFull t (offsetOf o / 16) false else s)
        (extendedTo o (memNat s.mem (scratchLoc t (offsetOf o)) (memWidth o)))
        (extendedTo o (memNat s.mem (scratchLoc t (offsetOf o) + 8) (memWidth o)))
  | storeFull : Performs s t o r 0x43
      ((s.storeBytes (scratchLoc t (offsetOf o)) ([lowOf o r.a, lowOf o r.b].flatMap (leBytes 8))).setFull t (offsetOf o / 16)
        true) 0 0
  | empty : Performs s t o r 0x49 (s.setFull t (offsetOf o / 16) false) 0 0
  | atomic (opc : Nat) (hlo : 0x44 ≤ opc) (hhi : opc ≤ 0x48) : Performs s t o r opc
      (s.storeNat (scratchLoc t (offsetOf o)) (memWidth o) (atomicLeaves opc (8 * memWidth o) (o.m.getLsbD 0)
        (memNat s.mem (scratchLoc t (offsetOf o)) (memWidth o)) (lowOf o r.a) (lowOf o r.b)))
      (memNat s.mem (scratchLoc t (offsetOf o)) (memWidth o)) (memNat s.mem (scratchLoc t (offsetOf o)) (memWidth o))

theorem atomicNew_eq (opc n : Nat) (unsigned : Bool) (old a b : Nat) :
    atomicNew opc n unsigned old a b = atomicLeaves opc n unsigned old a b := rfl

/-- A request waits for its granule (R98). -/
def waitsFull (s : State) (t opc : Nat) (o : SlotOp) : Prop :=
  (opc = 0x42 ∧ s.isFull t (offsetOf o / 16) = false) ∨
    (opc = 0x43 ∧ feTwo o = true ∧ s.isFull t (offsetOf o / 16) = true)

section
variable {s : State} {t opc : Nat} {o : SlotOp} {r : MemReq}

theorem perform_waits (h : waitsFull s t opc o) : s.perform t opc o r = none := by
  obtain ⟨rfl, hfull⟩ | ⟨rfl, hfe, hfull⟩ := h
  · simp [State.perform, extOff_eq, hfull]
  · simp [State.perform, extOff_eq, extFe_eq, hfe, hfull]

theorem perform_performs (hlo : 0x40 ≤ opc) (hhi : opc ≤ 0x49) (h : ¬ waitsFull s t opc o) :
    ∃ u v0 v1, s.perform t opc o r = some (u, v0, v1) ∧ Performs s t o r opc u v0 v1 := by
  have hbits (k : Token) : bits k.data.toNat 0 (8 * 2 ^ o.w.toNat) = lowOf o k := by simp [bits, lowOf, memWidth]
  unfold State.perform
  simp only [hbits, extOff_eq, extFe_eq]
  split
  · exact ⟨_, _, _, rfl, .load⟩
  · exact ⟨_, _, _, rfl, .store⟩
  · have hfull : s.isFull t (offsetOf o / 16) = true := by simpa [waitsFull] using h
    rw [if_neg (by simp [hfull])]
    exact ⟨_, _, _, rfl, .loadFull hfull⟩
  · rw [if_neg (by simpa [waitsFull] using h)]
    exact ⟨_, _, _, rfl, .storeFull⟩
  · exact ⟨_, _, _, rfl, .empty⟩
  · next h0 h1 h2 h3 h9 =>
    have hother : opc ≠ 0x40 ∧ opc ≠ 0x41 ∧ opc ≠ 0x42 ∧ opc ≠ 0x43 ∧ opc ≠ 0x49 := ⟨h0, h1, h2, h3, h9⟩
    have hatomic : 0x44 ≤ opc ∧ opc ≤ 0x48 := by omega
    exact ⟨_, _, _, rfl, .atomic opc hatomic.1 hatomic.2⟩

end

/-! ### What a performed request leaves -/

theorem word_wrapNat (z : Int) : word (wrapNat 64 z) = BitVec.ofInt 64 z := by
  refine BitVec.eq_of_toNat_eq ?_
  simpa [word, wrapNat] using Int.emod_lt_of_pos z (by decide)

theorem memNat_lt (m : List Host.Cell) (l n : Nat) : memNat m l n < 2 ^ (8 * n) := by
  have h := leNat_lt (memBytes m l n)
  rwa [memBytes_length, show 256 = 2 ^ 8 from rfl, ← Nat.pow_mul] at h

theorem lowOf_lt (o : SlotOp) (k : Token) : lowOf o k < 2 ^ (8 * memWidth o) := Nat.mod_lt _ (Nat.two_pow_pos _)

theorem lowOf_lt_word (o : SlotOp) (k : Token) : lowOf o k < 2 ^ 64 := Nat.lt_of_le_of_lt (Nat.mod_le ..) k.data.isLt

theorem atomicLeaves_lt {opc n old a b : Nat} (unsigned : Bool) (hold : old < 2 ^ n) (ha : a < 2 ^ n) (hb : b < 2 ^ n) :
    atomicLeaves opc n unsigned old a b < 2 ^ n := by
  unfold atomicLeaves
  dsimp only
  split
  · exact Nat.mod_lt _ (Nat.two_pow_pos n)
  · exact iteInduction (motive := (· < 2 ^ n)) (fun _ => ha) fun _ => hold
  · exact iteInduction (motive := (· < 2 ^ n)) (fun _ => hold) fun _ => ha
  · exact iteInduction (motive := (· < 2 ^ n)) (fun _ => hb) fun _ => hold
  · exact ha

/-- A number stored in as many bytes as it needs reads back. -/
theorem storeNat_reads {s : State} (wf : Memory.wf s.mem = true) (l : Nat) {n v : Nat} (hv : v < 2 ^ (8 * n)) :
    memNat (s.storeNat l n v).mem l n = v := by
  refine (memNat_putNat s.mem l n v wf).trans (Nat.mod_eq_of_lt ?_)
  rwa [show 256 = 2 ^ 8 from rfl, ← Nat.pow_mul]

theorem storeNat_outside {s : State} (wf : Memory.wf s.mem = true) {l n x : Nat} (v : Nat) (hx : x < l ∨ l + n ≤ x) :
    memRead (s.storeNat l n v).mem x = memRead s.mem x :=
  memRead_put_outside _ s.mem l x wf (by rwa [leBytes_length])

/-- A state with another one's memory, poison and full-empty bits: all that a request changes before it leaves its queue. -/
def State.withGranulesOf (u s : State) : State := { u with mem := s.mem, poison := s.poison, full := s.full }

theorem State.storeBytes_mem (s : State) (l : Nat) (bs : List Byte) : (s.storeBytes l bs).mem = memPut s.mem l bs := rfl

theorem State.storeBytes_withGranulesOf (u s : State) (l : Nat) (bs : List Byte) :
    (u.storeBytes l bs).withGranulesOf s = u.withGranulesOf s := rfl

theorem State.setFull_withGranulesOf (u s : State) (t g : Nat) (v : Bool) :
    (u.setFull t g v).withGranulesOf s = u.withGranulesOf s := rfl

theorem State.setFull_isFull (s : State) (t g : Nat) (v : Bool) : (s.setFull t g v).isFull t g = v := by
  cases v <;> simp [State.setFull, State.isFull]

theorem State.mem_setFull_other (s : State) (t g : Nat) (v : Bool) {k : Nat} (h : k ≠ t * 1536 + g) :
    k ∈ (s.setFull t g v).full ↔ k ∈ s.full := by
  cases v <;> simp [State.setFull, h]

section
variable {s u : State} {t opc v0 v1 : Nat} {o : SlotOp} {r : MemReq} (h : Performs s t o r opc u v0 v1)
include h

theorem Performs.frame : u.withGranulesOf s = s := by
  cases h with
  | load => rfl
  | store | atomic => exact State.storeBytes_withGranulesOf ..
  | loadFull => split <;> rfl
  | storeFull => exact (State.setFull_withGranulesOf ..).trans (State.storeBytes_withGranulesOf ..)
  | empty => exact State.setFull_withGranulesOf ..

theorem Performs.results :
    (opc = 0x40 ∨ opc = 0x42 → v0 = extendedTo o (memNat s.mem (scratchLoc t (offsetOf o)) (memWidth o))) ∧
    (opc = 0x40 → v1 = v0) ∧
    (opc = 0x42 → v1 = extendedTo o (memNat s.mem (scratchLoc t (offsetOf o) + 8) (memWidth o))) ∧
    (opc = 0x41 ∨ opc = 0x43 ∨ opc = 0x49 → v0 = 0 ∧ v1 = 0) ∧
    (0x44 ≤ opc → opc ≤ 0x48 → v0 = memNat s.mem (scratchLoc t (offsetOf o)) (memWidth o) ∧ v1 = v0) := by
  cases h with
  | atomic => grind
  | _ => simp

theorem Performs.kept (hopc : opc = 0x40 ∨ opc = 0x42 ∨ opc = 0x49) : u.mem = s.mem := by
  cases h with
  | load | empty => rfl
  | loadFull => split <;> rfl
  | atomic => omega
  | store | storeFull => simp at hopc

theorem Performs.outside (wf : Memory.wf s.mem = true) {x : Nat}
    (hx : x < scratchLoc t (offsetOf o) ∨ scratchLoc t (offsetOf o) + (if opc = 0x43 then 16 else memWidth o) ≤ x) :
    memRead u.mem x = memRead s.mem x := by
  cases h with
  | load => rfl
  | store => exact storeNat_outside wf _ hx
  | loadFull => split <;> rfl
  | storeFull => exact memRead_put_outside _ s.mem _ x wf (by simpa using hx)
  | empty => rfl
  | atomic hlo hhi =>
    rw [if_neg (by omega)] at hx
    exact storeNat_outside wf _ hx

theorem Performs.leaves (wf : Memory.wf s.mem = true) :
    (opc = 0x41 → memNat u.mem (scratchLoc t (offsetOf o)) (memWidth o) = lowOf o r.a) ∧
    (opc = 0x43 → memNat u.mem (scratchLoc t (offsetOf o)) 8 = lowOf o r.a ∧
      memNat u.mem (scratchLoc t (offsetOf o) + 8) 8 = lowOf o r.b) ∧
    (0x44 ≤ opc → opc ≤ 0x48 → memNat u.mem (scratchLoc t (offsetOf o)) (memWidth o) =
      atomicLeaves opc (8 * memWidth o) (o.m.getLsbD 0) (memNat s.mem (scratchLoc t (offsetOf o)) (memWidth o))
        (lowOf o r.a) (lowOf o r.b)) := by
  cases h with
  | store => exact ⟨fun _ => storeNat_reads wf _ (lowOf_lt ..), nofun, by omega⟩
  | storeFull =>
    rw [State.setFull_mem, State.storeBytes_mem]
    refine ⟨nofun, fun _ => ⟨?_, ?_⟩, by omega⟩
    · exact (memNat_put_words wf _ [lowOf o r.a, lowOf o r.b] 0 (by simp)).trans (Nat.mod_eq_of_lt (lowOf_lt_word ..))
    · exact (memNat_put_words wf _ [lowOf o r.a, lowOf o r.b] 1 (by simp)).trans (Nat.mod_eq_of_lt (lowOf_lt_word ..))
  | atomic hlo hhi =>
    refine ⟨by omega, by omega, fun _ _ => storeNat_reads wf _ ?_⟩
    exact atomicLeaves_lt _ (memNat_lt ..) (lowOf_lt ..) (lowOf_lt ..)
  | load | loadFull | empty => exact ⟨nofun, nofun, by omega⟩

theorem Performs.granule : u.isFull t (offsetOf o / 16) =
    (if opc = 0x43 then true else if opc = 0x49 then false
      else if opc = 0x42 ∧ feTwo o = true then false else s.isFull t (offsetOf o / 16)) := by
  cases h with
  | load | store => rfl
  | loadFull => cases feTwo o <;> simp [State.setFull_isFull]
  | storeFull | empty => exact State.setFull_isFull ..
  | atomic hlo hhi =>
    rw [if_neg (by omega), if_neg (by omega), if_neg (by omega)]
    rfl

theorem Performs.granule_other {k : Nat} (hk : k ≠ t * 1536 + offsetOf o / 16) : k ∈ u.full ↔ k ∈ s.full := by
  cases h with
  | load | store | atomic => rfl
  | loadFull =>
    split
    · exact s.mem_setFull_other _ _ _ hk
    · rfl
  | storeFull | empty => exact State.mem_setFull_other _ _ _ _ hk

end

/-! ### A request leaves its queue (R102, R205) -/

/-- The state in which a tile's interface performs a request of a slot (R204). -/
def State.atSlot (s : State) (tile slot : Nat) : State := { s with curTile := tile, curSlot := slot }

/-- A tile from whose queue of a slot a request of operator `o` has gone: the last one that it has performed (R102, R205). -/
def Tile.performed (v : Tile) (slot : Nat) (o : SlotOp) (rest : List MemReq) : Tile :=
  { v with reqs := tabPut v.reqs slot rest,
           last := if o.ext.toNat / 2 ^ 14 % 64 = 62 then none
             else some (o.ext.toNat / 2 ^ 14 % 64, o.ext.toNat / 2 ^ 26) }

/-- A request that has performed leaves its queue, and poison that no target takes sets PSEEN. -/
def leftQueue (u : State) (tile : Nat) (v : Tile) (lost : Bool) : State :=
  if lost then (u.setTile tile v).orFlags 0x40 else u.setTile tile v

section
variable (u : State) (tile : Nat) (v : Tile) (lost : Bool)

theorem leftQueue_frame : { leftQueue u tile v lost with tiles := u.tiles } = u := by
  cases lost <;> rfl

theorem leftQueue_tile (hcur : u.curTile = tile) :
    ((leftQueue u tile v lost).tile tile).reqs = v.reqs ∧ ((leftQueue u tile v lost).tile tile).last = v.last := by
  cases lost with
  | false =>
    rw [leftQueue, if_neg Bool.false_ne_true, State.setTile_same]
    exact ⟨rfl, rfl⟩
  | true =>
    have hown : (u.setTile tile v).curT = v := by
      rw [State.curT, State.setTile_curTile, hcur, State.setTile_same]
    rw [leftQueue, if_pos rfl, State.orFlags, State.setTile_curTile, hcur, State.setTile_same, hown]
    exact ⟨rfl, rfl⟩

end

theorem exec_performs {s u : State} {tile slot opc v0 v1 : Nat} {o : SlotOp} {r : MemReq} {rest : List MemReq}
    (hrun : (s.tileLaunch tile).isSome = true) (hnext : (s.tile tile).nextReq = some (slot, opc, o, r, rest))
    (hperform : (s.atSlot tile slot).perform tile opc o r = some (u, v0, v1)) :
    exec (.localMemoryRequestPerform tile) s =
      .next ((leftQueue u tile ((s.tile tile).performed slot o rest) (r.psn && o.mute)).put o
        [Token.mk' (word v0) r.psn] [Token.mk' (word v1) r.psn]) := by
  change execLocalMemoryRequestPerform tile s = _
  unfold execLocalMemoryRequestPerform
  rw [State.atSlot] at hperform
  simp only [Option.isNone_eq_false_iff.mpr hrun, hnext, hperform, extSucc_eq, extOwn_eq]
  rfl

theorem exec_performWaits {s : State} {tile slot opc : Nat} {o : SlotOp} {r : MemReq} {rest : List MemReq}
    (hnext : (s.tile tile).nextReq = some (slot, opc, o, r, rest))
    (hperform : (s.atSlot tile slot).perform tile opc o r = none) :
    exec (.localMemoryRequestPerform tile) s = .next s := by
  change execLocalMemoryRequestPerform tile s = _
  unfold execLocalMemoryRequestPerform
  rw [State.atSlot] at hperform
  simp only [hnext, hperform, ite_self]

theorem word_extendedTo (o : SlotOp) (v : Nat) : word (extendedTo o v) =
    if o.m.getLsbD 0 then BitVec.ofInt 64 (toSigned (8 * memWidth o) v) else BitVec.ofNat 64 v := by
  unfold extendedTo
  split
  · exact word_wrapNat _
  · rfl

end Sys2Proof.Machine

namespace Sys2Proof.Claims
open Sys2Proof Sys2Proof.Machine

theorem memoryOperatorFirings : MemoryOperatorFirings := by
  intro i s opc o c h hlive hdata hpay q hlen hroom
  have hexec := exec_memoryForm h s
  have hports (p : Nat) (hp : p ∈ slotPorts opc o) : p < 3 := slotPorts_lt hp
  have hfired : Fired s 4 0 ((slotPorts opc o).foldl (fun st p => st.take p) (s.pay 4)) := (Fired.pay s 4).takes hports
  refine ⟨fun hclean => ⟨_, _, hexec.trans (memOp_fires hlive hdata hpay hlen hroom hclean), rfl, ?_, ?_, fun x hx => ?_⟩,
    fun cause p hc hbad => ?_⟩
  · rw [State.setReqs_curT]
    exact tabGet_put_same ..
  · rw [State.setReqs_curT, ← hfired.curTile]
    rfl
  · rw [State.setReqs_curT, ← hfired.curT_reqs]
    exact tabGet_put_other _ _ _ _ _ hx
  · obtain ⟨t, ht, hstops⟩ := slotStops_of_eq (hexec.trans (memOp_faults hlive hdata hpay hlen hroom hc hbad))
    obtain ⟨-, -, -, hframe⟩ := id hstops
    exact ⟨t, ht, hstops, (congrArg State.arcs hframe :)⟩

theorem memoryOperatorEnd : MemoryOperatorEnd := by
  rintro i s opc o c h ⟨hlive, hdata, heos, hroom⟩
  rw [exec_memoryForm h, memOp_ends hlive hdata heos]
  refine ⟨fun hq => ?_, fun hq => ?_⟩
  · rw [if_pos (by rw [State.slotReqs, hq]; rfl), endAction_plain opc hroom]
  · rw [if_neg (by rwa [List.isEmpty_iff])]

theorem memoryRequestsPerform : MemoryRequestsPerform := by
  intro s tile slot opc o r rest hrun hnext hlo hhi wf w n loc g a b ext old waits
  refine ⟨eligible_iff.mp (Tile.nextReq_eligible hnext), fun hwaits =>
    exec_performWaits hnext (perform_waits (s := s.atSlot tile slot) hwaits), fun hgo => ?_⟩
  obtain ⟨u, v0, v1, hperform, h⟩ := perform_performs (s := s.atSlot tile slot) (r := r) hlo hhi hgo
  have hframe := leftQueue_frame u tile ((s.tile tile).performed slot o rest) (r.psn && o.mute)
  have hleft := (congrArg (State.withGranulesOf · (s.atSlot tile slot)) hframe).trans h.frame
  have hcur : u.curTile = tile := (congrArg State.curTile h.frame :)
  obtain ⟨hfirst, hsame, hsecond, hnone, hatomic⟩ := h.results
  obtain ⟨hstore, hpair, hnew⟩ := h.leaves wf
  obtain ⟨hreqs, hlast⟩ := leftQueue_tile u tile ((s.tile tile).performed slot o rest) (r.psn && o.mute) hcur
  have hmem : (leftQueue u tile ((s.tile tile).performed slot o rest) (r.psn && o.mute)).mem = u.mem :=
    (congrArg State.mem hframe :)
  have hfull : (leftQueue u tile ((s.tile tile).performed slot o rest) (r.psn && o.mute)).full = u.full :=
    (congrArg State.full hframe :)
  refine ⟨_, _, _, exec_performs hrun hnext hperform, fun ho => ?_, fun ho => congrArg word (hsame ho), fun ho => ?_,
    fun ho => ?_, fun hl hh => ?_, ?_⟩
  · rw [hfirst ho]
    exact word_extendedTo ..
  · rw [hsecond ho]
    exact word_extendedTo ..
  · obtain ⟨rfl, rfl⟩ := hnone ho
    exact ⟨rfl, rfl⟩
  · obtain ⟨rfl, rfl⟩ := hatomic hl hh
    exact ⟨rfl, rfl⟩
  rw [hmem, State.isFull, hfull]
  exact ⟨hstore, hpair, hnew, fun x hx => h.outside wf hx, h.kept, h.granule, fun k hk => h.granule_other hk, hreqs, hlast,
    (congrArg State.seqs hleft :), (congrArg State.arcs hleft :), (congrArg State.curTile hleft :),
    (congrArg State.curSlot hleft :)⟩

/-- Settles O19: a firing appends its request or faults, the end waits for the queue, and each kind of request performs. -/
theorem slotMemoryOperators : Obligations.SlotMemoryOperators :=
  ⟨memoryOperatorFirings, memoryOperatorEnd, memoryRequestsPerform⟩

end Sys2Proof.Claims

/-!
## Matrix and control slots, wide rows, tokens and swaps complete (R213 to R215, R227, R231, R342, R442 to R444)

What a control slot puts leaves its own state, so its effect can be read off the firing. A swap passes through steps that change
only arcs, or only shadows and messages: each has a frame, and a fold over tiles or contexts keeps it.
-/

namespace Sys2Proof.Machine
open Sys2Proof Sys2Proof.Claims

/-! ### The slot's state through a firing -/

theorem State.slotSt_congr {s u : State} (htile : u.curTile = s.curTile) (hslot : u.curSlot = s.curSlot)
    (hslots : (u.tile s.curTile).slots = (s.tile s.curTile).slots) : u.slotSt = s.slotSt := by
  simp only [State.slotSt, State.curT, Tile.slotSt, htile, hslot, hslots]

theorem State.send_slotSt (s : State) (src t g : Nat) (k : Token) : (s.send src t g k).slotSt = s.slotSt := by
  have h := s.send_placed src t g k
  exact State.slotSt_congr (congrArg State.curTile h.tokensOnly :) (congrArg State.curSlot h.tokensOnly :)
    (congrArg Tile.slots (h.tile s.curTile) :)

theorem State.sendAll_slotSt (s : State) (src t g : Nat) (ks : List Token) : (s.sendAll src t g ks).slotSt = s.slotSt :=
  List.foldlRecOn (motive := fun u : State => u.slotSt = s.slotSt) ks _ rfl fun u hu k _ => (u.send_slotSt src t g k).trans hu

@[simp] theorem State.put_slotSt (s : State) (o : SlotOp) (k0 k1 : List Token) : (s.put o k0 k1).slotSt = s.slotSt :=
  (State.sendAll_slotSt ..).trans (State.sendAll_slotSt ..)

@[simp] theorem State.pay_slotSt (s : State) (base : Nat) : (s.pay base).slotSt = s.slotSt := by
  refine State.slotSt_congr rfl rfl ?_
  rw [State.pay, State.bumpCounter, State.setTile_same, State.setTile_same]
  rfl

@[simp] theorem notesLost_slotSt (s : State) (opc : Nat) (o : SlotOp) (u : State) : (notesLost s opc o u).slotSt = u.slotSt := by
  unfold notesLost
  split
  · exact u.orFlags_slotSt _
  · rfl

@[simp] theorem withSlot_slotSt (u : State) (f : SlotState → SlotState) : (withSlot u f).slotSt = f u.slotSt :=
  State.setSlotSt_slotSt ..

theorem SlotState.setResident_count (v : SlotState) (p : Nat) (r : Option (Token × Nat)) :
    (v.setResident p r).count = v.count := by
  unfold SlotState.setResident
  split <;> rfl

theorem State.takePort_count (s : State) (opc : Nat) (o : SlotOp) (p : Nat) :
    (s.takePort opc o p).slotSt.count = s.slotSt.count := by
  unfold State.takePort
  split
  · rw [State.setSlotSt_slotSt, SlotState.setResident_count]
  · split
    · rfl
    · dsimp only
      split
      · rfl
      · rw [State.setSlotSt_slotSt, SlotState.setResident_count]
        rfl

theorem taken_count (s : State) (opc : Nat) (o : SlotOp) (base : Nat) : (taken s opc o base).slotSt.count = s.slotSt.count :=
  List.foldlRecOn (motive := fun u : State => u.slotSt.count = s.slotSt.count) (slotPorts opc o) _
    (congrArg SlotState.count (s.pay_slotSt base)) fun u hu p _ => (u.takePort_count opc o p).trans hu

/-- A slot that has passed its token has counted it and holds no longer. -/
theorem passes_slotSt (s : State) (opc : Nat) (o : SlotOp) :
    (passes s opc o).slotSt.count = s.slotSt.count + 1 ∧ (passes s opc o).slotSt.held = false := by
  rw [passes, State.put_slotSt, notesLost_slotSt, withSlot_slotSt]
  exact ⟨congrArg (· + 1) (taken_count s opc o 4), rfl⟩

/-! ### Rows (R226, R227, R231) -/

theorem State.setMatrix_same (s : State) (t : Nat) (m : Matrix) : ((s.setMatrix t m).tile t).matrix = m := by
  rw [State.setMatrix, State.setTile_same]

theorem State.setMatrix_other (s : State) {t x : Nat} (m : Matrix) (h : x ≠ t) :
    ((s.setMatrix t m).tile x).matrix = (s.tile x).matrix := by
  rw [State.setMatrix, State.setTile_other _ _ _ _ h]

/-- A matrix with another one's rows at its north input and its south output. -/
def Matrix.withLinksOf (m x : Matrix) : Matrix := { m with north := x.north, south := x.south }

/-- A partial row that goes south changes nothing but what the wide ports hold. -/
theorem State.putSouth_matrix (s : State) (t x : Nat) (r : PartialRow) :
    (((s.putSouth t r).tile x).matrix).withLinksOf (s.tile x).matrix = (s.tile x).matrix := by
  have h (u : Nat) (m : Matrix) (hm : m.withLinksOf (s.tile u).matrix = (s.tile u).matrix) :
      (((s.setMatrix u m).tile x).matrix).withLinksOf (s.tile x).matrix = (s.tile x).matrix := by
    by_cases hx : x = u
    · subst hx
      rw [State.setMatrix_same, hm]
    · rw [s.setMatrix_other m hx]
      rfl
  unfold State.putSouth
  split
  · exact h _ _ rfl
  · exact h _ _ rfl

theorem State.putSouth_curTile (s : State) (t : Nat) (r : PartialRow) : (s.putSouth t r).curTile = s.curTile := by
  unfold State.putSouth
  split <;> rfl

/-- The running tile's matrix after a partial row has gone south from it. -/
theorem State.setMx_putSouth (s : State) (m : Matrix) (r : PartialRow) :
    (((s.setMx m).putSouth s.curTile r).curT.matrix).withLinksOf m = m := by
  have h := (s.setMx m).putSouth_matrix s.curTile s.curTile r
  rw [State.setMx, State.setMatrix_same] at h
  rw [State.curT, State.putSouth_curTile]
  exact h

/-- The conditions under which a complete row fires without a partial row to add (R231). -/
structure RowFires (s : State) (opc : Nat) (o : SlotOp) (g : ScaleGroup) (rest : List ScaleGroup) : Prop where
  live : s.slotLive = true
  out : s.mx.outBuf = []
  ending : s.mx.ending ≠ 1
  gate : extGate o.ext = false
  psrc : extPsrc o.ext = 0
  eos : s.mx.row.eos = false
  fired : s.mx.row.fired = false
  full : s.mx.row.transfers.length = rowNeed opc o
  group : s.rowGroup o = some (g, rest)
  hold : s.weightHold = false
  pay : s.canPay (rowCost opc o) = true
  room : extPdst o.ext = false → ((s.southLink s.curTile).filter Option.isSome).length < 2

theorem exec_rowForm {i : Instr} {opc : Nat} {o : SlotOp} (h : rowForm i = some (opc, o)) (s : State) :
    exec i s = s.rowOp opc o := by
  cases i with
  | mrow | mrows => cases h; dsimp only [exec]; rfl
  | _ => cases h

section
variable {s : State} {opc : Nat} {o : SlotOp} {g : ScaleGroup} {rest : List ScaleGroup} (h : RowFires s opc o g rest)
include h

theorem RowFires.rowOp : s.rowOp opc o = s.rowFiring opc o := by
  have hrest : s.rowRest opc o = s.rowFiring opc o := by
    simp [State.rowRest, h.eos, h.fired, h.full, Matrix.rowReady, State.rowMismatch, h.gate, h.psrc]
  unfold State.rowOp
  simp only [h.live, h.out, h.ending, h.gate, h.psrc, hrest]
  cases s.head 1 <;> simp

/-- The matrix state that a row firing leaves before its sums go out. -/
def firedMatrix (m : Matrix) (o : SlotOp) (g : ScaleGroup) (rest : List ScaleGroup) : Matrix :=
  { m with row := if extAfwd o.ext then { m.row with fired := true, group := some g } else RowBuf.empty,
           groups := rest, rows := m.rows + 1 }

/-- What the row gives: its sums, and their flags. -/
def State.rowSums (s : State) (opc : Nat) (o : SlotOp) (g : ScaleGroup) : List (BitVec 32 × Bool) × Flags :=
  s.rowFire s.curTile opc o s.mx.row g []

theorem RowFires.fires_out (hp : extPdst o.ext = true) : s.rowFiring opc o =
    .next (((s.pay (rowCost opc o)).orFlags (s.rowSums opc o g).2).setMx
      { firedMatrix s.mx o g rest with outBuf := rowTokens (s.rowSums opc o g).1 }) := by
  have hout : s.mx.outBuf.isEmpty = true := by rw [h.out]; rfl
  simp only [State.rowFiring, h.psrc, h.group, h.hold, h.gate, h.pay, hp, hout]
  rfl

theorem RowFires.fires_south (hp : extPdst o.ext = false) : s.rowFiring opc o =
    .next ((((s.pay (rowCost opc o)).orFlags (s.rowSums opc o g).2).setMx (firedMatrix s.mx o g rest)).putSouth s.curTile
      (some (s.rowSums opc o g).1)) := by
  have hroom : decide (((s.southLink s.curTile).filter Option.isSome).length < 2) = true := decide_eq_true (h.room hp)
  simp only [State.rowFiring, h.psrc, h.group, h.hold, h.gate, h.pay, hp, hroom]
  rfl

theorem RowFires.fires : ∃ t, s.rowFiring opc o = .next t ∧ t.curT.matrix.rows = s.mx.rows + 1 ∧
    t.curT.matrix.groups = rest ∧
    t.curT.matrix.row = if extAfwd o.ext then { s.mx.row with fired := true, group := some g } else RowBuf.empty := by
  cases hp : extPdst o.ext with
  | true =>
    refine ⟨_, h.fires_out hp, ?_⟩
    rw [State.setMx, State.curT, State.setMatrix, State.setTile_curTile, State.setTile_same]
    exact ⟨rfl, rfl, rfl⟩
  | false =>
    refine ⟨_, h.fires_south hp, ?_⟩
    have hsouth := ((s.pay (rowCost opc o)).orFlags (s.rowSums opc o g).2).setMx_putSouth (firedMatrix s.mx o g rest)
      (some (s.rowSums opc o g).1)
    exact ⟨(congrArg Matrix.rows hsouth :), (congrArg Matrix.groups hsouth :), (congrArg Matrix.row hsouth :)⟩

end

/-- A read stream's transfer enters a row buffer that has room (R227). -/
theorem exec_rowArrival {s : State} {x j opc : Nat} {o : SlotOp} {v : BitVec 1024 × Bool}
    {rest : List (Option (BitVec 1024 × Bool))} (hslot : (s.tile x).plane.matrixSlot = some (j, opc, o))
    (hrun : (s.tileLaunch x).isSome = true) (hsrc : extPsrc o.ext ≠ 1) (hwide : (s.tile x).matrix.wide = some v :: rest)
    (heos : (s.tile x).matrix.row.eos = false) (hfired : (s.tile x).matrix.row.fired = false)
    (hlen : (s.tile x).matrix.row.transfers.length < rowNeed opc o) :
    let m := (s.tile x).matrix
    exec (.rowArrival x) s = .next (s.setMatrix x
      { m with row := { m.row with transfers := m.row.transfers ++ [v.1], psn := m.row.psn || v.2 }, wide := rest }) := by
  change execRowArrival x s = _
  simp [execRowArrival, hslot, Option.isNone_eq_false_iff.mpr hrun, hsrc, hwide, heos, hfired, hlen]

/-- A fired row goes to the empty buffer of the down-chain tile (R226). -/
theorem exec_rowForward {s : State} {x u : Nat} (hdown : s.inRegion x (downChain x) = some u)
    (hrun : (s.tileLaunch x).isSome = true) (hfired : (s.tile x).matrix.row.fired = true)
    (hempty : (s.tile u).matrix.row.transfers = []) (heos : (s.tile u).matrix.row.eos = false) :
    exec (.rowForward x) s = .next ((s.setMatrix x { (s.tile x).matrix with row := RowBuf.empty }).setMatrix u
      { (s.tile u).matrix with row := { (s.tile x).matrix.row with fired := false } }) := by
  change execRowForward x s = _
  simp [execRowForward, hdown, Option.isNone_eq_false_iff.mpr hrun, hfired, hempty, heos]

/-! ### The token (R442, R443) -/

theorem State.setPassed_fold (s : State) (g : List Nat) (y : Nat) :
    ((g.foldl (fun st t => st.setTile t { st.tile t with passed := true }) s).tile y).passed =
      ((s.tile y).passed || g.contains y) := by
  induction g generalizing s with
  | nil => simp
  | cons x r ih =>
    rw [List.foldl_cons, ih]
    by_cases hy : y = x
    · subst hy
      simp
    · simp [s.setTile_other _ _ _ hy, hy]

theorem exec_tokenPass {s : State} {x k : Nat} {l : Launch} {g : List Nat} (hk : (s.tile x).launch = some k)
    (hl : s.launch k = some l) (hg : s.passGroup k l x = some g) (hclean : ∀ y, y ∈ g → s.strayAt y = none) :
    exec (.tokenPass x) s = .next (g.foldl (fun st t => st.setTile t { st.tile t with passed := true }) s) := by
  have hbad : g.filterMap (fun t => (s.strayAt t).map (fun x => (t, x))) = [] :=
    List.filterMap_eq_nil_iff.mpr fun y hy => by rw [hclean y hy]; rfl
  change execTokenPass x s = _
  simp only [execTokenPass, hk, hl, hg, hbad]
  rfl

/-! ### Steps that change arcs alone (R90, R103) -/

/-- Between the states only arcs have changed. -/
def ArcsOnly (s u : State) : Prop := { u with arcs := s.arcs } = s

namespace ArcsOnly
variable {s u : State} (h : ArcsOnly s u)

theorem refl (s : State) : ArcsOnly s s := rfl

include h

theorem setArcAt (t g : Nat) (a : Arc) : ArcsOnly s (u.setArcAt t g a) := h

theorem withArcs (as : List (Nat × Arc)) : ArcsOnly s { u with arcs := as } := h

theorem fold {α : Type} {f : State → α → State} (hf : ∀ v x, ArcsOnly s v → ArcsOnly s (f v x)) (l : List α) :
    ArcsOnly s (l.foldl f u) :=
  List.foldlRecOn l f h fun v hv x _ => hf v x hv

theorem wireTile (t : Nat) : ArcsOnly s (u.wireTile t) := by
  unfold State.wireTile
  have hput (v : State) (key y g : Nat) (hv : ArcsOnly s v) : ArcsOnly s (if g = noTarget then v
      else v.setArcAt y g { v.arcAt y g with key := key, crossing := decide (tileDie y ≠ tileDie t) }) := by
    split
    · exact hv
    · exact hv.setArcAt ..
  refine fold (fold h (fun v i hv => ?_) _) (fun v q hv => ?_) _
  · split
    · exact hv
    · exact hput _ _ _ _ (hput _ _ _ _ hv)
  · split
    · exact hv
    · split
      · exact hv
      · exact hput _ _ _ _ (hput _ _ _ _ hv)

theorem wireStream (pc v : Nat) : ArcsOnly s (u.wireStream pc v) := by
  unfold State.wireStream
  split
  · exact h
  · dsimp only
    split
    · exact h
    · exact h

theorem tile (x : Nat) : u.tile x = s.tile x := (congrArg (·.tile x) h :)

theorem launch (k : Nat) : u.launch k = s.launch k := (congrArg (·.launch k) h :)

end ArcsOnly

/-! ### Residency (R443) -/

/-- What a tile that has swapped holds resident. -/
theorem State.swapTile_plane (s : State) (t : Nat) : ((s.swapTile t).tile t).plane = (s.tile t).shadow.getD Plane.empty := by
  rw [State.swapTile]
  rw [State.setTile_same]

theorem State.swapTile_other (s : State) {t x : Nat} (h : x ≠ t) : (s.swapTile t).tile x = s.tile x := by
  rw [State.swapTile]
  rw [State.setTile_other _ _ _ _ h]
  split <;> rfl

theorem State.swapTile_launches (s : State) (t : Nat) : (s.swapTile t).launches = s.launches := by
  rw [State.swapTile]
  split <;> rfl

theorem State.swapTiles_other (s : State) {l : List Nat} {x : Nat} (h : x ∉ l) : (l.foldl State.swapTile s).tile x = s.tile x :=
  List.foldlRecOn (motive := fun u : State => u.tile x = s.tile x) l _ rfl fun u hu t ht =>
    (u.swapTile_other (fun (hx : x = t) => h (hx ▸ ht))).trans hu

theorem State.swapTiles_plane (s : State) {l : List Nat} (hl : l.Nodup) {x : Nat} (hx : x ∈ l) :
    ((l.foldl State.swapTile s).tile x).plane = (s.tile x).shadow.getD Plane.empty := by
  induction l generalizing s with
  | nil => cases hx
  | cons t r ih =>
    obtain ⟨ht, hr⟩ := List.nodup_cons.mp hl
    rw [List.foldl_cons]
    rcases List.mem_cons.mp hx with rfl | hx
    · rw [State.swapTiles_other _ ht, State.swapTile_plane]
    · rw [ih _ hr hx, State.swapTile_other]
      exact fun hxt => ht (hxt ▸ hx)

theorem State.swapTiles_launches (s : State) (l : List Nat) : (l.foldl State.swapTile s).launches = s.launches :=
  List.foldlRecOn (motive := fun u : State => u.launches = s.launches) l _ rfl fun u hu t _ => (u.swapTile_launches t).trans hu

/-- A launch whose shadow planes have become resident (R443). -/
def Launch.resident (l : Launch) (pages : List (Nat × Nat)) : Launch :=
  { l with cfg := l.cfg + 1, shadow := .none, shPost := none, shPosted := false, spillPages := pages }

/-- The port contexts that begin to issue change no tile and no launch. -/
theorem State.wireContexts_frame (s : State) (ws : List (Nat × PCtx)) :
    let u := ws.foldl (fun st p => (st.setPctx p.1 { p.2 with st := .running }).wireStream p.1 p.2.spec.toNat) s
    u.tiles = s.tiles ∧ u.launches = s.launches := by
  refine List.foldlRecOn (motive := fun u : State => u.tiles = s.tiles ∧ u.launches = s.launches) ws _ ⟨rfl, rfl⟩
    fun u hu p _ => ?_
  have h := (ArcsOnly.refl (u.setPctx p.1 { p.2 with st := .running })).wireStream p.1 p.2.spec.toNat
  exact ⟨(congrArg State.tiles h :).trans hu.1, (congrArg State.launches h :).trans hu.2⟩

/-- The shadow planes of a launch's tiles become resident, and its configuration is the next one. -/
theorem State.makeResident_leaves {s : State} {k : Nat} {l : Launch} (hl : s.launch k = some l) (hnodup : l.tiles.Nodup) :
    (∀ x, x ∈ l.tiles → ((s.makeResident k).tile x).plane = (s.tile x).shadow.getD Plane.empty) ∧
      (s.makeResident k).launch k = some (l.resident (s.ringPages l)) := by
  have harcs : ArcsOnly (l.tiles.foldl State.swapTile s)
      ((s.spillRings l).foldl (fun st r => st.setArcAt r.1 r.2.1 { st.arcAt r.1 r.2.1 with ring := some r.2.2 })
        (l.tiles.foldl State.wireTile { l.tiles.foldl State.swapTile s with
          arcs := (l.tiles.foldl State.swapTile s).arcs.filter (fun a => !l.covers (a.1 / 512)) })) :=
    (((ArcsOnly.refl (l.tiles.foldl State.swapTile s)).withArcs _).fold (fun v t hv => hv.wireTile t) l.tiles).fold
      (fun _ _ hv => hv.setArcAt ..) _
  simp only [State.makeResident, hl]
  refine ⟨fun x hx => ?_, ?_⟩
  · rw [State.tile, (State.wireContexts_frame _ _).1]
    exact (congrArg Tile.plane (harcs.tile x)).trans (s.swapTiles_plane hnodup hx)
  · rw [State.launch, (State.wireContexts_frame _ _).2]
    exact State.setLaunch_same ..

/-! ### Messages of a swap (R343) -/

theorem Launch.live_of_runs {l : Launch} (h : l.runs = true) : l.live = true := by
  unfold Launch.live Launch.runs at *
  rw [h, Bool.true_or]

/-- The message of a swap goes to the launch's sequencer: nothing else of the launches or the tiles has changed. -/
theorem State.postConfig_frame {s : State} {k : Nat} {v : Launch} (hv : s.launch k = some v) (hruns : v.runs = true) (l : Launch)
    (post : BitVec 6 × BitVec 8) (kind : Nat) (cause : Option Cause) (image : Word) :
    { s.postConfig k l post kind cause image with seqs := s.seqs, now := s.now } = s := by
  have hheld : s.hold.launch k = some v := hv
  unfold State.postConfig
  simp only [State.readTime]
  rw [State.postLaunch_live hheld (Launch.live_of_runs hruns)]
  rfl

theorem exec_planeSwap {s : State} {k : Nat} {l : Launch} {p : BitVec 6 × BitVec 8} (hl : s.launch k = some l)
    (hp : l.reconf = some p) (hshadow : l.shadow = .loaded) (hphase : l.phase = .running) (hfrozen : l.frozen = false)
    (hdrained : s.enginesDrained k l = true)
    (htiles : ∀ x, x ∈ l.tiles → (s.tile x).passed = true ∧ (s.tile x).settled = true) :
    exec (.planeSwap k) s =
      .next (((s.setLaunch k { l with reconf := none }).makeResident k).postConfig k l p 2 none 0) := by
  have hall : l.tiles.all (fun t => (s.tile t).passed && (s.tile t).settled) = true :=
    List.all_eq_true.mpr fun x hx => by rw [(htiles x hx).1, (htiles x hx).2]; rfl
  have hout : s.tokenOut l = true := by simp [State.tokenOut, hp, hshadow, hphase, hfrozen]
  change execPlaneSwap k s = _
  simp only [execPlaneSwap, hl, hout, hfrozen, hall, hdrained, hp]
  rfl

/-! ### A refused swap (R444) -/

/-- Planes and launches are as before. -/
def SamePlanes (s u : State) : Prop := (∀ x, (u.tile x).plane = (s.tile x).plane) ∧ u.launches = s.launches

theorem SamePlanes.trans {s u v : State} (h : SamePlanes s u) (h' : SamePlanes u v) : SamePlanes s v :=
  ⟨fun x => (h'.1 x).trans (h.1 x), h'.2.trans h.2⟩

theorem State.postStream_samePlanes {s : State} {pc k : Nat} {l : Launch} {p : PCtx} (hl : s.launch k = some l)
    (hruns : l.runs = true) (hk : p.launch = some k) : SamePlanes s (s.postStream pc p) := by
  cases hpost : p.post with
  | none =>
    simp only [State.postStream, hpost]
    exact ⟨fun _ => rfl, rfl⟩
  | some post =>
    rw [State.postStream_some hpost hk hl hruns]
    exact ⟨fun _ => rfl, rfl⟩

theorem State.dropShadows_samePlanes (s : State) (l : Launch) : SamePlanes s (s.dropShadows l) := by
  refine List.foldlRecOn (motive := SamePlanes s) l.tiles _ ⟨fun _ => rfl, rfl⟩ fun u hu t _ => ?_
  obtain ⟨hplane, hlaunches⟩ := hu
  split
  · refine ⟨fun x => ?_, hlaunches⟩
    by_cases hx : x = t
    · subst hx
      rw [State.setTile_same]
      exact hplane x
    · rw [State.setTile_other _ _ _ _ hx]
      exact hplane x
  · exact ⟨hplane, hlaunches⟩

/-- The contexts Bound for a running launch are free again, and each has posted. -/
theorem State.discardBound_samePlanes {s : State} {k : Nat} {l : Launch} (hl : s.launch k = some l) (hruns : l.runs = true) :
    SamePlanes s (s.discardBound k) := by
  refine List.foldlRecOn (motive := SamePlanes s) _ _ ⟨fun _ => rfl, rfl⟩ fun u hu p hp => ?_
  have hk : p.2.launch = some k := by
    have := (List.mem_filter.mp hp).2
    simp only [Bool.and_eq_true, beq_iff_eq] at this
    exact this.1
  have hul : (u.setPctx p.1 PCtx.reset).launch k = some l := by
    rw [← hl]
    exact congrArg (tabFind · k) hu.2
  exact SamePlanes.trans (u := u.setPctx p.1 PCtx.reset) hu (State.postStream_samePlanes hul hruns hk)

/-- A launch without shadow planes. -/
def Launch.unshadowed (l : Launch) : Launch := { l with shadow := .none, shPost := none, shPosted := false, loadHeld := false }

theorem State.dropShadow_leaves {s : State} {k : Nat} {l : Launch} (hl : s.launch k = some l) (hruns : l.runs = true) :
    (∀ x, ((s.dropShadow k l).tile x).plane = (s.tile x).plane) ∧ (s.dropShadow k l).launch k = some l.unshadowed := by
  obtain ⟨hplane, hlaunches⟩ := s.dropShadows_samePlanes l
  have hl1 : (s.dropShadows l).launch k = some l := by
    rw [← hl]
    exact congrArg (tabFind · k) hlaunches
  obtain ⟨hplane', hlaunches'⟩ := State.discardBound_samePlanes hl1 hruns
  have hl2 : ((s.dropShadows l).discardBound k).launch k = some l := by
    rw [← hl1]
    exact congrArg (tabFind · k) hlaunches'
  simp only [State.dropShadow, hl2]
  exact ⟨fun x => (hplane' x).trans (hplane x), State.setLaunch_same ..⟩

theorem State.refuseSwap_eq {s : State} {k : Nat} {l : Launch} {p : BitVec 6 × BitVec 8} (hl : s.launch k = some l)
    (hruns : l.runs = true) (hp : l.reconf = some p) (c : Cause) : s.refuseSwap k c =
      ((s.dropShadow k l).setLaunch k { l.unshadowed with reconf := none }).postConfig k l p 2 (some c) 0 := by
  simp only [State.refuseSwap, hl, (State.dropShadow_leaves hl hruns).2, hp]

theorem exec_swapRefused {s : State} {k : Nat} {l : Launch} (hl : s.launch k = some l) (hreconf : l.reconf.isSome = true)
    (hruns : l.runs = true) (hfrozen : l.frozen = true) (hnone : ∀ x, x ∈ l.tiles → s.passGroup k l x = none) :
    exec (.swapRefused k) s = .next (s.refuseSwap k (l.lcause.getD .flowStrayToken)) := by
  have hall : l.tiles.all (fun t => (s.passGroup k l t).isNone) = true :=
    List.all_eq_true.mpr fun x hx => by rw [hnone x hx]; rfl
  change execSwapRefused k s = _
  simp only [execSwapRefused, hl, hreconf, hfrozen, hruns, hall]
  rfl

/-! ### The drain watch (R342) -/

theorem State.seqLaunch_runs {s : State} {n k : Nat} {l : Launch} (h : s.seqLaunch n = some k) (hl : s.launch k = some l) :
    l.runs = true := by
  unfold State.seqLaunch at h
  grind

theorem exec_drainWatchPost {s : State} {n k : Nat} {l : Launch} {ch : BitVec 6} {gen : BitVec 8}
    (hwatch : (s.seq n).drainWatch = some (ch, gen)) (hk : s.seqLaunch n = some k) (hl : s.launch k = some l)
    (hdrained : s.drained k l = true) : exec (.drainWatchPost n) s =
      .next ((s.setSeq n { s.seq n with drainWatch := none }).hold.hardPost l.seqn
        (hardMsg ch gen 7 0 (word (s.replica (seqClock n))) 0 0)) := by
  have hl' : (s.setSeq n { s.seq n with drainWatch := none }).hold.launch k = some l := hl
  have hpost := State.postLaunch_live hl' (Launch.live_of_runs (State.seqLaunch_runs hk hl))
    (hardMsg ch gen 7 0 (word (s.replica (seqClock n))) 0 0)
  change execDrainWatchPost n s = _
  simp only [execDrainWatchPost, hwatch, hk, hl, hdrained]
  exact congrArg Host.Outcome.next hpost

end Sys2Proof.Machine

namespace Sys2Proof.Claims
open Sys2Proof Sys2Proof.Machine

/-! ### Swaps and the drain watch complete -/

section
variable {s : State} {k : Nat} {l : Launch} (hl : s.launch k = some l)
include hl

theorem planeSwap_completes (hreconf : l.reconf.isSome = true) (hshadow : l.shadow = .loaded) (hphase : l.phase = .running)
    (hfrozen : l.frozen = false) (hnodup : l.tiles.Nodup) (hdrained : s.enginesDrained k l = true)
    (htiles : ∀ x, x ∈ l.tiles → (s.tile x).passed = true ∧ (s.tile x).settled = true) :
    ∃ t v, exec (.planeSwap k) s = .next t ∧
      (∀ x, x ∈ l.tiles → (t.tile x).plane = (s.tile x).shadow.getD Plane.empty) ∧
      t.launch k = some v ∧ v.cfg = l.cfg + 1 ∧ v.reconf = none := by
  obtain ⟨p, hp⟩ := Option.isSome_iff_exists.mp hreconf
  obtain ⟨hplanes, hlaunch⟩ := State.makeResident_leaves (s := s.setLaunch k { l with reconf := none })
    (State.setLaunch_same ..) hnodup
  have hframe := State.postConfig_frame hlaunch (by simp [Launch.runs, Launch.resident, hphase]) l p 2 none 0
  exact ⟨_, _, exec_planeSwap hl hp hshadow hphase hfrozen hdrained htiles,
    fun x hx => (congrArg (fun u : State => (u.tile x).plane) hframe :).trans (hplanes x hx),
    (congrArg (·.launch k) hframe :).trans hlaunch, rfl, rfl⟩

theorem swapRefused_completes (hreconf : l.reconf.isSome = true) (hphase : l.phase = .running) (hfrozen : l.frozen = true)
    (hnone : ∀ x, x ∈ l.tiles → s.passGroup k l x = none) :
    ∃ t v, exec (.swapRefused k) s = .next t ∧ (∀ x, (t.tile x).plane = (s.tile x).plane) ∧ t.launch k = some v ∧
      v.reconf = none ∧ v.shadow = .none ∧ v.cfg = l.cfg := by
  have hruns : l.runs = true := by simp [Launch.runs, hphase]
  obtain ⟨p, hp⟩ := Option.isSome_iff_exists.mp hreconf
  obtain ⟨hplanes, -⟩ := State.dropShadow_leaves hl hruns
  have hlaunch : ((s.dropShadow k l).setLaunch k { l.unshadowed with reconf := none }).launch k =
    some { l.unshadowed with reconf := none } := State.setLaunch_same ..
  have hframe := State.postConfig_frame hlaunch hruns l p 2 (some (l.lcause.getD .flowStrayToken)) 0
  rw [← State.refuseSwap_eq hl hruns hp] at hframe
  exact ⟨_, _, exec_swapRefused hl hreconf hruns hfrozen hnone,
    fun x => (congrArg (fun u : State => (u.tile x).plane) hframe :).trans (hplanes x),
    (congrArg (·.launch k) hframe :).trans hlaunch, rfl, rfl, rfl⟩

end

theorem drainWatchPost_completes {s : State} {n k : Nat} {l : Launch} (hwatch : (s.seq n).drainWatch.isSome = true)
    (hk : s.seqLaunch n = some k) (hl : s.launch k = some l) (hn : l.seqn = n) (hdrained : s.drained k l = true) :
    ∃ t, exec (.drainWatchPost n) s = .next t ∧ (t.seq n).drainWatch = none ∧
      (t.seq n).held.length = (s.seq n).held.length + 1 := by
  obtain ⟨⟨ch, gen⟩, hwatch⟩ := Option.isSome_iff_exists.mp hwatch
  have hseq : (s.setSeq n { s.seq n with drainWatch := none }).hold.seq n = { s.seq n with drainWatch := none } :=
    s.setSeq_same n _
  refine ⟨_, exec_drainWatchPost hwatch hk hl hdrained, ?_⟩
  rw [hn, State.hardPost, State.setSeq_same, hseq]
  exact ⟨rfl, List.length_append⟩

/-! ### Every step of the family -/

theorem matrixControlAndSwaps : Claims.MatrixControlAndSwapsComplete := by
  refine ⟨fun i s opc o g rest hform hlive hout hending hgate hpsrc heos hfired hfull hgroup hhold hpay hroom => ?_,
    fun s o a c hlive hclosed ha hc hae hce hcp hpay hroom2 hroom1 => ?_,
    fun s o c h hc hop hcp hcb => ⟨_, ?_, passes_slotSt s 0x69 o⟩,
    fun s o h hquiet => ⟨_, ?_, passes_slotSt s 0x6A o⟩,
    fun s x j opc o v rest hslot hrun hsrc hwide heos hfired hlen =>
      ⟨_, exec_rowArrival hslot hrun hsrc hwide heos hfired hlen, ?_⟩,
    fun s x u hdown hne hrun hfired hempty heos => ⟨_, exec_rowForward hdown hrun hfired hempty heos, ?_⟩,
    fun s x k l g hk hl hg hclean => ⟨_, exec_tokenPass hk hl hg hclean, s.setPassed_fold g⟩,
    fun _ _ _ => planeSwap_completes, fun _ _ _ => swapRefused_completes, fun _ _ _ _ => drainWatchPost_completes⟩
  · have h : RowFires s opc o g rest := ⟨hlive, hout, hending, hgate, hpsrc, heos, hfired, hfull, hgroup, hhold, hpay, hroom⟩
    rw [exec_rowForm hform, h.rowOp]
    exact h.fires
  · refine ⟨_, eosg_passes hlive hclosed ha hc hae hce hcp hpay (by split <;> assumption), ?_⟩
    rw [State.put_slotSt]
    split
    · rw [State.orFlags_slotSt, withSlot_slotSt]
    · rw [withSlot_slotSt]
  · rw [trap_eq h hc, hcp, hcb]
    exact trap_passes h (hop ▸ hcp)
  · rw [brk_eq h, hquiet]
    rfl
  · rw [State.setMatrix_same]
    exact ⟨rfl, rfl⟩
  · rw [State.setMatrix_same, State.setMatrix_other _ _ hne.symm, State.setMatrix_same]
    exact ⟨rfl, rfl⟩

/-- Settles O52: each step's conditions fix its outcome, and the frame of each part gives its effect. -/
theorem matrixControlAndSwapsComplete : Obligations.MatrixControlAndSwapsComplete :=
  matrixControlAndSwaps

end Sys2Proof.Claims

/-!
## The weight store and the scale queue (R233, R236, R237)

MWLD, MWRD, MCLR and MSCL read port a alone and follow the firing rule, so each effect is read off what its firing runs on
`taken`: the memory, the matrix and the position that `taken` hands on are those of the state before.
-/

namespace Sys2Proof.Machine
open Sys2Proof Sys2Proof.Claims

/-! ### The firing rule with any room (R93) -/

/-- A slot that holds its inputs, its room and its cost, and whose firing raises a cause instead. -/
theorem fireRule_raises {s : State} {opc : Nat} {o : SlotOp} {f : Token → Token → Token → Firing} {e : Ending} {g : Firing}
    {c : Cause} {p : Nat} {a : Word} (hlive : s.slotLive = true) (hdata : s.allData (slotPorts opc o) = true)
    (hg : f (s.operand opc o 0) (s.operand opc o 1) (s.operand opc o 2) = g) (hroom : s.slotRoom o g.room0 g.room1 = true)
    (hpay : s.canPay g.base = true) (hfault : g.fault = some (c, p, a)) : s.fireRule opc o f e = s.slotFault c p a := by
  subst hg
  simp [State.fireRule, hlive, hdata, hroom, hpay, hfault]

/-! ### What the taking hands on (R93, R94) -/

/-- Whatever of a slot's state its residents do not touch stays as it was. -/
theorem State.takePort_keeps {α : Type} (f : SlotState → α) (hf : ∀ v p r, f (v.setResident p r) = f v) (s : State)
    (opc : Nat) (o : SlotOp) (p : Nat) : f (s.takePort opc o p).slotSt = f s.slotSt := by
  unfold State.takePort
  split
  · rw [State.setSlotSt_slotSt, hf]
  · split
    · rfl
    · dsimp only
      split
      · rfl
      · rw [State.setSlotSt_slotSt, hf, State.take_slotSt]

theorem SlotState.setResident_aux (v : SlotState) (p : Nat) (r : Option (Token × Nat)) : (v.setResident p r).aux = v.aux := by
  unfold SlotState.setResident
  split <;> rfl

theorem taken_aux (s : State) (opc : Nat) (o : SlotOp) (base : Nat) : (taken s opc o base).slotSt.aux = s.slotSt.aux :=
  List.foldlRecOn (motive := fun u : State => u.slotSt.aux = s.slotSt.aux) (slotPorts opc o) _
    (congrArg SlotState.aux (s.pay_slotSt base)) fun u hu p _ =>
      (u.takePort_keeps SlotState.aux SlotState.setResident_aux opc o p).trans hu

section
variable {s u : State} {base : Nat} {fl : Flags} (h : Fired s base fl u)
include h

theorem Fired.mem : u.mem = s.mem := (congrArg State.mem h.frame :)

theorem Fired.seqs : u.seqs = s.seqs := (congrArg State.seqs h.frame :)

theorem Fired.curT_own : u.curT.withSlotsOf s.curT = s.curT.fired base fl := by
  rw [State.curT, h.curTile]
  exact h.own

theorem Fired.mx : u.mx = s.mx := (congrArg Tile.matrix h.curT_own :)

theorem Fired.curT_flags : u.curT.flags = s.curT.flags ||| fl := (congrArg Tile.flags h.curT_own :)

end

/-! ### Their ports (R138) -/

/-- Opcodes of MWLD, MWRD, MSCL and MCLR. -/
def storeCodes : List Nat := [0x52, 0x53, 0x54, 0x56]

section
variable (o : SlotOp) {opc : Nat} (h : opc ∈ storeCodes)
include h

theorem slotPorts_store : slotPorts opc o = [0] := by
  simp only [storeCodes, List.mem_cons, List.not_mem_nil, or_false] at h
  rcases h with rfl | rfl | rfl | rfl <;> simp [slotPorts, readsB, readsC]

theorem anyPoison_store (s : State) : anyPoison s opc o = (s.operand opc o 0).psn := by
  simp [anyPoison, slotPorts_store o h]

end

/-! ### Scales (R233) -/

theorem scaleToken_eq (g : ScaleGroup) (k : Token) :
    let n := k.data.toNat % 8
    scaleToken g k =
      ({ scales := (g.scales ++ (List.range n).map fun j => BitVec.ofNat 8 (k.data.toNat / 2 ^ (8 * j + 8))).take 16,
         psn := g.psn || k.psn }, decide (16 < g.scales.length + n)) := by
  have hcount : bits k.data.toNat 0 3 = k.data.toNat % 8 := congrArg (· % 8) (Nat.div_one _)
  have hscale (j : Nat) : k.data.extractLsb' (8 * j + 8) 8 = BitVec.ofNat 8 (k.data.toNat / 2 ^ (8 * j + 8)) :=
    congrArg (BitVec.ofNat 8) (Nat.shiftRight_eq_div_pow _ _)
  simp only [scaleToken, hcount, hscale]

/-- The group that a scale token fills becomes the queue's last, or stays the one being filled (R233). -/
def Matrix.withGroup (m : Matrix) (done : Bool) (g : ScaleGroup) : Matrix :=
  if done then { m with groups := m.groups ++ [g], filling := none } else { m with filling := some g }

/-- One unit stored and the position one further (R237). -/
theorem State.storeUnit_leaves {u : State} (wf : Memory.wf u.mem = true) (l : Nat) (v : Word) :
    let t := (u.storeNat l 8 v.toNat).nextUnit
    leNat (memBytes t.mem l 8) = v.toNat ∧ (∀ x, x < l ∨ l + 8 ≤ x → memRead t.mem x = memRead u.mem x) ∧
      t.slotSt.aux = u.slotSt.aux + 1 ∧ t.seqs = u.seqs ∧ t.arcs = u.arcs :=
  ⟨storeNat_reads wf l v.isLt, fun _ hx => storeNat_outside wf v.toNat hx,
    congrArg SlotState.aux (State.setSlotSt_slotSt ..), rfl, rfl⟩

/-- The matrix replaced and flags joined: MSCL's effect (R233). -/
theorem State.setMx_orFlags (u : State) (m : Matrix) (f : Flags) :
    let t := (u.setMx m).orFlags f
    t.curT.matrix = m ∧ t.curT.flags = u.curT.flags ||| f ∧ t.arcs = u.arcs ∧ t.mem = u.mem ∧ t.seqs = u.seqs := by
  have hmx : (u.setMx m).curT = { u.curT with matrix := m } := u.setTile_same ..
  have hflags : ((u.setMx m).orFlags f).curT = { (u.setMx m).curT with flags := (u.setMx m).curT.flags ||| f } :=
    State.setTile_same ..
  dsimp only
  rw [hflags, hmx]
  exact ⟨rfl, rfl, rfl, rfl, rfl⟩

end Sys2Proof.Machine

namespace Sys2Proof.Claims
open Sys2Proof Sys2Proof.Machine

/-! ### MWLD -/

/-- What stops MWLD on its token: poison first, then a position past the length (R235, R237). -/
def mwldFault (s : State) (o : SlotOp) : Option (Cause × Nat × Word) :=
  if (s.operand 0x52 o 0).psn then some (.psnStore, 0, 0)
  else if extLenm1 o.ext < s.slotSt.aux then some (.flowWstoreRange, 0, 0)
  else none

section
variable {s : State} {o : SlotOp}

section
variable (hlive : s.slotLive = true) (hdata : s.allData [0] = true) (hpay : s.canPay 4 = true)
include hlive hdata hpay

theorem mwld_writes (hpsn : (s.operand 0x52 o 0).psn = false) (hn : s.slotSt.aux ≤ extLenm1 o.ext) :
    exec (.mwld o) s = .next ((taken s 0x52 o 4).storeNat (weightUnit s.curTile o.ext (extStart o.ext + s.slotSt.aux)) 8
      (s.operand 0x52 o 0).data.toNat).nextUnit := by
  have hports := slotPorts_store o (opc := 0x52) (by decide)
  have hclean : anyPoison s 0x52 o = false := (anyPoison_store o (by decide) s).trans hpsn
  change execMwld o s = _
  unfold execMwld
  rw [fireRule_fires hlive (hports ▸ hdata) rfl (slotRoom_none s o) hpay (by simp [hpsn, Nat.not_lt_of_le hn]),
    Firing.leaves_silent rfl rfl, if_neg (by simp [hclean])]
  rfl

theorem mwld_stops {c : Cause} (hfault : mwldFault s o = some (c, 0, 0)) : exec (.mwld o) s = s.slotFault c 0 0 := by
  have hports := slotPorts_store o (opc := 0x52) (by decide)
  change execMwld o s = _
  unfold execMwld
  exact fireRule_raises hlive (hports ▸ hdata) rfl (slotRoom_none s o) hpay hfault

end

theorem mwld_ends (h : CanEnd s 0x52 o 1 1 none) :
    let k : Token := { data := BitVec.ofNat 64 s.slotSt.aux, kind := .data, psn := false }
    exec (.mwld o) s = .next (ended s 0x52 o none 0 [k] [k]) := by
  change execMwld o s = _
  unfold execMwld
  exact fireRule_emits (e := { k0 := [Token.mk' (word s.slotSt.aux) false], k1 := [Token.mk' (word s.slotSt.aux) false] }) h

/-! ### MWRD -/

theorem mwrd_reads (h : CanFire s 0x53 o 4) (hn : s.slotSt.aux ≤ extLenm1 o.ext) :
    let k := resultToken s 0x53 o (leNat (memBytes s.mem (weightUnit s.curTile o.ext (extStart o.ext + s.slotSt.aux)) 8))
    exec (.mwrd o) s = .next ((notesLost s 0x53 o (taken s 0x53 o 4).nextUnit).put o [k] [k]) := by
  have hfault : (if extLenm1 o.ext < s.slotSt.aux then some (Cause.flowWstoreRange, 0, (0 : Word)) else none) = none :=
    if_neg (Nat.not_lt_of_le hn)
  change execMwrd o s = _
  unfold execMwrd
  refine fireRule_results h (by rw [hfault]; rfl) ?_
  dsimp only
  rw [(Fired.taken s 0x53 o 4).mem, ← anyPoison_store o (by decide) s]
  rfl

theorem mwrd_stops (h : CanFire s 0x53 o 4) (hn : extLenm1 o.ext < s.slotSt.aux) :
    exec (.mwrd o) s = s.slotFault .flowWstoreRange 0 0 := by
  change execMwrd o s = _
  unfold execMwrd
  exact fireRule_faults rfl h rfl rfl (if_pos hn)

/-! ### MCLR -/

/-- The `n` bytes from location `l` are zero; no mark of poison changes (R237). -/
def cleared (u : State) (l n : Nat) : State := { u with mem := memClear u.mem l n }

theorem mclr_clears (h : CanFire s 0x56 o 1024) (hpsn : (s.operand 0x56 o 0).psn = false) :
    exec (.mclr o) s = .next ((cleared (taken s 0x56 o 1024) (weightUnit s.curTile o.ext (extStart o.ext))
      (8 * (extLenm1 o.ext + 1))).put o [Token.mk' 0 false] [Token.mk' 0 false]) := by
  have hclean : anyPoison s 0x56 o = false := (anyPoison_store o (by decide) s).trans hpsn
  change execMclr o s = _
  unfold execMclr
  exact fireRule_puts (p := false) h (by rw [hpsn]; rfl)
    (run := fun u => (cleared u (weightUnit s.curTile o.ext (extStart o.ext)) (8 * (extLenm1 o.ext + 1)),
      [Token.mk' 0 false], [Token.mk' 0 false])) rfl rfl rfl (by simp [hclean])

theorem mclr_stops (h : CanFire s 0x56 o 1024) (hpsn : (s.operand 0x56 o 0).psn = true) :
    exec (.mclr o) s = s.slotFault .psnStore 0 0 := by
  change execMclr o s = _
  exact fireRule_faults rfl h rfl rfl (if_pos hpsn)

theorem memRead_cleared {u : State} (wf : Memory.wf u.mem = true) (l n x : Nat) :
    memRead (cleared u l n).mem x = if l ≤ x ∧ x < l + n then 0 else memRead u.mem x := by
  split
  next hin => exact memRead_clear_inside _ _ _ _ hin.1 hin.2
  next hout => exact memRead_clear_outside _ _ _ _ wf (by omega)

/-! ### MSCL -/

theorem mscl_fills (h : CanFire s 0x54 o 4) (heos : s.allEos [0] = false) (hgroups : s.mx.groups.length < 2) :
    let k := s.operand 0x54 o 0
    let r := scaleToken (s.mx.filling.getD { scales := [], psn := false }) k
    exec (.mscl o) s = .next (((taken s 0x54 o 4).setMx (s.mx.withGroup (k.data.getLsbD 7) r.1)).orFlags (flIf r.2 0x200)) := by
  obtain ⟨hlive, hdata, hroom, hpay⟩ := h
  change execMscl o s = _
  unfold execMscl
  rw [heos, Bool.and_false, if_neg (by simp [Nat.not_le_of_lt hgroups]), if_neg Bool.false_ne_true,
    fireRule_fires hlive hdata rfl hroom hpay rfl]
  simp only [Firing.leaves, (Fired.taken s 0x54 o controlCost).mx]
  rfl

end

/-- Settles O24: what each operator's firing leaves, what stops it, and MWLD's count at its end. -/
theorem weightStoreOperators : Obligations.WeightStoreOperators := by
  refine ⟨fun s o wf hlive hdata hpay => ⟨fun hpsn hn => ?_, fun hpsn hn => slotStops_of_eq ?_,
      fun hpsn => slotStops_of_eq ?_⟩,
    fun s o h => mwld_ends h, fun s o h => ⟨fun hn => mwrd_reads h hn, fun hn => slotStops_of_eq (mwrd_stops h hn)⟩,
    fun s o wf h => ⟨fun hpsn => ?_, fun hpsn => slotStops_of_eq (mclr_stops h hpsn)⟩, fun s o h heos hgroups => ?_⟩
  · have hfired := Fired.taken s 0x52 o 4
    refine ⟨_, mwld_writes hlive hdata hpay hpsn hn, ?_⟩
    rw [← hfired.mem, ← hfired.seqs, ← taken_aux s 0x52 o 4]
    exact State.storeUnit_leaves (hfired.mem ▸ wf) ..
  · exact mwld_stops hlive hdata hpay (by simp [mwldFault, hpsn, hn])
  · exact mwld_stops hlive hdata hpay (if_pos hpsn)
  · have hmem := (Fired.taken s 0x56 o 1024).mem
    refine ⟨_, mclr_clears h hpsn, fun x => ?_, ?_⟩
    · rw [memRead_cleared (hmem ▸ wf), hmem]
    · rw [← hmem]
      rfl
  · have hfired := Fired.taken s 0x54 o 4
    obtain ⟨hmatrix, hflags, harcs, hmem, hseqs⟩ := State.setMx_orFlags (taken s 0x54 o 4) _ _
    refine ⟨_, mscl_fills h heos hgroups, hmatrix.trans ?_, hflags.trans ?_, harcs, hmem.trans hfired.mem,
      hseqs.trans hfired.seqs⟩
    · rw [scaleToken_eq]
      rfl
    · rw [hfired.curT_flags, or_noFlags, scaleToken_eq]
      simp only [flIf, decide_eq_true_eq]
      rfl

end Sys2Proof.Claims

/-!
## The event bank (R245 to R266)

The bank is a part of the tile that paying, taking inputs and joining flags leave alone, so each operator's effect on it is read
off the state before. A delivery is one entry of one event: `spikeEntry_eq` gives the record that a weight leaves of its neuron,
`deliverEntry_performs` what each kind of event does with it, and `State.entryDone` what an entry leaves of the bank.
-/

namespace Sys2Proof.Machine
open Sys2Proof Sys2Proof.Claims

/-! ### Fields (R3, R251) -/

theorem bits_low (v n : Nat) : bits v 0 n = v % 2 ^ n := by rw [bits, pow_zero, Nat.div_one]

theorem bits_single (v i : Nat) : bits v i 1 = (v.testBit i).toNat := (Nat.toNat_testBit v i).symm

/-- The event word of a mark (R256). -/
theorem evWord_mark (stamp : Nat) : evWord stamp 0 0 3 0 = BitVec.ofNat 64 (stamp * 2 ^ 32 + 3 * 2 ^ 7) :=
  congrArg (BitVec.ofNat 64) (by omega)

/-- The event word of a fire token (R259). -/
theorem evWord_fire (stamp t m : Nat) : evWord stamp t m 0 0 = BitVec.ofNat 64 (stamp * 2 ^ 32 + t * 2 ^ 21 + m * 2 ^ 9) :=
  congrArg (BitVec.ofNat 64) (by omega)

/-! ### The bank of the running tile -/

/-- Paying, taking inputs and joining flags leave the bank. -/
theorem Fired.bank {s u : State} {base : Nat} {fl : Flags} (h : Fired s base fl u) : u.bank s.curTile = s.bank s.curTile :=
  (congrArg Tile.events h.own :)

/-- A bank written back from the state before is an update of the bank as it stands. -/
theorem Fired.setBank {s u : State} {base : Nat} {fl : Flags} (h : Fired s base fl u) (f : EventBank → EventBank) :
    u.setBank u.curTile (f (s.bank s.curTile)) = withBank u f := by
  rw [withBank, h.curTile, h.bank]

theorem State.setBank_bank (s : State) (t : Nat) (b : EventBank) : (s.setBank t b).bank t = b :=
  congrArg Tile.events (s.setTile_same t _)

/-- A tile written back with the bank that it has. -/
theorem State.setTile_bank (s : State) {t : Nat} {v : Tile} (h : v.events = (s.tile t).events) (x : Nat) :
    (s.setTile t v).bank x = s.bank x := by
  by_cases hx : x = t
  · subst hx
    rw [State.bank, State.setTile_same, h, State.bank]
  · rw [State.bank, State.setTile_other _ _ _ _ hx, State.bank]

theorem State.setSlotSt_bank (s : State) (v : SlotState) (x : Nat) : (s.setSlotSt v).bank x = s.bank x :=
  s.setTile_bank (v := { s.curT with slots := tabPut s.curT.slots s.curSlot v }) rfl x

theorem State.orFlags_bank (s : State) (f : Flags) (x : Nat) : (s.orFlags f).bank x = s.bank x :=
  s.setTile_bank (v := { s.curT with flags := s.curT.flags ||| f }) rfl x

theorem State.put_bank (s : State) (o : SlotOp) (k : Token) (x : Nat) : (s.put o [k] [k]).bank x = s.bank x :=
  (congrArg Tile.events (put_tile s o k x) :)

/-- A record's write changes its bytes and their marks of poison alone (R263, R471). -/
theorem State.setNeuron_frame (u : State) (t n v : Nat) (m : List Host.Cell) (ps : List Nat) :
    { u.setNeuron t n v with mem := m, poison := ps } = { u with mem := m, poison := ps } := rfl

/-- No due event is left where every stamp lies above the horizon (R254). -/
theorem EventBank.due_eq_false {b : EventBank} {h : Nat} (hq : ∀ e, e ∈ b.queue → h < evStamp e) : b.due h = false := by
  simpa [EventBank.due] using hq

/-- The horizon is completed and not marked (R256). -/
theorem EventBank.markDue_of {b : EventBank} (hlow : (b.marked.getD 0).toNat < b.h.toNat) (hdue : b.due b.h.toNat = false)
    (hbusy : b.busy = none) : b.markDue = true := by
  rw [EventBank.markDue, decide_eq_true hlow, hdue, hbusy]
  rfl

/-! ### The effect of an entry (R113, R259) -/

/-- A number in range is the signed value of its bits. -/
theorem toSigned_emod {n : Nat} (hn : 0 < n) {z : Int} (hlo : -(2 ^ (n - 1) : Nat) ≤ z) (hhi : z < (2 ^ (n - 1) : Nat)) :
    toSigned n (z % (2 ^ n : Nat)).toNat = z := by
  have hd := Nat.two_pow_pred_mul_two hn
  have hmod : z % (2 ^ n : Nat) = if z < 0 then z + (2 ^ n : Nat) else z := by
    split
    · rw [← Int.add_emod_right, Int.emod_eq_of_lt] <;> omega
    · exact Int.emod_eq_of_lt (by omega) (by omega)
  have hlt : (z % (2 ^ n : Nat)).toNat % 2 ^ n = (z % (2 ^ n : Nat)).toNat := Nat.mod_eq_of_lt (by split at hmod <;> omega)
  rw [toSigned, hlt, hmod]
  split <;> split <;> omega

/-- The potential that a weight leads to, within its range (R259). -/
def potential (v w : Nat) : Int :=
  max (-2 ^ 23) (min (toSigned 24 (v % 2 ^ 24) + toSigned 16 (w % 2 ^ 16)) (2 ^ 23 - 1))

theorem potential_bounds (v w : Nat) : -2 ^ 23 ≤ potential v w ∧ potential v w < 2 ^ 23 := by
  unfold potential
  omega

/-- What a weight that is clamped raises (R115, R259). -/
def clampFlag (v w : Nat) : Flags := if potential v w = toSigned 24 (v % 2 ^ 24) + toSigned 16 (w % 2 ^ 16) then 0 else 0x20

theorem addWeight_eq (v w : Nat) :
    addWeight (v % 2 ^ 24) (w % 2 ^ 16) = ((potential v w % 2 ^ 24).toNat, clampFlag v w) := by
  rw [addWeight, fitInt_eq (by decide), formed]
  unfold clampFlag potential
  generalize toSigned 24 (v % 2 ^ 24) + toSigned 16 (w % 2 ^ 16) = x
  grind

theorem toSigned_potential (v w : Nat) : toSigned 24 (potential v w % 2 ^ 24).toNat = potential v w :=
  toSigned_emod (n := 24) (by decide) (potential_bounds v w).1 (potential_bounds v w).2

/-- What a bring leaves of a record whatever an event then does to it: THR, LEAK and STAMP (R249). -/
def recordKept (r : Nat) : Nat := r / 2 ^ 24 % 256 * 2 ^ 24 + r / 2 ^ 40 % 2 ^ 24 * 2 ^ 40

section
variable (r v th : Nat)

theorem neuronRecord_calm : neuronRecord r v 0 (bits r 40 24) = v % 2 ^ 24 + recordKept r := by
  unfold neuronRecord recordKept bits
  omega

/-- The neuron takes the reset potential of its threshold's entry (R247). -/
theorem neuronRecord_reset : neuronRecord r (bits th 24 24) 0 (bits r 40 24) = th / 2 ^ 24 % 2 ^ 24 + recordKept r := by
  rw [neuronRecord_calm, bits, Nat.mod_mod]

/-- The neuron that fires takes the reset potential and the refractory time of its threshold's entry (R247). -/
theorem neuronRecord_fired : neuronRecord r (bits th 24 24) (bits th 48 8) (bits r 40 24) =
    th / 2 ^ 24 % 2 ^ 24 + recordKept r + th / 2 ^ 48 % 256 * 2 ^ 32 := by
  unfold neuronRecord recordKept bits
  omega

end

section
variable {s : State} {t r w : Nat}

theorem spikeEntry_refractory (h : r / 2 ^ 32 % 256 ≠ 0) : s.spikeEntry t r w = (r, false, 0) := if_pos h

variable (h : r / 2 ^ 32 % 256 = 0)
include h

theorem spikeEntry_eq : s.spikeEntry t r w =
    let th := s.threshold t (r / 2 ^ 24 % 16)
    if toSigned 24 th ≤ potential r w then
      (th / 2 ^ 24 % 2 ^ 24 + recordKept r + th / 2 ^ 48 % 256 * 2 ^ 32, true, clampFlag r w)
    else ((potential r w % 2 ^ 24).toNat + recordKept r, false, clampFlag r w) := by
  have hlt : (potential r w % 2 ^ 24).toNat % 2 ^ 24 = (potential r w % 2 ^ 24).toNat := by omega
  have hrefr : bits r 32 8 = 0 := h
  have hth : bits r 24 4 = r / 2 ^ 24 % 16 := rfl
  unfold State.spikeEntry
  simp only [hrefr, hth, bits_low, addWeight_eq, toSigned_potential, neuronRecord_fired, neuronRecord_calm, hlt, ne_eq,
    not_true_eq_false, if_false]

end

/-! ### A delivery (R254, R259) -/

/-- What an entry leaves of the bank: a first entry has taken its event from the queue, and the next entry, where one is left,
is the one in delivery (R259, R265). -/
def State.entryDone (u : State) (t i : Nat) (e : Word) (j : Nat) (q : List Word) (more : Bool) : State :=
  u.setBank t { u.bank t with queue := if j = 0 then q.drop 1 else q, busy := if more then some (i, e, j + 1) else none }

/-- The neuron that entry `j` of an event acts on (R259). -/
def State.entryNeuron (s : State) (t : Nat) (e : Word) (j : Nat) : Nat :=
  if evKind e = 0 then (evNeuron e + s.synapse t (evGroup e) j / 2 ^ 16 % 2 ^ 12) % 4096 else evNeuron e

section
variable {s : State} {o : SlotOp} {e : Word} {j r : Nat}
  (hrange : s.entryNeuron s.curTile e j < s.curT.plane.neurons)
  (hbring : s.bring s.curTile (evStamp e) (s.neuron s.curTile (s.entryNeuron s.curTile e j)) = some r)
  (hpay : s.canPay 200 = true)
include hrange hbring hpay

/-- An entry that performs, by the kind of its event. -/
theorem deliverEntry_performs : s.deliverEntry o e j =
    let t := s.curTile
    let m := s.entryNeuron t e j
    let w := s.synapse t (evGroup e) j
    let q := (s.bank t).queue
    if evKind e = 0 then
      let x := s.spikeEntry t r w
      let u := ((s.pay 200).setNeuron t m x.1).orFlags x.2.2
      let k := Token.mk' (evWord (evStamp e) t m 0 0) false
      if x.2.1 && !s.room t o.t0.toNat 1 then s
      else (if x.2.1 then u.send t t o.t0.toNat k else u).entryDone t s.curSlot e j q (!w.testBit 31 && decide (j < 127))
    else if evKind e = 1 then
      ((s.pay 200).setNeuron t m (s.threshold t (r / 2 ^ 24 % 16) / 2 ^ 24 % 2 ^ 24 + recordKept r)).entryDone t s.curSlot e j q
        false
    else if !s.room t o.t1.toNat 1 then s
    else (((s.pay 200).setNeuron t m r).send t t o.t1.toNat (Token.mk' (word r) false)).entryDone t s.curSlot e j q false := by
  have hm : (if evKind e = 0 then (evNeuron e + bits (s.synapse s.curTile (evGroup e) j) 16 12) % 4096 else evNeuron e) =
      s.entryNeuron s.curTile e j := rfl
  have hlast (x : Nat) : (bits x 31 1 == 0) = !x.testBit 31 := by
    rw [bits_single]
    cases x.testBit 31 <;> rfl
  have hth : bits r 24 4 = r / 2 ^ 24 % 16 := rfl
  simp only [State.deliverEntry, hm, if_neg (Nat.not_le_of_lt hrange), hbring, entryCost, hpay, hlast, hth, neuronRecord_reset,
    Bool.not_true, Bool.false_eq_true, if_false, State.entryDone, State.sendAll, List.foldl_cons, List.foldl_nil]

theorem deliverEntry_passes {x : Nat} {fl : Flags} (hkind : evKind e = 0)
    (hentry : s.spikeEntry s.curTile r (s.synapse s.curTile (evGroup e) j) = (x, false, fl)) : s.deliverEntry o e j =
      (((s.pay 200).setNeuron s.curTile (s.entryNeuron s.curTile e j) x).orFlags fl).entryDone s.curTile s.curSlot e j
        (s.bank s.curTile).queue (!(s.synapse s.curTile (evGroup e) j).testBit 31 && decide (j < 127)) := by
  rw [deliverEntry_performs hrange hbring hpay]
  simp only [hkind, hentry]
  rfl

theorem deliverEntry_fires {x : Nat} {fl : Flags} (hkind : evKind e = 0)
    (hentry : s.spikeEntry s.curTile r (s.synapse s.curTile (evGroup e) j) = (x, true, fl))
    (hroom : s.room s.curTile o.t0.toNat 1 = true) : s.deliverEntry o e j =
      ((((s.pay 200).setNeuron s.curTile (s.entryNeuron s.curTile e j) x).orFlags fl).send s.curTile s.curTile o.t0.toNat
        (Token.mk' (evWord (evStamp e) s.curTile (s.entryNeuron s.curTile e j) 0 0) false)).entryDone s.curTile s.curSlot e j
        (s.bank s.curTile).queue (!(s.synapse s.curTile (evGroup e) j).testBit 31 && decide (j < 127)) := by
  rw [deliverEntry_performs hrange hbring hpay]
  simp only [hkind, hentry, hroom]
  rfl

theorem deliverEntry_restores (hkind : evKind e = 1) : s.deliverEntry o e j =
    ((s.pay 200).setNeuron s.curTile (s.entryNeuron s.curTile e j)
      (s.threshold s.curTile (r / 2 ^ 24 % 16) / 2 ^ 24 % 2 ^ 24 + recordKept r)).entryDone s.curTile s.curSlot e j
      (s.bank s.curTile).queue false := by
  rw [deliverEntry_performs hrange hbring hpay]
  simp only [hkind]
  rfl

theorem deliverEntry_reads (hkind : evKind e = 2) (hroom : s.room s.curTile o.t1.toNat 1 = true) : s.deliverEntry o e j =
    (((s.pay 200).setNeuron s.curTile (s.entryNeuron s.curTile e j) r).send s.curTile s.curTile o.t1.toNat
      (Token.mk' (word r) false)).entryDone s.curTile s.curSlot e j (s.bank s.curTile).queue false := by
  rw [deliverEntry_performs hrange hbring hpay]
  simp only [hkind, hroom]
  rfl

end

end Sys2Proof.Machine

namespace Sys2Proof.Claims
open Sys2Proof Sys2Proof.Machine

/-! ### EVQ (R252, R255, R258) -/

/-- A decision at a tile's arbiter that no recorder watches is the live one. -/
theorem captured_live_arbiter {u : State} (h : SlotNotRecorded u) (kind : Nat) (who : Origin) (num sub : Nat) (x aux : Word)
    (clock : Nat) (ok : Word → Word → Bool) (arb : Option Nat) :
    u.captured u.curT.launch kind who num sub x aux clock ok arb = some (x, u) := by
  cases hl : u.curT.launch.bind u.launch with
  | none => simp [State.captured, hl]
  | some l =>
    obtain ⟨k, hk, hkl⟩ := Option.bind_eq_some_iff.mp hl
    simp [State.captured, hl, h k l hk hkl]

theorem checkEvent_good {b : EventBank} {e : Word} (hkind : goodKind e) :
    b.checkEvent e = if evStamp e < b.h.toNat then some .evtLateEvent else none := by
  obtain ⟨hmark, hgroup⟩ := hkind
  exact if_neg (by tauto)

section
variable {s : State} {o : SlotOp} {p : Nat} {k : Token} (hseen : s.slotSt.seen.getLsbD p = false)
  (hk : s.head p = some k) (heos : k.isEos = false)
include hseen hk heos

/-- EVQ serves the one port that holds a token. -/
theorem evqPort_serves (hrec : SlotNotRecorded s) (hp : p = 0 ∨ p = 1)
    (hother : s.slotSt.seen.getLsbD (1 - p) = true ∨ s.head (1 - p) = none) : s.evqPort = some (p, s) := by
  have hserved : (if s.slotSt.seen.getLsbD p then none else s.head p) = some k := by rw [hseen]; exact hk
  have hidle : (if s.slotSt.seen.getLsbD (1 - p) then none else s.head (1 - p)) = none := by
    rcases hother with h | h <;> simp [h]
  have hlive := captured_live_arbiter hrec
  unfold State.evqPort
  rcases hp with rfl | rfl
  · simp only [hserved, hidle, hlive, Option.any_some, heos]
    rfl
  · simp only [Nat.sub_self] at hidle
    simp only [hserved, hidle, hlive, Option.any_some, heos]
    rfl

theorem exec_evq (hlive : s.slotLive = true) (hrec : SlotNotRecorded s) (hp : p = 0 ∨ p = 1)
    (hother : s.slotSt.seen.getLsbD (1 - p) = true ∨ s.head (1 - p) = none) : exec (.evq o) s = s.evqTake o p k s := by
  have hopen : s.slotSt.seen ≠ 3#2 := by
    intro h
    rw [h] at hseen
    rcases hp with rfl | rfl <;> cases hseen
  change execEvq o s = _
  simp [execEvq, hlive, hopen, evqPort_serves hseen hk heos hrec hp hother, hk, heos]

end

section
variable {s : State} {o : SlotOp} {p : Nat} {k : Token} (hrun : s.curT.evinEnded = false) (hpay : s.canPay 4 = true)
include hrun hpay

theorem evqTake_mark (hkind : evKind k.data = 3) (htile : k.data.toNat / 2 ^ 9 % 2 ^ 23 = 0) (hgroup : evGroup k.data = 0)
    (hroom : s.slotRoom o 1 1 = true) : s.evqTake o p k s =
      .next ((if k.psn && o.t0 == 0x1FF && o.t1 == 0x1FF then ((s.pay 4).take p).orFlags 0x40
        else (s.pay 4).take p).put o [k] [k]) := by
  have hfields : ¬ (bits k.data.toNat 9 23 ≠ 0 ∨ bits k.data.toNat 0 7 ≠ 0) := by
    simpa using ⟨htile, hgroup⟩
  rw [Bool.and_assoc]
  simp only [State.evqTake, hrun, hkind, hfields, hroom, eventCost, hpay]
  rfl

theorem evqTake_foreign (hkind : evKind k.data ≠ 3) (htile : evTile k.data ≠ s.curTile) : s.evqTake o p k s =
    .next (if k.psn then ((s.pay 4).take p).orFlags 0x40 else (s.pay 4).take p) := by
  simp [State.evqTake, hrun, hkind, htile, eventCost, hpay, flPSEEN]

end

section
variable {s : State} {o : SlotOp} {p : Nat} {k : Token} (hrun : s.curT.evinEnded = false) (hkind : goodKind k.data)
  (htile : evTile k.data = s.curTile) (hpsn : k.psn = false)
include hrun hkind htile hpsn

/-- An own event that is sound goes on to the bank's checks. -/
theorem evqTake_own : s.evqTake o p k s =
    if evStamp k.data < (s.bank s.curTile).h.toNat then s.slotFault .evtLateEvent p k.data
    else if (s.bank s.curTile).full || !s.canPay 4 then .next s
    else .next (((s.pay 4).take p).setBank ((s.pay 4).take p).curTile ((s.bank s.curTile).insert k.data)) := by
  have hmark : evKind k.data ≠ 3 := hkind.left
  rw [State.evqTake, checkEvent_good hkind]
  simp only [hrun, hmark, htile, hpsn, eventCost]
  by_cases hlate : evStamp k.data < (s.bank s.curTile).h.toNat <;> simp [hlate]

end

/-! ### EVIN and its marks (R256, R260) -/

section
variable {s : State} {o : SlotOp}

theorem evin_discards {k : Token} (hlive : s.slotLive = true) (hopen : s.slotSt.closed = false) (hk : s.head 0 = some k) :
    exec (.evin o) s = .next (if k.isEos then withSlot (s.take 0) (fun v => { v with closed := true })
      else if k.psn then (s.take 0).orFlags 0x40 else s.take 0) := by
  change execEvin o s = _
  simp [execEvin, hlive, hopen, hk, withSlot, flPSEEN, apply_ite Host.Outcome.next]

/-- EVIN's end: its queue is empty and its end of stream is on both targets. -/
def evinEnds (s : State) (o : SlotOp) : State :=
  ((withSlot (s.setBank s.curTile { s.bank s.curTile with queue := [] })
    (fun v => { v with resA := none, resB := none, ended := true })).orFlags 0).put o [.eos] [.eos]

theorem evin_ends (hlive : s.slotLive = true) (hclosed : s.slotSt.closed = true) (hroom : s.slotRoom o 1 1 = true)
    (hdue : (s.bank s.curTile).due (s.bank s.curTile).h.toNat = false) (hmark : (s.bank s.curTile).markDue = false)
    (hbusy : (s.bank s.curTile).busy = none) : exec (.evin o) s = .next (evinEnds s o) := by
  have hidle : (s.bank s.curTile).busy.isSome = false := congrArg Option.isSome hbusy
  change execEvin o s = _
  simp only [execEvin, hlive, hclosed, hdue, hmark, hidle, hroom, Bool.not_true, Bool.or_false, Bool.false_eq_true, if_false,
    if_true]
  exact endAction_next (e := {}) [] (s := s.setBank ..) hroom fun _ h => nomatch h

theorem evinEnds_leaves : (evinEnds s o).slotSt.ended = true ∧ ((evinEnds s o).bank s.curTile).queue = [] ∧
    (evinEnds s o).seqs = s.seqs := by
  unfold evinEnds
  refine ⟨?_, ?_, (congrArg State.seqs (put_tokensOnly ..) :)⟩
  · rw [State.put_slotSt, State.orFlags_slotSt, withSlot_slotSt]
  · rw [State.put_bank, State.orFlags_bank, withSlot, State.setSlotSt_bank, State.setBank_bank]

theorem exec_markEmit {tile i : Nat} (hevin : (s.tile tile).plane.evin = some (i, o)) (hlive : (s.atSlot tile i).slotLive = true)
    (hhold : (s.atSlot tile i).weightHold = false) (hmark : (s.bank tile).markDue = true)
    (hroom : s.room tile o.t0.toNat 1 = true) : exec (.markEmit tile) s =
      .next (((s.atSlot tile i).setBank tile { s.bank tile with marked := some (s.bank tile).h }).send tile tile o.t0.toNat
        (Token.mk' (evWord (s.bank tile).h.toNat 0 0 3 0) false)) := by
  have hroom' : (s.atSlot tile i).room tile o.t0.toNat 1 = true := hroom
  have hmark' : (s.tile tile).events.markDue = true := hmark
  rw [State.atSlot] at hlive hhold hroom'
  change execMarkEmit tile s = _
  simp only [execMarkEmit, hevin, hlive, hhold, hmark', hroom']
  rfl

end

theorem eventQueueOperators : EventQueueOperators := by
  refine ⟨fun s o p k hlive hrec hp hseen hk hother heos hpay hrun => ?_, fun s o k => evin_discards,
    fun s o hlive hclosed hroom hdue hmark hbusy => ⟨_, evin_ends hlive hclosed hroom hdue hmark hbusy, evinEnds_leaves⟩,
    fun s tile i o hevin hlive hhold hlow hq hbusy hroom => ?_⟩
  · dsimp only
    rw [exec_evq hseen hk heos hlive hrec hp hother]
    refine ⟨evqTake_mark hrun hpay, evqTake_foreign hrun hpay, fun hkind htile hpsn hstamp hfull => ?_,
      fun hkind htile hpsn hlate => slotStops_of_eq ?_⟩
    · have hroom : (s.bank s.curTile).full = false := decide_eq_false (Nat.not_le_of_lt hfull)
      have hp3 : p < 3 := by omega
      rw [evqTake_own hrun hkind htile hpsn, if_neg (Nat.not_lt_of_le hstamp), hroom, hpay]
      exact congrArg Host.Outcome.next (((Fired.pay s 4).take hp3).setBank (·.insert k.data))
    · rw [evqTake_own hrun hkind htile hpsn, if_pos hlate]
  · have hmark := EventBank.markDue_of hlow (EventBank.due_eq_false hq) hbusy
    refine (exec_markEmit hevin hlive hhold hmark hroom).trans ?_
    rw [evWord_mark]
    rfl

/-! ### EVFR (R261) -/

section
variable {s : State} {o : SlotOp} (hlive : s.slotLive = true)
include hlive

theorem evfr_takes {k : Token} (hidle : s.slotSt.iota = none) (hk : s.head 0 = some k) (heos : k.isEos = false)
    (hkind : evKind k.data ≠ 3) :
    let ptr := s.fanPointer s.curTile (evNeuron k.data)
    exec (.evfr o) s = .next (if ptr.testBit 15 then withSlot (s.take 0) (fun v =>
        { v with iota := some (k.data, ptr % 2 ^ 13, k.psn) })
      else if k.psn then (s.take 0).orFlags 0x40 else s.take 0) := by
  intro ptr
  have hrun : bits ptr 15 1 = (ptr.testBit 15).toNat := bits_single ..
  have hstart : bits ptr 0 13 = ptr % 2 ^ 13 := bits_low ..
  change execEvfr o s = _
  simp only [execEvfr, hlive, hidle, hk, heos, hkind, Bool.not_true, Bool.false_eq_true, if_false]
  rw [hrun, hstart]
  cases ptr.testBit 15 with
  | true => rfl
  | false => exact (apply_ite Host.Outcome.next ..).symm

theorem evfr_puts {f : Word} {u : Nat} {psn : Bool} (hrun : s.slotSt.iota = some (f, u, psn)) (hroom : s.slotRoom o 1 1 = true)
    (hpay : s.canPay 4 = true) :
    let d := s.fanDescriptor s.curTile u
    let stamp := evStamp f + d / 2 ^ 48 % 2 ^ 16
    let k := Token.mk' (evWord stamp (bits d 37 11) (bits d 25 12) (bits d 16 2) (bits d 18 7)) psn
    bits d 16 2 ≠ 3 → stamp < 2 ^ 32 → u ≠ 8191 →
    let v := withSlot (s.pay 4) (fun x => { x with iota := if d.testBit 15 then none else some (f, u + 1, psn) })
    exec (.evfr o) s = .next ((if psn && o.t0 == 0x1FF && o.t1 == 0x1FF then v.orFlags 0x40 else v).put o [k] [k]) := by
  intro d stamp k hkind hstamp hlast v
  have hbit : (bits d 15 1 == 1) = d.testBit 15 := by
    rw [bits_single]
    cases d.testBit 15 <;> rfl
  have hu : (u == 8191) = false := beq_false_of_ne hlast
  have hrange : ¬ 2 ^ 32 ≤ evStamp f + bits d 48 16 := Nat.not_le_of_lt hstamp
  change execEvfr o s = _
  rw [Bool.and_assoc]
  simp only [execEvfr, hlive, hrun, State.evfrEmit, hroom, eventCost, hpay, hkind, hrange, hbit, hu, d, Bool.not_true,
    Bool.or_false, Bool.and_false, Bool.false_eq_true, if_false]
  rfl

end

/-! ### EVST, EVWR and EVLK (R262, R263) -/

section
variable {s : State} {o : SlotOp}

theorem slotPorts_evst (o : SlotOp) : slotPorts 0x63 o = [0] := by simp [slotPorts, readsB, readsC]

theorem slotPorts_evwr (o : SlotOp) : slotPorts 0x64 o = [0, 1] := by simp [slotPorts, readsB, readsC, extKind]

theorem oneResult_first (base : Nat) (a : Token) (r : Nat × Flags) : oneResult base a a a [0] r =
    { base := base, run := fun s => (s.orFlags r.2, [Token.mk' (word r.1) a.psn], [Token.mk' (word r.1) a.psn]) } := by
  simp [oneResult]

theorem evst_reads (hbusy : (s.bank s.curTile).busy = none) (h : CanFire s 0x63 o 4) : exec (.evst o) s =
    .next (firesWith s 0x63 o 4 (s.neuron s.curTile ((s.operand 0x63 o 0).data.toNat % 4096), 0)) := by
  have hfree : s.bankBusy s.curTile = false := Option.isSome_eq_false_iff.mpr (Option.isNone_iff_eq_none.mpr hbusy)
  have hp : anyPoison s 0x63 o = (s.operand 0x63 o 0).psn := by simp [anyPoison, slotPorts_evst]
  change execEvst o s = _
  unfold execEvst
  rw [hfree, if_neg Bool.false_ne_true]
  simp only [bits_low]
  refine fireRule_results h (oneResult_first ..) ?_
  rw [← hp]
  rfl

theorem evwr_writes (hbusy : (s.bank s.curTile).busy = none) (h : CanFire s 0x64 o 4) (hclean : anyPoison s 0x64 o = false) :
    let k := Token.mk' 0 false
    exec (.evwr o) s = .next (((taken s 0x64 o 4).setNeuron s.curTile ((s.operand 0x64 o 0).data.toNat % 4096)
      (s.operand 0x64 o 1).data.toNat).put o [k] [k]) := by
  have hfree : s.bankBusy s.curTile = false := Option.isSome_eq_false_iff.mpr (Option.isNone_iff_eq_none.mpr hbusy)
  obtain ⟨ha, hb⟩ : (s.operand 0x64 o 0).psn = false ∧ (s.operand 0x64 o 1).psn = false := by
    simpa [anyPoison, slotPorts_evwr] using hclean
  change execEvwr o s = _
  unfold execEvwr
  rw [hfree, if_neg Bool.false_ne_true]
  refine (fireRule_puts (p := false) h (by simp only [ha, hb]; rfl) rfl rfl rfl (by simp [hclean])).trans ?_
  rw [bits_low]
  rfl

end

section
variable {s : State} {o : SlotOp} (hlive : s.slotLive = true)
include hlive

theorem evlk_starts {k : Token} (hbusy : (s.bank s.curTile).busy = none) (hk : s.head 0 = some k) (heos : s.allEos [0] = false)
    (hpsn : k.psn = false) (hlow : (s.bank s.curTile).b.toNat ≤ k.data.toNat % 2 ^ 32)
    (hhigh : k.data.toNat % 2 ^ 32 ≤ (s.bank s.curTile).h.toNat)
    (hdue : (s.bank s.curTile).due (k.data.toNat % 2 ^ 32) = false) (hroom : s.slotRoom o 1 1 = true) :
    exec (.evlk o) s = .next (withBank (s.take 0) (fun b => { b with busy := some (s.curSlot, k.data, 0) })) := by
  have hrange : ¬ (k.data.toNat % 2 ^ 32 < (s.bank s.curTile).b.toNat ∨
      (s.bank s.curTile).h.toNat < k.data.toNat % 2 ^ 32) := by omega
  change execEvlk o s = _
  simp only [execEvlk, hlive, hbusy, heos, hk, hpsn, bits_low, hrange, hdue, hroom]
  rfl

theorem evlk_ends {x : Word} {m : Nat} (hbusy : (s.bank s.curTile).busy = some (s.curSlot, x, m))
    (hlast : s.curT.plane.neurons ≤ m) :
    let k := Token.mk' 0 false
    exec (.evlk o) s =
      .next ((withBank s (fun b => { b with b := BitVec.ofNat 32 (x.toNat % 2 ^ 32), busy := none })).put o [k] [k]) := by
  change execEvlk o s = _
  simp only [execEvlk, hlive, hbusy, State.evlkStep, hlast, bits_low]
  rfl

end

theorem eventRecordOperators : EventRecordOperators := by
  refine ⟨fun s o k hlive => evfr_takes hlive, fun s o f u psn hlive => evfr_puts hlive,
    fun s o => evst_reads, fun s o hbusy hfire hclean wf => ?_,
    fun s o k hlive => evlk_starts hlive, fun s o x m hlive => evlk_ends hlive⟩
  have hmem := (Fired.taken s 0x64 o 4).mem
  refine ⟨_, evwr_writes hbusy hfire hclean, ?_, fun x hx => ?_, ?_⟩
  · exact storeNat_reads (hmem ▸ wf) _ (s.operand 0x64 o 1).data.isLt
  · exact (storeNat_outside (hmem ▸ wf) _ hx).trans (congrArg (memRead · x) hmem)
  · exact State.setNeuron_frame ..

/-! ### EVENT_DELIVERY (R254, R259) -/

theorem exec_eventDelivery {s : State} {tile i : Nat} {o : SlotOp} {e : Word} {j : Nat}
    (hevin : (s.tile tile).plane.evin = some (i, o)) (hlive : (s.atSlot tile i).slotLive = true)
    (hhold : (s.atSlot tile i).weightHold = false)
    (hnext : (s.bank tile).busy = some (i, e, j) ∨
      ((s.bank tile).busy = none ∧ j = 0 ∧ (s.bank tile).queue.head? = some e ∧ evStamp e ≤ (s.bank tile).h.toNat)) :
    exec (.eventDelivery tile) s = .next ((s.atSlot tile i).deliverEntry o e j) := by
  rw [State.atSlot] at hlive hhold
  rw [State.bank] at hnext
  change execEventDelivery tile s = _
  simp only [execEventDelivery, hevin, hlive, hhold]
  rcases hnext with hbusy | ⟨hbusy, rfl, hhead, hdue⟩
  · simp [hbusy, State.atSlot]
  · obtain ⟨rest, hq⟩ := List.head?_eq_some_iff.mp hhead
    simp [hbusy, hq, hdue, State.atSlot]

theorem eventDeliveries : EventDeliveries := by
  intro s tile i o e j r hevin s0 b hlive hhold hnext w m hrange hbring hpay th sum v kept refractory fires q goesOn more
  rw [exec_eventDelivery hevin hlive hhold hnext]
  refine ⟨fun hkind href => congrArg Host.Outcome.next ?_, fun hkind hcalm hlow => congrArg Host.Outcome.next ?_,
    fun hkind ⟨hcalm, hreach⟩ hroom => congrArg Host.Outcome.next ?_, fun hkind => congrArg Host.Outcome.next ?_,
    fun hkind hroom => congrArg Host.Outcome.next ?_⟩
  · exact deliverEntry_passes (s := s.atSlot tile i) hrange hbring hpay hkind (spikeEntry_refractory href)
  · exact deliverEntry_passes (s := s.atSlot tile i) hrange hbring hpay hkind
      ((spikeEntry_eq (not_not.mp hcalm)).trans (if_neg fun h => hlow ⟨hcalm, h⟩))
  · refine (deliverEntry_fires (s := s.atSlot tile i) hrange hbring hpay hkind
      ((spikeEntry_eq (not_not.mp hcalm)).trans (if_pos hreach)) hroom).trans ?_
    rw [evWord_fire]
    rfl
  · exact deliverEntry_restores (s := s.atSlot tile i) hrange hbring hpay hkind
  · exact deliverEntry_reads (s := s.atSlot tile i) hrange hbring hpay hkind hroom

/-- Settles O25: EVQ's tokens and EVIN's end, the records' operators, and each entry of a delivery. -/
theorem eventOperators : Obligations.EventOperators := ⟨eventQueueOperators, eventRecordOperators, eventDeliveries⟩

end Sys2Proof.Claims
